-- ==== Sys2Proof/Word.lean ====
section
/-! DEFINITION. The word types of the device and their plainest arithmetic (R4). -/

namespace Sys2Proof

/-- A dword (R4). -/
abbrev Word := BitVec 64

/-- A byte (R4). -/
abbrev Byte := BitVec 8

/-- A 1,024-bit vector register (R70). -/
abbrev VWord := BitVec 1024

/-- An AW40 accumulator value (R124). -/
abbrev Aw40 := BitVec 40

/-- The code of a 6-bit scalar register field (R70, R169). -/
abbrev Reg := BitVec 6

/-- Bits [hi:lo] of a natural number, as R4 numbers them. -/
def bits (x hi lo : Nat) : Nat := (x / 2 ^ lo) % 2 ^ (hi + 1 - lo)

/-- Bit `i` of a natural number. -/
def bitAt (x i : Nat) : Bool := (x / 2 ^ i) % 2 == 1

/-- A truth value as a number. -/
def b2n (b : Bool) : Nat := if b then 1 else 0

end Sys2Proof
end

