-- ==== Sys2Proof/Config.lean ====
section
/-! DEFINITION. What an implementation fixes, and the free values: constants without a body, of which nothing can
be proved, so a statement holds whatever they are. -/

namespace Sys2Proof

/-- The two steppings of the part (R174). -/
inductive Stepping where
  | a
  | b
deriving DecidableEq, Repr, Inhabited

/-- The stepping of this device (R174, R209): a constant of the machine (DESIGN CHOICE, assumption log 6). -/
opaque Config.stepping : Stepping

/-- The cycles that traffic adds to an unloaded time: "Traffic makes these times longer, never shorter" (R91, R414,
R415, R418). A free value, applied to the counter `State.fresh` (DESIGN CHOICE, assumption log 2). -/
opaque Config.traffic : Nat → Nat

/-- "ACCST of a spoiled slot stores some AW40 value in each element" (R384): a free value, applied to the counter
`State.fresh` (DESIGN CHOICE, assumption log 2). -/
opaque Config.spoiled : Nat → Aw40

/-- Which entry of a full translation cache a fill replaces (R97 gives no rule): a free value (DESIGN CHOICE, assumption log 10). -/
opaque Config.tlbVictim : Nat → Nat

/-- Whether a fused multiply-add of zero, infinity and a quiet NaN sets invalid: R212 follows IEEE 754, which leaves it to
the implementation. A free value (DEDUCED, assumption log 8). -/
opaque Config.fmaInvalid : Bool

/-- The sum that GSEL ranks a group by when its two largest live scores are infinities of both signs: R224 states no exact
sum there. A free value, as an FP32 encoding, applied to the counter `State.fresh` (DESIGN CHOICE, assumption log 2). -/
opaque Config.gselSum : Nat → BitVec 32

/-- A byte of the answer to a host read of a poisoned granule, which R152 and R366 do not state: a free value, applied to the
counter `State.fresh` (DESIGN CHOICE, assumption log 2). -/
opaque Config.hostByte : Nat → Byte

/-- A byte of a class M or N packet that crosses dies: R137 gives its 16-byte header no layout. A free value, applied to the
packet's number and the byte's place (DESIGN CHOICE, assumption log 27). -/
opaque Config.packetByte : Nat → Nat → Byte

/-- What POST puts into the pc (0), address (1) and word (2) of its notice, which its two operands do not state (R287, R334): a free
value, applied to the operands (DESIGN CHOICE, assumption log 72). -/
opaque Config.postField : Nat → Word → Word → Word

/-- The bytes of the configuration record (R160), whose layout the spec does not give. A free value, applied to the pass counts,
the staff places and the rectangles (DESIGN CHOICE, assumption log 2). -/
opaque Config.recordBytes : List Nat → List Byte

/-- The certificate chain of slot 0 (R160): a constant of the device. -/
opaque Config.certChain : List Byte

/-- The signature of the device identity key over bytes (R160): a constant of the device. -/
opaque Config.signature : List Byte → List Byte

end Sys2Proof
end

