-- ==== Sys2Proof/Machine/Digest.lean ====
section
/-! DEFINITION. The digests of the measurement blocks (R156, R160): SHA-256, as FIPS 180-4 defines it (PRESUMED, assumption log
73). -/

namespace Sys2Proof.Machine

/-- A word of SHA-256. -/
abbrev ShaWord := BitVec 32

/-- The round constants. -/
def shaK : List ShaWord :=
  ([0x428a2f98, 0x71374491, 0xb5c0fbcf, 0xe9b5dba5, 0x3956c25b, 0x59f111f1, 0x923f82a4, 0xab1c5ed5] : List ShaWord) ++
  ([0xd807aa98, 0x12835b01, 0x243185be, 0x550c7dc3, 0x72be5d74, 0x80deb1fe, 0x9bdc06a7, 0xc19bf174] : List ShaWord) ++
  ([0xe49b69c1, 0xefbe4786, 0x0fc19dc6, 0x240ca1cc, 0x2de92c6f, 0x4a7484aa, 0x5cb0a9dc, 0x76f988da] : List ShaWord) ++
  ([0x983e5152, 0xa831c66d, 0xb00327c8, 0xbf597fc7, 0xc6e00bf3, 0xd5a79147, 0x06ca6351, 0x14292967] : List ShaWord) ++
  ([0x27b70a85, 0x2e1b2138, 0x4d2c6dfc, 0x53380d13, 0x650a7354, 0x766a0abb, 0x81c2c92e, 0x92722c85] : List ShaWord) ++
  ([0xa2bfe8a1, 0xa81a664b, 0xc24b8b70, 0xc76c51a3, 0xd192e819, 0xd6990624, 0xf40e3585, 0x106aa070] : List ShaWord) ++
  ([0x19a4c116, 0x1e376c08, 0x2748774c, 0x34b0bcb5, 0x391c0cb3, 0x4ed8aa4a, 0x5b9cca4f, 0x682e6ff3] : List ShaWord) ++
  ([0x748f82ee, 0x78a5636f, 0x84c87814, 0x8cc70208, 0x90befffa, 0xa4506ceb, 0xbef9a3f7, 0xc67178f2] : List ShaWord)

/-- The state of a digest: eight words. -/
structure ShaState where
  a : ShaWord
  b : ShaWord
  c : ShaWord
  d : ShaWord
  e : ShaWord
  f : ShaWord
  g : ShaWord
  h : ShaWord
deriving DecidableEq, Repr

/-- The state that a digest begins with. -/
def shaStart : ShaState :=
  { a := 0x6a09e667, b := 0xbb67ae85, c := 0x3c6ef372, d := 0xa54ff53a, e := 0x510e527f, f := 0x9b05688c, g := 0x1f83d9ab,
    h := 0x5be0cd19 }

/-- Words of the message schedule, the newest first, extended by `n`. -/
def shaExtend : Nat → List ShaWord → List ShaWord
  | 0, r => r
  | n + 1, r =>
    let x := r.getD 14 0
    let y := r.getD 1 0
    let s0 := x.rotateRight 7 ^^^ x.rotateRight 18 ^^^ (x >>> 3)
    let s1 := y.rotateRight 17 ^^^ y.rotateRight 19 ^^^ (y >>> 10)
    shaExtend n ((r.getD 15 0 + s0 + r.getD 6 0 + s1) :: r)

/-- One round. -/
def ShaState.round (v : ShaState) (k w : ShaWord) : ShaState :=
  let s1 := v.e.rotateRight 6 ^^^ v.e.rotateRight 11 ^^^ v.e.rotateRight 25
  let ch := (v.e &&& v.f) ^^^ (~~~ v.e &&& v.g)
  let t1 := v.h + s1 + ch + k + w
  let s0 := v.a.rotateRight 2 ^^^ v.a.rotateRight 13 ^^^ v.a.rotateRight 22
  let maj := (v.a &&& v.b) ^^^ (v.a &&& v.c) ^^^ (v.b &&& v.c)
  { a := t1 + (s0 + maj), b := v.a, c := v.b, d := v.c, e := v.d + t1, f := v.e, g := v.f, h := v.g }

/-- The state after a block of 16 words. -/
def ShaState.block (v : ShaState) (ws : List ShaWord) : ShaState :=
  let r := (shaK.zip (shaExtend 48 ws.reverse).reverse).foldl (fun v p => v.round p.1 p.2) v
  { a := v.a + r.a, b := v.b + r.b, c := v.c + r.c, d := v.d + r.d, e := v.e + r.e, f := v.f + r.f, g := v.g + r.g, h := v.h + r.h }

/-- Bytes as big-endian words. -/
def shaWords : Nat → List Byte → List ShaWord
  | 0, _ => []
  | n + 1, bs =>
    ((bs.take 4).foldl (fun (w : ShaWord) b => w <<< 8 ||| b.setWidth 32) 0) :: shaWords n (bs.drop 4)

/-- The state after `n` blocks of words. -/
def shaBlocks : Nat → List ShaWord → ShaState → ShaState
  | 0, _, v => v
  | n + 1, ws, v => shaBlocks n (ws.drop 16) (v.block (ws.take 16))

/-- A word as big-endian bytes. -/
def shaBytes (w : ShaWord) : List Byte := [(w >>> 24).setWidth 8, (w >>> 16).setWidth 8, (w >>> 8).setWidth 8, w.setWidth 8]

/-- SHA-256 of bytes: padded with a one, zeros and the length in bits. -/
def sha256 (bs : List Byte) : List Byte :=
  let n := (bs.length + 8) / 64 + 1
  let len := 8 * bs.length
  let pad := bs ++ 0x80 :: List.replicate (64 * n - bs.length - 9) 0
  let ws := shaWords (16 * n - 2) pad ++ [BitVec.ofNat 32 (len / 2 ^ 32), BitVec.ofNat 32 len]
  let v := shaBlocks n ws shaStart
  [v.a, v.b, v.c, v.d, v.e, v.f, v.g, v.h].flatMap shaBytes

/-- The digests of the measurement blocks 1 to 4 (R160): of the three images as they lie in their slots, and of the configuration
record. -/
def digestsOf (images : List (List Byte)) (record : List Nat) : List (List Byte) :=
  images.map sha256 ++ [sha256 (Config.recordBytes record)]

end Sys2Proof.Machine
end

