-- ==== Sys2Proof/Machine/Maps.lean ====
section
/-! DEFINITION. Sparse maps as sorted lists of key and value, sorted lists of numbers, and reads and writes of small
register files. -/

namespace Sys2Proof.Machine

/-- A map from numbers: pairs with strictly rising keys. -/
abbrev SMap (α : Type) := List (Nat × α)

/-- The value at a key, or `d` where none is listed. -/
def SMap.get {α : Type} (m : SMap α) (k : Nat) (d : α) : α :=
  match m with
  | [] => d
  | (j, x) :: r => if j == k then x else if k < j then d else SMap.get r k d

/-- The map with the value at `k` replaced. -/
def SMap.set {α : Type} (m : SMap α) (k : Nat) (x : α) : SMap α :=
  match m with
  | [] => [(k, x)]
  | (j, y) :: r => if j == k then (k, x) :: r else if k < j then (k, x) :: (j, y) :: r else (j, y) :: SMap.set r k x

theorem SMap.get_set_same {α : Type} (m : SMap α) (k : Nat) (x d : α) : (m.set k x).get k d = x := by
  induction m with
  | nil => simp [SMap.set, SMap.get]
  | cons p r ih =>
    obtain ⟨j, y⟩ := p
    simp only [SMap.set]
    split
    · simp [SMap.get]
    · split
      · simp [SMap.get]
      · rename_i h1 h2
        simp only [SMap.get, h1, h2, if_false]
        simpa using ih

theorem SMap.get_set_other {α : Type} (m : SMap α) (k l : Nat) (x d : α) (h : l ≠ k) :
    (m.set k x).get l d = m.get l d := by
  induction m with
  | nil =>
    have h1 : (k == l) = false := by simpa using fun e => h e.symm
    simp [SMap.set, SMap.get, h1]
  | cons p r ih =>
    obtain ⟨j, y⟩ := p
    have h1 : (k == l) = false := by simpa using fun e => h e.symm
    by_cases hj : j = k
    · subst hj
      simp [SMap.set, SMap.get, h1]
    · have hj' : (j == k) = false := by simpa using hj
      by_cases hk : k < j
      · simp only [SMap.set, hj', hk, SMap.get, h1, if_true, Bool.false_eq_true, if_false]
        by_cases hl : l < k
        · have h2 : (j == l) = false := by
            rw [beq_eq_false_iff_ne]
            omega
          have h3 : l < j := by omega
          simp [hl, h2, h3]
        · simp [hl]
      · simp only [SMap.set, hj', hk, SMap.get, ih, Bool.false_eq_true, if_false]

/-- A sorted list of numbers with `k` added. -/
def insNat (k : Nat) : List Nat → List Nat
  | [] => [k]
  | j :: r => if j == k then j :: r else if k < j then k :: j :: r else j :: insNat k r

/-- Membership in a sorted list of numbers. -/
def memNat (k : Nat) : List Nat → Bool
  | [] => false
  | j :: r => if j == k then true else if k < j then false else memNat k r

/-- A list of numbers without `k`. -/
def delNat (k : Nat) (l : List Nat) : List Nat := l.filter fun j => j != k

/-- Entry `i` of a register file, or `d` beyond its end. -/
def rd {α : Type} {n : Nat} (v : Vector α n) (i : Nat) (d : α) : α := if h : i < n then v[i] else d

/-- The register file with entry `i` replaced; no change beyond its end. -/
def wr {α : Type} {n : Nat} (v : Vector α n) (i : Nat) (x : α) : Vector α n := if h : i < n then v.set i x h else v

theorem rd_wr_same {α : Type} {n : Nat} (v : Vector α n) (i : Nat) (x d : α) (h : i < n) :
    rd (wr v i x) i d = x := by
  simp [rd, wr, h]

theorem rd_wr_other {α : Type} {n : Nat} (v : Vector α n) (i j : Nat) (x d : α) (h : i ≠ j) :
    rd (wr v i x) j d = rd v j d := by
  unfold rd wr
  split
  · split
    · simp [h]
    · rfl
  · rfl

/-- Bit `i` of a mask. -/
def tb {n : Nat} (m : BitVec n) (i : Nat) : Bool := m.getLsbD i

/-- The mask with bit `i` set to `b`. -/
def sb {n : Nat} (m : BitVec n) (i : Nat) (b : Bool) : BitVec n :=
  if b then m ||| BitVec.ofNat n (2 ^ i) else m &&& ~~~ BitVec.ofNat n (2 ^ i)

/-- The first entry of a list that meets `p`, and the list without it. -/
def pickFirst {α : Type} (p : α → Bool) : List α → Option (α × List α)
  | [] => none
  | x :: r => if p x then some (x, r) else (pickFirst p r).map fun q => (q.1, x :: q.2)

/-- The list with each entry that meets `p` replaced. -/
def mapIf {α : Type} (p : α → Bool) (f : α → α) (l : List α) : List α := l.map fun x => if p x then f x else x

end Sys2Proof.Machine
end

