-- ==== Sys2Proof/Syntax.lean ====
section
/-! DEFINITION. The instructions, drain words and steps of the device: one constructor of `Instr` for each row of
spec/opcode_table.json. Instruction and drain constructors carry the fields of R167 and R173 under the names of R165
and R168. A step of the device has no word: its constructor is a name, and what it acts on stands in the field `arg`
of the state, as the pc and word of an instruction do. -/

namespace Sys2Proof

/-! ## Names -/

/-- A source field with its empty-policy bit (R73, R167). -/
structure Src where
  r : Reg
  e : Bool
deriving DecidableEq, Repr, Inhabited

/-- A vector source field with its empty-policy bit. -/
structure VSrc where
  r : BitVec 3
  e : Bool
deriving DecidableEq, Repr, Inhabited

/-- Format and lane-type codes 0 to 13 (R83, R168). -/
inductive Fmt where
  | fp32 | fp16 | bf16 | e4m3 | e5m2 | e3m2 | e2m1 | int8 | int4 | tn3 | tn5 | tn8 | i32 | i16
deriving DecidableEq, Repr, Inhabited

/-- The rounding field of R210. -/
inductive Rnd where
  | rne | rz | ru | rd | sr | dyn
deriving DecidableEq, Repr, Inhabited

/-- Wrapping or saturation of IADD, ISUB and IADDI (R183). -/
inductive Sat where
  | wrap | ss | us
deriving DecidableEq, Repr, Inhabited

/-- The conditions of BR (R189). -/
inductive Cond where
  | al | eq | ne | lt | ge | ltu | geu
deriving DecidableEq, Repr, Inhabited

/-- The conditions of VCMP (R215). -/
inductive VCond where
  | eq | ne | lt | le | gt | ge | un
deriving DecidableEq, Repr, Inhabited

/-- The conditions of DSEL (R254). -/
inductive DCond where
  | gt | ge | lt | le | eq | ne
deriving DecidableEq, Repr, Inhabited

/-- Access widths (R197). -/
inductive Width where
  | b | h | w | d | bs | hs | ws
deriving DecidableEq, Repr, Inhabited

/-- Store widths (R197). -/
inductive StWidth where
  | b | h | w | d
deriving DecidableEq, Repr, Inhabited

/-- The counters RDCYC reads (R194). -/
inductive CycSel where
  | cycles | ins | ident
deriving DecidableEq, Repr, Inhabited

/-- CPYR operations (R280). -/
inductive RedOp where
  | add | min | max | and | or | xor
deriving DecidableEq, Repr, Inhabited

/-- CPYR element types (R280). -/
inductive RedTy where
  | i32 | i64 | f32 | bf16 | f16
deriving DecidableEq, Repr, Inhabited

/-- Sparsity of MATX (R168). -/
inductive Sparse where
  | dense | s816 | s416
deriving DecidableEq, Repr, Inhabited

/-- Cohort sizes of MATX (R168). -/
inductive Cohort where
  | c1 | c2 | c4 | c8 | c16
deriving DecidableEq, Repr, Inhabited

/-- Scopes of TINV (R287). -/
inductive TinvScope where
  | page | part | all
deriving DecidableEq, Repr, Inhabited

/-! ## Field groups of the instruction formats -/

/-- RRR: `d, a`. -/
structure R2 where
  d : Reg
  a : Src
deriving DecidableEq, Repr, Inhabited

/-- RRR: `d, a, b`. -/
structure R3 where
  d : Reg
  a : Src
  b : Src
deriving DecidableEq, Repr, Inhabited

/-- RRR or SYS: `d, a, b, c`. -/
structure R4 where
  d : Reg
  a : Src
  b : Src
  c : Src
deriving DecidableEq, Repr, Inhabited

/-- RI: `d, imm`. -/
structure RImm where
  d : Reg
  imm : BitVec 32
deriving DecidableEq, Repr, Inhabited

/-- MEM load: `ld.w d, a, b, off` with `rx`. -/
structure LdF where
  d : Reg
  a : Src
  b : Src
  w : Width
  off : BitVec 25
  rx : Bool
deriving DecidableEq, Repr, Inhabited

/-- MEM store. -/
structure StF where
  d : Reg
  a : Src
  b : Src
  w : StWidth
  off : BitVec 25
  rx : Bool
deriving DecidableEq, Repr, Inhabited

/-- MEM full/empty operation; always a dword and never relaxed (R197, R198). -/
structure FeF where
  d : Reg
  a : Src
  b : Src
  off : BitVec 25
deriving DecidableEq, Repr, Inhabited

/-- MEM atomic; `dw` is the dword width (R197). -/
structure AtF where
  d : Reg
  a : Src
  b : Src
  dw : Bool
  off : BitVec 25
  rx : Bool
deriving DecidableEq, Repr, Inhabited

/-- The predicate operand: `none` is pen = 0 (R168). -/
abbrev Pred := Option (BitVec 2)

/-- VEC arithmetic with one source. -/
structure VUn where
  lt : Fmt
  vd : BitVec 3
  va : VSrc
  p : Pred
  zm : Bool
  rnd : Rnd
  sat : Bool
deriving DecidableEq, Repr, Inhabited

/-- VEC arithmetic with two sources. -/
structure VBin where
  lt : Fmt
  vd : BitVec 3
  va : VSrc
  vb : VSrc
  p : Pred
  zm : Bool
  rnd : Rnd
  sat : Bool
deriving DecidableEq, Repr, Inhabited

/-- VEC arithmetic with three sources. -/
structure VTer where
  lt : Fmt
  vd : BitVec 3
  va : VSrc
  vb : VSrc
  vc : VSrc
  p : Pred
  zm : Bool
  rnd : Rnd
deriving DecidableEq, Repr, Inhabited

/-- VEC bitwise, shift and VPERM: two sources, no mod. -/
structure VLog where
  lt : Fmt
  vd : BitVec 3
  va : VSrc
  vb : VSrc
  p : Pred
  zm : Bool
deriving DecidableEq, Repr, Inhabited

/-- VSEL: the predicate chooses (R214). -/
structure VSelF where
  lt : Fmt
  vd : BitVec 3
  va : VSrc
  vb : VSrc
  pr : BitVec 2
deriving DecidableEq, Repr, Inhabited

/-- VCMP; `i32` is lt 12, else FP32 (R215). -/
structure VCmpF where
  i32 : Bool
  pd : BitVec 2
  cc : VCond
  u : Bool
  va : VSrc
  vb : VSrc
  p : Pred
  zm : Bool
deriving DecidableEq, Repr, Inhabited

/-- VZIP and VUNZIP: `alt` is .hi or .odd (R217). -/
structure VZipF where
  lt : Fmt
  vd : BitVec 3
  va : VSrc
  vb : VSrc
  p : Pred
  zm : Bool
  alt : Bool
deriving DecidableEq, Repr, Inhabited

/-- VMOV. -/
structure VMovF where
  lt : Fmt
  vd : BitVec 3
  va : VSrc
  p : Pred
  zm : Bool
deriving DecidableEq, Repr, Inhabited

/-- VBCAST: `vd, s`. -/
structure VBcastF where
  lt : Fmt
  vd : BitVec 3
  s : Src
  p : Pred
  zm : Bool
deriving DecidableEq, Repr, Inhabited

/-- VEXT: lane `i` of `va` to the scalar `s`. -/
structure VExtF where
  lt : Fmt
  i : BitVec 8
  va : VSrc
  s : Reg
deriving DecidableEq, Repr, Inhabited

/-- VINS: the scalar `s` to lane `i` of `vd`. -/
structure VInsF where
  lt : Fmt
  i : BitVec 8
  vd : BitVec 3
  s : Src
deriving DecidableEq, Repr, Inhabited

/-- VROT. -/
structure VRotF where
  lt : Fmt
  vd : BitVec 3
  va : VSrc
  s : Src
  p : Pred
  zm : Bool
deriving DecidableEq, Repr, Inhabited

/-- VLD and VLDG. -/
structure VLdF where
  vd : BitVec 3
  s : Src
  p : Pred
  zm : Bool
  rx : Bool
deriving DecidableEq, Repr, Inhabited

/-- VST and VSTG. -/
structure VStF where
  vd : BitVec 3
  s : Src
  p : Pred
  rx : Bool
deriving DecidableEq, Repr, Inhabited

/-- VCVT (R222). -/
structure VCvtF where
  lt : Fmt
  st : Fmt
  vd : BitVec 3
  va : VSrc
  p : Pred
  zm : Bool
  rnd : Rnd
  nan : Bool
deriving DecidableEq, Repr, Inhabited

/-- VPACK and VUNPK, part `q` (R222). -/
structure VPackF where
  lt : Fmt
  st : Fmt
  q : BitVec 3
  vd : BitVec 3
  va : VSrc
  rnd : Rnd
  nan : Bool
deriving DecidableEq, Repr, Inhabited

/-- VTPACK: headers to the scalar `s` (R223). -/
structure VTPackF where
  lt : Fmt
  st : Fmt
  q : BitVec 3
  vd : BitVec 3
  va : VSrc
  s : Reg
  rnd : Rnd
  nan : Bool
deriving DecidableEq, Repr, Inhabited

/-- VTUNPK: headers from the scalar `s` (R223). -/
structure VTUnpkF where
  lt : Fmt
  st : Fmt
  q : BitVec 3
  vd : BitVec 3
  va : VSrc
  s : Src
  rnd : Rnd
  nan : Bool
deriving DecidableEq, Repr, Inhabited

/-- GSEL: `e` and `g` hold E - 1 and G - 1, `k` holds K; `bf` is lt 2, else FP32 (R224). -/
structure GselF where
  bf : Bool
  e : BitVec 8
  g : BitVec 8
  k : BitVec 8
  vd : BitVec 3
  va : VSrc
deriving DecidableEq, Repr, Inhabited

/-- TLD, TLDT and TST; `sc` moves the scale plane (R236). -/
structure TileF where
  t : BitVec 2
  a : Src
  b : Src
  sc : Bool
deriving DecidableEq, Repr, Inhabited

/-- MATX (R240). -/
structure MatxF where
  ta : BitVec 2
  tb : BitVec 2
  acc : BitVec 2
  drain : BitVec 6
  cr : Src
  keep : Bool
  sparse : Sparse
  tm : BitVec 2
  cohort : Cohort
deriving DecidableEq, Repr, Inhabited

/-- ACCLD and ACCST: `m` and `n` hold M - 1 and N - 1 (R250). -/
structure AccF where
  acc : BitVec 2
  a : Src
  b : Src
  m : BitVec 7
  n : BitVec 8
deriving DecidableEq, Repr, Inhabited

/-! ## Instructions, drain words and steps -/

/-- One constructor for each row of spec/opcode_table.json: the instructions and drain words, then the steps of the
device, each group in the table's order. -/
inductive Instr where
  -- scalar and control (R188 to R195)
  | nop
  | br (c : Cond) (a b : Src) (disp : BitVec 30)
  | brbit (set : Bool) (a : Src) (n : BitVec 6) (disp : BitVec 30)
  | brf (empty : Bool) (a : Reg) (disp : BitVec 30)
  | bre (nex : Bool) (a : Reg) (disp : BitVec 30)
  | loop (a : Src) (disp : BitVec 30)
  | jal (f : RImm)
  | jalr (f : R2)
  | endRun (a : Src)
  | rdcyc (d : Reg) (k : CycSel)
  | pause (imm : BitVec 32)
  -- integer arithmetic and logic (R182 to R185)
  | iadd (f : R3) (m : Sat)
  | isub (f : R3) (m : Sat)
  | imul (f : R3)
  | imulh (f : R3)
  | imulhu (f : R3)
  | idiv (f : R3)
  | idivu (f : R3)
  | irem (f : R3)
  | iremu (f : R3)
  | iand (f : R3)
  | ior (f : R3)
  | ixor (f : R3)
  | iandn (f : R3)
  | ishl (f : R3)
  | ishr (f : R3)
  | isra (f : R3)
  | irol (f : R3)
  | imin (f : R3)
  | imax (f : R3)
  | iminu (f : R3)
  | imaxu (f : R3)
  | iseq (f : R3)
  | islt (f : R3)
  | isltu (f : R3)
  | isel (f : R4)
  -- bit fields and check codes (R186, R187)
  | bext (f : R4)
  | bextu (f : R4)
  | bins (f : R4)
  | clz (f : R2)
  | ctz (f : R2)
  | popc (f : R2)
  | bswap (f : R2)
  | crc32c (f : R4)
  | crc16 (f : R4)
  | crc15 (f : R4)
  -- immediates (R185)
  | movi (f : RImm)
  | movhi (d : Reg) (a : Src) (imm : BitVec 32)
  | iaddi (f : RImm) (m : Sat)
  | iandi (f : RImm)
  | iori (f : RImm)
  | ixori (f : RImm)
  | ishli (f : RImm)
  | ishri (f : RImm)
  | israi (f : RImm)
  | islti (f : RImm)
  | iseqi (f : RImm)
  -- memory (R196 to R204)
  | ld (f : LdF)
  | st (f : StF)
  | ldx (f : FeF)
  | stx (f : FeF)
  | ldf (f : FeF)
  | aadd (f : AtF)
  | aand (f : AtF)
  | aor (f : AtF)
  | axor (f : AtF)
  | amin (f : AtF)
  | amax (f : AtF)
  | aswp (f : AtF)
  | acas (f : AtF)
  | aincb (f : AtF)
  | gld (f : LdF)
  | gst (f : StF)
  | gldx (f : FeF)
  | gstx (f : FeF)
  | gldf (f : FeF)
  | gaadd (f : AtF)
  | gaand (f : AtF)
  | gaor (f : AtF)
  | gaxor (f : AtF)
  | gamin (f : AtF)
  | gamax (f : AtF)
  | gaswp (f : AtF)
  | gacas (f : AtF)
  | gaincb (f : AtF)
  -- fence, streams and mailboxes (R205, R231, R232)
  | fence (r e d : Bool)
  | qclaim (d : Reg)
  | qfree (d : Reg)
  | qcnt (d : Reg) (a : Reg)
  | qskip (a : Reg) (b : Src)
  | mclr (d : Reg)
  | mpoll (d : Reg) (a : Reg)
  -- vector arithmetic (R211)
  | vadd (f : VBin)
  | vsub (f : VBin)
  | vmul (f : VBin)
  | vfma (f : VTer)
  | vfms (f : VTer)
  | vdiv (f : VBin)
  | vsqrt (f : VUn)
  | vmin (f : VBin)
  | vmax (f : VBin)
  | vabs (f : VUn)
  | vneg (f : VUn)
  | vrcp (f : VUn)
  | vrsq (f : VUn)
  | vexp2 (f : VUn)
  | vlog2 (f : VUn)
  -- vector logic, predicates and moves (R214 to R217)
  | vand (f : VLog)
  | vor (f : VLog)
  | vxor (f : VLog)
  | vandn (f : VLog)
  | vshl (f : VLog)
  | vshr (f : VLog)
  | vsra (f : VLog)
  | vsel (f : VSelF)
  | vcmp (f : VCmpF)
  | pand (pd pa pb : BitVec 2)
  | por (pd pa pb : BitVec 2)
  | pxor (pd pa pb : BitVec 2)
  | pnot (pd pa : BitVec 2)
  | pcnt (pa : BitVec 2) (s : Reg)
  | pfirst (pa : BitVec 2) (s : Reg)
  | vmov (f : VMovF)
  | vbcast (f : VBcastF)
  | vext (f : VExtF)
  | vins (f : VInsF)
  | vperm (f : VLog)
  | vrot (f : VRotF)
  | vzip (f : VZipF)
  | vunzip (f : VZipF)
  -- vector memory (R218)
  | vld (f : VLdF)
  | vst (f : VStF)
  | vldg (f : VLdF)
  | vstg (f : VStF)
  -- reductions (R220)
  | vrsum (f : VUn)
  | vrmax (f : VUn)
  | vrmin (f : VUn)
  | vrand (f : VUn)
  | vror (f : VUn)
  | vscan (f : VUn)
  -- conversions (R221 to R223)
  | vcvt (f : VCvtF)
  | vpack (f : VPackF)
  | vunpk (f : VPackF)
  | vtpack (f : VTPackF)
  | vtunpk (f : VTUnpkF)
  -- expert selection (R224, R226)
  | gsel (f : GselF)
  | hsift (fin : Bool) (va : VSrc) (s : Src)
  -- tiles and the matrix unit (R234 to R251)
  | tld (f : TileF)
  | tldt (t : BitVec 2) (a b : Src)
  | tst (f : TileF)
  | tzero (t : BitVec 2)
  | tcopy (td ts : BitVec 2)
  | matx (f : MatxF)
  | drainld (n : BitVec 6) (a : Src)
  | accld (f : AccF)
  | accst (f : AccF)
  | accrel (acc : BitVec 2)
  -- drain words (R254)
  | dmov (dd da : BitVec 3)
  | dadd (dd da db : BitVec 3)
  | dsub (dd da db : BitVec 3)
  | dmul (dd da db : BitVec 3)
  | dfma (dd da db dc : BitVec 3)
  | dmin (dd da db : BitVec 3)
  | dmax (dd da db : BitVec 3)
  | dabs (dd da : BitVec 3)
  | dneg (dd da : BitVec 3)
  | dclmp (dd da db dc : BitVec 3)
  | dsel (cc : DCond) (dd da db dc : BitVec 3)
  | dexp2 (dd da : BitVec 3)
  | drcp (dd da : BitVec 3)
  | drsq (dd da : BitVec 3)
  | dldr (dd : BitVec 3)
  | dldc (dd : BitVec 3)
  | dcvt (dd da : BitVec 3)
  | dblk (dd da : BitVec 3)
  | dst (da : BitVec 3)
  | dmbx (sum : Bool) (da : BitVec 3)
  | dend
  -- nets (R262 to R273)
  | agent (d : Reg) (a b : Src)
  | free (a : Src)
  | link (a b : Src)
  | splice (a b : Src)
  | join (a b : Src)
  | pref (a : Src)
  | unref (a : Src)
  | pmut (d : Reg) (a : Src)
  | palloc (d : Reg) (a b : Src)
  | take (d : Reg) (w : Bool)
  | pushp (a b : Src)
  | enqr (a b : Src) (nb : Bool)
  | inbox (a b : Src)
  | cellrd (d : Reg) (a : Src)
  -- threads (R274 to R277)
  | start (d : Reg) (a b c : Src) (prio : Option (BitVec 8))
  | reap (d b : Reg) (w look : Bool)
  | park (a : Option Src)
  | wake (a : Src)
  | yield
  | migr (a : Src)
  | ctxrd (d : Reg) (a b : Src)
  | ctxwr (a b c : Src)
  -- roll call (R64 to R66, R278)
  | arrive (t : BitVec 3)
  | wait (t : BitVec 3) (a : Src)
  | rcgen (t : BitVec 3) (d : Reg)
  | rcpoll (t : BitVec 3) (d : Reg)
  -- slates (R279, R362)
  | smap (d : Reg) (a b : Src)
  | sunmap (d : Reg) (a : Src)
  | sunmapRc (d : Reg) (a : Src)
  | give (d : Reg) (a b c : Src)
  | sgen (d : Reg) (a : Src)
  -- engines (R280 to R282)
  | cpy (d : Reg) (a b c : Src)
  | cpyr (d : Reg) (a b c : Src) (op : RedOp) (ty : RedTy)
  | stbind (d : Reg) (a : Src)
  | stunbind (d : Reg)
  | cwait (d : Reg) (a b c : Src)
  | msend (a b c : Src) (nb : Bool)
  | mbulk (a b c : Src) (fol nb : Bool)
  | mseat (d : Reg) (a : Src) (req : Bool)
  -- system (R285 to R287)
  | csrr (d : Reg) (a : Src)
  | csrw (a b : Src)
  | trap (a : Src)
  | tret (d : Reg) (a b : Src) (next rc : Bool)
  | tretRp (d : Reg) (a b : Src) (rc : Bool)
  | frec (d : Reg) (a : Src)
  | isol (a b : Src)
  | unisol (a : Src)
  | cut (a b c : Src)
  | tinv (k : TinvScope) (a b : Src)
  | post (a b : Src)
  -- the steps of the device (95)
  -- scalar and control (R188 to R195)
  | pauseEnd
  -- vector arithmetic (R211)
  | vectorLateResult
  -- tiles and the matrix unit (R234 to R251)
  | mxuCommandTake
  | tileTransferPiece
  | tileOpEnd
  | passArrive
  | passRelease
  | matxStart
  | cohortStart
  | cohortTimeout
  | arrayGrant
  | blockEnd
  | sumsEnd
  | drainSegment
  | drainStorePiece
  | drainStop
  | drainResume
  | dmbxFill
  | matxCompletion
  -- nets (R262 to R273)
  | firstStep
  | decide
  | repoint
  | freeLMessage
  | portCellWaitLimit
  | builtinRuleRun
  -- threads (R274 to R277)
  | contextSaveEnd
  | contextRestoreEnd
  | saveWithdrawReply
  | migrArrive
  | forwardedReply
  | forwardingEntryLapse
  -- roll call (R64 to R66, R278)
  | rollcallRelease
  | waitLimitExpire
  -- slates (R279, R362)
  | giveInstall
  -- engines (R280 to R282)
  | cwaitLimitExpire
  | copyEnginePiece
  | streamElementMove
  | neighbourElementArrive
  | completionIncrement
  -- system (R285 to R287)
  | statusWrite
  | rollcallCfgWrite
  | rollcallKick
  | passCountWrite
  | rngSeedWrite
  | isolationDone
  | cutMarkerArrive
  | tinvComplete
  -- banks, walkers and reports (R94 to R104, R322, R327)
  | bankAccess
  | parkedOpTimerRetry
  | slateRewrite
  | memoryReply
  | storeAck
  | landingFaultReport
  | translationMiss
  | walkDone
  | pageMappedWake
  | noticeArrive
  -- launches and pair queues (R52 to R58)
  | launchHeaderAccept
  | launchWake
  | pairPushArrive
  | queueBlockMove
  | stealRequest
  | stealReply
  | dieAsk
  | queueAging
  | takeWakeEvent
  | goldAdvance
  -- the fabric (R142 to R149, R392)
  | fragmentArrive
  | deliver
  | seatRequest
  | seatLeaseExpire
  | messageLoss
  | lossReport
  -- the host and the platform (R152 to R164)
  | hostDoorbellWrite
  | hostBar2Access
  | linkRetrained
  | buddyCompare
  | powerOnReset
  | deviceReset
  | dieReset
  | sensorSample
  | spdmRequest
  | firmwareUpdateWrite
  | prefectRegisterWrite
  -- encodings that are not instructions, and late results (R170, R184, R209, R276)
  | unassignedEncoding
  | divisionResult
  | gselResult
  | homeroomLateResult
deriving DecidableEq, Repr

end Sys2Proof
end

