-- ==== Sys2Proof/WellFormed.lean ====
section
/-! DEFINITION. Which instructions are well formed: the values of fields that the instruction chapters accept
(R183, R185, R189, R210 to R224, R226, R250, R275, R280, R286, R287, R369). An ill-formed one has no word. -/

namespace Sys2Proof

/-- The format code of R83, lane types included (R168). -/
def Fmt.code : Fmt → Nat
  | .fp32 => 0 | .fp16 => 1 | .bf16 => 2 | .e4m3 => 3 | .e5m2 => 4 | .e3m2 => 5 | .e2m1 => 6
  | .int8 => 7 | .int4 => 8 | .tn3 => 9 | .tn5 => 10 | .tn8 => 11 | .i32 => 12 | .i16 => 13

/-- Bits per element (R83, R207). -/
def Fmt.width : Fmt → Nat
  | .fp32 | .i32 => 32
  | .fp16 | .bf16 | .i16 => 16
  | .e4m3 | .e5m2 | .int8 | .tn8 => 8
  | .e3m2 => 6
  | .tn5 => 5
  | .e2m1 | .int4 => 4
  | .tn3 => 3

/-- FP32, FP16 and BF16 lanes. -/
def Fmt.isFloat : Fmt → Bool
  | .fp32 | .fp16 | .bf16 => true
  | _ => false

/-- The integer types of R210: I32, I16, INT8 and INT4. -/
def Fmt.isInt : Fmt → Bool
  | .i32 | .i16 | .int8 | .int4 => true
  | _ => false

/-- Tint codes 9 to 11. -/
def Fmt.isTint : Fmt → Bool
  | .tn3 | .tn5 | .tn8 => true
  | _ => false

/-- The lanes that R211 and R220 accept for integer and float work: 0, 1, 2, 7, 12, 13. -/
def Fmt.isArith (f : Fmt) : Bool := f.isFloat || f == .int8 || f == .i32 || f == .i16

/-- The lane types of R207: 0 to 4, 7, 12, 13. -/
def Fmt.isLane (f : Fmt) : Bool := f.isArith || f == .e4m3 || f == .e5m2

/-- The integer lanes 7, 12, 13. -/
def Fmt.isIntLane (f : Fmt) : Bool := f == .int8 || f == .i32 || f == .i16

/-- The lane count L (R207). -/
def Fmt.lanes (f : Fmt) : Nat := 1024 / f.width

/-- rnd is 0 on integer lanes (R210), and sat is 0 on float lanes (R213). -/
def rndSatOk (lt : Fmt) (rnd : Rnd) (sat : Bool) : Bool :=
  if lt.isFloat then !sat else rnd == .rne

/-- The pairs of VCVT (R222). -/
def cvtOk (lt st : Fmt) : Bool := lt.isLane && st.isLane && lt.width == st.width

/-- The wide and narrow sides of VPACK and VUNPK (R222). -/
def packOk (wide narrow : Fmt) : Bool :=
  (wide.isFloat || wide == .i32 || wide == .i16) && !narrow.isTint && narrow != .fp32 && narrow != .i32 &&
    narrow.width < wide.width

/-- The parts P of VPACK and VUNPK (R222). -/
def packParts (wide narrow : Fmt) : Nat := 1024 / (1024 / wide.width * narrow.width)

/-- Bytes of one Tint block's elements (R122). -/
def tintBytes (f : Fmt) : Nat := 2 * f.width

/-- The blocks B of a Tint conversion (R223). -/
def tintBlocks (wide : Fmt) : Nat := 1024 / wide.width / 16

/-- The parts P of VTPACK and VTUNPK (R223). -/
def tintParts (wide tint : Fmt) : Nat := 128 / (tintBlocks wide * tintBytes tint)

/-- rnd is 0 when both types of a conversion are integer types (R210, R221). -/
def cvtRndOk (lt st : Fmt) (rnd : Rnd) : Bool := !(lt.isInt && st.isInt) || rnd == .rne

/-- The limits of GSEL's E, G and K (R224). -/
def gselOk (f : GselF) : Bool :=
  (f.e.toNat + 1) % (f.g.toNat + 1) == 0 && 1 ≤ f.k.toNat && f.k.toNat ≤ f.g.toNat + 1

/-- The code that names s0, with a clear policy bit. -/
def Src.isZero (x : Src) : Bool := x.r == 0 && !x.e

/-- Well-formed instructions: the fields hold values that their instruction assigns. -/
def Instr.wf : Instr → Bool
  | .br c a b _ => c != .al || (a.isZero && b.isZero)
  | .ishli f | .ishri f | .israi f => f.imm.toNat < 64
  | .vadd f | .vsub f | .vmul f => f.lt.isArith && rndSatOk f.lt f.rnd f.sat
  | .vmin f | .vmax f => f.lt.isArith && rndSatOk f.lt f.rnd f.sat && !f.sat
  | .vabs f | .vneg f => f.lt.isArith && rndSatOk f.lt f.rnd f.sat
  | .vfma f | .vfms f => f.lt.isFloat
  | .vdiv f => f.lt.isFloat && !f.sat
  | .vsqrt f | .vrcp f | .vrsq f | .vexp2 f | .vlog2 f => f.lt.isFloat && !f.sat
  | .vand f | .vor f | .vxor f | .vandn f | .vperm f => f.lt.isLane
  | .vshl f | .vshr f | .vsra f => f.lt.isIntLane
  | .vsel f => f.lt.isLane
  | .vcmp f => if f.i32 then f.cc != .un else !f.u
  | .vmov f => f.lt.isLane
  | .vbcast f => f.lt.isLane
  | .vext f => f.lt.isLane && f.i.toNat < f.lt.lanes
  | .vins f => f.lt.isLane && f.i.toNat < f.lt.lanes
  | .vrot f => f.lt.isLane
  | .vzip f | .vunzip f => f.lt.isLane
  | .vrsum f => f.lt.isArith && rndSatOk f.lt f.rnd f.sat && !f.zm
  | .vscan f => f.lt.isArith && rndSatOk f.lt f.rnd f.sat
  | .vrmax f | .vrmin f => f.lt.isArith && f.rnd == .rne && !f.sat && !f.zm
  | .vrand f | .vror f => f.lt.isIntLane && f.rnd == .rne && !f.sat && !f.zm
  | .vcvt f => cvtOk f.lt f.st && cvtRndOk f.lt f.st f.rnd
  | .vpack f => packOk f.st f.lt && cvtRndOk f.lt f.st f.rnd && f.q.toNat < packParts f.st f.lt
  | .vunpk f => packOk f.lt f.st && cvtRndOk f.lt f.st f.rnd && f.q.toNat < packParts f.lt f.st
  | .vtpack f => f.lt.isTint && f.st.isFloat && f.q.toNat < tintParts f.st f.lt
  | .vtunpk f => f.st.isTint && f.lt.isFloat && f.q.toNat < tintParts f.lt f.st
  | .gsel f => gselOk f
  | .hsift fin va _ => !(fin && va.e)
  | .accld f | .accst f => f.n.toNat < 192
  | .start _ _ b c prio => prio.isSome || (b.isZero && c.isZero)
  | .cpyr _ _ _ _ op ty =>
    (op == .add || op == .min || op == .max) || (ty == .i32 || ty == .i64)
  | .tret _ _ b _ rc => rc || b.isZero
  | .tretRp _ _ b rc => rc || b.isZero
  | .tinv k a b => k != .all || (a.isZero && b.isZero)
  | _ => true

end Sys2Proof
end

