-- ==== Sys2Proof/Decode.lean ====
section
/-! DEFINITION. The decoder of instruction words and drain words, and the encoder, from the tables of R165 to R173
and the field descriptions of the instruction chapters. A word decodes to the instruction that its used fields name;
it is refused by R170 step 1, step 2 (an unassigned opcode or field value) or step 3 (a reserved field that is not
zero, which is a word that the used fields do not encode to). -/

namespace Sys2Proof

/-! ## Bit fields -/

/-- The number whose fields, lowest first, are the given (width, value) pairs. -/
def packBits : List (Nat × Nat) → Nat
  | [] => 0
  | (w, v) :: fs => v + 2 ^ w * packBits fs

/-- The fields of a number, lowest first, at the given widths. -/
def unpackBits : List Nat → Nat → List Nat
  | [], _ => []
  | w :: ws, x => x % 2 ^ w :: unpackBits ws (x / 2 ^ w)

/-- Fields that fit their widths are read back as they were packed. -/
theorem unpack_packBits (fs : List (Nat × Nat)) (h : ∀ p ∈ fs, p.2 < 2 ^ p.1) :
    unpackBits (fs.map (·.1)) (packBits fs) = fs.map (·.2) := by
  induction fs with
  | nil => rfl
  | cons p fs ih =>
    have hp : p.2 < 2 ^ p.1 := h p (by simp)
    have ht := ih fun q hq => h q (by simp [hq])
    have h1 : (p.2 + 2 ^ p.1 * packBits fs) % 2 ^ p.1 = p.2 := by
      rw [Nat.add_mul_mod_self_left, Nat.mod_eq_of_lt hp]
    have h2 : (p.2 + 2 ^ p.1 * packBits fs) / 2 ^ p.1 = packBits fs := by
      rw [Nat.add_mul_div_left _ _ (Nat.two_pow_pos _), Nat.div_eq_of_lt hp, Nat.zero_add]
    simp only [List.map_cons, packBits, unpackBits, h1, h2, ht]

/-! ## The formats (R167) -/

/-- RRR. -/
structure FRRR where
  d : Nat := 0
  a : Nat := 0
  b : Nat := 0
  c : Nat := 0
  ea : Nat := 0
  eb : Nat := 0
  ec : Nat := 0
  mod : Nat := 0
deriving DecidableEq, Repr

/-- RI. -/
structure FRI where
  d : Nat := 0
  a : Nat := 0
  ea : Nat := 0
  mod3 : Nat := 0
  imm : Nat := 0
deriving DecidableEq, Repr

/-- MEM. -/
structure FMEM where
  d : Nat := 0
  a : Nat := 0
  b : Nat := 0
  ea : Nat := 0
  eb : Nat := 0
  w : Nat := 0
  off : Nat := 0
deriving DecidableEq, Repr

/-- BR. -/
structure FBR where
  a : Nat := 0
  b : Nat := 0
  ea : Nat := 0
  eb : Nat := 0
  cond : Nat := 0
  disp : Nat := 0
deriving DecidableEq, Repr

/-- VEC; mod is `low` [17:0], `es` [18] and `s` [24:19] (R168). -/
structure FVEC where
  vd : Nat := 0
  va : Nat := 0
  vb : Nat := 0
  vc : Nat := 0
  pen : Nat := 0
  pr : Nat := 0
  ea : Nat := 0
  eb : Nat := 0
  ec : Nat := 0
  lt : Nat := 0
  zm : Nat := 0
  s : Nat := 0
  es : Nat := 0
  low : Nat := 0
deriving DecidableEq, Repr

/-- MX. -/
structure FMX where
  ta : Nat := 0
  tb : Nat := 0
  acc : Nat := 0
  drain : Nat := 0
  cr : Nat := 0
  ec : Nat := 0
  keep : Nat := 0
  sparse : Nat := 0
  tm : Nat := 0
  cohort : Nat := 0
  mod : Nat := 0
deriving DecidableEq, Repr

/-- SYS; mod is `low` [20:0] and the field `c` [26:21] (R168). -/
structure FSYS where
  d : Nat := 0
  a : Nat := 0
  b : Nat := 0
  ea : Nat := 0
  eb : Nat := 0
  ec : Nat := 0
  c : Nat := 0
  low : Nat := 0
deriving DecidableEq, Repr

/-- A drain word (R173). -/
structure FDR where
  dop : Nat := 0
  dd : Nat := 0
  da : Nat := 0
  db : Nat := 0
  dc : Nat := 0
  mod : Nat := 0
deriving DecidableEq, Repr

def FRRR.fields (f : FRRR) : List (Nat × Nat) :=
  [(21, f.mod), (1, f.ec), (1, f.eb), (1, f.ea), (6, f.c), (6, f.b), (6, f.a), (6, f.d)]
def FRI.fields (f : FRI) : List (Nat × Nat) := [(32, f.imm), (3, f.mod3), (1, f.ea), (6, f.a), (6, f.d)]
def FMEM.fields (f : FMEM) : List (Nat × Nat) :=
  [(25, f.off), (3, f.w), (1, f.eb), (1, f.ea), (6, f.b), (6, f.a), (6, f.d)]
def FBR.fields (f : FBR) : List (Nat × Nat) :=
  [(30, f.disp), (4, f.cond), (1, f.eb), (1, f.ea), (6, f.b), (6, f.a)]
def FVEC.fields (f : FVEC) : List (Nat × Nat) :=
  [(18, f.low), (1, f.es), (6, f.s), (1, f.zm), (4, f.lt), (1, f.ec), (1, f.eb), (1, f.ea), (2, f.pr), (1, f.pen),
    (3, f.vc), (3, f.vb), (3, f.va), (3, f.vd)]
def FMX.fields (f : FMX) : List (Nat × Nat) :=
  [(21, f.mod), (3, f.cohort), (2, f.tm), (2, f.sparse), (1, f.keep), (1, f.ec), (6, f.cr), (6, f.drain), (2, f.acc),
    (2, f.tb), (2, f.ta)]
def FSYS.fields (f : FSYS) : List (Nat × Nat) :=
  [(21, f.low), (6, f.c), (1, f.ec), (1, f.eb), (1, f.ea), (6, f.b), (6, f.a), (6, f.d)]
def FDR.fields (f : FDR) : List (Nat × Nat) := [(15, f.mod), (3, f.dc), (3, f.db), (3, f.da), (3, f.dd), (5, f.dop)]

def FRRR.read (x : Nat) : FRRR :=
  match unpackBits [21, 1, 1, 1, 6, 6, 6, 6] x with
  | [mod, ec, eb, ea, c, b, a, d] => ⟨d, a, b, c, ea, eb, ec, mod⟩
  | _ => ⟨0, 0, 0, 0, 0, 0, 0, 0⟩
def FRI.read (x : Nat) : FRI :=
  match unpackBits [32, 3, 1, 6, 6] x with
  | [imm, mod3, ea, a, d] => ⟨d, a, ea, mod3, imm⟩
  | _ => ⟨0, 0, 0, 0, 0⟩
def FMEM.read (x : Nat) : FMEM :=
  match unpackBits [25, 3, 1, 1, 6, 6, 6] x with
  | [off, w, eb, ea, b, a, d] => ⟨d, a, b, ea, eb, w, off⟩
  | _ => ⟨0, 0, 0, 0, 0, 0, 0⟩
def FBR.read (x : Nat) : FBR :=
  match unpackBits [30, 4, 1, 1, 6, 6] x with
  | [disp, cond, eb, ea, b, a] => ⟨a, b, ea, eb, cond, disp⟩
  | _ => ⟨0, 0, 0, 0, 0, 0⟩
def FVEC.read (x : Nat) : FVEC :=
  match unpackBits [18, 1, 6, 1, 4, 1, 1, 1, 2, 1, 3, 3, 3, 3] x with
  | [low, es, s, zm, lt, ec, eb, ea, pr, pen, vc, vb, va, vd] =>
    ⟨vd, va, vb, vc, pen, pr, ea, eb, ec, lt, zm, s, es, low⟩
  | _ => ⟨0, 0, 0, 0, 0, 0, 0, 0, 0, 0, 0, 0, 0, 0⟩
def FMX.read (x : Nat) : FMX :=
  match unpackBits [21, 3, 2, 2, 1, 1, 6, 6, 2, 2, 2] x with
  | [mod, cohort, tm, sparse, keep, ec, cr, drain, acc, tb, ta] =>
    ⟨ta, tb, acc, drain, cr, ec, keep, sparse, tm, cohort, mod⟩
  | _ => ⟨0, 0, 0, 0, 0, 0, 0, 0, 0, 0, 0⟩
def FSYS.read (x : Nat) : FSYS :=
  match unpackBits [21, 6, 1, 1, 1, 6, 6, 6] x with
  | [low, c, ec, eb, ea, b, a, d] => ⟨d, a, b, ea, eb, ec, c, low⟩
  | _ => ⟨0, 0, 0, 0, 0, 0, 0, 0⟩
def FDR.read (x : Nat) : FDR :=
  match unpackBits [15, 3, 3, 3, 3, 5] x with
  | [mod, dc, db, da, dd, dop] => ⟨dop, dd, da, db, dc, mod⟩
  | _ => ⟨0, 0, 0, 0, 0, 0⟩

/-! ## Field values (R168, R183, R210, R215, R240, R280, R287) -/

def Fmt.ofCode : Nat → Option Fmt
  | 0 => some .fp32 | 1 => some .fp16 | 2 => some .bf16 | 3 => some .e4m3 | 4 => some .e5m2 | 5 => some .e3m2
  | 6 => some .e2m1 | 7 => some .int8 | 8 => some .int4 | 9 => some .tn3 | 10 => some .tn5 | 11 => some .tn8
  | 12 => some .i32 | 13 => some .i16 | _ => none
def Rnd.code : Rnd → Nat
  | .rne => 0 | .rz => 1 | .ru => 2 | .rd => 3 | .sr => 4 | .dyn => 5
def Rnd.ofCode : Nat → Option Rnd
  | 0 => some .rne | 1 => some .rz | 2 => some .ru | 3 => some .rd | 4 => some .sr | 5 => some .dyn | _ => none
def Sat.code : Sat → Nat
  | .wrap => 0 | .ss => 1 | .us => 2
def Sat.ofCode : Nat → Option Sat
  | 0 => some .wrap | 1 => some .ss | 2 => some .us | _ => none
def Cond.code : Cond → Nat
  | .al => 0 | .eq => 1 | .ne => 2 | .lt => 3 | .ge => 4 | .ltu => 5 | .geu => 6
def Cond.ofCode : Nat → Option Cond
  | 0 => some .al | 1 => some .eq | 2 => some .ne | 3 => some .lt | 4 => some .ge | 5 => some .ltu
  | 6 => some .geu | _ => none
def VCond.code : VCond → Nat
  | .eq => 0 | .ne => 1 | .lt => 2 | .le => 3 | .gt => 4 | .ge => 5 | .un => 6
def VCond.ofCode : Nat → Option VCond
  | 0 => some .eq | 1 => some .ne | 2 => some .lt | 3 => some .le | 4 => some .gt | 5 => some .ge
  | 6 => some .un | _ => none
def DCond.code : DCond → Nat
  | .gt => 0 | .ge => 1 | .lt => 2 | .le => 3 | .eq => 4 | .ne => 5
def DCond.ofCode : Nat → Option DCond
  | 0 => some .gt | 1 => some .ge | 2 => some .lt | 3 => some .le | 4 => some .eq | 5 => some .ne | _ => none
def Width.code : Width → Nat
  | .b => 0 | .h => 1 | .w => 2 | .d => 3 | .bs => 4 | .hs => 5 | .ws => 6
def Width.ofCode : Nat → Option Width
  | 0 => some .b | 1 => some .h | 2 => some .w | 3 => some .d | 4 => some .bs | 5 => some .hs | 6 => some .ws
  | _ => none
def StWidth.code : StWidth → Nat
  | .b => 0 | .h => 1 | .w => 2 | .d => 3
def StWidth.ofCode : Nat → Option StWidth
  | 0 => some .b | 1 => some .h | 2 => some .w | 3 => some .d | _ => none
def CycSel.code : CycSel → Nat
  | .cycles => 0 | .ins => 1 | .ident => 2
def CycSel.ofCode : Nat → Option CycSel
  | 0 => some .cycles | 1 => some .ins | 2 => some .ident | _ => none
def RedOp.code : RedOp → Nat
  | .add => 0 | .min => 1 | .max => 2 | .and => 3 | .or => 4 | .xor => 5
def RedOp.ofCode : Nat → Option RedOp
  | 0 => some .add | 1 => some .min | 2 => some .max | 3 => some .and | 4 => some .or | 5 => some .xor | _ => none
def RedTy.code : RedTy → Nat
  | .i32 => 0 | .i64 => 1 | .f32 => 2 | .bf16 => 3 | .f16 => 4
def RedTy.ofCode : Nat → Option RedTy
  | 0 => some .i32 | 1 => some .i64 | 2 => some .f32 | 3 => some .bf16 | 4 => some .f16 | _ => none
def Sparse.code : Sparse → Nat
  | .dense => 0 | .s816 => 1 | .s416 => 2
def Sparse.ofCode : Nat → Option Sparse
  | 0 => some .dense | 1 => some .s816 | 2 => some .s416 | _ => none
def Cohort.code : Cohort → Nat
  | .c1 => 0 | .c2 => 1 | .c4 => 2 | .c8 => 3 | .c16 => 4
def Cohort.ofCode : Nat → Option Cohort
  | 0 => some .c1 | 1 => some .c2 | 2 => some .c4 | 3 => some .c8 | 4 => some .c16 | _ => none
def TinvScope.code : TinvScope → Nat
  | .page => 0 | .part => 1 | .all => 2
def TinvScope.ofCode : Nat → Option TinvScope
  | 0 => some .page | 1 => some .part | 2 => some .all | _ => none

/-! ## The encoder -/

/-- An instruction's opcode, rx bit and format fields. -/
structure Enc where
  op : Nat
  rx : Nat
  body : List (Nat × Nat)
deriving DecidableEq, Repr

/-- A scalar source with the given field and policy bit. -/
def srcOf (r e : Nat) : Src := ⟨BitVec.ofNat 6 r, e == 1⟩

/-- A vector source with the given field and policy bit. -/
def vsrcOf (r e : Nat) : VSrc := ⟨BitVec.ofNat 3 r, e == 1⟩

/-- The predicate operand of pen and pr (R168). -/
def predOf (pen pr : Nat) : Pred := if pen == 1 then some (BitVec.ofNat 2 pr) else none

def Pred.pen (p : Pred) : Nat := b2n p.isSome
def Pred.pr (p : Pred) : Nat := (p.getD 0).toNat

def encR3 (f : R3) (mod : Nat) : List (Nat × Nat) :=
  FRRR.fields { d := f.d.toNat, a := f.a.r.toNat, ea := b2n f.a.e, b := f.b.r.toNat, eb := b2n f.b.e, mod := mod }
def encR4 (f : R4) : List (Nat × Nat) :=
  FRRR.fields { d := f.d.toNat, a := f.a.r.toNat, ea := b2n f.a.e, b := f.b.r.toNat, eb := b2n f.b.e,
                c := f.c.r.toNat, ec := b2n f.c.e }
def encR2 (f : R2) : List (Nat × Nat) := FRRR.fields { d := f.d.toNat, a := f.a.r.toNat, ea := b2n f.a.e }
def encRI (f : RImm) (mod3 : Nat) : List (Nat × Nat) :=
  FRI.fields { d := f.d.toNat, imm := f.imm.toNat, mod3 := mod3 }
def encLd (f : LdF) : List (Nat × Nat) :=
  FMEM.fields { d := f.d.toNat, a := f.a.r.toNat, ea := b2n f.a.e, b := f.b.r.toNat, eb := b2n f.b.e, w := f.w.code,
                off := f.off.toNat }
def encSt (f : StF) : List (Nat × Nat) :=
  FMEM.fields { d := f.d.toNat, a := f.a.r.toNat, ea := b2n f.a.e, b := f.b.r.toNat, eb := b2n f.b.e, w := f.w.code,
                off := f.off.toNat }
def encFe (f : FeF) : List (Nat × Nat) :=
  FMEM.fields { d := f.d.toNat, a := f.a.r.toNat, ea := b2n f.a.e, b := f.b.r.toNat, eb := b2n f.b.e, w := 3,
                off := f.off.toNat }
def encAt (f : AtF) : List (Nat × Nat) :=
  FMEM.fields { d := f.d.toNat, a := f.a.r.toNat, ea := b2n f.a.e, b := f.b.r.toNat, eb := b2n f.b.e,
                w := 2 + b2n f.dw, off := f.off.toNat }
def encVUn (f : VUn) : List (Nat × Nat) :=
  FVEC.fields { vd := f.vd.toNat, va := f.va.r.toNat, ea := b2n f.va.e, pen := f.p.pen, pr := f.p.pr, zm := b2n f.zm,
                lt := f.lt.code, low := f.rnd.code + 8 * b2n f.sat }
def encVBin (f : VBin) : List (Nat × Nat) :=
  FVEC.fields { vd := f.vd.toNat, va := f.va.r.toNat, ea := b2n f.va.e, vb := f.vb.r.toNat, eb := b2n f.vb.e,
                pen := f.p.pen, pr := f.p.pr, zm := b2n f.zm, lt := f.lt.code, low := f.rnd.code + 8 * b2n f.sat }
def encVTer (f : VTer) : List (Nat × Nat) :=
  FVEC.fields { vd := f.vd.toNat, va := f.va.r.toNat, ea := b2n f.va.e, vb := f.vb.r.toNat, eb := b2n f.vb.e,
                vc := f.vc.r.toNat, ec := b2n f.vc.e,
                pen := f.p.pen, pr := f.p.pr, zm := b2n f.zm, lt := f.lt.code, low := f.rnd.code }
def encVLog (f : VLog) : List (Nat × Nat) :=
  FVEC.fields { vd := f.vd.toNat, va := f.va.r.toNat, ea := b2n f.va.e, vb := f.vb.r.toNat, eb := b2n f.vb.e,
                pen := f.p.pen, pr := f.p.pr, zm := b2n f.zm, lt := f.lt.code }
def encVZip (f : VZipF) : List (Nat × Nat) :=
  FVEC.fields { vd := f.vd.toNat, va := f.va.r.toNat, ea := b2n f.va.e, vb := f.vb.r.toNat, eb := b2n f.vb.e,
                pen := f.p.pen, pr := f.p.pr, zm := b2n f.zm, lt := f.lt.code, low := b2n f.alt }
def encVLd (f : VLdF) : List (Nat × Nat) :=
  FVEC.fields { vd := f.vd.toNat, s := f.s.r.toNat, es := b2n f.s.e, pen := f.p.pen, pr := f.p.pr, zm := b2n f.zm }
def encVSt (f : VStF) : List (Nat × Nat) :=
  FVEC.fields { vd := f.vd.toNat, s := f.s.r.toNat, es := b2n f.s.e, pen := f.p.pen, pr := f.p.pr }
def encPack (f : VPackF) : List (Nat × Nat) :=
  FVEC.fields { vd := f.vd.toNat, va := f.va.r.toNat, ea := b2n f.va.e, lt := f.lt.code,
                low := f.rnd.code + 8 * b2n f.nan + 16 * f.st.code + 256 * f.q.toNat }
def encP3 (pd pa pb : BitVec 2) : List (Nat × Nat) :=
  FVEC.fields { vd := pd.toNat, va := pa.toNat, vb := pb.toNat }
def encTile (f : TileF) : List (Nat × Nat) :=
  FSYS.fields { d := f.t.toNat, a := f.a.r.toNat, ea := b2n f.a.e, b := f.b.r.toNat, eb := b2n f.b.e,
                low := 4 * b2n f.sc }
def encAcc (f : AccF) : List (Nat × Nat) :=
  FSYS.fields { d := f.acc.toNat, a := f.a.r.toNat, ea := b2n f.a.e, b := f.b.r.toNat, eb := b2n f.b.e,
                low := f.m.toNat + 128 * f.n.toNat }
def encGsel (f : GselF) : List (Nat × Nat) :=
  FVEC.fields { vd := f.vd.toNat, va := f.va.r.toNat, ea := b2n f.va.e, lt := if f.bf then 2 else 0,
                low := f.e.toNat + 256 * f.g.toNat + 65536 * (f.k.toNat % 4), es := f.k.toNat / 4 % 2,
                s := f.k.toNat / 8 }

/-- SYS fields of the operands that an instruction names. -/
def encSys (d : Reg) (a b c : Src) (low : Nat) : List (Nat × Nat) :=
  FSYS.fields { d := d.toNat, a := a.r.toNat, ea := b2n a.e, b := b.r.toNat, eb := b2n b.e, c := c.r.toNat,
                ec := b2n c.e, low := low }

/-- The code of s0, which an unused source field holds. -/
def z0 : Src := ⟨0, false⟩

/-- A register number as an unchecked field. -/
def rsrc (r : Reg) : Src := ⟨r, false⟩

/-- The word of an instruction of the core: its opcode, rx bit and fields; `none` for a drain word or a step. -/
def enc : Instr → Option Enc
  | .nop => some ⟨0x001, 0, FRRR.fields {}⟩
  | .br c a b disp => some ⟨0x002, 0, FBR.fields { a := a.r.toNat, ea := b2n a.e, b := b.r.toNat, eb := b2n b.e,
                                                   cond := c.code, disp := disp.toNat }⟩
  | .brbit t a n disp => some ⟨0x003, 0, FBR.fields { a := a.r.toNat, ea := b2n a.e, b := n.toNat, cond := b2n t,
                                                      disp := disp.toNat }⟩
  | .brf t a disp => some ⟨0x004, 0, FBR.fields { a := a.toNat, cond := b2n t, disp := disp.toNat }⟩
  | .bre t a disp => some ⟨0x005, 0, FBR.fields { a := a.toNat, cond := b2n t, disp := disp.toNat }⟩
  | .loop a disp => some ⟨0x006, 0, FBR.fields { a := a.r.toNat, ea := b2n a.e, disp := disp.toNat }⟩
  | .jal f => some ⟨0x007, 0, encRI f 0⟩
  | .jalr f => some ⟨0x008, 0, encR2 f⟩
  | .endRun a => some ⟨0x009, 0, FRRR.fields { a := a.r.toNat, ea := b2n a.e }⟩
  | .rdcyc d k => some ⟨0x00A, 0, FRRR.fields { d := d.toNat, mod := k.code }⟩
  | .pause imm => some ⟨0x00B, 0, FRI.fields { imm := imm.toNat }⟩
  | .iadd f m => some ⟨0x010, 0, encR3 f m.code⟩
  | .isub f m => some ⟨0x011, 0, encR3 f m.code⟩
  | .imul f => some ⟨0x012, 0, encR3 f 0⟩
  | .imulh f => some ⟨0x013, 0, encR3 f 0⟩
  | .imulhu f => some ⟨0x014, 0, encR3 f 0⟩
  | .idiv f => some ⟨0x015, 0, encR3 f 0⟩
  | .idivu f => some ⟨0x016, 0, encR3 f 0⟩
  | .irem f => some ⟨0x017, 0, encR3 f 0⟩
  | .iremu f => some ⟨0x018, 0, encR3 f 0⟩
  | .iand f => some ⟨0x020, 0, encR3 f 0⟩
  | .ior f => some ⟨0x021, 0, encR3 f 0⟩
  | .ixor f => some ⟨0x022, 0, encR3 f 0⟩
  | .iandn f => some ⟨0x023, 0, encR3 f 0⟩
  | .ishl f => some ⟨0x024, 0, encR3 f 0⟩
  | .ishr f => some ⟨0x025, 0, encR3 f 0⟩
  | .isra f => some ⟨0x026, 0, encR3 f 0⟩
  | .irol f => some ⟨0x027, 0, encR3 f 0⟩
  | .imin f => some ⟨0x028, 0, encR3 f 0⟩
  | .imax f => some ⟨0x029, 0, encR3 f 0⟩
  | .iminu f => some ⟨0x02A, 0, encR3 f 0⟩
  | .imaxu f => some ⟨0x02B, 0, encR3 f 0⟩
  | .iseq f => some ⟨0x02C, 0, encR3 f 0⟩
  | .islt f => some ⟨0x02D, 0, encR3 f 0⟩
  | .isltu f => some ⟨0x02E, 0, encR3 f 0⟩
  | .isel f => some ⟨0x02F, 0, encR4 f⟩
  | .bext f => some ⟨0x030, 0, encR4 f⟩
  | .bextu f => some ⟨0x031, 0, encR4 f⟩
  | .bins f => some ⟨0x032, 0, encR4 f⟩
  | .clz f => some ⟨0x033, 0, encR2 f⟩
  | .ctz f => some ⟨0x034, 0, encR2 f⟩
  | .popc f => some ⟨0x035, 0, encR2 f⟩
  | .bswap f => some ⟨0x036, 0, encR2 f⟩
  | .crc32c f => some ⟨0x037, 0, encR4 f⟩
  | .crc16 f => some ⟨0x038, 0, encR4 f⟩
  | .crc15 f => some ⟨0x039, 0, encR4 f⟩
  | .movi f => some ⟨0x040, 0, encRI f 0⟩
  | .movhi d a imm => some ⟨0x041, 0, FRI.fields { d := d.toNat, a := a.r.toNat, ea := b2n a.e, imm := imm.toNat }⟩
  | .iaddi f m => some ⟨0x042, 0, encRI f m.code⟩
  | .iandi f => some ⟨0x043, 0, encRI f 0⟩
  | .iori f => some ⟨0x044, 0, encRI f 0⟩
  | .ixori f => some ⟨0x045, 0, encRI f 0⟩
  | .ishli f => some ⟨0x046, 0, encRI f 0⟩
  | .ishri f => some ⟨0x047, 0, encRI f 0⟩
  | .israi f => some ⟨0x048, 0, encRI f 0⟩
  | .islti f => some ⟨0x049, 0, encRI f 0⟩
  | .iseqi f => some ⟨0x04A, 0, encRI f 0⟩
  | .ld f => some ⟨0x080, b2n f.rx, encLd f⟩
  | .st f => some ⟨0x081, b2n f.rx, encSt f⟩
  | .ldx f => some ⟨0x082, 0, encFe f⟩
  | .stx f => some ⟨0x083, 0, encFe f⟩
  | .ldf f => some ⟨0x084, 0, encFe f⟩
  | .aadd f => some ⟨0x090, b2n f.rx, encAt f⟩
  | .aand f => some ⟨0x091, b2n f.rx, encAt f⟩
  | .aor f => some ⟨0x092, b2n f.rx, encAt f⟩
  | .axor f => some ⟨0x093, b2n f.rx, encAt f⟩
  | .amin f => some ⟨0x094, b2n f.rx, encAt f⟩
  | .amax f => some ⟨0x095, b2n f.rx, encAt f⟩
  | .aswp f => some ⟨0x096, b2n f.rx, encAt f⟩
  | .acas f => some ⟨0x097, b2n f.rx, encAt f⟩
  | .aincb f => some ⟨0x098, b2n f.rx, encAt f⟩
  | .gld f => some ⟨0x0C0, b2n f.rx, encLd f⟩
  | .gst f => some ⟨0x0C1, b2n f.rx, encSt f⟩
  | .gldx f => some ⟨0x0C2, 0, encFe f⟩
  | .gstx f => some ⟨0x0C3, 0, encFe f⟩
  | .gldf f => some ⟨0x0C4, 0, encFe f⟩
  | .gaadd f => some ⟨0x0D0, b2n f.rx, encAt f⟩
  | .gaand f => some ⟨0x0D1, b2n f.rx, encAt f⟩
  | .gaor f => some ⟨0x0D2, b2n f.rx, encAt f⟩
  | .gaxor f => some ⟨0x0D3, b2n f.rx, encAt f⟩
  | .gamin f => some ⟨0x0D4, b2n f.rx, encAt f⟩
  | .gamax f => some ⟨0x0D5, b2n f.rx, encAt f⟩
  | .gaswp f => some ⟨0x0D6, b2n f.rx, encAt f⟩
  | .gacas f => some ⟨0x0D7, b2n f.rx, encAt f⟩
  | .gaincb f => some ⟨0x0D8, b2n f.rx, encAt f⟩
  | .fence r e d => some ⟨0x0E0, 0, encSys 0 z0 z0 z0 (b2n r + 2 * b2n e + 4 * b2n d)⟩
  | .qclaim d => some ⟨0x0E1, 0, encSys d z0 z0 z0 0⟩
  | .qfree d => some ⟨0x0E2, 0, encSys d z0 z0 z0 0⟩
  | .qcnt d a => some ⟨0x0E3, 0, encSys d (rsrc a) z0 z0 0⟩
  | .qskip a b => some ⟨0x0E4, 0, encSys 0 (rsrc a) b z0 0⟩
  | .mclr d => some ⟨0x0E5, 0, encSys d z0 z0 z0 0⟩
  | .mpoll d a => some ⟨0x0E6, 0, encSys d (rsrc a) z0 z0 0⟩
  | .vadd f => some ⟨0x100, 0, encVBin f⟩
  | .vsub f => some ⟨0x101, 0, encVBin f⟩
  | .vmul f => some ⟨0x102, 0, encVBin f⟩
  | .vfma f => some ⟨0x103, 0, encVTer f⟩
  | .vfms f => some ⟨0x104, 0, encVTer f⟩
  | .vdiv f => some ⟨0x105, 0, encVBin f⟩
  | .vsqrt f => some ⟨0x106, 0, encVUn f⟩
  | .vmin f => some ⟨0x107, 0, encVBin f⟩
  | .vmax f => some ⟨0x108, 0, encVBin f⟩
  | .vabs f => some ⟨0x109, 0, encVUn f⟩
  | .vneg f => some ⟨0x10A, 0, encVUn f⟩
  | .vrcp f => some ⟨0x10B, 0, encVUn f⟩
  | .vrsq f => some ⟨0x10C, 0, encVUn f⟩
  | .vexp2 f => some ⟨0x10D, 0, encVUn f⟩
  | .vlog2 f => some ⟨0x10E, 0, encVUn f⟩
  | .vand f => some ⟨0x110, 0, encVLog f⟩
  | .vor f => some ⟨0x111, 0, encVLog f⟩
  | .vxor f => some ⟨0x112, 0, encVLog f⟩
  | .vandn f => some ⟨0x113, 0, encVLog f⟩
  | .vshl f => some ⟨0x114, 0, encVLog f⟩
  | .vshr f => some ⟨0x115, 0, encVLog f⟩
  | .vsra f => some ⟨0x116, 0, encVLog f⟩
  | .vsel f => some ⟨0x117, 0, FVEC.fields { vd := f.vd.toNat, va := f.va.r.toNat, ea := b2n f.va.e,
                                             vb := f.vb.r.toNat, eb := b2n f.vb.e, pen := 1, pr := f.pr.toNat,
                                             lt := f.lt.code }⟩
  | .vcmp f => some ⟨0x120, 0, FVEC.fields { vd := f.pd.toNat, va := f.va.r.toNat, ea := b2n f.va.e,
                                             vb := f.vb.r.toNat, eb := b2n f.vb.e, pen := f.p.pen, pr := f.p.pr,
                                             zm := b2n f.zm, lt := if f.i32 then 12 else 0,
                                             low := f.cc.code + 8 * b2n f.u }⟩
  | .pand pd pa pb => some ⟨0x121, 0, encP3 pd pa pb⟩
  | .por pd pa pb => some ⟨0x122, 0, encP3 pd pa pb⟩
  | .pxor pd pa pb => some ⟨0x123, 0, encP3 pd pa pb⟩
  | .pnot pd pa => some ⟨0x124, 0, encP3 pd pa 0⟩
  | .pcnt pa r => some ⟨0x125, 0, FVEC.fields { va := pa.toNat, s := r.toNat }⟩
  | .pfirst pa r => some ⟨0x126, 0, FVEC.fields { va := pa.toNat, s := r.toNat }⟩
  | .vmov f => some ⟨0x130, 0, FVEC.fields { vd := f.vd.toNat, va := f.va.r.toNat, ea := b2n f.va.e, pen := f.p.pen,
                                             pr := f.p.pr, zm := b2n f.zm, lt := f.lt.code }⟩
  | .vbcast f => some ⟨0x131, 0, FVEC.fields { vd := f.vd.toNat, s := f.s.r.toNat, es := b2n f.s.e, pen := f.p.pen,
                                               pr := f.p.pr, zm := b2n f.zm, lt := f.lt.code }⟩
  | .vext f => some ⟨0x132, 0, FVEC.fields { va := f.va.r.toNat, ea := b2n f.va.e, s := f.s.toNat, lt := f.lt.code,
                                             low := f.i.toNat }⟩
  | .vins f => some ⟨0x133, 0, FVEC.fields { vd := f.vd.toNat, s := f.s.r.toNat, es := b2n f.s.e, lt := f.lt.code,
                                             low := f.i.toNat }⟩
  | .vperm f => some ⟨0x134, 0, encVLog f⟩
  | .vrot f => some ⟨0x135, 0, FVEC.fields { vd := f.vd.toNat, va := f.va.r.toNat, ea := b2n f.va.e, s := f.s.r.toNat,
                                             es := b2n f.s.e, pen := f.p.pen, pr := f.p.pr, zm := b2n f.zm,
                                             lt := f.lt.code }⟩
  | .vzip f => some ⟨0x136, 0, encVZip f⟩
  | .vunzip f => some ⟨0x137, 0, encVZip f⟩
  | .vld f => some ⟨0x138, b2n f.rx, encVLd f⟩
  | .vst f => some ⟨0x139, b2n f.rx, encVSt f⟩
  | .vldg f => some ⟨0x13A, b2n f.rx, encVLd f⟩
  | .vstg f => some ⟨0x13B, b2n f.rx, encVSt f⟩
  | .vrsum f => some ⟨0x140, 0, encVUn f⟩
  | .vrmax f => some ⟨0x141, 0, encVUn f⟩
  | .vrmin f => some ⟨0x142, 0, encVUn f⟩
  | .vrand f => some ⟨0x143, 0, encVUn f⟩
  | .vror f => some ⟨0x144, 0, encVUn f⟩
  | .vscan f => some ⟨0x145, 0, encVUn f⟩
  | .vcvt f => some ⟨0x150, 0, FVEC.fields { vd := f.vd.toNat, va := f.va.r.toNat, ea := b2n f.va.e, pen := f.p.pen,
                                             pr := f.p.pr, zm := b2n f.zm, lt := f.lt.code,
                                             low := f.rnd.code + 8 * b2n f.nan + 16 * f.st.code }⟩
  | .vpack f => some ⟨0x151, 0, encPack f⟩
  | .vunpk f => some ⟨0x152, 0, encPack f⟩
  | .vtpack f => some ⟨0x153, 0, FVEC.fields { vd := f.vd.toNat, va := f.va.r.toNat, ea := b2n f.va.e, lt := f.lt.code,
                                               s := f.s.toNat,
                                               low := f.rnd.code + 8 * b2n f.nan + 16 * f.st.code + 256 * f.q.toNat }⟩
  | .vtunpk f => some ⟨0x154, 0, FVEC.fields { vd := f.vd.toNat, va := f.va.r.toNat, ea := b2n f.va.e, lt := f.lt.code,
                                               s := f.s.r.toNat, es := b2n f.s.e,
                                               low := f.rnd.code + 8 * b2n f.nan + 16 * f.st.code + 256 * f.q.toNat }⟩
  | .gsel f => some ⟨0x160, 0, encGsel f⟩
  | .hsift fin va s => some ⟨0x161, 0, FVEC.fields { va := va.r.toNat, ea := b2n va.e, s := s.r.toNat, es := b2n s.e,
                                                     low := b2n fin }⟩
  | .tld f => some ⟨0x180, 0, encTile f⟩
  | .tldt t a b => some ⟨0x181, 0, encTile ⟨t, a, b, false⟩⟩
  | .tst f => some ⟨0x182, 0, encTile f⟩
  | .tzero t => some ⟨0x183, 0, FSYS.fields { d := t.toNat }⟩
  | .tcopy td ts => some ⟨0x184, 0, FSYS.fields { d := td.toNat, a := ts.toNat }⟩
  | .matx f => some ⟨0x185, 0, FMX.fields { ta := f.ta.toNat, tb := f.tb.toNat, acc := f.acc.toNat,
                                            drain := f.drain.toNat, cr := f.cr.r.toNat, ec := b2n f.cr.e,
                                            keep := b2n f.keep, sparse := f.sparse.code, tm := f.tm.toNat,
                                            cohort := f.cohort.code }⟩
  | .drainld n a => some ⟨0x186, 0, encSys n a z0 z0 0⟩
  | .accld f => some ⟨0x187, 0, encAcc f⟩
  | .accst f => some ⟨0x188, 0, encAcc f⟩
  | .accrel acc => some ⟨0x189, 0, FSYS.fields { d := acc.toNat }⟩
  | .agent d a b => some ⟨0x1A0, 0, encSys d a b z0 0⟩
  | .free a => some ⟨0x1A1, 0, encSys 0 a z0 z0 0⟩
  | .link a b => some ⟨0x1A2, 0, encSys 0 a b z0 0⟩
  | .splice a b => some ⟨0x1A3, 0, encSys 0 a b z0 0⟩
  | .join a b => some ⟨0x1A4, 0, encSys 0 a b z0 0⟩
  | .pref a => some ⟨0x1A5, 0, encSys 0 a z0 z0 0⟩
  | .unref a => some ⟨0x1A6, 0, encSys 0 a z0 z0 0⟩
  | .pmut d a => some ⟨0x1A7, 0, encSys d a z0 z0 0⟩
  | .palloc d a b => some ⟨0x1A8, 0, encSys d a b z0 0⟩
  | .take d w => some ⟨0x1A9, 0, encSys d z0 z0 z0 (b2n w)⟩
  | .pushp a b => some ⟨0x1AA, 0, encSys 0 a b z0 0⟩
  | .enqr a b nb => some ⟨0x1AB, 0, encSys 0 a b z0 (b2n nb)⟩
  | .inbox a b => some ⟨0x1AC, 0, encSys 0 a b z0 0⟩
  | .cellrd d a => some ⟨0x1AD, 0, encSys d a z0 z0 0⟩
  | .start d a b c none => some ⟨0x1C0, 0, encSys d a b c 1⟩
  | .start d a b c (some n) => some ⟨0x1C0, 0, encSys d a b c (2 * n.toNat)⟩
  | .reap d b w look => some ⟨0x1C1, 0, encSys d z0 (rsrc b) z0 (b2n w + 2 * b2n look)⟩
  | .park none => some ⟨0x1C2, 0, encSys 0 z0 z0 z0 1⟩
  | .park (some a) => some ⟨0x1C2, 0, encSys 0 a z0 z0 0⟩
  | .wake a => some ⟨0x1C3, 0, encSys 0 a z0 z0 0⟩
  | .yield => some ⟨0x1C4, 0, encSys 0 z0 z0 z0 0⟩
  | .migr a => some ⟨0x1C5, 0, encSys 0 a z0 z0 0⟩
  | .ctxrd d a b => some ⟨0x1C6, 0, encSys d a b z0 0⟩
  | .ctxwr a b c => some ⟨0x1C7, 0, encSys 0 a b c 0⟩
  | .arrive t => some ⟨0x1D0, 0, encSys 0 z0 z0 z0 t.toNat⟩
  | .wait t a => some ⟨0x1D1, 0, encSys 0 a z0 z0 t.toNat⟩
  | .rcgen t d => some ⟨0x1D2, 0, encSys d z0 z0 z0 t.toNat⟩
  | .rcpoll t d => some ⟨0x1D3, 0, encSys d z0 z0 z0 t.toNat⟩
  | .smap d a b => some ⟨0x1D4, 0, encSys d a b z0 0⟩
  | .sunmap d a => some ⟨0x1D5, 0, encSys d a z0 z0 0⟩
  | .sunmapRc d a => some ⟨0x1D5, 0, encSys d a z0 z0 1⟩
  | .give d a b c => some ⟨0x1D6, 0, encSys d a b c 0⟩
  | .sgen d a => some ⟨0x1D7, 0, encSys d a z0 z0 0⟩
  | .cpy d a b c => some ⟨0x1E0, 0, encSys d a b c 0⟩
  | .cpyr d a b c op ty => some ⟨0x1E1, 0, encSys d a b c (op.code + 16 * ty.code)⟩
  | .stbind d a => some ⟨0x1E2, 0, encSys d a z0 z0 0⟩
  | .stunbind d => some ⟨0x1E3, 0, encSys d z0 z0 z0 0⟩
  | .cwait d a b c => some ⟨0x1E4, 0, encSys d a b c 0⟩
  | .msend a b c nb => some ⟨0x1E5, 0, encSys 0 a b c (2 * b2n nb)⟩
  | .mbulk a b c fol nb => some ⟨0x1E6, 0, encSys 0 a b c (b2n fol + 2 * b2n nb)⟩
  | .mseat d a req => some ⟨0x1E7, 0, encSys d a z0 z0 (b2n req)⟩
  | .csrr d a => some ⟨0x1F0, 0, encSys d a z0 z0 0⟩
  | .csrw a b => some ⟨0x1F1, 0, encSys 0 a b z0 0⟩
  | .trap a => some ⟨0x1F2, 0, encSys 0 a z0 z0 0⟩
  | .tret d a b next rc => some ⟨0x1F3, 0, encSys d a b z0 (b2n next + 2 * b2n rc)⟩
  | .tretRp d a b rc => some ⟨0x1F3, 0, encSys d a b z0 (4 + 2 * b2n rc)⟩
  | .isol a b => some ⟨0x1F4, 0, encSys 0 a b z0 0⟩
  | .unisol a => some ⟨0x1F5, 0, encSys 0 a z0 z0 0⟩
  | .cut a b c => some ⟨0x1F6, 0, encSys 0 a b c 0⟩
  | .tinv k a b => some ⟨0x1F7, 0, encSys 0 a b z0 k.code⟩
  | .frec d a => some ⟨0x1F8, 0, encSys d a z0 z0 0⟩
  | .post a b => some ⟨0x1F9, 0, encSys 0 a b z0 0⟩
  | _ => none

/-- The common fields of R165 above a body. -/
def Enc.word (e : Enc) (sv ctl : Nat) : Nat :=
  packBits [(48, packBits e.body), (9, e.op), (1, e.rx), (4, ctl), (2, sv)]

/-- The word of a well-formed instruction with the hint fields sv and ctl (R165); `none` for what has no word of its
own, and for an ill-formed instruction. -/
def encode (sv ctl : Nat) (i : Instr) : Option Nat :=
  if i.wf then (enc i).map fun e => e.word sv ctl else none

/-! ## The decoder -/

/-- Why a word is not an instruction (R170). -/
inductive Reject where
  | badSv
  | unassigned
  | reserved
deriving DecidableEq, Repr

/-- The cause of a refusal (R170, R326). -/
def Reject.cause : Reject → BitVec 8
  | .badSv => 0x03
  | .unassigned => 0x01
  | .reserved => 0x02

def FRRR.sa (f : FRRR) : Src := srcOf f.a f.ea
def FRRR.sb (f : FRRR) : Src := srcOf f.b f.eb
def FRRR.sc (f : FRRR) : Src := srcOf f.c f.ec
def FRRR.rd (f : FRRR) : Reg := BitVec.ofNat 6 f.d
def FRRR.r2 (f : FRRR) : R2 := ⟨f.rd, f.sa⟩
def FRRR.r3 (f : FRRR) : R3 := ⟨f.rd, f.sa, f.sb⟩
def FRRR.r4 (f : FRRR) : R4 := ⟨f.rd, f.sa, f.sb, f.sc⟩

/-- RRR opcodes (R172, R182 to R187, R192 to R195). -/
def decodeRRR (op : Nat) (f : FRRR) : Option Instr :=
  match op with
  | 0x001 => some .nop
  | 0x008 => some (.jalr f.r2)
  | 0x009 => some (.endRun f.sa)
  | 0x00A => (CycSel.ofCode (f.mod % 4)).map fun k => .rdcyc f.rd k
  | 0x010 => (Sat.ofCode (f.mod % 4)).map fun m => .iadd f.r3 m
  | 0x011 => (Sat.ofCode (f.mod % 4)).map fun m => .isub f.r3 m
  | 0x012 => some (.imul f.r3)
  | 0x013 => some (.imulh f.r3)
  | 0x014 => some (.imulhu f.r3)
  | 0x015 => some (.idiv f.r3)
  | 0x016 => some (.idivu f.r3)
  | 0x017 => some (.irem f.r3)
  | 0x018 => some (.iremu f.r3)
  | 0x020 => some (.iand f.r3)
  | 0x021 => some (.ior f.r3)
  | 0x022 => some (.ixor f.r3)
  | 0x023 => some (.iandn f.r3)
  | 0x024 => some (.ishl f.r3)
  | 0x025 => some (.ishr f.r3)
  | 0x026 => some (.isra f.r3)
  | 0x027 => some (.irol f.r3)
  | 0x028 => some (.imin f.r3)
  | 0x029 => some (.imax f.r3)
  | 0x02A => some (.iminu f.r3)
  | 0x02B => some (.imaxu f.r3)
  | 0x02C => some (.iseq f.r3)
  | 0x02D => some (.islt f.r3)
  | 0x02E => some (.isltu f.r3)
  | 0x02F => some (.isel f.r4)
  | 0x030 => some (.bext f.r4)
  | 0x031 => some (.bextu f.r4)
  | 0x032 => some (.bins f.r4)
  | 0x033 => some (.clz f.r2)
  | 0x034 => some (.ctz f.r2)
  | 0x035 => some (.popc f.r2)
  | 0x036 => some (.bswap f.r2)
  | 0x037 => some (.crc32c f.r4)
  | 0x038 => some (.crc16 f.r4)
  | 0x039 => some (.crc15 f.r4)
  | _ => none

def FRI.ri (f : FRI) : RImm := ⟨BitVec.ofNat 6 f.d, BitVec.ofNat 32 f.imm⟩

/-- RI opcodes (R172, R185, R192, R195). -/
def decodeRI (op : Nat) (f : FRI) : Option Instr :=
  match op with
  | 0x007 => some (.jal f.ri)
  | 0x00B => some (.pause (BitVec.ofNat 32 f.imm))
  | 0x040 => some (.movi f.ri)
  | 0x041 => some (.movhi (BitVec.ofNat 6 f.d) (srcOf f.a f.ea) (BitVec.ofNat 32 f.imm))
  | 0x042 => (Sat.ofCode (f.mod3 % 4)).map fun m => .iaddi f.ri m
  | 0x043 => some (.iandi f.ri)
  | 0x044 => some (.iori f.ri)
  | 0x045 => some (.ixori f.ri)
  | 0x046 => some (.ishli f.ri)
  | 0x047 => some (.ishri f.ri)
  | 0x048 => some (.israi f.ri)
  | 0x049 => some (.islti f.ri)
  | 0x04A => some (.iseqi f.ri)
  | _ => none

/-- A condition field whose bits [3:1] must be 0 (R190). -/
def cond1 (c : Nat) : Option Bool :=
  match c with
  | 0 => some false
  | 1 => some true
  | _ => none

/-- BR opcodes (R172, R189 to R191). -/
def decodeBR (op : Nat) (f : FBR) : Option Instr :=
  let disp := BitVec.ofNat 30 f.disp
  match op with
  | 0x002 => (Cond.ofCode f.cond).map fun c =>
      if c == .al then .br c z0 z0 disp else .br c (srcOf f.a f.ea) (srcOf f.b f.eb) disp
  | 0x003 => (cond1 f.cond).map fun c => .brbit c (srcOf f.a f.ea) (BitVec.ofNat 6 f.b) disp
  | 0x004 => (cond1 f.cond).map fun c => .brf c (BitVec.ofNat 6 f.a) disp
  | 0x005 => (cond1 f.cond).map fun c => .bre c (BitVec.ofNat 6 f.a) disp
  | 0x006 => some (.loop (srcOf f.a f.ea) disp)
  | _ => none

def FMEM.ld (f : FMEM) (rx : Bool) : Option LdF :=
  (Width.ofCode f.w).map fun w => ⟨BitVec.ofNat 6 f.d, srcOf f.a f.ea, srcOf f.b f.eb, w, BitVec.ofNat 25 f.off, rx⟩
def FMEM.st (f : FMEM) (rx : Bool) : Option StF :=
  (StWidth.ofCode f.w).map fun w =>
    ⟨BitVec.ofNat 6 f.d, srcOf f.a f.ea, srcOf f.b f.eb, w, BitVec.ofNat 25 f.off, rx⟩
def FMEM.fe (f : FMEM) (rx : Bool) : Option FeF :=
  if f.w == 3 && !rx then some ⟨BitVec.ofNat 6 f.d, srcOf f.a f.ea, srcOf f.b f.eb, BitVec.ofNat 25 f.off⟩ else none
def FMEM.at (f : FMEM) (rx : Bool) : Option AtF :=
  if f.w == 2 || f.w == 3 then
    some ⟨BitVec.ofNat 6 f.d, srcOf f.a f.ea, srcOf f.b f.eb, f.w == 3, BitVec.ofNat 25 f.off, rx⟩
  else none

/-- MEM opcodes (R172, R196 to R203). -/
def decodeMEM (op : Nat) (rx : Bool) (f : FMEM) : Option Instr :=
  match op with
  | 0x080 => (f.ld rx).map .ld
  | 0x081 => (f.st rx).map .st
  | 0x082 => (f.fe rx).map .ldx
  | 0x083 => (f.fe rx).map .stx
  | 0x084 => (f.fe rx).map .ldf
  | 0x090 => (f.at rx).map .aadd
  | 0x091 => (f.at rx).map .aand
  | 0x092 => (f.at rx).map .aor
  | 0x093 => (f.at rx).map .axor
  | 0x094 => (f.at rx).map .amin
  | 0x095 => (f.at rx).map .amax
  | 0x096 => (f.at rx).map .aswp
  | 0x097 => (f.at rx).map .acas
  | 0x098 => (f.at rx).map .aincb
  | 0x0C0 => (f.ld rx).map .gld
  | 0x0C1 => (f.st rx).map .gst
  | 0x0C2 => (f.fe rx).map .gldx
  | 0x0C3 => (f.fe rx).map .gstx
  | 0x0C4 => (f.fe rx).map .gldf
  | 0x0D0 => (f.at rx).map .gaadd
  | 0x0D1 => (f.at rx).map .gaand
  | 0x0D2 => (f.at rx).map .gaor
  | 0x0D3 => (f.at rx).map .gaxor
  | 0x0D4 => (f.at rx).map .gamin
  | 0x0D5 => (f.at rx).map .gamax
  | 0x0D6 => (f.at rx).map .gaswp
  | 0x0D7 => (f.at rx).map .gacas
  | 0x0D8 => (f.at rx).map .gaincb
  | _ => none

def FVEC.xa (f : FVEC) : VSrc := vsrcOf f.va f.ea
def FVEC.xb (f : FVEC) : VSrc := vsrcOf f.vb f.eb
def FVEC.xc (f : FVEC) : VSrc := vsrcOf f.vc f.ec
def FVEC.xs (f : FVEC) : Src := srcOf f.s f.es
def FVEC.p (f : FVEC) : Pred := predOf f.pen f.pr
def FVEC.d3 (f : FVEC) : BitVec 3 := BitVec.ofNat 3 f.vd
def FVEC.z (f : FVEC) : Bool := f.zm == 1
def FVEC.fmt (f : FVEC) : Option Fmt := Fmt.ofCode f.lt
def FVEC.rnd (f : FVEC) : Option Rnd := Rnd.ofCode (f.low % 8)
def FVEC.bit3 (f : FVEC) : Bool := f.low / 8 % 2 == 1
def FVEC.st (f : FVEC) : Option Fmt := Fmt.ofCode (f.low / 16 % 16)
def FVEC.q (f : FVEC) : BitVec 3 := BitVec.ofNat 3 (f.low / 256)

def FVEC.un (f : FVEC) : Option VUn := do
  return ⟨← f.fmt, f.d3, f.xa, f.p, f.z, ← f.rnd, f.bit3⟩
def FVEC.bin (f : FVEC) : Option VBin := do
  return ⟨← f.fmt, f.d3, f.xa, f.xb, f.p, f.z, ← f.rnd, f.bit3⟩
def FVEC.ter (f : FVEC) : Option VTer := do
  if f.bit3 then none else return ⟨← f.fmt, f.d3, f.xa, f.xb, f.xc, f.p, f.z, ← f.rnd⟩
def FVEC.lg (f : FVEC) : Option VLog := do
  return ⟨← f.fmt, f.d3, f.xa, f.xb, f.p, f.z⟩
def FVEC.zip (f : FVEC) : Option VZipF := do
  return ⟨← f.fmt, f.d3, f.xa, f.xb, f.p, f.z, f.low % 2 == 1⟩
/-- A reduction to every lane: zm is reserved (R220). -/
def FVEC.red (f : FVEC) : Option VUn := do
  return ⟨← f.fmt, f.d3, f.xa, f.p, false, ← f.rnd, f.bit3⟩
/-- A reduction that uses no mod bit (R220). -/
def FVEC.red0 (f : FVEC) : Option VUn := do
  return ⟨← f.fmt, f.d3, f.xa, f.p, false, .rne, false⟩
def FVEC.ldf (f : FVEC) (rx : Bool) : VLdF := ⟨f.d3, f.xs, f.p, f.z, rx⟩
def FVEC.stf (f : FVEC) (rx : Bool) : VStF := ⟨f.d3, f.xs, f.p, rx⟩
def FVEC.pk (f : FVEC) : Option VPackF := do
  return ⟨← f.fmt, ← f.st, f.q, f.d3, f.xa, ← f.rnd, f.bit3⟩

/-- VEC opcodes (R172, R207 to R226). -/
def decodeVEC (op : Nat) (rx : Bool) (f : FVEC) : Option Instr :=
  match op with
  | 0x100 => f.bin.map .vadd
  | 0x101 => f.bin.map .vsub
  | 0x102 => f.bin.map .vmul
  | 0x103 => f.ter.map .vfma
  | 0x104 => f.ter.map .vfms
  | 0x105 => f.bin.map .vdiv
  | 0x106 => f.un.map .vsqrt
  | 0x107 => f.bin.map .vmin
  | 0x108 => f.bin.map .vmax
  | 0x109 => f.un.map .vabs
  | 0x10A => f.un.map .vneg
  | 0x10B => f.un.map .vrcp
  | 0x10C => f.un.map .vrsq
  | 0x10D => f.un.map .vexp2
  | 0x10E => f.un.map .vlog2
  | 0x110 => f.lg.map .vand
  | 0x111 => f.lg.map .vor
  | 0x112 => f.lg.map .vxor
  | 0x113 => f.lg.map .vandn
  | 0x114 => f.lg.map .vshl
  | 0x115 => f.lg.map .vshr
  | 0x116 => f.lg.map .vsra
  | 0x117 => f.fmt.bind fun lt => f.p.map fun p => .vsel ⟨lt, f.d3, f.xa, f.xb, p⟩
  | 0x120 => (VCond.ofCode (f.low % 8)).bind fun cc =>
      if f.lt == 0 || f.lt == 12 then
        some (.vcmp ⟨f.lt == 12, BitVec.ofNat 2 f.vd, cc, f.bit3, f.xa, f.xb, f.p, f.z⟩)
      else none
  | 0x121 => some (.pand (BitVec.ofNat 2 f.vd) (BitVec.ofNat 2 f.va) (BitVec.ofNat 2 f.vb))
  | 0x122 => some (.por (BitVec.ofNat 2 f.vd) (BitVec.ofNat 2 f.va) (BitVec.ofNat 2 f.vb))
  | 0x123 => some (.pxor (BitVec.ofNat 2 f.vd) (BitVec.ofNat 2 f.va) (BitVec.ofNat 2 f.vb))
  | 0x124 => some (.pnot (BitVec.ofNat 2 f.vd) (BitVec.ofNat 2 f.va))
  | 0x125 => some (.pcnt (BitVec.ofNat 2 f.va) (BitVec.ofNat 6 f.s))
  | 0x126 => some (.pfirst (BitVec.ofNat 2 f.va) (BitVec.ofNat 6 f.s))
  | 0x130 => f.fmt.map fun lt => .vmov ⟨lt, f.d3, f.xa, f.p, f.z⟩
  | 0x131 => f.fmt.map fun lt => .vbcast ⟨lt, f.d3, f.xs, f.p, f.z⟩
  | 0x132 => f.fmt.map fun lt => .vext ⟨lt, BitVec.ofNat 8 f.low, f.xa, BitVec.ofNat 6 f.s⟩
  | 0x133 => f.fmt.map fun lt => .vins ⟨lt, BitVec.ofNat 8 f.low, f.d3, f.xs⟩
  | 0x134 => f.lg.map .vperm
  | 0x135 => f.fmt.map fun lt => .vrot ⟨lt, f.d3, f.xa, f.xs, f.p, f.z⟩
  | 0x136 => f.zip.map .vzip
  | 0x137 => f.zip.map .vunzip
  | 0x138 => some (.vld (f.ldf rx))
  | 0x139 => some (.vst (f.stf rx))
  | 0x13A => some (.vldg (f.ldf rx))
  | 0x13B => some (.vstg (f.stf rx))
  | 0x140 => f.red.map .vrsum
  | 0x141 => f.red0.map .vrmax
  | 0x142 => f.red0.map .vrmin
  | 0x143 => f.red0.map .vrand
  | 0x144 => f.red0.map .vror
  | 0x145 => f.un.map .vscan
  | 0x150 => f.fmt.bind fun lt => f.st.bind fun st => f.rnd.bind fun rnd =>
      if f.low / 256 % 8 == 0 then some (.vcvt ⟨lt, st, f.d3, f.xa, f.p, f.z, rnd, f.bit3⟩) else none
  | 0x151 => f.pk.map .vpack
  | 0x152 => f.pk.map .vunpk
  | 0x153 => f.pk.map fun k => .vtpack ⟨k.lt, k.st, k.q, k.vd, k.va, BitVec.ofNat 6 f.s, k.rnd, k.nan⟩
  | 0x154 => f.pk.map fun k => .vtunpk ⟨k.lt, k.st, k.q, k.vd, k.va, f.xs, k.rnd, k.nan⟩
  | 0x160 =>
      if f.lt == 0 || f.lt == 2 then
        some (.gsel ⟨f.lt == 2, BitVec.ofNat 8 f.low, BitVec.ofNat 8 (f.low / 256),
          BitVec.ofNat 8 (f.low / 65536 + 4 * f.es + 8 * f.s), f.d3, f.xa⟩)
      else none
  | 0x161 =>
      if f.lt == 0 then
        some (if f.low % 2 == 1 then .hsift true ⟨BitVec.ofNat 3 f.va, false⟩ f.xs else .hsift false f.xa f.xs)
      else none
  | _ => none

/-- MATX (R240). -/
def decodeMX (op : Nat) (f : FMX) : Option Instr :=
  match op with
  | 0x185 => (Sparse.ofCode f.sparse).bind fun sp => (Cohort.ofCode f.cohort).map fun co =>
      .matx ⟨BitVec.ofNat 2 f.ta, BitVec.ofNat 2 f.tb, BitVec.ofNat 2 f.acc, BitVec.ofNat 6 f.drain,
        srcOf f.cr f.ec, f.keep == 1, sp, BitVec.ofNat 2 f.tm, co⟩
  | _ => none

def FSYS.sa (f : FSYS) : Src := srcOf f.a f.ea
def FSYS.sb (f : FSYS) : Src := srcOf f.b f.eb
def FSYS.sc (f : FSYS) : Src := srcOf f.c f.ec
def FSYS.rd (f : FSYS) : Reg := BitVec.ofNat 6 f.d
def FSYS.m (f : FSYS) (i : Nat) : Bool := f.low / 2 ^ i % 2 == 1
def FSYS.t3 (f : FSYS) : BitVec 3 := BitVec.ofNat 3 f.low

/-- A field that holds 0 to 3 (R236, R250). -/
def two (x : Nat) : Option (BitVec 2) := if x < 4 then some (BitVec.ofNat 2 x) else none

/-- SYS opcodes below 0x1C0 (R172, R205, R231, R232, R236, R250, R251, R269). -/
def decodeSYS1 (op : Nat) (f : FSYS) : Option Instr :=
  match op with
  | 0x0E0 => some (.fence (f.m 0) (f.m 1) (f.m 2))
  | 0x0E1 => some (.qclaim f.rd)
  | 0x0E2 => some (.qfree f.rd)
  | 0x0E3 => some (.qcnt f.rd (BitVec.ofNat 6 f.a))
  | 0x0E4 => some (.qskip (BitVec.ofNat 6 f.a) f.sb)
  | 0x0E5 => some (.mclr f.rd)
  | 0x0E6 => some (.mpoll f.rd (BitVec.ofNat 6 f.a))
  | 0x180 => (two f.d).map fun t => .tld ⟨t, f.sa, f.sb, f.m 2⟩
  | 0x181 => (two f.d).map fun t => .tldt t f.sa f.sb
  | 0x182 => (two f.d).map fun t => .tst ⟨t, f.sa, f.sb, f.m 2⟩
  | 0x183 => (two f.d).map fun t => .tzero t
  | 0x184 => (two f.d).bind fun t => (two f.a).map fun u => .tcopy t u
  | 0x186 => some (.drainld f.rd f.sa)
  | 0x187 => (two f.d).map fun t => .accld ⟨t, f.sa, f.sb, BitVec.ofNat 7 f.low, BitVec.ofNat 8 (f.low / 128)⟩
  | 0x188 => (two f.d).map fun t => .accst ⟨t, f.sa, f.sb, BitVec.ofNat 7 f.low, BitVec.ofNat 8 (f.low / 128)⟩
  | 0x189 => (two f.d).map fun t => .accrel t
  | 0x1A0 => some (.agent f.rd f.sa f.sb)
  | 0x1A1 => some (.free f.sa)
  | 0x1A2 => some (.link f.sa f.sb)
  | 0x1A3 => some (.splice f.sa f.sb)
  | 0x1A4 => some (.join f.sa f.sb)
  | 0x1A5 => some (.pref f.sa)
  | 0x1A6 => some (.unref f.sa)
  | 0x1A7 => some (.pmut f.rd f.sa)
  | 0x1A8 => some (.palloc f.rd f.sa f.sb)
  | 0x1A9 => some (.take f.rd (f.m 0))
  | 0x1AA => some (.pushp f.sa f.sb)
  | 0x1AB => some (.enqr f.sa f.sb (f.m 0))
  | 0x1AC => some (.inbox f.sa f.sb)
  | 0x1AD => some (.cellrd f.rd f.sa)
  | _ => none

/-- SYS opcodes from 0x1C0 (R172, R275 to R287). -/
def decodeSYS2 (op : Nat) (f : FSYS) : Option Instr :=
  match op with
  | 0x1C0 => some (if f.m 0 then .start f.rd f.sa z0 z0 none
      else .start f.rd f.sa f.sb f.sc (some (BitVec.ofNat 8 (f.low / 2))))
  | 0x1C1 => some (.reap f.rd (BitVec.ofNat 6 f.b) (f.m 0) (f.m 1))
  | 0x1C2 => some (if f.m 0 then .park none else .park (some f.sa))
  | 0x1C3 => some (.wake f.sa)
  | 0x1C4 => some .yield
  | 0x1C5 => some (.migr f.sa)
  | 0x1C6 => some (.ctxrd f.rd f.sa f.sb)
  | 0x1C7 => some (.ctxwr f.sa f.sb f.sc)
  | 0x1D0 => some (.arrive f.t3)
  | 0x1D1 => some (.wait f.t3 f.sa)
  | 0x1D2 => some (.rcgen f.t3 f.rd)
  | 0x1D3 => some (.rcpoll f.t3 f.rd)
  | 0x1D4 => some (.smap f.rd f.sa f.sb)
  | 0x1D5 => some (if f.m 0 then .sunmapRc f.rd f.sa else .sunmap f.rd f.sa)
  | 0x1D6 => some (.give f.rd f.sa f.sb f.sc)
  | 0x1D7 => some (.sgen f.rd f.sa)
  | 0x1E0 => some (.cpy f.rd f.sa f.sb f.sc)
  | 0x1E1 => (RedOp.ofCode (f.low % 16)).bind fun o => (RedTy.ofCode (f.low / 16 % 16)).map fun t =>
      .cpyr f.rd f.sa f.sb f.sc o t
  | 0x1E2 => some (.stbind f.rd f.sa)
  | 0x1E3 => some (.stunbind f.rd)
  | 0x1E4 => some (.cwait f.rd f.sa f.sb f.sc)
  | 0x1E5 => some (.msend f.sa f.sb f.sc (f.m 1))
  | 0x1E6 => some (.mbulk f.sa f.sb f.sc (f.m 0) (f.m 1))
  | 0x1E7 => some (.mseat f.rd f.sa (f.m 0))
  | 0x1F0 => some (.csrr f.rd f.sa)
  | 0x1F1 => some (.csrw f.sa f.sb)
  | 0x1F2 => some (.trap f.sa)
  | 0x1F3 =>
      let b := if f.m 1 then f.sb else z0
      some (if f.m 2 then .tretRp f.rd f.sa b (f.m 1) else .tret f.rd f.sa b (f.m 0) (f.m 1))
  | 0x1F4 => some (.isol f.sa f.sb)
  | 0x1F5 => some (.unisol f.sa)
  | 0x1F6 => some (.cut f.sa f.sb f.sc)
  | 0x1F7 => (TinvScope.ofCode (f.low % 4)).map fun k =>
      if k == .all then .tinv k z0 z0 else .tinv k f.sa f.sb
  | 0x1F8 => some (.frec f.rd f.sa)
  | 0x1F9 => some (.post f.sa f.sb)
  | _ => none

/-- The formats of R172. -/
inductive Format where
  | rrr | ri | br | mem | vec | mx | sys1 | sys2
deriving DecidableEq, Repr

/-- The format of an opcode by its row of the map (R171, R172). -/
def formatOf (op : Nat) : Format :=
  match op / 16 with
  | 0x00 =>
    match op with
    | 0x002 | 0x003 | 0x004 | 0x005 | 0x006 => .br
    | 0x007 | 0x00B => .ri
    | _ => .rrr
  | 0x01 | 0x02 | 0x03 => .rrr
  | 0x04 => .ri
  | 0x08 | 0x09 | 0x0C | 0x0D => .mem
  | 0x10 | 0x11 | 0x12 | 0x13 | 0x14 | 0x15 | 0x16 => .vec
  | 0x18 => if op == 0x185 then .mx else .sys1
  | 0x0E | 0x1A => .sys1
  | _ => .sys2

/-- The instruction that the used fields of a word name; `none` is R170 step 2. -/
def decodeFields (op : Nat) (rx : Bool) (body : Nat) : Option Instr :=
  match formatOf op with
  | .rrr => decodeRRR op (FRRR.read body)
  | .ri => decodeRI op (FRI.read body)
  | .br => decodeBR op (FBR.read body)
  | .mem => decodeMEM op rx (FMEM.read body)
  | .vec => decodeVEC op rx (FVEC.read body)
  | .mx => decodeMX op (FMX.read body)
  | .sys1 => decodeSYS1 op (FSYS.read body)
  | .sys2 => decodeSYS2 op (FSYS.read body)

/-- Steps 1 to 3 of R170 on a word. -/
def decodeNat (w : Nat) : Except Reject Instr :=
  match unpackBits [48, 9, 1, 4, 2] w with
  | [body, op, rx, ctl, sv] =>
    if sv == 3 then .error .badSv
    else
      match decodeFields op (rx == 1) body with
      | none => .error .unassigned
      | some i =>
        if !i.wf then .error .unassigned
        else if encode sv ctl i == some (w % 2 ^ 64) then .ok i
        else .error .reserved
  | _ => .error .unassigned

/-- The decoder: the instruction of a word, or the first failing check of R170 steps 1 to 3. -/
def decode (w : Word) : Except Reject Instr := decodeNat w.toNat

/-- The schedule version of a word (R165). -/
def svOf (w : Word) : Nat := w.toNat / 2 ^ 62

/-- The issue-spacing hint of a word (R165). -/
def ctlOf (w : Word) : Nat := w.toNat / 2 ^ 58 % 16

/-! ## Drain words (R173, R252, R254) -/

/-- The fields of a drain word; `none` for what is no drain word. -/
def drainFields : Instr → Option FDR
  | .dmov dd da => some { dop := 0x01, dd := dd.toNat, da := da.toNat }
  | .dadd dd da db => some { dop := 0x02, dd := dd.toNat, da := da.toNat, db := db.toNat }
  | .dsub dd da db => some { dop := 0x03, dd := dd.toNat, da := da.toNat, db := db.toNat }
  | .dmul dd da db => some { dop := 0x04, dd := dd.toNat, da := da.toNat, db := db.toNat }
  | .dfma dd da db dc => some { dop := 0x05, dd := dd.toNat, da := da.toNat, db := db.toNat, dc := dc.toNat }
  | .dmin dd da db => some { dop := 0x06, dd := dd.toNat, da := da.toNat, db := db.toNat }
  | .dmax dd da db => some { dop := 0x07, dd := dd.toNat, da := da.toNat, db := db.toNat }
  | .dabs dd da => some { dop := 0x08, dd := dd.toNat, da := da.toNat }
  | .dneg dd da => some { dop := 0x09, dd := dd.toNat, da := da.toNat }
  | .dclmp dd da db dc => some { dop := 0x0A, dd := dd.toNat, da := da.toNat, db := db.toNat, dc := dc.toNat }
  | .dsel cc dd da db dc =>
    some { dop := 0x0B, dd := dd.toNat, da := da.toNat, db := db.toNat, dc := dc.toNat, mod := cc.code }
  | .dexp2 dd da => some { dop := 0x0C, dd := dd.toNat, da := da.toNat }
  | .drcp dd da => some { dop := 0x0D, dd := dd.toNat, da := da.toNat }
  | .drsq dd da => some { dop := 0x0E, dd := dd.toNat, da := da.toNat }
  | .dldr dd => some { dop := 0x0F, dd := dd.toNat }
  | .dldc dd => some { dop := 0x10, dd := dd.toNat }
  | .dcvt dd da => some { dop := 0x11, dd := dd.toNat, da := da.toNat }
  | .dblk dd da => some { dop := 0x12, dd := dd.toNat, da := da.toNat }
  | .dst da => some { dop := 0x13, da := da.toNat }
  | .dmbx sum da => some { dop := 0x14, da := da.toNat, mod := b2n sum }
  | .dend => some { dop := 0x15 }
  | _ => none

/-- The word of a drain operation (R173). -/
def encodeDrain (i : Instr) : Option Nat := (drainFields i).map fun f => packBits f.fields

/-- The operation that the used fields of a drain word name; `none` for a reserved dop or an unassigned value. -/
def decodeDrainFields (f : FDR) : Option Instr :=
  let dd := BitVec.ofNat 3 f.dd
  let da := BitVec.ofNat 3 f.da
  let db := BitVec.ofNat 3 f.db
  let dc := BitVec.ofNat 3 f.dc
  match f.dop with
  | 0x01 => some (.dmov dd da)
  | 0x02 => some (.dadd dd da db)
  | 0x03 => some (.dsub dd da db)
  | 0x04 => some (.dmul dd da db)
  | 0x05 => some (.dfma dd da db dc)
  | 0x06 => some (.dmin dd da db)
  | 0x07 => some (.dmax dd da db)
  | 0x08 => some (.dabs dd da)
  | 0x09 => some (.dneg dd da)
  | 0x0A => some (.dclmp dd da db dc)
  | 0x0B => (DCond.ofCode (f.mod % 8)).map fun cc => .dsel cc dd da db dc
  | 0x0C => some (.dexp2 dd da)
  | 0x0D => some (.drcp dd da)
  | 0x0E => some (.drsq dd da)
  | 0x0F => some (.dldr dd)
  | 0x10 => some (.dldc dd)
  | 0x11 => some (.dcvt dd da)
  | 0x12 => some (.dblk dd da)
  | 0x13 => some (.dst da)
  | 0x14 => some (.dmbx (f.mod % 2 == 1) da)
  | 0x15 => some .dend
  | _ => none

/-- A drain word's operation, `none` where R252 makes the word invalid. -/
def decodeDrain (w : Nat) : Option Instr :=
  match decodeDrainFields (FDR.read (w % 2 ^ 32)) with
  | some i => if encodeDrain i == some (w % 2 ^ 32) then some i else none
  | none => none

/-- The instruction the decoder reads from a word of `nbits` bits: a drain word of 32 bits, or an instruction word of
64 (R165, R173). -/
def decodeTableWord (nbits w : Nat) : Option Instr :=
  if nbits ≤ 32 then decodeDrain (w % 2 ^ nbits)
  else
    match decodeNat (w % 2 ^ nbits) with
    | .ok i => some i
    | .error _ => none

end Sys2Proof
end

