-- ==== Sys2Proof/Machine/Types.lean ====
section
/-! DEFINITION. What the steps of the device act on: accesses, requests on wires, commands, messages, notices, and the
operands of a step (`StepArg`). All of it is plain data of the state. -/

namespace Sys2Proof.Machine

/-- A context of a core (R16). -/
structure CtxId where
  core : Nat
  ctx : Nat
deriving DecidableEq, Repr, Inhabited

/-- The atomics of R203. -/
inductive AtomOp where
  | add | and | or | xor | min | max | swp | cas | incb
deriving DecidableEq, Repr, Inhabited


/-- Where a reply is written. -/
inductive Dest where
  | none
  | reg (r : Reg)
  | reg2 (r b : Reg)
  | vec (v : BitVec 3) (mask : BitVec 32) (keep : Bool)
deriving DecidableEq, Repr, Inhabited

/-- What the delivery of a message does with its bytes (R97, R151, R273, R283): a record for an inbox, bytes for an
address, a core's access to another node, the reply to one, a step of the wire protocol on another node's cell, or a packet
between two dies of the device (DESIGN CHOICE, assumption log 21). -/
inductive MsgBody where
  | record (inbox : Nat)
  | write (addr : Word)
  | request (tag : Nat)
  | reply (tag : Nat) (cause : Nat)
  | wire (what : Nat)
  | packet (id : Nat)
deriving DecidableEq, Repr, Inhabited

/-- A granule piece of a drain store (R256): the MATX, its segment number, and the bytes for an address or, with
`tile`, for bytes of a tile register. -/
structure StorePiece where
  octet : Nat := 0
  matx : Nat := 0
  seg : Nat := 0
  tile : Bool := false
  addr : Word := 0
  bytes : List Byte := []
deriving DecidableEq, Repr, Inhabited

/-- What counts at a completion word (R103). -/
inductive Counted where
  | engine (octet id : Nat)
  | matx (octet id : Nat)
  | stream (core q : Nat)
  | cut (id : Nat)
  | isol (id : Nat)
  | other
deriving DecidableEq, Repr, Inhabited

/-- What an access does at its bank (R94, R104); `count` is the increment of a completion word on another node (R97, R103). -/
inductive AccKind where
  | load (n : Nat) (sx : Bool)
  | store (n : Nat) (data : Word)
  | atomic (op : AtomOp) (n : Nat) (v cmp : Word)
  | ldx
  | stx (data : Word)
  | ldf
  | vload
  | vstore (mask : BitVec 32) (data : VWord)
  | hsift (fin : Bool) (entry : Word)
  | cwait (threshold limit : Nat)
  | bind (q : Nat)
  | ring (core q : Nat) (out : Bool) (data : Word)
  | agent (h pl : Word) (net : Nat)
  | free (net : Nat)
  | link (b : Word)
  | splice (n : Word)
  | join (a b : Word) (net : Nat)
  | pref
  | unref (net : Nat)
  | pmut (net : Nat)
  | palloc (d0 d1 : Word) (net : Nat)
  | cellrd
  | send (len : Nat) (fol : Bool) (cls : Nat) (body : MsgBody) (dnode ddie : Nat)
  | tile (octet : Nat) (store : Bool) (n : Nat) (data : List Byte)
  | drain (p : StorePiece)
  | count (err : Bool) (what : Counted)
deriving DecidableEq, Repr, Inhabited

/-- An access from its issue on (R104): its order number, the run and context that issued it, its kind, address and
destination, whether it is relaxed, the pc and word that a fault record names (R322), the rights it carries, its
unloaded time (R91), where it lands, the failed re-tries and limit of a parked operation (R364), and whether its
destination was full at its issue; `miss` is the address that did not translate, where it is not `addr`. -/
structure Access where
  id : Nat := 0
  run : Nat := 0
  who : CtxId := ⟨0, 0⟩
  kind : AccKind := .cellrd
  addr : Word := 0
  rx : Bool := false
  dest : Dest := .none
  pc : Word := 0
  word : Word := 0
  issued : Nat := 0
  lat : Nat := 0
  staff : Bool := false
  key : Nat := 0
  tries : Nat := 0
  limit : Nat := 0
  was : Bool := true
  miss : Option Word := none
  ea : Option Word := none
deriving DecidableEq, Repr, Inhabited

/-- A late result (R72, R180). -/
structure Late where
  who : CtxId := ⟨0, 0⟩
  run : Nat := 0
  dest : Dest := .none
  val : VWord := 0
deriving DecidableEq, Repr, Inhabited

/-- A request on a wire (R40, R41): the old cell, the fresh cell, the peer and tag read at the first step, the access of
the instruction that it belongs to, and whether that is a JOIN; `tries` counts the waits on a FREE cell (R42). A step on another
node names the context that asked for it at its own node, and whether the cell that it sets completes the wire. -/
structure WireReq where
  old : Word := 0
  new : Word := 0
  peer : Word := 0
  tag : Nat := 0
  acc : Access := {}
  join : Bool := false
  tries : Nat := 0
  asker : CtxId := ⟨0, 0⟩
  ends : Bool := false
deriving DecidableEq, Repr, Inhabited

/-- A completion-word increment (R103, R328, R343); `notice` is the ENGINE_ERR that goes with it in one bank step (R363). -/
structure Count where
  addr : Word := 0
  err : Bool := false
  notice : Option (Nat × Word) := none
  what : Counted := .other
  who : CtxId := ⟨0, 0⟩
  run : Nat := 0
deriving DecidableEq, Repr, Inhabited

/-- A notice (R333). -/
structure Notice where
  kind : Nat := 0
  cause : Nat := 0
  die : Nat := 0
  core : Nat := 0
  ctx : Nat := 0
  value : Word := 0
  pc : Word := 0
  addr : Word := 0
  word : Word := 0
deriving DecidableEq, Repr, Inhabited

/-- A queued pair (R55): its priority and its two records; `since` is the cycle its present level of priority dates
from (R58). -/
structure QItem where
  id : Nat := 0
  prio : Nat := 0
  a : Word := 0
  b : Word := 0
  since : Nat := 0
  ent : Nat := 0
deriving DecidableEq, Repr, Inhabited

/-- A block that moves between the levels of the pair queues (R56). -/
inductive QMove where
  | dequeToOctet (core : Nat)
  | octetToDeque (core : Nat)
  | octetToDie (octet : Nat)
  | dieToOctet (octet : Nat)
deriving DecidableEq, Repr, Inhabited

/-- An entry that ages (R58). -/
inductive Aged where
  | die (die id : Nat)
  | cloak (octet id : Nat)
deriving DecidableEq, Repr, Inhabited

/-- Who sent a launch header (R398). -/
inductive Sender where
  | ctx (c : CtxId)
  | host
  | node (n : Nat)
deriving DecidableEq, Repr, Inhabited

/-- A coded message without its data bytes (R142, R143), with the access that sends it or that it asks for, or
the request of a wire. -/
structure Env where
  snode : Nat := 0
  sdie : Nat := 0
  dnode : Nat := 0
  ddie : Nat := 0
  cls : Nat := 0
  fol : Bool := false
  seq : Nat := 0
  seat : Nat := 0
  k : Nat := 1
  m : Nat := 1
  len : Nat := 1
  host : Bool := false
  body : MsgBody := .record 0
  sender : Sender := .host
  acc : Access := {}
  wire : WireReq := {}
deriving DecidableEq, Repr, Inhabited

/-- A fragment on its way (R143): its header dwords and its 128 bytes; `env` is what the header and the message's
first bytes say (DESIGN CHOICE, assumption log 21), and `linkOk` is the link check. `port` is the Emram port of a fragment
that goes to or comes from another node (R21, R145), and `there` the cycle in which one that has left is due at the other end
of its plane, unloaded. -/
structure Frag where
  env : Env := {}
  stripe : Nat := 0
  frag : Nat := 0
  d0 : Word := 0
  d1 : Word := 0
  linkOk : Bool := true
  data : List Byte := []
  port : Option Nat := none
  there : Nat := 0
deriving DecidableEq, Repr, Inhabited

/-- A request for a block of seats at a destination interface (R146), and the MSEAT that waits for it (R284). -/
structure SeatReq where
  die : Nat := 0
  dnode : Nat := 0
  ddie : Nat := 0
  waiter : Option Late := none
deriving DecidableEq, Repr, Inhabited

/-- A host access through BAR 0 reads or BAR 2 (R152). -/
inductive HostOp where
  | read (phys len : Nat)
  | write (phys : Nat) (data : List Byte)
deriving DecidableEq, Repr, Inhabited

/-- Firmware images (R156, R160, R161). -/
inductive FwKind where
  | prefect | stack | runtime
deriving DecidableEq, Repr, Inhabited

/-- A firmware image: its signed version, whether its signature passes, the bytes that are measured, and what the staff runtime image
puts into device memory and the boot records (R156, R157; DESIGN CHOICE, assumption log 73). -/
structure FwImage where
  version : Nat := 0
  signed : Bool := true
  bytes : List Byte := []
  cells : List (Nat × Byte) := []
  staffPc : Word := 0
  homePc : Word := 0
  ptb0 : Word := 0
deriving DecidableEq, Repr, Inhabited

/-- One write of the firmware update path; without the last write the staged slot stays empty (R402). -/
structure FwWrite where
  kind : FwKind := .prefect
  image : FwImage := {}
  last : Bool := true
deriving DecidableEq, Repr, Inhabited

/-- SPDM request codes (R160, R401). -/
inductive SpdmCode where
  | getVersion | getCapabilities | negotiate | getDigests | getCertificate | challenge
  | getMeasurements (index : Nat)
  | keyExchange | pskExchange
deriving DecidableEq, Repr, Inhabited

/-- An SPDM request; `v13` says that it asks for version 1.3, `mctp` that it came on MCTP. -/
structure SpdmReq where
  code : SpdmCode := .getVersion
  v13 : Bool := true
  mctp : Bool := false
deriving DecidableEq, Repr, Inhabited

/-- A sample of the sensors (R162): the input power in watts, and for each die whether it passes its temperature
limit and whether its reading is 5% below. -/
structure Sample where
  power : Nat := 0
  hot : List Bool := []
  cool : List Bool := []
deriving DecidableEq, Repr, Inhabited

/-- The operands of a step of the device: a step reads the fields that its meaning names. `flit` is the core whose class N flit
brings the step (R139). -/
structure StepArg where
  c : CtxId := ⟨0, 0⟩
  run : Nat := 0
  core : Nat := 0
  octet : Nat := 0
  die : Nat := 0
  id : Nat := 0
  n : Nat := 0
  ok : Bool := true
  slot : Bool := false
  walked : Bool := false
  flit : Option Nat := none
  cause : Nat := 0
  v : Word := 0
  w : Word := 0
  vec : VWord := 0
  acc : Access := {}
  wire : WireReq := {}
  late : Late := {}
  late2 : Late := {}
  count : Count := {}
  piece : StorePiece := {}
  notice : Notice := {}
  item : QItem := {}
  items : List QItem := []
  move : QMove := .octetToDeque 0
  aged : Aged := .die 0 0
  words : List Word := []
  sender : Sender := .host
  frag : Frag := {}
  env : Env := {}
  seat : SeatReq := {}
  host : HostOp := .read 0 0
  fw : FwWrite := {}
  spdm : SpdmReq := {}
  sample : Sample := {}
  scope : TinvScope := .all
deriving DecidableEq, Repr, Inhabited

end Sys2Proof.Machine
end

