-- ==== Sys2Proof/Machine/State.lean ====
section
/-! DEFINITION. The state of the device as plain data, all that the spec gives the machine (INVENTORY.md lists it with
its rules), and the state after reset. -/

namespace Sys2Proof.Machine

/-! ## A context (R45, R62, R70, R81) -/

/-- Where a context stands (R45, R49, R78). -/
inductive Life where
  | gated | active | parked | trapped | finished
deriving DecidableEq, Repr, Inhabited

/-- What a context waits on. `blocked k` is an instruction that found an issue condition open and issues again from
the start, with the wait kind `k` that a save records (R61, R62); `released` is a roll-call WAIT that was released while its
context is dropped (R403). -/
inductive Wait where
  | none
  | blocked (k : Nat)
  | reply (id : Nat)
  | fetchDrop
  | cwait (id : Nat)
  | roll (tag : Nat) (deadline : Nat)
  | released
  | pause (till : Nat)
  | hold (id : Nat)
deriving DecidableEq, Repr, Inhabited

/-- The register that an instruction which did not issue waits for (R73): a scalar register that must hold `n` elements or be
full, one with a late result pending, a vector register that must be full or whose late result is pending, or a stream register
whose buffer must have room (R75). -/
inductive Block where
  | full (r n : Nat)
  | pend (r : Nat)
  | vfull (v : Nat)
  | vpend (v : Nat)
  | room (r : Nat)
deriving DecidableEq, Repr, Inhabited

/-- The outstanding plain access of a context (R105). -/
inductive Plain where
  | none | load | store
deriving DecidableEq, Repr, Inhabited

/-- A fault record (R325) without its context number. -/
structure Frec where
  cause : Nat := 0
  pc : Word := 0
  addr : Word := 0
  word : Word := 0
  ctx : Nat := 0
deriving DecidableEq, Repr, Inhabited

/-- The launch that started a context: its number, cohort code, and rectangle (R53, R141, R248). -/
structure LaunchTag where
  id : Nat := 0
  coh : Bool := false
  rst : Bool := false
  cohort : Nat := 0
  col : Nat := 0
  row : Nat := 0
  ncols : Nat := 0
  nrows : Nat := 0
deriving DecidableEq, Repr, Inhabited

/-- What a context of a buddy pair holds (R399, R400): whether it is the even core's; its partner, and the partner's run; since
the last agreement, its instructions, its register write-backs in program order (`none` for a late result to come), its
stores, its loads, the even core's accesses under their load numbers and the odd core's that wait for them, and the replies
that the odd core has not asked for yet; its disagreements since the last agreement; whether it waits for its partner to
compare, and whether the next instruction has been compared. -/
structure Buddy where
  even : Bool := true
  partner : CtxId := ⟨0, 0⟩
  prun : Nat := 0
  count : Nat := 0
  writes : List (Nat × Option VWord) := []
  buf : List Access := []
  loads : Nat := 0
  sent : List (Nat × Nat) := []
  opened : List (Nat × Access) := []
  replies : List (Nat × Nat × VWord) := []
  bad : Nat := 0
  waits : Bool := false
  passed : Bool := false
deriving DecidableEq, Repr, Inhabited

/-- A context: its bank, its place, and what is outstanding into it. -/
structure Ctx where
  run : Nat := 0
  life : Life := .gated
  s : Vector Word 32 := Vector.replicate 32 0
  sFull : BitVec 32 := 0xFFFFFFFF
  sPend : BitVec 32 := 0
  v : Vector VWord 8 := Vector.replicate 8 0
  vFull : BitVec 8 := 0xFF
  vPend : BitVec 8 := 0
  p : Vector (BitVec 32) 4 := Vector.replicate 4 0
  pc : Word := 0
  prio : Nat := 0
  rm : BitVec 3 := 0
  ctxz : Bool := false
  flags : BitVec 5 := 0
  net : BitVec 16 := 0
  wid : Word := 0
  waitLimit : BitVec 32 := 0x00100000
  wait : Wait := .none
  blockedOn : Option Block := none
  readyAt : Nat := 0
  skips : Nat := 0
  plain : Plain := .none
  relaxed : Nat := 0
  relStores : Nat := 0
  engOut : Nat := 0
  matxOut : Nat := 0
  lateOut : Nat := 0
  relFault : Option (Nat × Frec) := none
  poisoned : List Access := []
  mixed : Bool := false
  drops : List Word := []
  dropAt : Nat := 0
  left : Nat := 0
  limitAt : Nat := 0
  tries : Nat := 0
  qskip : Option Nat := none
  seated : Bool := false
  frec : Frec := {}
  exitVal : Word := 0
  insCount : Nat := 0
  reported : Bool := false
  starting : Bool := false
  arr : Vector (Option Bool) 8 := Vector.replicate 8 none
  agentRec : Word := 0
  mate : Word := 0
  wired : Bool := false
  ebDone : Bool := false
  builtin : Option (Nat × Word × Word) := none
  stopAt : Nat := 0
  launch : Option LaunchTag := none
  notice : Option (Nat × Nat) := none
  buddy : Option Buddy := none
deriving DecidableEq, Repr, Inhabited

/-! ## Queues, cloakroom and scheduling (R55 to R63, R274 to R276) -/

/-- A saved context (R60): the core it returns to, the context it was, its priority and the cycle that level dates
from, its wait kind (7 marks a context on its way under R63), its readiness, and whether a take register holds it. -/
structure Saved where
  id : Nat := 0
  core : Nat := 0
  c : Ctx := {}
  prio : Nat := 0
  since : Nat := 0
  kind : Nat := 0
  ready : Bool := true
  tag : Nat := 0
  taken : Bool := false
deriving DecidableEq, Repr, Inhabited

/-- What a take register holds (R274). -/
inductive TItem where
  | pair (q : QItem)
  | saved (id : Nat)
  | notice (die slot : Nat)
deriving DecidableEq, Repr, Inhabited

/-- What follows a save (R53, R275, R277). -/
inductive After where
  | nothing
  | startItem (item : TItem) (reply : Late)
  | startPc (pc s1 : Word) (prio : Nat) (reply : Late)
  | sweep (bank : Ctx)
deriving DecidableEq, Repr, Inhabited

/-- A save in progress (R59 to R61, R408): its context and run, what follows it, the cycle in which its 21 cycles of port
end (0 until R61's conditions hold), and whether a withdraw is out. -/
structure Save where
  core : Nat := 0
  ctx : Nat := 0
  run : Nat := 0
  after : After := .nothing
  ends : Nat := 0
  withdrawn : Bool := false
deriving DecidableEq, Repr, Inhabited

/-- A TAKE whose search goes on (R274): its homeroom's run and destination, whether it repeats, its number, and the
steal's progress (R57): a request that is out, probes left in the die, and dies asked; `stopped` notes that a context of
the core stopped meanwhile. -/
structure Taking where
  reply : Late := {}
  w : Bool := false
  id : Nat := 0
  busy : Bool := false
  probes : Nat := 0
  asked : Nat := 0
  stopped : Bool := false
deriving DecidableEq, Repr, Inhabited

/-- A REAP that waits (R276), for a context to stop or for the late results into `victim`. -/
structure Reaping where
  reply : Late := {}
  second : Late := {}
  id : Nat := 0
  look : Bool := false
  victim : Option Nat := none
deriving DecidableEq, Repr, Inhabited

/-! ## A core -/

/-- A slate-map entry (R89). -/
structure Win where
  valid : Bool := false
  slate : Nat := 0
  gen : BitVec 8 := 0
  own : BitVec 2 := 0
  rem : BitVec 2 := 0
deriving DecidableEq, Repr, Inhabited

/-- A stream register (R75, R227 to R231): its claim, its binding, its buffer, the elements done by the program, moved by
its engine, on their way, and skipped by a missing page, and how it ends; `start` is the first cycle in which its engine may move
an element, `slot` that the bank of that element is booked (R94), and `walked` the page whose walk is over (R91). -/
structure Stream where
  owner : Option Nat := none
  bound : Bool := false
  kind : Nat := 0
  outb : Bool := false
  esz : Nat := 0
  sx : Bool := false
  tsp : Bool := false
  tt : Nat := 0
  ch : Nat := 0
  base : Word := 0
  ns : Vector Nat 4 := Vector.replicate 4 0
  sts : Vector Word 4 := Vector.replicate 4 0
  cw : Word := 0
  first : Nat := 0
  slots : Nat := 0
  who : CtxId := ⟨0, 0⟩
  run : Nat := 0
  staff : Bool := false
  bindId : Nat := 0
  buf : List Word := []
  done : Nat := 0
  moved : Nat := 0
  inflight : Nat := 0
  lastAt : Nat := 0
  skipped : List (Nat × Word) := []
  stopAt : Option Nat := none
  closing : Bool := false
  ending : Bool := false
  counted : Bool := false
  err : Option (Nat × Word) := none
  stalled : Option Word := none
  start : Nat := 0
  slot : Bool := false
  walked : Option Word := none
  watched : List Nat := []
deriving DecidableEq, Repr, Inhabited

/-- The stitching of a core's neighbour channels (R141). -/
structure Stitch where
  shape : Nat := 3
  col : Nat := 0
  row : Nat := 0
  ncols : Nat := 0
  nrows : Nat := 0
  launch : Nat := 0
deriving DecidableEq, Repr, Inhabited

/-- A result in the vector divide unit or waiting for it (R353). -/
structure DivOp where
  late : Late := {}
  cycles : Nat := 0
deriving DecidableEq, Repr, Inhabited

/-- A forwarding entry (R63, R377). -/
structure Forward where
  run : Nat := 0
  dest : CtxId := ⟨0, 0⟩
  till : Nat := 0
deriving DecidableEq, Repr, Inhabited

/-- A log entry of a cut (R68). -/
structure CutLog where
  ch : Nat := 0
  what : Nat := 0
  addr : Word := 0
  data : List Word := []
deriving DecidableEq, Repr, Inhabited

/-- A core's part in a cut (R67): the cut; whether its core started it; the input channels whose markers are to come; the
order number that the operations queued ahead of its markers come before; the core's state once it is recorded, with its
numbers of pairs and saves; and its log. -/
structure CutPart where
  id : Nat := 0
  first : Bool := false
  toCome : List Nat := []
  stamp : Nat := 0
  taken : Option (Nat × Nat × List Byte) := none
  log : List CutLog := []
deriving DecidableEq, Repr, Inhabited

/-- A core's shared registers and queues. -/
structure Core where
  c : Vector Word 16 := Vector.replicate 16 0
  cFull : BitVec 16 := 0xFFFF
  cPend : BitVec 16 := 0
  m : Vector Word 8 := Vector.replicate 8 0
  mFull : BitVec 8 := 0
  mPend : BitVec 8 := 0
  m7q : List Word := []
  q : Vector Stream 8 := Vector.replicate 8 {}
  nbr : Vector (List Word) 4 := Vector.replicate 4 []
  nbrOut : Vector Nat 4 := Vector.replicate 4 0
  shape : Vector Word 4 := Vector.replicate 4 0
  scale : Vector Word 4 := Vector.replicate 4 0
  dctl : Word := 0
  dout : Word := 0
  drowp : Word := 0
  dcolp : Word := 0
  rng : BitVec 32 := 1
  weight : BitVec 4 := 1
  dead : Vector Word 4 := Vector.replicate 4 0
  win : Vector Win 8 := Vector.replicate 8 {}
  deque : List QItem := []
  takeReg : Option TItem := none
  rot : Nat := 0
  victim : Nat := 0
  frec : Frec := {}
  taking : Option Taking := none
  reaping : Option Reaping := none
  div : List DivOp := []
  fwd : List Forward := []
  stitch : Stitch := {}
  cuts : List CutPart := []
  kept : Vector (Option (Nat × Nat)) 4 := Vector.replicate 4 none
deriving DecidableEq, Repr, Inhabited

/-! ## The matrix unit of an octet (13) -/

/-- A tile's shape and scale as a command sampled them (R83, R84). -/
structure TShape where
  shape : Word := 0
  scale : Word := 0
deriving DecidableEq, Repr, Inhabited

/-- A MATX from its issue on (R241 to R249, R257, R378 to R381): its fields and samples; the program bound at take and
whether its slot was kept then; its operands, its shape and its progress; and its drain: the next segment, the values at the
start of each segment entered, the pages being walked and the pieces that wait for them, the operands read, and the cycle
in which the last segment ends its program. -/
structure Matx where
  f : MatxF := ⟨0, 0, 0, 0, ⟨0, false⟩, false, .dense, 0, .c1⟩
  sa : TShape := {}
  sb : TShape := {}
  sm : TShape := {}
  ctl : Word := 0
  out : Word := 0
  rowp : Word := 0
  colp : Word := 0
  rng : BitVec 32 := 0
  cw : Word := 0
  mbxGone : Bool := false
  launch : Option LaunchTag := none
  prog : List Nat := []
  wasKept : Bool := false
  started : Bool := false
  failed : Bool := false
  ia : TShape := {}
  ib : TShape := {}
  im : TShape := {}
  sparse : Sparse := .dense
  opA : List Byte := []
  opB : List Byte := []
  opM : List Byte := []
  m : Nat := 0
  n : Nat := 0
  blocks : Nat := 0
  replays : Nat := 0
  sumsDone : Bool := false
  spoils : Bool := false
  seg : Nat := 0
  snaps : List (Nat × Option (Aw40 × Nat) × BitVec 32) := []
  stopped : Option Word := none
  walks : List Word := []
  waitP : List StorePiece := []
  z : Option (Aw40 × Nat) := none
  rowv : List (Nat × Aw40) := []
  colv : List (Nat × Aw40) := []
  endAt : Nat := 0
  ended : Bool := false
  err : Option (Nat × Word) := none
  watched : List Nat := []
deriving DecidableEq, Repr, Inhabited

/-- The MXU commands (R234). -/
inductive Cmd where
  | tld (t : Nat) (sc : Bool) (addr pitch : Word) (sh : TShape)
  | tldt (t : Nat) (addr pitch : Word) (sh : TShape)
  | tst (t : Nat) (sc : Bool) (addr pitch : Word) (sh : TShape)
  | tzero (t : Nat)
  | tcopy (td ts : Nat)
  | matx (x : Matx)
  | drainld (n : Nat) (addr : Word)
  | accld (acc : Nat) (addr pitch : Word) (m n : Nat)
  | accst (acc : Nat) (addr pitch : Word) (m n : Nat)
  | accrel (acc : Nat)
deriving DecidableEq, Repr, Inhabited

/-- A command in a core's queue or taken from it: who issued it, and how far it has come. -/
structure MxuCmd where
  id : Nat := 0
  who : CtxId := ⟨0, 0⟩
  run : Nat := 0
  staff : Bool := false
  seat : Nat := 0
  pc : Word := 0
  word : Word := 0
  taken : Bool := false
  pos : Nat := 0
  bytes : List Byte := []
  cmd : Cmd := .tzero 0
deriving DecidableEq, Repr, Inhabited

/-- The states of an accumulator slot (R245). -/
inductive SlotSt where
  | free
  | running (id : Nat)
  | kept (core : Nat)
deriving DecidableEq, Repr, Inhabited

/-- An accumulator slot (R245, R250, R380, R384): values in row-major order. -/
structure Slot where
  st : SlotSt := .free
  m : Nat := 0
  n : Nat := 0
  vals : List Aw40 := []
  spoiled : Bool := false
  rst : Word := 0
deriving DecidableEq, Repr, Inhabited

/-- A drain program (R251). -/
structure Prog where
  valid : Bool := false
  words : List Nat := []
deriving DecidableEq, Repr, Inhabited

/-- The segment in the drain pipe (R253): its MATX, its segment number, the place in the program, d0 to d7 of each
element, the block kept by DBLK, and the values of DST; `live` until its stores are on their way. -/
structure Pipe where
  live : Bool := false
  id : Nat := 0
  seg : Nat := 0
  pos : Nat := 0
  d : Vector (List Aw40) 8 := Vector.replicate 8 []
  blk : Option (Nat × List Nat) := none
  dst : Option (List Aw40) := none
deriving DecidableEq, Repr, Inhabited

/-- The matrix unit of an octet: its slots, programs and commands in issue order, and the commands that a poisoned piece has
ended, which `tret.rp` issues again (R369); the arbiter's pointer, the seat that holds
the array with the blocks left to it, and the MATX and end of the last block; the pipe, and the drains that it serves. -/
structure Mxu where
  slots : Vector Slot 4 := Vector.replicate 4 {}
  progs : Vector Prog 64 := Vector.replicate 64 {}
  cmds : List MxuCmd := []
  lost : List MxuCmd := []
  ptr : Nat := 0
  grant : Option (Nat × Nat) := none
  lastBlock : Option (Nat × Nat) := none
  pipe : Pipe := {}
  drains : List Nat := []
deriving DecidableEq, Repr, Inhabited

/-! ## An octet -/

/-- A rule-cache line (R34). -/
structure RuleLine where
  net : Nat := 0
  x : Nat := 0
  y : Nat := 0
  padj : BitVec 8 := 0
  entry : Word := 0
deriving DecidableEq, Repr, Inhabited

/-- A range lock (R101): its operation, whether it is a write lock, and the range: bytes of a slate of the octet, or
global addresses. -/
structure Lock where
  op : Nat := 0
  write : Bool := false
  slate : Option Nat := none
  lo : Nat := 0
  hi : Nat := 0
deriving DecidableEq, Repr, Inhabited

/-- What an engine operation does (R102, R271, R280). -/
inductive EngKind where
  | cpy
  | cpyr (op : RedOp) (ty : RedTy)
  | pmut (new : Word) (reply : Access)
deriving DecidableEq, Repr, Inhabited

/-- An operation of the copy engine (R101, R102, R328): `start` is the first cycle in which it may move its next piece,
`ackAt` the cycle by which the stores made so far are acknowledged, `slot` that the banks of the next piece are booked (R94),
and `walked` the page whose walk is over (R91). -/
structure EngOp where
  id : Nat := 0
  who : CtxId := ⟨0, 0⟩
  run : Nat := 0
  staff : Bool := false
  kind : EngKind := .cpy
  src : Word := 0
  dst : Word := 0
  len : Nat := 0
  cw : Word := 0
  start : Nat := 0
  overlap : Bool := false
  pos : Nat := 0
  ackAt : Nat := 0
  slot : Bool := false
  walked : Option Word := none
  err : Option (Nat × Word) := none
  stalled : Option Word := none
  aborted : Bool := false
  counting : Bool := false
  watched : List Nat := []
deriving DecidableEq, Repr, Inhabited

/-- A fix-up entry (R355): its operation, the missing page, its side, and the skipped pieces. -/
structure Fixup where
  op : Nat := 0
  page : Word := 0
  pieces : List Nat := []
  ready : Bool := false
deriving DecidableEq, Repr, Inhabited

/-- A GIVE, SUNMAP or reclaim in progress (R92, R279, R362): the giver and its window, the target, the slate, and the
destination that its status is written to. -/
structure GiveOp where
  id : Nat := 0
  core : Nat := 0
  win : Nat := 0
  target : Option (Nat × Nat) := none
  slate : Nat := 0
  reclaim : Bool := false
  reply : Late := {}
deriving DecidableEq, Repr, Inhabited

/-- A failing slate (R371): the cycle it failed, the next word of its rewrite, and whether it stays degraded. -/
structure Failing where
  slate : Nat := 0
  since : Nat := 0
  pos : Nat := 0
  stays : Bool := false
deriving DecidableEq, Repr, Inhabited

/-- An octet. -/
structure Octet where
  gens : Vector (BitVec 8) 32 := Vector.replicate 32 0
  failing : List Failing := []
  rebuilt : List (Nat × Nat) := []
  rules : List RuleLine := []
  queue : List QItem := []
  cloak : List Saved := []
  saves : List Save := []
  portAt : Nat := 0
  locks : List Lock := []
  ops : List EngOp := []
  fixups : List Fixup := []
  gives : List GiveOp := []
  waiting : List Access := []
  replayLimit : BitVec 4 := 2
  pass : Option Nat := none
  mxu : Mxu := {}
deriving DecidableEq, Repr, Inhabited

/-! ## A die -/

/-- A translation-cache entry (R97, R98, R100): its partition, page and size, the leaf it came from, and the access
count it holds. -/
structure TlbEnt where
  part : Nat := 0
  base : Nat := 0
  size : Nat := 0
  pte : Nat := 0
  leaf : Word := 0
  cnt : Nat := 0
deriving DecidableEq, Repr, Inhabited

/-- A route tag (R64 to R66, R391). -/
structure Tag where
  cfg : Word := 0
  pend : Option Word := none
  gen : Bool := false
  forced : Bool := false
  arrived : List Nat := []
deriving DecidableEq, Repr, Inhabited

/-- A decode slot in use (R146, R147, R149, R354, R392); a message that does not leave its die has a seat number of 4,096 or
more. `missed` is an address of its message whose page is missing, and `stay` the place among the records of its inbox in the
order of their delivery (R151). -/
structure DSlot where
  seat : Nat := 0
  env : Env := {}
  frags : List (Nat × Nat × List Byte) := []
  last : Nat := 0
  order : Nat := 0
  decoded : Bool := false
  data : List Byte := []
  missed : Option Word := none
  stay : Option Nat := none
deriving DecidableEq, Repr, Inhabited

/-- The delivered window of a source interface (R148). -/
structure RecvWin where
  snode : Nat := 0
  sdie : Nat := 0
  host : Bool := false
  b : Nat := 0
  w : BitVec 64 := 0
deriving DecidableEq, Repr, Inhabited

/-- A block of seats leased to a source interface (R146). -/
structure Lease where
  snode : Nat := 0
  sdie : Nat := 0
  host : Bool := false
  seats : List Nat := []
  last : Nat := 0
  void : Bool := false
deriving DecidableEq, Repr, Inhabited

/-- A seat that carries a message: its sequence, its first dword, the tag of the access that it asks for, and whether it is one
of class B with the follow bit (R113). -/
structure BusySeat where
  seat : Nat := 0
  seq : Nat := 0
  first : Word := 0
  tag : Option Nat := none
  fol : Bool := false
deriving DecidableEq, Repr, Inhabited

/-- The seats a sending interface holds at a destination (R146, R147): those that are free, those that carry a message, the
next sequence, and whether a request for a block is out. The host link's are with die 0's (R152). -/
structure SendSide where
  host : Bool := false
  dnode : Nat := 0
  ddie : Nat := 0
  idle : List Nat := []
  busy : List BusySeat := []
  seq : Nat := 0
  asked : Bool := false
deriving DecidableEq, Repr, Inhabited

/-- An access of a core to another node that waits for its reply (R97, R200). -/
structure RemoteReq where
  tag : Nat := 0
  acc : Access := {}
deriving DecidableEq, Repr, Inhabited

/-- A die. Its nine Emram ports are connected or not (R21), and each is free again from a cycle on (R145). -/
structure Die where
  ports : BitVec 9 := 0x1FF
  portFree : Vector Nat 9 := Vector.replicate 9 0
  tlb : List TlbEnt := []
  tags : Vector Tag 8 := Vector.replicate 8 {}
  rate : Word := 0x3724
  node : Word := 0
  inbox : Word := 0
  slots : List DSlot := []
  wins : List RecvWin := []
  leases : List Lease := []
  sends : List SendSide := []
  remote : List RemoteReq := []
  asked : List (Nat × Env) := []
  passCount : Nat := 216
  ring : List Nat := List.range 216
  staffPlace : Nat := 0
  staffNotice : Word := 0
  staffRing : Word := 0
  staffDrop : Nat := 0
  staffWrite : Nat := 0
  staffTaken : List Nat := []
  staffBusy : List Nat := []
  staffWait : List Notice := []
  watchLo : Vector Word 8 := Vector.replicate 8 0
  watchHi : Vector Word 8 := Vector.replicate 8 0
  queue : List QItem := []
  victim : Nat := 0
  gold : Nat := 0
  retired : List Nat := []
deriving DecidableEq, Repr, Inhabited

/-! ## The device -/

/-- A step that is due (DESIGN CHOICE, assumption log 1): when, whether it comes after the issues of its cycle (R416), its order
number, the step, and its operands. -/
structure Pending where
  due : Nat := 0
  late : Bool := false
  seq : Nat := 0
  ev : Instr := .nop
  arg : StepArg := {}
deriving DecidableEq, Repr

/-- A class M or N packet that has not reached the far end of its way (R137, R142): the dies between which it goes, its class,
its bytes, its unloaded time, and the step that it brings; with `held` its core has 8 class N flits in the network, and it has
still to enter (R139). -/
structure Packet where
  src : Nat := 0
  dst : Nat := 0
  cn : Bool := false
  len : Nat := 0
  lat : Nat := 0
  held : Bool := false
  step : Pending := {}
deriving DecidableEq, Repr

/-- A parked operation at a bank (R95, R364) and the cycle of its last try. -/
structure Parked where
  acc : Access := {}
  last : Nat := 0
deriving DecidableEq, Repr, Inhabited

/-- A request that waits on a FREE cell (R42): the cell's key, and the cycle of its last try. -/
structure CellWait where
  id : Nat := 0
  key : Nat := 0
  req : WireReq := {}
  last : Nat := 0
deriving DecidableEq, Repr, Inhabited

/-- A step of the device that waits for a page (R354): the core for which it translates, the missing address, the step and its
operands. -/
structure HeldStep where
  core : Nat := 0
  addr : Word := 0
  ev : Instr := .nop
  arg : StepArg := {}
deriving DecidableEq, Repr

/-- Why a step of the net protocol stops before it changes anything: a page is missing, a check fails, or a window or a range is
closed to it for now. -/
inductive Stop where
  | miss (a : Word)
  | bad (cause : Nat) (a : Word)
  | wait
deriving DecidableEq, Repr, Inhabited

/-- What a step of the net protocol has written so far, and what stops it (the model's own, assumption log 31). -/
structure NetLog where
  keys : List Nat := []
  stop : Option Stop := none
deriving DecidableEq, Repr, Inhabited

/-- A sleeping CWAIT (R103, R282). -/
structure Sleeper where
  acc : Access := {}
deriving DecidableEq, Repr, Inhabited

/-- A BRIDGE of a JOIN in flight (R43): its record, the core of its JOIN, whether a cell of it is FWD to the opposite end because
its far end departs, the far ends that a request of theirs has named while it dissolves, and the splices of the JOIN that have not taken their first step, with the first cause among them. -/
structure Bridge where
  addr : Word := 0
  net : Nat := 0
  core : Nat := 0
  who : CtxId := ⟨0, 0⟩
  dissolving : Bool := false
  fwd1 : Bool := false
  fwd2 : Bool := false
  e1 : Option Word := none
  e2 : Option Word := none
  acc : Access := {}
  left : Nat := 2
  cause : Nat := 0
  bad : Word := 0
deriving DecidableEq, Repr, Inhabited

/-- A cut in progress (R67, R68). -/
structure Cut where
  id : Nat := 0
  net : Nat := 0
  addr : Word := 0
  cw : Word := 0
  who : CtxId := ⟨0, 0⟩
  run : Nat := 0
  staff : Bool := true
deriving DecidableEq, Repr, Inhabited

/-- An isolation rectangle (R287, R396). -/
structure Fence where
  id : Nat := 0
  bits : Nat := 0
  col : Nat := 0
  row : Nat := 0
  ncols : Nat := 0
  nrows : Nat := 0
  cw : Word := 0
deriving DecidableEq, Repr, Inhabited

/-- An error that a read of a word, a tile granule or a block will meet (R366, R370, R382, R383): plain data that the
outside puts there (DESIGN CHOICE, assumption log 9). An error of one bit is corrected, and one of more is not. -/
inductive Latent where
  | memory (granule : Nat) (bits : Nat)
  | slateWord (word : Nat) (bits : Nat)
  | tileWord (word : Nat) (bits : Nat)
  | block (octet : Nat) (times : Nat)
deriving DecidableEq, Repr, Inhabited

/-- The Prefect (R155 to R162, R401, R402). -/
structure Prefect where
  active : Vector (Option FwImage) 3 := Vector.replicate 3 (some {})
  staged : Vector (Option FwImage) 3 := Vector.replicate 3 none
  version : Nat := 0
  measures : List (List Byte) := []
  cfgPass : List Nat := [216, 216, 216, 216]
  cfgPlace : List Nat := [0, 0, 0, 0]
  cfgRects : List Word := [0x8001828000000000]
  boots : Nat := 0
  held : Nat := 0
  good : List Nat := [0, 0, 0, 0]
  log : List (Nat × Nat × Nat) := []
  dropped : Nat := 0
  answers : List (Nat × List (List Byte)) := []
deriving DecidableEq, Repr

/-- The faults of a step. There is none: every fault of the spec is a trap, a drop, an err bit or a notice, which are
states, and no meaning and no step answers with a fault. -/
inductive Fault
deriving DecidableEq, Repr

/-- The refusals of a step. -/
inductive Refusal where
  /-- Raised by an arm of `exec` that has no meaning yet. Safe. -/
  | notModelled (mnemonic : String)
deriving DecidableEq, Repr

/-- The device. -/
structure State where
  cycle : Nat := 0
  bootAt : Nat := 0
  turn : Nat := 0
  scan : Nat := 0
  who : CtxId := ⟨0, 0⟩
  word : Word := 0
  arg : StepArg := {}
  pipe : Option Nat := none
  seq : Nat := 7680
  fresh : Nat := 0
  agenda : List Pending := []
  ctxs : SMap Ctx := []
  cores : SMap Core := []
  octets : SMap Octet := []
  dies : SMap Die := []
  mem : List Host.Cell := []
  empty : List Nat := []
  poison : List Nat := []
  latent : List Latent := []
  wires : SMap Nat := []
  banks : List (Nat × Nat) := []
  parked : List Parked := []
  cellWaits : List CellWait := []
  heldSteps : List HeldStep := []
  txn : NetLog := {}
  sleepers : List Sleeper := []
  held : List Access := []
  heldCounts : List Count := []
  bridges : List Bridge := []
  marked : List (Nat × Nat × Nat) := []
  netTable : Word := 0
  partRect : Vector Word 16 := wr (Vector.replicate 16 0) 0 0x8001828000000000
  partPtb : Vector Word 16 := Vector.replicate 16 0
  fences : List Fence := []
  cuts : List Cut := []
  doorbells : SMap (List (Nat × Word)) := []
  hostQueue : List Pending := []
  packets : List Packet := []
  hostOut : List (Nat × List Byte) := []
  outbox : List Frag := []
  prefect : Prefect := {}
deriving DecidableEq, Repr

/-- The Prefect after a boot with the digests of step 1 in its measurement registers (R156, R160). -/
def Prefect.measured (f : Prefect) : Prefect :=
  { f with measures := digestsOf (f.active.toList.map fun m => (m.map (·.bytes)).getD [])
                         (f.cfgPass ++ f.cfgPlace ++ f.cfgRects.map (·.toNat)) }

/-- The machine right after reset (R156): every context but the homerooms gated, every register at the value that
INVENTORY.md lists, memory with nothing listed, the images and the configuration record measured, and the gold identifiers' first
step due (R140). -/
def State.reset : State :=
  { prefect := Prefect.measured {}
    agenda := (List.range 4).map fun d => { due := 1024, seq := 0, ev := .goldAdvance, arg := { die := d } } }

end Sys2Proof.Machine
end

