-- ==== Sys2Proof/Machine/Geometry.lean ====
section
/-! DEFINITION. Where things are (R12 to R18), the accessors of the state's sparse tables, privilege (R48), partitions
(R159), and unloaded times (R91). -/

namespace Sys2Proof.Machine

/-! ## Numbers of cores, octets and dies (R13 to R18) -/

/-- The die of a core (R14). Core numbers from 7,680 on stand for the network interfaces: 7680 + 1920 × d for die d. -/
def dieOf (core : Nat) : Nat := core / 1920 % 4
/-- The number that stands for a die's network interface. -/
def ifaceCore (die : Nat) : Nat := 7680 + die * 1920
/-- The row of a core within its die (R14). -/
def rowOf (core : Nat) : Nat := core % 1920 / 48
/-- The column of a core within its die (R14). -/
def colOf (core : Nat) : Nat := core % 48
/-- The core at a row and column of a die (R14). -/
def coreAt (die row col : Nat) : Nat := die * 1920 + row * 48 + col
/-- The octet of a core (R15). -/
def octetOf (core : Nat) : Nat := dieOf core * 240 + rowOf core / 2 * 12 + colOf core / 4
/-- The seat index of a core in its octet (R15). -/
def seatOf (core : Nat) : Nat := rowOf core % 2 * 4 + colOf core % 4
/-- The die of an octet (R15). -/
def octetDie (octet : Nat) : Nat := octet / 240
/-- The core of an octet with a seat index (R15). -/
def coreOfSeat (octet seat : Nat) : Nat :=
  coreAt (octetDie octet) (octet % 240 / 12 * 2 + seat / 4) (octet % 12 * 4 + seat % 4)
/-- The device column of a core (R13). -/
def devCol (core : Nat) : Nat := dieOf core % 2 * 48 + colOf core
/-- The device row of a core (R13). -/
def devRow (core : Nat) : Nat := dieOf core / 2 * 40 + rowOf core
/-- The core at device coordinates (R13). -/
def coreAtDev (row col : Nat) : Nat := coreAt (row / 40 * 2 + col / 48) (row % 40) (col % 48)
/-- The dies' boundaries crossed between two dies (R17). -/
def crossings (d e : Nat) : Nat := (if d % 2 == e % 2 then 0 else 1) + (if d / 2 == e / 2 then 0 else 1)
/-- The difference of two numbers, either way. -/
def gap (a b : Nat) : Nat := (a - b) + (b - a)
/-- Mesh hops between two cores in device coordinates (R13). -/
def hops (a b : Nat) : Nat := gap (devCol a) (devCol b) + gap (devRow a) (devRow b)
/-- Hops between two octets' upper-left cores (R91). -/
def octetHops (o p : Nat) : Nat := hops (coreOfSeat o 0) (coreOfSeat p 0)
/-- The die of a physical address of device memory (R96). -/
def physDie (p : Nat) : Nat := p / 2 ^ 36 / 4

/-! ## Tables of the state -/

/-- A context as reset leaves it (R156): a homeroom is active, and its run number is its core's. -/
def Ctx.initial (c : CtxId) : Ctx :=
  if c.ctx == 0 then { run := c.core, life := .active } else {}

/-- The key of a context in its table. -/
abbrev CtxId.key (c : CtxId) : Nat := c.core * 16 + c.ctx

/-- A core as reset leaves it; its victim pointer stands at its own number (DESIGN CHOICE, assumption log 3). -/
def Core.initial (k : Nat) : Core := { victim := k }

/-- A die as reset leaves it (R140). -/
def Die.initial (d : Nat) : Die := { victim := d * 1920, gold := d * 1920 }

def State.ctx (s : State) (c : CtxId) : Ctx := s.ctxs.get (c.core * 16 + c.ctx) (Ctx.initial c)
def State.setCtx (s : State) (c : CtxId) (x : Ctx) : State := { s with ctxs := s.ctxs.set (c.core * 16 + c.ctx) x }
def State.modCtx (s : State) (c : CtxId) (f : Ctx → Ctx) : State := s.setCtx c (f (s.ctx c))
def State.coreAt (s : State) (k : Nat) : Core := s.cores.get k (Core.initial k)
def State.setCore (s : State) (k : Nat) (x : Core) : State := { s with cores := s.cores.set k x }
def State.modCore (s : State) (k : Nat) (f : Core → Core) : State := s.setCore k (f (s.coreAt k))
def State.octet (s : State) (o : Nat) : Octet := s.octets.get o {}
def State.setOctet (s : State) (o : Nat) (x : Octet) : State := { s with octets := s.octets.set o x }
def State.modOctet (s : State) (o : Nat) (f : Octet → Octet) : State := s.setOctet o (f (s.octet o))
def State.die (s : State) (d : Nat) : Die := s.dies.get d (Die.initial d)
def State.setDie (s : State) (d : Nat) (x : Die) : State := { s with dies := s.dies.set d x }
def State.modDie (s : State) (d : Nat) (f : Die → Die) : State := s.setDie d (f (s.die d))
def State.modMxu (s : State) (o : Nat) (f : Mxu → Mxu) : State := s.modOctet o fun x => { x with mxu := f x.mxu }

/-! ## Privilege and partitions -/

/-- The staff cores of a die (R159). -/
def State.isStaffCore (s : State) (core : Nat) : Bool :=
  core < 7680 && octetOf core == dieOf core * 240 + (s.die (dieOf core)).staffPlace

/-- The privilege of a context: 0 user, 1 homeroom, 2 staff (R48, R81). -/
def State.priv (s : State) (c : CtxId) : Nat :=
  if s.isStaffCore c.core then 2 else if c.ctx == 0 then 1 else 0

/-- A rectangle register's fields (R158). -/
def rectHas (r : Word) (core : Nat) : Bool :=
  let v := r.toNat
  core < 7680 && bitAt v 63 && bits v 62 56 ≤ devCol core && devCol core < bits v 62 56 + bits v 48 42 &&
    bits v 55 49 ≤ devRow core && devRow core < bits v 55 49 + bits v 41 35

/-- A core's partition (R159). -/
def State.partOf (s : State) (core : Nat) : Nat :=
  if s.isStaffCore core then 0
  else (List.range 16).findIdx? (fun n => rectHas (rd s.partRect n 0) core) |>.getD 0

/-- Whether a node field names this device (R87). -/
def State.isHere (s : State) (node : Nat) : Bool := node == 0xFFF || node == (s.die 0).node.toNat % 4096

/-! ## Fences (R396) -/

/-- Whether a fence holds a core. -/
def Fence.has (f : Fence) (core : Nat) : Bool :=
  core < 7680 && f.col ≤ devCol core && devCol core < f.col + f.ncols && f.row ≤ devRow core && devRow core < f.row + f.nrows

/-- Whether a packet from one core to another enters a fenced rectangle (R396). -/
def State.fenced (s : State) (src dst : Nat) : Bool := s.fences.any fun f => f.has dst && !f.has src

/-! ## What a cut records of channels (R67, R68) -/

/-- The mesh neighbour on whose side a packet from a core arrives: east, south, west or north, rows last (DEDUCED, assumption log 44). -/
def chanFrom (src dst : Nat) : Nat :=
  if devRow dst < devRow src then 1 else if devRow src < devRow dst then 3 else if devCol src < devCol dst then 2 else 0

/-- Logs what arrives on an input channel of a core whose marker of a cut is still to come. -/
def State.cutLog (s : State) (core ch what : Nat) (addr : Word) (data : List Word) : State :=
  let k := s.coreAt core
  if k.cuts.isEmpty then s
  else
    s.setCore core
      { k with cuts := k.cuts.map fun (p : CutPart) =>
          if p.toCome.contains ch then { p with log := p.log ++ [{ ch := ch, what := what, addr := addr, data := data }] } else p }

/-- A queue entry as R55 packs it. -/
def QItem.words (q : QItem) : List Word :=
  let half (a : Word) : Nat := bits a.toNat 59 48 * 2 ^ 39 + bits a.toNat 43 5
  [BitVec.ofNat 64 (q.prio * 2 ^ 56 + half q.a), BitVec.ofNat 64 (half q.b)]

/-! ## The agenda -/

/-- A step that comes due (DESIGN CHOICE, assumption log 1). -/
def State.post (s : State) (due : Nat) (ev : Instr) (arg : StepArg) : State :=
  { s with seq := s.seq + 1, agenda := { due := due, seq := s.seq, ev := ev, arg := arg } :: s.agenda }

/-- A step that comes after the issues of its cycle (R416 step 3). -/
def State.postLate (s : State) (due : Nat) (ev : Instr) (arg : StepArg) : State :=
  { s with seq := s.seq + 1, agenda := { due := due, late := true, seq := s.seq, ev := ev, arg := arg } :: s.agenda }

/-- A step `lat` cycles from now, and later under traffic (R91; DESIGN CHOICE, assumption log 2). -/
def State.postIn (s : State) (lat : Nat) (ev : Instr) (arg : StepArg) : State :=
  { s with fresh := s.fresh + 1 }.post (s.cycle + lat + Config.traffic s.fresh) ev arg

/-- The same for a step that comes after the issues of its cycle. -/
def State.postLateIn (s : State) (lat : Nat) (ev : Instr) (arg : StepArg) : State :=
  { s with fresh := s.fresh + 1 }.postLate (s.cycle + lat + Config.traffic s.fresh) ev arg

/-- The steps that are due and those that packets bring. -/
def State.underWay (s : State) : List Pending := s.agenda ++ s.packets.map (·.step)

/-- A new order number. -/
def State.newId (s : State) : Nat × State := (s.seq, { s with seq := s.seq + 1 })

/-! ## Packets that cross dies, and class N flits (R137, R139, R142, R144) -/

/-- A code rate (R144). -/
def rateOf (code : Nat) : Nat × Nat :=
  match code with
  | 0 => (1, 1) | 1 => (4, 1) | 2 => (4, 2) | 3 => (8, 2) | 4 => (8, 3) | _ => (12, 4)

/-- The fields of ni.rate (R154). -/
inductive Rate where
  | dm | dn | fo | fu | fb
deriving DecidableEq, Repr

/-- The code rate that a die samples for a kind of traffic. -/
def State.rate (s : State) (die : Nat) (r : Rate) : Nat × Nat :=
  let v := (s.die die).rate.toNat
  match r with
  | .dm => rateOf (bits v 14 12)
  | .dn => rateOf (bits v 11 9)
  | .fo => rateOf (bits v 8 6)
  | .fu => rateOf (bits v 5 3)
  | .fb => rateOf (bits v 2 0)

/-- The data fragments k′ of a message of L bytes. -/
def kOf (k len : Nat) : Nat := min k ((len + 127) / 128)

/-- The place, in the order of sending, of the last data fragment of a message of `len` bytes (R145). -/
def lastData (r : Nat × Nat) (len : Nat) : Nat :=
  let k := kOf r.1 len
  ((len + k * 128 - 1) / (k * 128) - 1) * (k + r.2) + k - 1

/-- The cycles from the first fragment's leaving to the decoding of a die-crossing message, unloaded (R145): its boundaries, its
data fragments one after the other, and the decoding. -/
def State.crossTime (s : State) (src dst len : Nat) (cn : Bool) : Nat :=
  12 * crossings src dst + lastData (s.rate src (if cn then .dn else .dm)) len + 2

/-- A packet of `len` bytes brings a step to another die within an unloaded time, of which its crossing as a coded message is
part (R142; DEDUCED, assumption log 27); within a die, it takes that time alone. A `late` step comes after the issues of its
cycle. -/
def State.carry (s : State) (src dst : Nat) (cn late : Bool) (len lat : Nat) (ev : Instr) (arg : StepArg) : State :=
  if src == dst || lat < s.crossTime src dst len cn then (if late then s.postLateIn lat ev arg else s.postIn lat ev arg)
  else
    let (i, s) := s.newId
    { s with packets := { src := src, dst := dst, cn := cn, len := len, lat := lat,
                          step := { late := late, seq := i, ev := ev, arg := arg } } :: s.packets }.post
      (s.cycle + (lat - s.crossTime src dst len cn)) .seatRequest { n := 5, id := i, die := src }

/-- The class N flits that a step stands for: a MIGR message has 22 (R137), of which its core has at most 8 in the network at
once (R139). -/
def Pending.flits (p : Pending) : Nat := if p.ev == Instr.migrArrive then 8 else 1

/-- The class N flits that a core has in the network (R139). -/
def State.nflits (s : State) (core : Nat) : Nat :=
  let mine (p : Pending) : Nat := if p.arg.flit == some core then p.flits else 0
  s.agenda.foldl (fun n p => n + mine p) (s.packets.foldl (fun n q => if q.held then n else n + mine q.step) 0)

/-- A class N packet of a core brings a step to a die: with 8 flits of the core in the network, it waits to enter (R139). -/
def State.sendN (s : State) (core dst len lat : Nat) (ev : Instr) (arg : StepArg) : State :=
  let arg := { arg with flit := some core }
  if 7680 ≤ core || s.nflits core < 8 then s.carry (dieOf core) dst true false len lat ev arg
  else
    let (i, s) := s.newId
    { s with packets := { src := dieOf core, dst := dst, cn := true, len := len, lat := lat, held := true,
                          step := { seq := i, ev := ev, arg := arg } } :: s.packets }.post
      (s.cycle + 1) .seatRequest { n := 6, id := i, core := core }

/-- Whether two contexts' numbers are equal. -/
def CtxId.eq (a b : CtxId) : Bool := a.core == b.core && a.ctx == b.ctx

/-- The gated contexts 1 to 15 of a core, lowest first. -/
def State.freeCtxs (s : State) (core : Nat) : List Nat :=
  (List.range 15).filterMap fun i => if (s.ctx ⟨core, i + 1⟩).life == .gated then some (i + 1) else none

/-- Whether a context is being saved, and so issues nothing (R59, R408). -/
def State.isSaving (s : State) (c : CtxId) : Bool :=
  (s.octet (octetOf c.core)).saves.any fun x => x.core == c.core && x.ctx == c.ctx

/-- The contexts 1 to 15 of a core in rotation (R59): active and not being saved. -/
def State.running (s : State) (core : Nat) : List Nat :=
  (List.range 15).filterMap fun i =>
    if (s.ctx ⟨core, i + 1⟩).life == .active && !s.isSaving ⟨core, i + 1⟩ then some (i + 1) else none

end Sys2Proof.Machine
end

