-- ==== Sys2Proof/Machine/Ops.lean ====
section
/-! DEFINITION. The named operations over memory and registers: bytes and full/empty bits, addresses and protection
(R87 to R90), translation (R97, R98), traps and notices (R321 to R335), fills of registers (R72), and the ways an
access leaves its core and its report comes back (R91, R104). -/

namespace Sys2Proof.Machine

/-! ## Bytes of memory (R96, R89, R70)

One list of bytes holds the whole storage of the device: physical addresses as they are, the slates from 2^48, and the
tile registers from 2^49. An unlisted byte reads zero (R89, R156 step 2; DESIGN CHOICE, assumption log 5). -/

/-- The canonical form of memory: addresses strictly rising, no zero byte listed. -/
def Memory.wf : List Host.Cell → Bool
  | [] => true
  | [(_, b)] => b != 0
  | (k, b) :: (j, c) :: r => b != 0 && k < j && Memory.wf ((j, c) :: r)

/-- The byte at a key; zero where none is listed. -/
def memRead : List Host.Cell → Nat → Byte
  | [], _ => 0
  | (j, b) :: r, k => if j == k then b else if k < j then 0 else memRead r k

/-- Memory with a non-zero byte at a key. -/
def memPut : List Host.Cell → Nat → Byte → List Host.Cell
  | [], k, b => [(k, b)]
  | (j, c) :: r, k, b => if j == k then (k, b) :: r else if k < j then (k, b) :: (j, c) :: r else (j, c) :: memPut r k b

/-- Memory without a listing at a key. -/
def memDel : List Host.Cell → Nat → List Host.Cell
  | [], _ => []
  | (j, c) :: r, k => if j == k then r else if k < j then (j, c) :: r else (j, c) :: memDel r k

/-- Memory with the byte at a key replaced. -/
def memWrite (m : List Host.Cell) (k : Nat) (b : Byte) : List Host.Cell :=
  if b == 0 then memDel m k else memPut m k b

/-- The `n` bytes from a key, little-endian. -/
def memReadN (m : List Host.Cell) (k : Nat) : Nat → Nat
  | 0 => 0
  | n + 1 => (memRead m k).toNat + 256 * memReadN m (k + 1) n

/-- Memory with `n` bytes from a key replaced, little-endian. -/
def memWriteN (m : List Host.Cell) (k : Nat) : Nat → Nat → List Host.Cell
  | 0, _ => m
  | n + 1, v => memWriteN (memWrite m k (BitVec.ofNat 8 v)) (k + 1) n (v / 256)

/-- Memory with a list of bytes stored from a key. -/
def memWriteL (m : List Host.Cell) (k : Nat) : List Byte → List Host.Cell
  | [] => m
  | b :: bs => memWriteL (memWrite m k b) (k + 1) bs

/-- The `n` bytes from a key as a list. -/
def memReadL (m : List Host.Cell) (k n : Nat) : List Byte := (List.range n).map fun i => memRead m (k + i)

/-- Bytes as a little-endian number. -/
def bytesNat : List Byte → Nat
  | [] => 0
  | b :: bs => b.toNat + 256 * bytesNat bs

/-- A number as `n` little-endian bytes. -/
def natBytes (v : Nat) : Nat → List Byte
  | 0 => []
  | n + 1 => BitVec.ofNat 8 v :: natBytes (v / 256) n

/-- The key of a byte of a slate. -/
def slateKey (octet slate off : Nat) : Nat := 2 ^ 48 + (octet * 32 + slate) * 65536 + off
/-- The key of a byte of a tile register. -/
def tileKey (core t off : Nat) : Nat := 2 ^ 49 + (core * 4 + t) * 32768 + off
/-- Whether a key is a slate byte. -/
def isSlateKey (k : Nat) : Bool := 2 ^ 48 ≤ k && k < 2 ^ 49
/-- The octet of a slate key. -/
def keyOctet (k : Nat) : Nat := (k - 2 ^ 48) / 65536 / 32
/-- The slate of a slate key. -/
def keySlate (k : Nat) : Nat := (k - 2 ^ 48) / 65536 % 32
/-- Whether a key is device memory (R96). -/
def isDevKey (k : Nat) : Bool := k < 2 ^ 40
/-- Whether a key is host memory (R96). -/
def isHostKey (k : Nat) : Bool := 2 ^ 46 ≤ k && k < 2 ^ 47
/-- The bank of a key: its slate, or its channel of a stack (R94, R96). -/
def bankOf (k : Nat) : Nat :=
  if isSlateKey k then 2 ^ 20 + (k - 2 ^ 48) / 65536 else k / 2 ^ 36 * 32 + k % 2 ^ 36 / 256 % 32

/-- The first cycle in which the bank of a key takes another operation (R94). -/
def State.bankFrom (s : State) (k : Nat) : Nat :=
  ((s.banks.find? fun (p : Nat × Nat) => p.1 == bankOf k).elim 0 fun p => max p.2 s.cycle)

/-- Books a bank for one operation, from the present cycle on, in arrival order (R94): the cycle of the operation. -/
def State.bankTake (s : State) (k : Nat) : Nat × State :=
  let c := max s.cycle (s.bankFrom k)
  (c, { s with banks := (bankOf k, c + 1) :: s.banks.filter fun (p : Nat × Nat) => p.1 != bankOf k && s.cycle < p.2 })

/-- Books the banks of an operation that takes several (R94): it is performed in the first cycle in which each of them takes
it, in the order of arrival at each. Bytes of tile registers are at no bank unit. -/
def State.bankTakes (s : State) (ks : List Nat) : Nat × State :=
  let ks := ks.filter fun k => k < 2 ^ 49
  let c := ks.foldl (fun c k => max c (s.bankFrom k)) s.cycle
  let bs := (ks.map bankOf).eraseDups
  (c, { s with banks := bs.map (fun b => (b, c + 1)) ++ s.banks.filter fun (p : Nat × Nat) => !bs.contains p.1 && s.cycle < p.2 })

/-- The words from a key that `n` bytes touch. -/
def wordsOf (k n : Nat) : List Nat := (List.range ((k + n + 7) / 8 - k / 8)).map fun i => k / 8 + i
/-- The granules from a key that `n` bytes touch. -/
def granulesOf (k n : Nat) : List Nat := (List.range ((k + n + 31) / 32 - k / 32)).map fun i => k / 32 + i

/-- The bank's word at a key. -/
def State.rd8 (s : State) (k : Nat) : Nat := memReadN s.mem k 8

/-- Marks the words of a store full (R95), and clears the poison of granules it covers whole (R366). -/
def State.markFull (s : State) (k n : Nat) : State :=
  { s with
    empty := if isSlateKey k then s.empty.filter fun w => !(k / 8 ≤ w && w ≤ (k + n - 1) / 8) else s.empty
    poison := s.poison.filter fun g => !(k ≤ g * 32 && g * 32 + 32 ≤ k + n) }

/-- A store of `n` bytes at a key, as its bank takes it. -/
def State.putN (s : State) (k n v : Nat) : State := { s with mem := memWriteN s.mem k n v }.markFull k n

/-- A store of a list of bytes at a key. -/
def State.putL (s : State) (k : Nat) (bs : List Byte) : State :=
  if bs.isEmpty then s else { s with mem := memWriteL s.mem k bs }.markFull k bs.length

/-- Whether a slate word is full (R95). -/
def State.full (s : State) (k : Nat) : Bool := !memNat (k / 8) s.empty

/-! ## Address forms (R87, R342) -/

/-- The forms of an address. -/
inductive Form where
  | window (core win off : Nat)
  | handle (octet slate gen off : Nat)
  | mem (off : Nat)
  | remote (node : Nat)
  | bad
deriving DecidableEq, Repr, Inhabited

/-- The form of a global address as the given core reads it; `bad` is R342. -/
def State.form (s : State) (core : Nat) (a : Word) : Form :=
  let v := a.toNat
  let node := bits v 59 48
  let slateBad :=
    if bits v 47 40 != 0x0F then false
    else if bits v 39 38 == 0 then bits v 37 19 != 0
    else if bits v 39 38 == 1 then bits v 37 32 != 0 || 7680 ≤ bits v 31 19
    else 960 ≤ bits v 30 21
  if slateBad then .bad
  else if !s.isHere node then .remote node
  else if bits v 47 40 != 0x0F then .mem (bits v 47 0)
  else if bits v 39 38 == 0 then .window core (bits v 18 16) (bits v 15 0)
  else if bits v 39 38 == 1 then .window (bits v 31 19) (bits v 18 16) (bits v 15 0)
  else .handle (bits v 30 21) (bits v 20 16) (bits v 38 31) (bits v 15 0)

/-- A local address in window form (R87, R196). -/
def localAddr (a : Word) : Word := 0x0FFF0F0000000000 ||| (a &&& 0x7FFFF)

/-- The handle-form address of a byte of a slate (R87, R88). -/
def handleAddr (octet slate gen off : Nat) : Word :=
  BitVec.ofNat 64 (0x0FFF0F8000000000 + gen * 2 ^ 31 + octet * 2 ^ 21 + slate * 2 ^ 16 + off)

/-- What an access needs of a slate's rights (R90). -/
inductive Need where
  | load | sync | store | fullEmpty
deriving DecidableEq, Repr, Inhabited

/-- The table of R90. -/
def rightsOk (r : BitVec 2) (n : Need) : Bool :=
  match n with
  | .load => r == 1 || r == 2
  | .sync => r != 0
  | .store => r == 2
  | .fullEmpty => r == 2 || r == 3

/-- The window of an octet that holds a slate, with its core (R89: a slate is installed in one window). -/
def State.installed (s : State) (octet slate : Nat) : Option (Nat × Win) :=
  (List.range 64).findSome? fun i =>
    let c := coreOfSeat octet (i / 8)
    let w := rd (s.coreAt c).win (i % 8) {}
    if w.valid && w.slate == slate then some (c, w) else none

/-- The protection unit's answer for an access of a core (R90): the slate byte, or a cause. -/
def State.protect (s : State) (core : Nat) (staff : Bool) (f : Form) (n : Need) : Except Nat Nat :=
  match f with
  | .window c w off =>
    let e := rd (s.coreAt c).win w {}
    if !e.valid then .error 0x10
    else if rightsOk (if c == core then e.own else e.rem) n then .ok (slateKey (octetOf c) e.slate off)
    else .error 0x11
  | .handle o sl g off =>
    if (rd (s.octet o).gens sl 0).toNat != g then .error 0x12
    else if staff then .ok (slateKey o sl off)
    else
      match s.installed o sl with
      | none => .error 0x11
      | some (c, e) => if rightsOk (if c == core then e.own else e.rem) n then .ok (slateKey o sl off) else .error 0x11
  | _ => .error 0x10

/-! ## Translation (R97 to R100) -/

/-- A leaf as the walker read it. -/
structure Leaf where
  pte : Nat := 0
  leaf : Word := 0
  size : Nat := 0
  base : Nat := 0
deriving DecidableEq, Repr, Inhabited

/-- One level of the walk and those below it: the table's address, the levels left with the low bit of their index and
the width of it. -/
def walkFrom (m : List Host.Cell) (off : Nat) : Nat → List (Nat × Nat × Bool) → Option Leaf × Nat
  | _, [] => (none, 0)
  | table, (lo, wd, leafOk) :: ls =>
    let pte := table + 8 * (off / 2 ^ lo % 2 ^ wd)
    let e := memReadN m pte 8
    if !bitAt e 63 then (none, 1)
    else if ls.isEmpty || bitAt e 62 then
      if leafOk then (some { pte := pte, leaf := BitVec.ofNat 64 e, size := 2 ^ lo, base := off / 2 ^ lo * 2 ^ lo }, 1)
      else (none, 1)
    else
      let (r, n) := walkFrom m off (bits e 47 8 * 256) ls
      (r, n + 1)

/-- The walk of a partition's four levels (R97): the leaf, and how many levels were read. -/
def State.walk (s : State) (part off : Nat) : Option Leaf × Nat :=
  walkFrom s.mem off (bits (rd s.partPtb part 0).toNat 47 12 * 4096)
    [(39, 9, false), (30, 9, true), (21, 9, true), (16, 5, true)]

/-- The translation-cache entry of a die for an offset. -/
def State.tlbFind (s : State) (die part off : Nat) : Option TlbEnt :=
  (s.die die).tlb.find? fun e => e.part == part && e.base ≤ off && off < e.base + e.size

/-- Writes an evicted entry's count back (R100). -/
def State.tlbEvict (s : State) (e : TlbEnt) : State :=
  if bitAt e.leaf.toNat 57 then { s with mem := memWriteN s.mem e.pte 2 (e.cnt % 65536) } else s

/-- Fills a die's translation cache (R97); a full cache gives up the entry that the free value names (DESIGN CHOICE, log 10). -/
def State.tlbFill (s : State) (die part : Nat) (l : Leaf) : State :=
  let e : TlbEnt :=
    { part := part, base := l.base, size := l.size, pte := l.pte, leaf := l.leaf, cnt := l.leaf.toNat % 65536 }
  let d := s.die die
  if d.tlb.length < 16384 then s.setDie die { d with tlb := e :: d.tlb }
  else
    let i := Config.tlbVictim s.fresh % 16384
    let s := { s with fresh := s.fresh + 1 }
    match d.tlb[i]? with
    | some old => (s.tlbEvict old).setDie die { d with tlb := e :: d.tlb.eraseIdx i }
    | none => s.setDie die { d with tlb := e :: d.tlb }

/-- The physical address an entry gives for an offset (R98). -/
def TlbEnt.phys (e : TlbEnt) (off : Nat) : Nat := bits e.leaf.toNat 47 16 * 65536 / e.size * e.size + off % e.size

/-- Whether a physical address is device memory or host memory (R96). -/
def physOk (p : Nat) : Bool := isDevKey p || isHostKey p

/-- The tag of a granule (R99). -/
def State.tagOf (s : State) (p : Nat) : Nat :=
  let b := (memRead s.mem (p / 2 ^ 36 * 2 ^ 36 + 63 * 2 ^ 30 + p % 2 ^ 36 / 64)).toNat
  if p / 32 % 2 == 0 then b % 16 else b / 16

/-- Whether a physical address lies in a tag carve-out, whose granules carry no tags (R96, R99). -/
def inCarve (p : Nat) : Bool := isDevKey p && 63 * 2 ^ 30 ≤ p % 2 ^ 36

/-- What a leaf allows: 0 read, 1 write, 2 fetch (R98). -/
def leafAllows (leaf : Word) (use : Nat) : Bool := bitAt leaf.toNat (61 - use)

/-- The walker's answer for `n` bytes at an offset (R98, R99, R357, R358): the physical address, a miss, or a cause. -/
inductive Tr where
  | ok (p : Nat) (e : TlbEnt)
  | miss
  | bad (cause : Nat)
deriving DecidableEq, Repr

/-- The checks on a translated access that touches the given parts, each by its first byte and length: rights, reserved
frames, host pages with tags, and the tags of the granules touched (R98, R99, R357, R358). -/
def State.checkParts (s : State) (e : TlbEnt) (a : Word) (off : Nat) (parts : List (Nat × Nat)) (use : Nat) : Tr :=
  let p := e.phys off
  let mt := bitAt e.leaf.toNat 58
  if !leafAllows e.leaf use then .bad 0x16
  else if !physOk p then .bad 0x16
  else if mt && isHostKey p then .bad 0x16
  else if mt && (parts.flatMap fun q => granulesOf (p + q.1) q.2).any (fun g =>
      !inCarve (g * 32) && s.tagOf (g * 32) != bits a.toNat 63 60) then .bad 0x14
  else .ok p e

/-- The checks on a translated access of `n` bytes. -/
def State.checkEnt (s : State) (e : TlbEnt) (a : Word) (off n use : Nat) : Tr := s.checkParts e a off [(0, n)] use

/-- Translation through a die's cache. -/
def State.translate (s : State) (die part : Nat) (a : Word) (n use : Nat) : Tr :=
  let off := bits a.toNat 47 0
  match s.tlbFind die part off with
  | none => .miss
  | some e => s.checkEnt e a off n use

/-! ## Notices (R332 to R335, R418) -/

/-- Posts a notice on a die's staff queue, from a source on another die or the same one. Notices of one source enter the ring in the
order posted (R335): none arrives before those that its source's die has on their way to that ring. -/
def State.noticeFrom (s : State) (src : Nat) (die : Nat) (n : Notice) : State :=
  let ahead := s.agenda.foldl (fun t (p : Pending) =>
    if p.ev == Instr.noticeArrive && p.arg.die == die && p.arg.notice.die == src then max t p.due else t) 0
  { s with fresh := s.fresh + 1 }.post (max ahead (s.cycle + (20 + 24 * crossings src die) + Config.traffic s.fresh)) .noticeArrive
    { die := die, notice := { n with die := src } }

/-- Posts a notice on the staff queue of its source's die. -/
def State.notice (s : State) (die : Nat) (n : Notice) : State := s.noticeFrom die die n

/-- The MISS notice of a context's access (R327, R334). -/
def State.missNotice (s : State) (die : Nat) (c : CtxId) (part : Nat) (miss cwAddr : Word) : State :=
  s.notice die { kind := 0x01, cause := 0x40, core := c.core, ctx := c.ctx, value := miss, addr := cwAddr,
                 word := BitVec.ofNat 64 part }

/-- The ENGINE_ERR notice (R328, R334). -/
def State.engineErr (s : State) (die : Nat) (c : CtxId) (cause : Nat) (cw addr : Word) : State :=
  s.notice die { kind := 0x0A, cause := cause, core := c.core, ctx := c.ctx, value := cw, addr := addr }

/-! ## Taking an exception and returning from it (R321 to R325, R331, R286) -/

/-- Wakes what waits in a homeroom for a context of its core to stop: a REAP.w (R276) and a TAKE.w (R274). -/
def State.wakeHome (s : State) (core : Nat) : State :=
  let k := s.coreAt core
  let s := if k.reaping.isSome then s.postLate s.cycle .homeroomLateResult { core := core, n := 1 } else s
  match k.taking with
  | some t => if t.w then s.postLate s.cycle .takeWakeEvent { core := core, n := 1 } else s
  | none => s

/-- Whether a fault may come in the context's present life: it is in rotation or parked. -/
def Ctx.live (x : Ctx) : Bool := x.life == .active || x.life == .parked

/-- A trap stops its context at an instruction boundary, and writes the fault record (R321, R325); in a homeroom it
posts HOME_TRAP (R331). -/
def State.trap (s : State) (c : CtxId) (f : Frec) : State :=
  let f := { f with ctx := c.ctx }
  let s := s.modCtx c fun x =>
    { x with life := .trapped, frec := f, wait := .none, starting := false, reported := false, relFault := none,
             stopAt := s.cycle }
  if c.ctx == 0 then
    s.notice (dieOf c.core)
      { kind := 0x09, cause := f.cause, core := c.core, ctx := 0, pc := f.pc, addr := f.addr, word := f.word }
  else s.wakeHome c.core

/-- A trap at issue: the stop point is the instruction at pc, which has no effect (R322 row 1). -/
def State.trapHere (s : State) (cause : Nat) (addr : Word) : State :=
  s.trap s.who { cause := cause, pc := (s.ctx s.who).pc, addr := addr, word := s.word }

/-- The resumption of a trapped context (R286, R324): it is in rotation again, ready 2 cycles later, and not before a hint of its
last issue has run out (R175); it issues the instruction at its pc afresh, and the run of a built-in rule goes on with the piece
that it was at. -/
def State.resume (s : State) (c : CtxId) (next : Bool) : State :=
  let x := s.ctx c
  let s := s.modCtx c fun x =>
    { x with life := .active, wait := if x.builtin.isSome then .hold x.run else .none, readyAt := max x.readyAt (s.cycle + 2),
             pc := if next then x.pc + 8 else x.pc, poisoned := [], mixed := false, relFault := none, tries := 0, qskip := none,
             seated := false }
  if x.builtin.isSome then s.post (s.cycle + 2) .builtinRuleRun { c := c, run := x.run } else s

/-- Once the relaxed count is zero, a stop by relaxed accesses is taken, naming the earliest-issued (R322). -/
def State.settle (s : State) (c : CtxId) : State :=
  let x := s.ctx c
  match x.relFault with
  | some (_, f) => if x.relaxed == 0 && x.live then s.trap c f else s
  | none => s

/-! ## Finding a run of a context (R63, R377) -/

/-- Where a run of a context is now. -/
inductive Place where
  | at (c : CtxId)
  | saved (octet id : Nat)
  | gone
deriving DecidableEq, Repr, Inhabited

/-- The place of a run, looked for first where it was. -/
def State.place (s : State) (c : CtxId) (run : Nat) : Place :=
  if (s.ctx c).run == run && (s.ctx c).life != .gated then .at c
  else
    match s.ctxs.find? (fun p => p.2.run == run && p.2.life != .gated) with
    | some p => .at ⟨p.1 / 16, p.1 % 16⟩
    | none =>
      match s.octets.findSome? (fun p => (p.2.cloak.find? fun x => x.c.run == run).map fun x => (p.1, x.id)) with
      | some (o, i) => .saved o i
      | none => .gone

/-- Changes the context of a run wherever it is. -/
def State.modRun (s : State) (c : CtxId) (run : Nat) (f : Ctx → Ctx) : State :=
  match s.place c run with
  | .at d => s.modCtx d f
  | .saved o i => s.modOctet o fun x => { x with cloak := mapIf (·.id == i) (fun e => { e with c := f e.c }) x.cloak }
  | .gone => s

/-- The context of a run, if it is still there. -/
def State.runCtx (s : State) (c : CtxId) (run : Nat) : Option Ctx :=
  match s.place c run with
  | .at d => some (s.ctx d)
  | .saved o i => ((s.octet o).cloak.find? fun x => x.id == i).map (·.c)
  | .gone => none

/-! ## Registers: fills, empties and writes (R71, R72, R74, R77) -/

/-- Notes a register write-back of a buddy context (R399): it takes the place that its issue kept for a late result. -/
def putWrite (r : Nat) (w : VWord) : List (Nat × Option VWord) → List (Nat × Option VWord)
  | [] => [(r, some w)]
  | (i, none) :: l => if i == r then (r, some w) :: l else (i, none) :: putWrite r w l
  | p :: l => p :: putWrite r w l

/-- Changes what a buddy context holds. -/
def Ctx.modBuddy (x : Ctx) (f : Buddy → Buddy) : Ctx := { x with buddy := x.buddy.map f }

/-- Notes the write-back of a register (R399): 0 to 63 a scalar code, 64 to 71 a vector register, 72 to 75 a predicate. -/
def Ctx.wrote (x : Ctx) (r : Nat) (w : VWord) : Ctx := x.modBuddy fun b => { b with writes := putWrite r w b.writes }

/-- Keeps the place of a late result. -/
def Ctx.awaits (x : Ctx) (r : Nat) : Ctx := x.modBuddy fun b => { b with writes := b.writes ++ [(r, none)] }

/-- Gives up the place of a late result that does not come. -/
def Ctx.forgoes (x : Ctx) (r : Nat) : Ctx := x.modBuddy fun b => { b with writes := b.writes.erase (r, none) }

/-- Writes a scalar register of a context and marks it full; s0 ignores writes (R71). -/
def Ctx.setS (x : Ctx) (i : Nat) (w : Word) : Ctx :=
  if i == 0 then x
  else { x.wrote i (w.setWidth 1024) with s := wr x.s i w, sFull := sb x.sFull i true, sPend := sb x.sPend i false }

/-- Marks a scalar register empty for a late result; s0 stays full (R71). -/
def Ctx.clearS (x : Ctx) (i : Nat) : Ctx :=
  if i == 0 then x else { x.awaits i with sFull := sb x.sFull i false, sPend := sb x.sPend i true }

/-- A scalar register whose late result was refused stays empty, and no result is pending (R322). -/
def Ctx.dropS (x : Ctx) (i : Nat) : Ctx := { x.forgoes i with sPend := sb x.sPend i false }

/-- Writes a vector register and marks it full. -/
def Ctx.setV (x : Ctx) (i : Nat) (w : VWord) : Ctx :=
  { x.wrote (64 + i) w with v := wr x.v i w, vFull := sb x.vFull i true, vPend := sb x.vPend i false }

/-- Marks a vector register empty for a late result. -/
def Ctx.clearV (x : Ctx) (i : Nat) : Ctx :=
  { x.awaits (64 + i) with vFull := sb x.vFull i false, vPend := sb x.vPend i true }

/-- A vector register whose late result was refused stays empty, and no result is pending (R322). -/
def Ctx.dropV (x : Ctx) (i : Nat) : Ctx := { x.forgoes (64 + i) with vPend := sb x.vPend i false }

/-- Writes a common register and marks it full. -/
def Core.setC (k : Core) (i : Nat) (w : Word) : Core :=
  { k with c := wr k.c i w, cFull := sb k.cFull i true, cPend := sb k.cPend i false }

def Core.clearC (k : Core) (i : Nat) : Core := { k with cFull := sb k.cFull i false, cPend := sb k.cPend i true }

/-- Fills a mailbox (R74). -/
def Core.setM (k : Core) (i : Nat) (w : Word) : Core :=
  { k with m := wr k.m i w, mFull := sb k.mFull i true, mPend := sb k.mPend i false }

def Core.clearM (k : Core) (i : Nat) : Core := { k with mFull := sb k.mFull i false, mPend := sb k.mPend i true }

/-- Installs a give notice in m7, or queues it (R72, R74). -/
def Core.giveNotice (k : Core) (w : Word) : Core :=
  if tb k.mFull 7 then { k with m7q := k.m7q ++ [w] } else k.setM 7 w

/-- Empties a mailbox; m7 takes the next queued notice (R72, R74, R232). -/
def Core.takeM (k : Core) (i : Nat) : Core :=
  let k := { k with mFull := sb k.mFull i false }
  if i == 7 then
    match k.m7q with
    | [] => k
    | w :: r => { k with m7q := r }.setM 7 w
  else k

/-- The lanes of 32 bits that a mask selects from `b`, the others from `a`. -/
def maskLanes (mask : BitVec 32) (a b : VWord) : VWord :=
  (List.range 32).foldl (fun r i => if tb mask i then
    (r &&& ~~~ (BitVec.ofNat 1024 (0xFFFFFFFF * 2 ^ (32 * i)))) ||| (b &&& BitVec.ofNat 1024 (0xFFFFFFFF * 2 ^ (32 * i)))
    else r) a

/-- Writes a late result into its register, which becomes full (R72), where the run of its context is. A common or
mailbox register belongs to the core that issued. -/
def State.fill (s : State) (c : CtxId) (run : Nat) (d : Dest) (val : VWord) : State :=
  let w : Word := val.setWidth 64
  match d with
  | .none => s
  | .reg r =>
    let i := r.toNat
    if i < 32 then s.modRun c run fun x => x.setS i w
    else if i < 48 then (s.modRun c run fun x => x.wrote i (w.setWidth 1024)).modCore c.core fun k => k.setC (i - 32) w
    else if i < 56 then (s.modRun c run fun x => x.wrote i (w.setWidth 1024)).modCore c.core fun k => k.setM (i - 48) w
    else s
  | .reg2 _ _ => s
  | .vec v mask keep =>
    s.modRun c run fun x =>
      let old := if keep then rd x.v v.toNat 0 else 0
      x.setV v.toNat (maskLanes mask old val)

/-- Ends the wait for a late result without writing it (R199, R322). -/
def State.unfill (s : State) (c : CtxId) (run : Nat) (d : Dest) : State :=
  match d with
  | .reg r =>
    let i := r.toNat
    if i < 32 then s.modRun c run fun x => x.dropS i
    else if i < 48 then
      (s.modRun c run fun x => x.forgoes i).modCore c.core fun k => { k with cPend := sb k.cPend (i - 32) false }
    else if i < 56 then
      (s.modRun c run fun x => x.forgoes i).modCore c.core fun k => { k with mPend := sb k.mPend (i - 48) false }
    else s
  | .vec v _ _ => s.modRun c run fun x => x.dropV v.toNat
  | _ => s

/-- Whether the destination of a full/empty operation or CWAIT is full. -/
def State.destFull (s : State) (c : CtxId) (d : Dest) : Bool :=
  match d with
  | .reg r =>
    let i := r.toNat
    if i < 32 then tb (s.ctx c).sFull i
    else if i < 48 then tb (s.coreAt c.core).cFull (i - 32)
    else if i < 56 then tb (s.coreAt c.core).mFull (i - 48)
    else true
  | _ => true

/-- Leaves the destination of an operation without effect as it was before its issue (R61, R322). -/
def State.undoDest (s : State) (c : CtxId) (run : Nat) (d : Dest) (was : Bool) : State :=
  let s := s.unfill c run d
  match d with
  | .reg r =>
    let i := r.toNat
    if !was then s
    else if i < 32 then s.modRun c run fun x => { x with sFull := sb x.sFull i true }
    else if i < 48 then s.modCore c.core fun k => { k with cFull := sb k.cFull (i - 32) true }
    else if i < 56 then s.modCore c.core fun k => { k with mFull := sb k.mFull (i - 48) true }
    else s
  | _ => s

/-- Marks a late destination empty at issue (R72); s0 marks nothing (R71). -/
def State.emptyDest (s : State) (c : CtxId) (d : Dest) : State :=
  let one (s : State) (r : Reg) : State :=
    let i := r.toNat
    if i < 32 then s.modCtx c fun x => x.clearS i
    else if i < 48 then (s.modCtx c fun x => x.awaits i).modCore c.core fun k => k.clearC (i - 32)
    else if i < 56 then (s.modCtx c fun x => x.awaits i).modCore c.core fun k => k.clearM (i - 48)
    else s
  match d with
  | .none => s
  | .reg r => one s r
  | .reg2 r b => one (one s r) b
  | .vec v _ _ => s.modCtx c fun x => x.clearV v.toNat

/-! ## Accesses on their way (R91, R104) -/

/-- The unloaded time of an access of a core to a slate of an octet in core or handle form (R91). -/
def slateLat (core octet : Nat) : Nat :=
  let o := octetOf core
  if octet == o then 8 else 8 + 4 * octetHops o octet + 24 * crossings (dieOf core) (octetDie octet)

/-- The unloaded time of an access of a core to a window of core `c` (R91): 4 in window form, else that of the slate's octet. -/
def winLat (core c : Nat) (a : Word) : Nat := if bits a.toNat 39 38 == 0 then 4 else slateLat core (octetOf c)

/-- The unloaded time to device or host memory (R91). -/
def physLat (core p : Nat) : Nat :=
  110 + 24 * crossings (dieOf core) (if isHostKey p then 0 else physDie p)

/-- The unloaded time of an access of a core to an address after a translation-cache hit. -/
def State.lat (s : State) (core : Nat) (a : Word) : Nat :=
  match s.form core a with
  | .window c _ _ => winLat core c a
  | .handle o _ _ _ => slateLat core o
  | .mem off =>
    match s.tlbFind (dieOf core) (s.partOf core) off with
    | some e => physLat core (e.phys off)
    | none => 110
  | _ => 110

/-- What an access needs of the rights at its place (R90). -/
def AccKind.need : AccKind → Need
  | .load _ _ | .vload | .send _ _ _ _ _ _ | .bind _ => .load
  | .ldf | .cwait _ _ => .sync
  | .store _ _ | .vstore _ _ | .atomic _ _ _ _ | .hsift _ _ | .pref | .unref _ | .pmut _ | .count _ _ => .store
  | .ldx | .stx _ | .ring _ _ _ _ | .free _ | .link _ | .splice _ | .join _ _ _ | .cellrd => .fullEmpty
  | .agent _ _ _ | .palloc _ _ _ | .drain _ => .store
  | .tile _ st _ _ => if st then .store else .load

/-- Whether an access writes (R98, R101, R373). -/
def AccKind.writes (k : AccKind) : Bool :=
  match k with
  | .load _ _ | .vload | .cellrd | .send _ _ _ _ _ _ | .bind _ | .ldf | .cwait _ _ => false
  | .tile _ st _ _ => st
  | _ => true

/-- The bytes an access touches at its address. -/
def AccKind.size : AccKind → Nat
  | .load n _ | .store n _ | .atomic _ n _ _ => n
  | .vload | .vstore _ _ => 128
  | .hsift _ _ => 72
  | .send n _ _ _ _ _ => n
  | .bind _ => 64
  | .tile _ _ n _ => n
  | .drain p => p.bytes.length
  | .agent _ _ _ | .palloc _ _ _ => 8
  | .pref | .unref _ | .pmut _ => 8
  | _ => 8

/-- The parts of its bytes that an access touches: a masked vector store those granules of which it writes a lane (R218). -/
def AccKind.parts (k : AccKind) : List (Nat × Nat) :=
  match k with
  | .vstore mask _ =>
    ((List.range 4).filter fun g => mask.toNat / 2 ^ (8 * g) % 256 != 0).map fun g => (32 * g, 32)
  | _ => [(0, k.size)]

/-- The cells that an access reads or writes beside the one at its address: the other cell of a LINK (R39), and the fresh cell
of a SPLICE (R40). -/
def AccKind.others (k : AccKind) : List Word :=
  match k with
  | .link b => [b]
  | .splice n => [n]
  | _ => []

/-- Whether an access is acknowledged as a store is (R104, R263). A plain atomic and the operations that return a value are
counted as loads where R63, R65 and R108 wait for stores (DEDUCED, assumption log 34). -/
def AccKind.acked (k : AccKind) : Bool :=
  match k with
  | .store _ _ | .vstore _ _ | .stx _ | .hsift _ _ | .free _ | .link _ | .splice _ | .join _ _ _ | .pref | .unref _
  | .count _ _ => true
  | _ => false

/-- Whether an access is a CWAIT, which is no plain access (R105, R108). -/
def AccKind.isCwait (k : AccKind) : Bool :=
  match k with
  | .cwait _ _ => true
  | _ => false

/-- Whether an access is a splice, whose request is of class N (R137). -/
def AccKind.isSplice (k : AccKind) : Bool :=
  match k with
  | .splice _ => true
  | _ => false

/-- Ends an access at its core: the plain access is done, or the relaxed count falls (R105, R106). -/
def Ctx.accDone (x : Ctx) (a : Access) : Ctx :=
  if a.kind.isCwait then x
  else if a.rx then
    { x with relaxed := x.relaxed - 1, relStores := if a.kind.acked then x.relStores - 1 else x.relStores }
  else { x with plain := .none }

/-- The die on which an address of a core lies, as far as its translation is known. -/
def State.farDie (s : State) (core : Nat) (a : Word) : Nat :=
  match s.form core a with
  | .window c _ _ => dieOf c
  | .handle o _ _ _ => octetDie o
  | .mem off =>
    match s.tlbFind (dieOf core) (s.partOf core) off with
    | some e => if isDevKey (e.phys off) then physDie (e.phys off) else 0
    | none => dieOf core
  | _ => dieOf core

/-- The die to which the packets of an access go, and from which they come back: that of its address, but not for what an
interface carries on for another node (R97). -/
def State.endDie (s : State) (a : Access) : Nat :=
  if a.who.core < 7680 then s.farDie a.who.core a.addr else dieOf a.who.core

/-- A packet of an access on its way out, or back; one that crosses dies is coded (R142). A request of a splice is of class N
(R137). -/
def State.carryFor (s : State) (a : Access) (out late : Bool) (lat : Nat) (ev : Instr) (arg : StepArg) : State :=
  let d := dieOf a.who.core
  let f := s.endDie a
  if out && a.kind.isSplice then s.sendN a.who.core f 80 lat ev arg
  else if out then s.carry d f false late (16 + if a.kind.writes then a.kind.size else 0) lat ev arg
  else s.carry f d false late (16 + if a.kind.acked || late then 0 else a.kind.size) lat ev arg

/-- The reply or acknowledgement of an access leaves its bank, and arrives the second half of its time later. -/
def State.replyTo (s : State) (a : Access) (val : VWord) : State :=
  let t := a.lat - a.lat / 2
  if a.kind.acked then s.carryFor a false false t .storeAck { acc := a }
  else s.carryFor a false false t .memoryReply { acc := a, vec := val }

/-- The refusal of an access travels back as its reply would, and is taken after the issue of its cycle (R323). -/
def State.refuse (s : State) (a : Access) (cause : Nat) : State :=
  let s := if cause == 0x17 then
      s.notice (dieOf a.who.core) { kind := 0x0B, cause := 0x17, core := a.who.core, ctx := a.who.ctx, value := a.addr }
    else s
  s.carryFor a false true (a.lat - a.lat / 2) .landingFaultReport { acc := a, cause := cause }

/-- A range lock that an access meets (R101): a read lock refuses writes, a write lock every access. -/
def Lock.hits (l : Lock) (slate : Option Nat) (lo n : Nat) (writes : Bool) : Bool :=
  l.slate == slate && lo < l.hi && l.lo < lo + n && (l.write || writes)

/-- The global address that a memory lock compares: node and offset (R101). -/
def lockAddr (a : Word) : Nat := a.toNat % 2 ^ 48

/-- Whether an access meets a memory-range lock of the issuing octet at one of its addresses as it leaves (R101, R360). -/
def State.memLocked (s : State) (core : Nat) (k : AccKind) (a : Word) : Bool :=
  let mem (x : Word) : Bool :=
    match s.form core x with
    | .mem _ => true
    | _ => false
  let hit (x : Word) (n : Nat) : Bool :=
    mem x && (s.octet (octetOf core)).locks.any fun l => l.hits none (lockAddr x) n k.writes
  core < 7680 && ((k.parts.any fun p => hit (a + BitVec.ofNat 64 p.1) p.2) || k.others.any fun x => hit x 8)

/-- Sends an access on its way: it reaches its bank at half its unloaded time (R91). A memory-range lock of the issuing
octet is checked as it leaves (R360); a translation-cache miss adds the walk. -/
def State.route (s : State) (a : Access) : State :=
  if s.memLocked a.who.core a.kind a.addr then s.refuse { a with lat := 4 } 0x13
  else
    match s.form a.who.core a.addr with
    | .window c _ _ =>
      let lat := winLat a.who.core c a.addr
      s.carryFor a true false (lat / 2) .bankAccess { acc := { a with lat := lat } }
    | .handle o _ _ _ =>
      let lat := slateLat a.who.core o
      s.carryFor a true false (lat / 2) .bankAccess { acc := { a with lat := lat } }
    | .mem off =>
      let die := dieOf a.who.core
      let part := s.partOf a.who.core
      match s.tlbFind die part off with
      | some e =>
        let lat := physLat a.who.core (e.phys off)
        s.carryFor a true false (lat / 2) .bankAccess { acc := { a with lat := lat } }
      | none => s.postIn (110 * (s.walk part off).2) .walkDone { acc := { a with lat := 110 } }
    | .remote _ => s.postIn 4 .seatRequest { acc := a, n := 1, die := dieOf a.who.core }
    | .bad => s.refuse { a with lat := 0 } 0x10

end Sys2Proof.Machine
end

