-- ==== Sys2Proof/Machine/Operands.lean ====
section
/-! DEFINITION. Reading operands and writing results: the checks of R170 steps 4 to 6 with R341, the empty policy (R73),
streams in scalar fields (R75, R340), the commit of what a read takes, and the end of an issue. -/

namespace Sys2Proof.Machine

/-- The registers that an instruction names. -/
structure Uses where
  dr : Option Reg := none
  a : Option Src := none
  b : Option Src := none
  c : Option Src := none
  vs : List VSrc := []
  vdr : Option (BitVec 3) := none
  out : List Reg := []
  late : List Reg := []
  vout : Option (BitVec 3) := none
  need : Nat := 0
  codeOk : Bool := true

/-- The values that an instruction reads. -/
structure Vals where
  d : Word := 0
  a : Word := 0
  b : Word := 0
  c : Word := 0
  vs : List VWord := []
  vd : VWord := 0

/-- The scalar reads of an instruction, in the order in which they take stream elements (R340): the register, and the
policy bit, `none` for a read through d. -/
def Uses.reads (u : Uses) : List (Reg × Option Bool) :=
  (u.dr.map fun r => (r, none)).toList ++ ([u.a, u.b, u.c].filterMap id).map fun x => (x.r, some x.e)

/-- How many reads name a register. -/
def countReads (l : List (Reg × Option Bool)) (r : Reg) : Nat := (l.filter fun p => p.1 == r).length

/-- The elements of a bound stream (R227), or where a fault ended it (R359). -/
def Stream.limit (q : Stream) : Nat :=
  q.stopAt.getD (rd q.ns 0 0 * rd q.ns 1 0 * rd q.ns 2 0 * rd q.ns 3 0)

/-- The elements left before exhaustion (R229). -/
def Stream.leftOver (q : Stream) : Nat := q.limit - q.done

/-- Whether a write to an outbound stream must wait: its buffer is full, or the 16 places at its channel's neighbour
(R75, R228). -/
def Core.outFull (k : Core) (q : Stream) : Bool :=
  if q.kind == 1 then 16 ≤ rd k.nbrOut q.ch 0 else 16 ≤ q.buf.length

/-- The stream register that a code names. -/
def State.stream (s : State) (core : Nat) (r : Reg) : Stream := rd (s.coreAt core).q (r.toNat - 56) {}

/-- Whether a code names a stream register. -/
def isStream (r : Reg) : Bool := 56 ≤ r.toNat

/-- Whether a scalar register is full for `n` reads of it (R72, R75); s0 always is. -/
def State.regFull (s : State) (c : CtxId) (r : Reg) (n : Nat) : Bool :=
  let i := r.toNat
  if i == 0 then true
  else if i < 32 then tb (s.ctx c).sFull i
  else if i < 48 then tb (s.coreAt c.core).cFull (i - 32)
  else if i < 56 then tb (s.coreAt c.core).mFull (i - 48)
  else n ≤ (s.stream c.core r).buf.length

/-- Whether a late result is pending into a scalar register (R73). -/
def State.regPend (s : State) (c : CtxId) (r : Reg) : Bool :=
  let i := r.toNat
  if i < 32 then tb (s.ctx c).sPend i
  else if i < 48 then tb (s.coreAt c.core).cPend (i - 32)
  else if i < 56 then tb (s.coreAt c.core).mPend (i - 48)
  else false

/-- The value of a scalar register; read `k` of a stream register takes its element `k` (R340). s0 reads zero (R71). -/
def State.regVal (s : State) (c : CtxId) (r : Reg) (k : Nat) : Word :=
  let i := r.toNat
  if i == 0 then 0
  else if i < 32 then rd (s.ctx c).s i 0
  else if i < 48 then rd (s.coreAt c.core).c (i - 32) 0
  else if i < 56 then rd (s.coreAt c.core).m (i - 48) 0
  else (s.stream c.core r).buf.getD k 0

/-- The first failing stream check of an instruction: 0x0A for a register unbound, held by another context or used
against its direction, then 0x09 for one exhausted (R341). -/
def State.streamFault (s : State) (c : CtxId) (u : Uses) : Option Nat :=
  let run := (s.ctx c).run
  let reads := u.reads
  let mine (r : Reg) : Bool := (s.stream c.core r).bound && (s.stream c.core r).owner == some run
  let inReads := reads.filter fun p => isStream p.1
  let outs := u.out.filter isStream
  if inReads.any (fun p => !mine p.1 || (s.stream c.core p.1).outb) then some 0x0A
  else if outs.any (fun r => !mine r || !(s.stream c.core r).outb) then some 0x0A
  else if inReads.any (fun p => (s.stream c.core p.1).leftOver < countReads reads p.1) then some 0x09
  else if outs.any (fun r => (s.stream c.core r).leftOver == 0) then some 0x09
  else none

/-- Marks that the instruction at pc did not issue, with the wait kind that a save of the context records (R61, R73). -/
def State.block (s : State) (kind : Nat) : State :=
  s.modCtx s.who fun x => { x with wait := .blocked kind, blockedOn := none, starting := false }

/-- Marks that the instruction at pc did not issue, and waits for a register: its context leaves the ready set until that
register lets it go on (R73). -/
def State.blockOn (s : State) (b : Block) : State :=
  s.modCtx s.who fun x => { x with wait := .blocked 1, blockedOn := some b, starting := false }

/-- Whether a stream register has too few elements left for `n` uses, or is unbound, so that a use of it traps (R229, R359). -/
def State.streamOver (s : State) (core : Nat) (r : Reg) (n : Nat) : Bool :=
  isStream r && (!(s.stream core r).bound || (s.stream core r).leftOver < n)

/-- Whether a register lets an instruction that waits for it go on. -/
def State.unblocked (s : State) (c : CtxId) (b : Block) : Bool :=
  match b with
  | .full r n => s.regFull c (BitVec.ofNat 6 r) n || s.streamOver c.core (BitVec.ofNat 6 r) n
  | .pend r => !s.regPend c (BitVec.ofNat 6 r)
  | .vfull v => tb (s.ctx c).vFull v
  | .vpend v => !tb (s.ctx c).vPend v
  | .room r => !(s.coreAt c.core).outFull (s.stream c.core (BitVec.ofNat 6 r)) || s.streamOver c.core (BitVec.ofNat 6 r) 1

/-- The registers that an instruction needs full, free of late results, or with room, in the order in which it looks at them:
its sources in the order of R340, its vector sources, and its destinations. -/
def Uses.blocks (u : Uses) : List Block :=
  (u.reads.map fun p => .full p.1.toNat (countReads u.reads p.1)) ++ (u.vs.map fun v => .vfull v.r.toNat) ++
    (u.vdr.map fun v => .vfull v.toNat).toList ++ ((u.out ++ u.late).map fun r => .pend r.toNat) ++
    (u.vout.map fun v => .vpend v.toNat).toList ++ ((u.out.filter isStream).map fun r => .room r.toNat)

/-- What the reading of operands gives: a trap or a wait, or the values. -/
inductive Peek where
  | stop (s : State)
  | ok (v : Vals)

/-- Steps 4 and 5 of R170: the checks that need no operand. -/
def State.static (s : State) (u : Uses) : Option Nat :=
  if s.priv s.who < u.need then some 0x04
  else if !u.codeOk || (u.out ++ u.late).any (fun r => r == 55) || u.late.any isStream then some 0x05
  else none

/-- Steps 4 to 6 of R170 with R341 and R73, in their order; nothing is taken from a stream or a mailbox yet. -/
def State.peek (s : State) (u : Uses) : Peek :=
  let c := s.who
  let x := s.ctx c
  let reads := u.reads
  match s.static u with
  | some k => .stop (s.trapHere k 0)
  | none =>
    match s.streamFault c u with
    | some k => .stop (s.trapHere k 0)
    | none =>
      let emptyRead (p : Reg × Option Bool) : Bool := !s.regFull c p.1 (countReads reads p.1)
      let emptyVec (v : VSrc) : Bool := !tb x.vFull v.r.toNat
      if reads.any (fun p => p.2 == some true && emptyRead p) || u.vs.any (fun v => v.e && emptyVec v) then
        .stop (s.trapHere 0x08 0)
      else
        match u.blocks.find? fun b => !s.unblocked c b with
        | some b => .stop (s.blockOn b)
        | none =>
        let at' (k : Nat) (r : Reg) : Word := s.regVal c r (countReads (reads.take k) r)
        let nd := if u.dr.isSome then 1 else 0
        let na := nd + if u.a.isSome then 1 else 0
        let nb := na + if u.b.isSome then 1 else 0
        .ok { d := (u.dr.map (at' 0)).getD 0
              a := (u.a.map fun q => at' nd q.r).getD 0
              b := (u.b.map fun q => at' na q.r).getD 0
              c := (u.c.map fun q => at' nb q.r).getD 0
              vs := u.vs.map fun v => rd x.v v.r.toNat 0
              vd := (u.vdr.map fun v => rd x.v v.toNat 0).getD 0 }

/-- Takes what an issued instruction's reads take: stream elements (R75) and m7 once (R72, R340). -/
def State.commit (s : State) (u : Uses) : State :=
  let core := s.who.core
  let reads := u.reads
  let s := if reads.any (fun p => p.1 == 55) then s.modCore core fun k => k.takeM 7 else s
  (List.range 8).foldl (fun s i =>
    let n := countReads reads (BitVec.ofNat 6 (56 + i))
    if n == 0 then s
    else (s.modCore core fun k =>
      { k with q := wr k.q i (let q := rd k.q i {}; { q with buf := q.buf.drop n, done := q.done + n }) }).post s.cycle
        .streamElementMove { core := core, n := i }) s

/-- The low bytes of a value that a stream element keeps (R228). -/
def Stream.trim (q : Stream) (w : Word) : Word := BitVec.ofNat 64 (w.toNat % 2 ^ (8 * 2 ^ q.esz))

/-- Writes a scalar register in the issue cycle (R72, R75): s0 ignores it, and a stream register takes one element. -/
def State.setReg (s : State) (r : Reg) (w : Word) : State :=
  let i := r.toNat
  let c := s.who
  if i < 32 then s.modCtx c fun x => x.setS i w
  else if i < 48 then (s.modCtx c fun x => x.wrote i (w.setWidth 1024)).modCore c.core fun k => k.setC (i - 32) w
  else if i < 56 then (s.modCtx c fun x => x.wrote i (w.setWidth 1024)).modCore c.core fun k => k.setM (i - 48) w
  else (s.modCore c.core fun k =>
    { k with q := wr k.q (i - 56) (let q := rd k.q (i - 56) {}; { q with buf := q.buf ++ [q.trim w], done := q.done + 1 }) }).post
      s.cycle .streamElementMove { core := c.core, n := i - 56 }

/-- The spacing of a hint (R174, R175). -/
def hint (st : Stepping) (w : Word) : Nat :=
  let b := st == .b
  if svOf w == (if b then 2 else 1) then
    (if b then [0, 12, 16, 20, 24, 32, 48, 64, 16, 12, 32, 20, 110, 134, 158, 0]
     else [0, 12, 16, 20, 24, 32, 48, 64, 24, 16, 40, 24, 110, 134, 158, 0]).getD (ctlOf w) 0
  else 0

/-- The context after an issue: it is ready 8 cycles later, and later under a hint (R45, R175); its count of issued
instructions rises (R194), as does a buddy's (R399), and a start's first issue has come. -/
def Ctx.issued (x : Ctx) (cycle : Nat) (w pc : Word) : Ctx :=
  { x.modBuddy (fun b => { b with count := b.count + 1, passed := false }) with
           pc := pc, wait := .none, readyAt := cycle + max 8 (hint Config.stepping w), insCount := x.insCount + 1,
           starting := false, seated := false }

/-- Ends an issue at a given next pc. -/
def State.endAt (s : State) (pc : Word) : State := s.modCtx s.who fun x => x.issued s.cycle s.word pc

/-- Ends an issue at the next instruction (R188). -/
def State.finish (s : State) : State := s.endAt ((s.ctx s.who).pc + 8)

/-- An instruction that reads scalar sources and writes one result in its issue cycle (R180). -/
def State.compute (s : State) (u : Uses) (f : Vals → Word) : State :=
  match s.peek u with
  | .stop t => t
  | .ok v =>
    match u.out with
    | [d] => ((s.commit u).setReg d (f v)).finish
    | _ => (s.commit u).finish

/-- Sets sticky flags of the issuing context (R134). -/
def State.raise (s : State) (fl : BitVec 5) : State := s.modCtx s.who fun x => { x with flags := x.flags ||| fl }

/-! ## Issue conditions of memory instructions (R105, R106, R108) -/

/-- A plain access, or an instruction that waits for a relaxed count of zero and no plain access (R105, R108). -/
def Ctx.quiet (x : Ctx) : Bool := x.plain == .none && x.relaxed == 0

/-- A relaxed access may issue (R106). -/
def Ctx.relaxedOk (x : Ctx) : Bool := x.plain == .none && x.relaxed < 8

/-- ARRIVE, GIVE, END and CUT wait for this (R108): relaxed count zero, every store acknowledged. -/
def Ctx.storesDone (x : Ctx) : Bool := x.relaxed == 0 && x.plain != .store

/-- MIGR waits for this (R63): every store acknowledged. -/
def Ctx.acked (x : Ctx) : Bool := x.relStores == 0 && x.plain != .store

/-- The issue-cycle checks of an address in one of the issuing core's own windows, or malformed (R199, R342). -/
def State.ownFault (s : State) (a : Word) (n : Need) : Option Nat :=
  match s.form s.who.core a with
  | .bad => some 0x10
  | .window c w off =>
    if c == s.who.core && bits a.toNat 39 38 == 0 then
      match s.protect s.who.core false (.window c w off) n with
      | .error k => some k
      | .ok _ => none
    else none
  | _ => none

/-- Whether a global address lies in slate space (R87). -/
def inSlateSpace (a : Word) : Bool := bits a.toNat 47 40 == 0x0F

/-- An access of a buddy context as it leaves (R399): a store enters the buffer, and is done; a load or another access of the
even core goes to its bank under its load number, and the odd core's waits for that one's reply. A CWAIT is each core's own. -/
def State.buddyRoute (s : State) (b : Buddy) (a : Access) : State :=
  let c := a.who
  let held := match a.kind with
    | .store _ _ | .vstore _ _ => true
    | _ => false
  if a.kind.isCwait then s.route a
  else if held then s.modCtx c fun x => (x.accDone a).modBuddy fun b => { b with buf := b.buf ++ [a] }
  else if b.even then
    (s.modCtx c fun x => x.modBuddy fun b => { b with loads := b.loads + 1, sent := b.sent ++ [(a.id, b.loads)] }).route a
  else
    match b.replies.find? fun r => r.1 == b.loads with
    | some r =>
      let s := s.modCtx c fun x => x.modBuddy fun b =>
        { b with loads := b.loads + 1, replies := b.replies.filter fun q => q.1 != r.1 }
      if r.2.1 != 0 then s.postLate (s.cycle + 1) .landingFaultReport { acc := a, cause := r.2.1 }
      else if a.kind.acked then s.post (s.cycle + 1) .storeAck { acc := a }
      else s.post (s.cycle + 1) .memoryReply { acc := a, vec := r.2.2 }
    | none => s.modCtx c fun x => x.modBuddy fun b => { b with loads := b.loads + 1, opened := b.opened ++ [(b.loads, a)] }

/-- Starts an access of the issuing context: it is outstanding from now (R104), and its late destination is empty (R72). `ea` is
the effective address of a local form, whose access has the window form of it (R196). -/
def State.startAccess (s : State) (k : AccKind) (addr : Word) (rx : Bool) (dest : Dest) (ea : Option Word := none) : State :=
  let c := s.who
  let x := s.ctx c
  let (i, s) := s.newId
  let a : Access :=
    { id := i, run := x.run, who := c, kind := k, addr := addr, rx := rx, dest := dest, pc := x.pc, word := s.word,
      issued := s.cycle, staff := s.priv c == 2, limit := x.waitLimit.toNat, was := s.destFull c dest, ea := ea }
  let s := s.emptyDest c dest
  let s := s.modCtx c fun x =>
    if k.isCwait then x
    else if rx then { x with relaxed := x.relaxed + 1, relStores := if k.acked then x.relStores + 1 else x.relStores }
    else { x with plain := if k.acked then .store else .load }
  match x.buddy with
  | some b => s.buddyRoute b a
  | none => s.route a

/-- An instruction that first waits, without an issue slot, on the accesses of its context (R105 to R108): the checks that
need no operand come before the wait, and the operands are read after it. -/
def State.waiting (s : State) (u : Uses) (ok : Ctx → Bool) (f : Vals → State → State) : State :=
  match s.static u with
  | some k => s.trapHere k 0
  | none =>
    if !ok (s.ctx s.who) then s.block 0
    else
      match s.peek u with
      | .stop t => t
      | .ok v => f v s

/-- What a memory instruction asks for. -/
structure MemReq where
  kind : AccKind
  ea : Word
  align : Nat
  dest : Dest := .none

/-- A load, store or atomic (R196 to R200, R203): its issue conditions, its issue-cycle checks in the order of R199,
and its access. -/
def State.memIssue (s : State) (u : Uses) (rx glob : Bool) (f : Vals → MemReq) : State :=
  s.waiting u (if rx then Ctx.relaxedOk else Ctx.quiet) fun v s =>
    let m := f v
    let addr := if glob then m.ea else localAddr m.ea
    if m.ea.toNat % m.align != 0 then s.trapHere 0x15 m.ea
    else
      match s.ownFault addr m.kind.need with
      | some k => s.trapHere k m.ea
      | none => ((s.commit u).startAccess m.kind addr rx m.dest (some m.ea)).finish

/-- A full/empty operation (R201, R202): it waits at its word, and the pc stays at it until it completes. -/
def State.feIssue (s : State) (u : Uses) (glob : Bool) (f : Vals → MemReq) : State :=
  s.waiting u Ctx.quiet fun v s =>
    let m := f v
    let addr := if glob then m.ea else localAddr m.ea
    if m.ea.toNat % 8 != 0 then s.trapHere 0x15 m.ea
    else if !inSlateSpace addr then s.trapHere 0x16 m.ea
    else
      match s.ownFault addr m.kind.need with
      | some k => s.trapHere k m.ea
      | none =>
        let id := (s.commit u).seq
        let t := (s.commit u).startAccess m.kind addr false m.dest (some m.ea)
        (t.endAt (t.ctx s.who).pc).modCtx s.who fun x => { x with wait := .reply id }

end Sys2Proof.Machine
end

