-- ==== Sys2Proof/Machine/Errors.lean ====
section
/-! DEFINITION. Storage errors: poison and retire marks (R366, R367), the stripes of slates and their rewrite (R370,
R371), and watchpoints (R372, R373). -/

namespace Sys2Proof.Machine

/-- Whether a granule that `n` bytes from a key touch is poisoned. -/
def State.isPoisoned (s : State) (k n : Nat) : Bool := (granulesOf k n).any fun g => memNat g s.poison

/-- Poisons a granule. -/
def State.addPoison (s : State) (g : Nat) : State := { s with poison := insNat g s.poison }

/-- Writes a line of the Prefect's log: time, die and value; the oldest of 4,096 lines goes first (R162). -/
def State.prefectLog (s : State) (die value : Nat) : State :=
  let l := s.prefect.log ++ [(s.cycle, die, value)]
  { s with prefect := { s.prefect with log := if 4096 < l.length then l.drop (l.length - 4096) else l } }

/-- An uncorrectable error of device memory: the granule is poisoned, its frame is marked while the stack has marks left,
and FRAME_RETIRED is posted (R366, R367). -/
def State.memoryError (s : State) (g : Nat) : State :=
  let p := g * 32
  let die := physDie p
  let s := s.addPoison g
  let d := s.die die
  let stack := p / 2 ^ 36
  if (d.retired.filter fun f => f * 65536 / 2 ^ 36 == stack).length < 256 then
    (s.setDie die { d with retired := insNat (p / 65536) d.retired }).notice die
      { kind := 0x04, value := BitVec.ofNat 64 (p / 65536 * 65536) }
  else s

/-- Whether a frame carries a retire mark (R367). -/
def State.isRetired (s : State) (p : Nat) : Bool := isDevKey p && memNat (p / 65536) (s.die (physDie p)).retired

/-- Marks a slate failing after a word of it was rebuilt twice (R370, R371). -/
def State.failSlate (s : State) (octet slate : Nat) : State :=
  let o := s.octet octet
  match o.failing.find? (·.slate == slate) with
  | some f =>
    if f.pos < 8192 || f.stays then s
    else if s.cycle < f.since + 2 ^ 24 then
      s.setOctet octet { o with failing := mapIf (·.slate == slate) (fun f => { f with stays := true }) o.failing }
    else
      (s.setOctet octet { o with failing := mapIf (·.slate == slate) (fun f => { f with since := s.cycle, pos := 0 }) o.failing }).post
        (s.cycle + 1) .slateRewrite { octet := octet, n := slate }
  | none =>
    (s.setOctet octet { o with failing := { slate := slate, since := s.cycle } :: o.failing }).post (s.cycle + 1)
      .slateRewrite { octet := octet, n := slate }

/-- Whether a slate is served in degraded mode (R371). -/
def State.degraded (s : State) (octet slate : Nat) : Bool :=
  (s.octet octet).failing.any fun f => f.slate == slate && (f.pos < 8192 || f.stays)

/-- Whether two slate words lie at one position of one stripe (R94). -/
def sameStripe (a b : Nat) : Bool :=
  let x := a * 8 - 2 ^ 48
  let y := b * 8 - 2 ^ 48
  x / 65536 / 8 == y / 65536 / 8 && x % 65536 == y % 65536

/-- A slate word rebuilt from its stripe (R370, R371): a second uncorrectable word at its place in the stripe poisons it. -/
def State.fromStripe (s : State) (w : Nat) : State :=
  let other := s.latent.any fun e =>
    match e with
    | .slateWord v b => v != w && 1 < b && sameStripe v w
    | _ => false
  if other then s.addPoison (w / 4) else s

/-- The rebuild of a slate word that meets an uncorrectable error (R370); the second within 2^20 cycles marks its slate. -/
def State.rebuildWord (s : State) (w : Nat) : State :=
  let octet := keyOctet (w * 8)
  let slate := keySlate (w * 8)
  let s := s.fromStripe w
  let o := s.octet octet
  let twice := o.rebuilt.any fun p => p.1 == w && s.cycle < p.2 + 2 ^ 20
  let s := s.setOctet octet { o with rebuilt := (w, s.cycle) :: o.rebuilt.filter fun p => p.1 != w }
  if twice then s.failSlate octet slate else s

/-- The latent errors that a read of `n` bytes from a key meets (R366, R370, R382), and the cycles they add. A slate in degraded
mode gives every word from its stripe (R371). -/
def State.meetErrors (s : State) (k n : Nat) : State × Nat :=
  let hit (e : Latent) : Bool :=
    match e with
    | .memory g _ => k < g * 32 + 32 && g * 32 < k + n
    | .slateWord w _ => k < w * 8 + 8 && w * 8 < k + n
    | .tileWord w _ => k < w * 8 + 8 && w * 8 < k + n
    | .block _ _ => false
  let bad := isSlateKey k && s.degraded (keyOctet k) (keySlate k)
  let start := if bad then ((wordsOf k n).foldl State.fromStripe s, 6) else (s, 0)
  (s.latent.filter hit).foldl (fun (s, t) e =>
    let s := { s with latent := s.latent.filter fun x => x != e }
    match e with
    | .memory g b => if 1 < b then (s.memoryError g, t) else (s.prefectLog (physDie (g * 32)) 0, t)
    | .slateWord w b => if 1 < b then (s.rebuildWord w, 6) else (s.prefectLog (octetDie (keyOctet (w * 8))) 0, t)
    | .tileWord w b => if 1 < b then (s.addPoison (w / 4), t) else (s.prefectLog (dieOf ((w * 8 - 2 ^ 49) / 131072)) 0, t)
    | .block _ _ => (s, t)) start

/-- The watchpoints of a stack's die that a write of `n` bytes matches (R372, R373), by number. -/
def State.watchHits (s : State) (p n : Nat) : List Nat :=
  if isDevKey p then
    let d := s.die (physDie p)
    (List.range 8).filter fun i =>
      let lo := (rd d.watchLo i 0).toNat
      let hi := (rd d.watchHi i 0).toNat
      bitAt lo 63 && (granulesOf p n).any fun g => bits lo 47 5 ≤ g && g ≤ bits hi 47 5
  else []

/-- Posts WATCH_HIT for the watchpoints that an operation has not met before, and gives those it has met now (R373). -/
def State.postWatch (s : State) (p : Nat) (hits seen : List Nat) (a word : Word) : State × List Nat :=
  hits.foldl (fun (s, seen) i =>
    if memNat (physDie p * 8 + i) seen then (s, seen)
    else (s.notice (physDie p) { kind := 0x05, value := a, word := word }, insNat (physDie p * 8 + i) seen)) (s, seen)

/-- One word of the rewrite of a failing slate, in a cycle in which its bank is idle (R371): the word comes from its stripe. -/
def execSlateRewrite (s : State) : Host.Outcome State Fault Refusal :=
  let o := s.arg.octet
  let x := s.octet o
  match x.failing.find? (·.slate == s.arg.n) with
  | none => .next s
  | some f =>
    if 8192 ≤ f.pos then .next s
    else if s.cycle < s.bankFrom (slateKey o f.slate 0) then .next (s.post (s.cycle + 1) .slateRewrite s.arg)
    else
      let w := slateKey o f.slate (f.pos * 8) / 8
      let s := s.fromStripe w
      let s := { s with latent := s.latent.filter fun e => match e with
                  | .slateWord v _ => v != w
                  | _ => true }
      let s := s.setOctet o { x with failing := mapIf (·.slate == f.slate) (fun f => { f with pos := f.pos + 1 }) x.failing }
      if f.pos + 1 < 8192 then .next (s.post (s.cycle + 1) .slateRewrite s.arg)
      else if f.stays then .next s
      else .next (s.notice (octetDie o) { kind := 0x0E, value := BitVec.ofNat 64 (o * 2 ^ 32 + f.slate) })

end Sys2Proof.Machine
end

