-- ==== Sys2Proof/Machine/Numbers.lean ====
section
/-! DEFINITION. The number formats of 07: exact values, decoding and encoding, the roundings of R125, R129, R130 and
R132, Tint blocks (R122, R123, R133), and the arithmetic on exact values. -/

namespace Sys2Proof.Machine

/-! ## Exact values -/

/-- An exact value: a NaN, an infinity, or a sign with the magnitude `m / d * 2 ^ e`. -/
inductive Num where
  | nan
  | inf (neg : Bool)
  | fin (neg : Bool) (m : Nat) (e : Int) (d : Nat)
deriving DecidableEq, Repr, Inhabited

/-- Two to an integer power, as a numerator and a denominator. -/
def pow2 (e : Int) : Nat × Nat := if e < 0 then (1, 2 ^ (-e).toNat) else (2 ^ e.toNat, 1)

/-- A magnitude as a fraction. -/
def frac (m : Nat) (e : Int) (d : Nat) : Nat × Nat := (m * (pow2 e).1, d * (pow2 e).2)

/-- The bits of a number: 0 for 0, else the place of its highest bit plus one. -/
def bitLen (n : Nat) : Nat := if n == 0 then 0 else Nat.log2 n + 1

/-- The exponent of the highest bit of a fraction: floor (log2 (n / d)), for n and d positive. -/
def floorLog2 (n d : Nat) : Int :=
  let g : Int := (bitLen n : Int) - (bitLen d : Int)
  let (a, b) := pow2 g
  if a * d ≤ n * b then g else g - 1

/-- The sign of an exact value. -/
def Num.neg : Num → Bool
  | .nan => false
  | .inf s => s
  | .fin s _ _ _ => s

/-- Whether a value is zero. -/
def Num.isZero : Num → Bool
  | .fin _ 0 _ _ => true
  | _ => false

def Num.isNan : Num → Bool
  | .nan => true
  | _ => false

def Num.isInf : Num → Bool
  | .inf _ => true
  | _ => false

/-- The opposite of a value. -/
def Num.opp : Num → Num
  | .nan => .nan
  | .inf s => .inf (!s)
  | .fin s m e d => .fin (!s) m e d

def Num.abs : Num → Num
  | .nan => .nan
  | .inf _ => .inf false
  | .fin _ m e d => .fin false m e d

/-- An integer as an exact value. -/
def Num.ofInt (i : Int) : Num := .fin (i < 0) i.natAbs 0 1

def Num.zero : Num := .fin false 0 0 1

/-- Exact sum; an exact zero takes the sign `zs` unless both addends have one sign. -/
def Num.add (x y : Num) (zs : Bool := false) : Num :=
  match x, y with
  | .nan, _ => .nan
  | _, .nan => .nan
  | .inf s, .inf t => if s == t then .inf s else .nan
  | .inf s, _ => .inf s
  | _, .inf t => .inf t
  | .fin s m e d, .fin t n f g =>
    let lo := if e ≤ f then e else f
    let a := m * 2 ^ (e - lo).toNat * g
    let b := n * 2 ^ (f - lo).toNat * d
    if s == t then .fin s (a + b) lo (d * g)
    else if a == b then .fin zs 0 0 1
    else if b < a then .fin s (a - b) lo (d * g)
    else .fin t (b - a) lo (d * g)

/-- Exact product; zero times infinity is NaN. -/
def Num.mul (x y : Num) : Num :=
  match x, y with
  | .nan, _ => .nan
  | _, .nan => .nan
  | .inf s, y => if y.isZero then .nan else .inf (s != y.neg)
  | x, .inf t => if x.isZero then .nan else .inf (x.neg != t)
  | .fin s m e d, .fin t n f g => .fin (s != t) (m * n) (e + f) (d * g)

/-- Exact quotient of finite or infinite values (R212). -/
def Num.div (x y : Num) : Num :=
  match x, y with
  | .nan, _ => .nan
  | _, .nan => .nan
  | .inf _, .inf _ => .nan
  | .inf s, y => .inf (s != y.neg)
  | .fin s _ _ _, .inf t => .fin (s != t) 0 0 1
  | .fin s m e d, .fin t n f g =>
    if n == 0 then (if m == 0 then .nan else .inf (s != t)) else .fin (s != t) (m * g) (e - f) (d * n)

/-- Whether one value is below another, with -0 equal to +0; false with a NaN. -/
def Num.lt (x y : Num) : Bool :=
  match x, y with
  | .nan, _ => false
  | _, .nan => false
  | .inf s, .inf t => s && !t
  | .inf s, _ => s
  | _, .inf t => !t
  | .fin s m e d, .fin t n f g =>
    let a := (frac m e d).1 * (frac n f g).2
    let b := (frac n f g).1 * (frac m e d).2
    if m == 0 && n == 0 then false
    else if m == 0 then !t
    else if n == 0 then s
    else if s != t then s
    else if s then b < a else a < b

/-- Numeric equality, with -0 equal to +0; false with a NaN. -/
def Num.eqv (x y : Num) : Bool := !x.isNan && !y.isNan && !x.lt y && !y.lt x

/-- The order of minimum and maximum: -0 below +0 (R212). -/
def Num.below (x y : Num) : Bool := x.lt y || (x.isZero && y.isZero && x.neg && !y.neg)

def Num.min (x y : Num) : Num := if x.isNan || y.isNan then .nan else if y.below x then y else x
def Num.max (x y : Num) : Num := if x.isNan || y.isNan then .nan else if x.below y then y else x

/-! ## Roots and exponentials -/

/-- Newton's steps for the integer square root. -/
def sqrtStep (n : Nat) : Nat → Nat → Nat
  | 0, x => x
  | f + 1, x => let y := (x + n / x) / 2; if y < x then sqrtStep n f y else x

/-- The integer square root. -/
def isqrt (n : Nat) : Nat := if n == 0 then 0 else sqrtStep n (bitLen n + 8) (2 ^ ((bitLen n + 1) / 2))

/-- A fraction's value kept at `p` bits below its highest bit, with one more bit that says it is inexact: rounding to
fewer bits gives what the exact value gives. -/
def sticky (q : Nat) (exact : Bool) (e : Int) : Num := if exact then .fin false q e 1 else .fin false (2 * q + 1) (e - 1) 1

/-- The square root of a positive value, exact up to its sticky bit. -/
def Num.sqrt (x : Num) : Num :=
  match x with
  | .fin false m e d =>
    let (n, k) := frac m e d
    let p := 160 + bitLen k
    let v := n * 2 ^ (2 * p) / k
    let r := isqrt v
    sticky r (r * r * k == n * 2 ^ (2 * p)) (-(p : Int))
  | x => x

/-- The working precision of 2^x and log2 x, in bits (DEDUCED, assumption log 8). -/
def expBits : Nat := 320

/-- The product of 2^(2^-i) over the set bits of a fraction of `w` bits: `r` is the present root at `expBits` bits. -/
def expMul (f w : Nat) : Nat → Nat → Nat → Nat
  | 0, _, acc => acc
  | k + 1, r, acc =>
    let r := isqrt (r * 2 ^ expBits)
    let i := w - (k + 1) + 1
    expMul f w k r (if f / 2 ^ (w - i) % 2 == 1 then acc * r / 2 ^ expBits else acc)

/-- 2 to a finite power. -/
def Num.exp2 (x : Num) : Num :=
  match x with
  | .nan => .nan
  | .inf true => .fin false 0 0 1
  | .inf false => .inf false
  | .fin s m e d =>
    let (n, k) := frac m e d
    if n == 0 then .fin false 1 0 1
    else if 1024 ≤ n / k then (if s then .fin false 1 (-2000) 1 else .fin false 1 2000 1)
    else
      let w : Nat := 270
      let v : Nat := n * 2 ^ w / k
      let exact := v * k == n * 2 ^ w
      let whole := v / 2 ^ w
      let f := v % 2 ^ w
      if f == 0 && exact then .fin false 1 (if s then -(whole : Int) else (whole : Int)) 1
      else
        let f := if f == 0 then 1 else f
        let up := if s then 2 ^ w - f else f
        let base : Int := if s then -(whole : Int) - 1 else (whole : Int)
        sticky (expMul up w w (2 ^ (expBits + 1)) (2 ^ expBits)) false (base - (expBits : Int))

/-- The bits of log2 of `z`, 1 to 2 at 512 bits, by squaring. -/
def logBits : Nat → Nat → Nat → Nat
  | 0, _, acc => acc
  | k + 1, z, acc =>
    let y := z * z / 2 ^ 512
    if 2 ^ 513 ≤ y then logBits k (y / 2) (2 * acc + 1) else logBits k y (2 * acc)

/-- log2 of a positive value. -/
def Num.log2 (x : Num) : Num :=
  match x with
  | .fin false m e d =>
    let (n, k) := frac m e d
    let g := floorLog2 n k
    let (a, b) := pow2 g
    let z := n * b * 2 ^ 512 / (k * a)
    if n * b == k * a then Num.ofInt g
    else
      let f := logBits 200 z 0
      let v : Int := g * (2 ^ 201 : Int) + 2 * (f : Int) + 1
      .fin (v < 0) v.natAbs (-201) 1
  | x => x

/-! ## Rounding onto a grid (R129, R130) -/

/-- Rounding modes by code (R129). -/
inductive Mode where
  | rne | rz | ru | rd | sr
deriving DecidableEq, Repr, Inhabited

/-- A code of R129; 5 to 7 do not occur. -/
def Mode.ofCode (n : Nat) : Mode :=
  match n with
  | 0 => .rne | 1 => .rz | 2 => .ru | 3 => .rd | _ => .sr

/-- The generator of R130. -/
def nextRandom (z : BitVec 32) : BitVec 32 :=
  let z := z ^^^ (z <<< 13)
  let z := z ^^^ (z >>> 17)
  z ^^^ (z <<< 5)

/-- A magnitude on a grid: `q * 2 ^ u`, whether it is inexact, and the generator after it. -/
structure Rounded where
  q : Nat
  u : Int
  inexact : Bool
  rng : BitVec 32
deriving DecidableEq, Repr, Inhabited

/-- The fraction `n / k`, of the given sign, rounded onto the multiples of `2 ^ u`. -/
def roundAt (neg : Bool) (n k : Nat) (u : Int) (mode : Mode) (rng : BitVec 32) : Rounded :=
  let (a, b) := pow2 u
  let num := n * b
  let den := k * a
  let q := num / den
  let r := num % den
  if r == 0 then ⟨q, u, false, rng⟩
  else
    match mode with
    | .rne => ⟨if den < 2 * r || (den == 2 * r && q % 2 == 1) then q + 1 else q, u, true, rng⟩
    | .rz => ⟨q, u, true, rng⟩
    | .ru => ⟨if neg then q else q + 1, u, true, rng⟩
    | .rd => ⟨if neg then q + 1 else q, u, true, rng⟩
    | .sr =>
      let z := nextRandom rng
      ⟨if z.toNat / 256 < r * 2 ^ 24 / den then q + 1 else q, u, true, z⟩

/-- A floating-point format: significand bits with the hidden one, exponent of the smallest normal, exponent bits,
the largest finite value `maxM * 2 ^ maxE`, and whether it has infinities and NaNs (R118, R119). -/
structure FSpec where
  prec : Nat
  emin : Int
  ebits : Nat
  maxM : Nat
  maxE : Int
  hasInf : Bool
  nan : Option Nat
deriving DecidableEq, Repr, Inhabited

/-- The tables of R118, R119 and R136. -/
def fmtSpec : Fmt → Option FSpec
  | .fp32 => some ⟨24, -126, 8, 2 ^ 24 - 1, 104, true, some 0x7FC00000⟩
  | .fp16 => some ⟨11, -14, 5, 2 ^ 11 - 1, 5, true, some 0x7E00⟩
  | .bf16 => some ⟨8, -126, 8, 2 ^ 8 - 1, 120, true, some 0x7FC0⟩
  | .e4m3 => some ⟨4, -6, 4, 14, 5, false, some 0x7F⟩
  | .e5m2 => some ⟨3, -14, 5, 7, 13, true, some 0x7E⟩
  | .e3m2 => some ⟨3, -2, 3, 7, 2, false, none⟩
  | .e2m1 => some ⟨2, 0, 2, 3, 1, false, none⟩
  | _ => none

/-- A float's encoding as an exact value. -/
def decodeFloat (f : FSpec) (x : Nat) : Num :=
  let fb := f.prec - 1
  let s := bitAt x (fb + f.ebits)
  let e := x / 2 ^ fb % 2 ^ f.ebits
  let m := x % 2 ^ fb
  if e == 2 ^ f.ebits - 1 && f.hasInf then (if m == 0 then .inf s else .nan)
  else if f.nan.isSome && !f.hasInf && e == 2 ^ f.ebits - 1 && m == 2 ^ fb - 1 then .nan
  else if e == 0 then .fin s m (f.emin - fb) 1
  else .fin s (2 ^ fb + m) (f.emin - fb + (e - 1 : Int)) 1

/-- A two's-complement integer of `w` bits. -/
def signedOf (w x : Nat) : Int := if x % 2 ^ w < 2 ^ (w - 1) then (x % 2 ^ w : Int) else (x % 2 ^ w : Int) - 2 ^ w

/-- An element's bits as an exact value, for the formats without a shared exponent. -/
def fmtValue (f : Fmt) (x : Nat) : Num :=
  match fmtSpec f with
  | some sp => decodeFloat sp x
  | none => Num.ofInt (signedOf f.width x)

/-- A finite rounded magnitude's encoding. -/
def encodeFinite (f : FSpec) (neg : Bool) (q : Nat) (u : Int) : Nat :=
  let fb := f.prec - 1
  let s := if neg then 2 ^ (fb + f.ebits) else 0
  if q == 0 then s
  else
    let l := bitLen q
    let e := u + (l : Int) - 1
    if e < f.emin then s + q * 2 ^ (u - (f.emin - fb)).toNat
    else
      let m := if f.prec ≤ l then q / 2 ^ (l - f.prec) else q * 2 ^ (f.prec - l)
      s + (e - f.emin + 1).toNat * 2 ^ fb + (m - 2 ^ fb)

/-- The largest finite encoding of a sign. -/
def FSpec.maxEnc (f : FSpec) (neg : Bool) : Nat := encodeFinite f neg f.maxM f.maxE

/-- The infinity of a sign. -/
def FSpec.infEnc (f : FSpec) (neg : Bool) : Nat :=
  (if neg then 2 ^ (f.prec - 1 + f.ebits) else 0) + (2 ^ f.ebits - 1) * 2 ^ (f.prec - 1)

/-- The flags of R81, bits 4 to 0: invalid, divide by zero, overflow, underflow, inexact. -/
abbrev FFlags := BitVec 5

def fInvalid : FFlags := 16
def fDivZero : FFlags := 8
def fOverflow : FFlags := 4
def fUnderflow : FFlags := 2
def fInexact : FFlags := 1

/-- A rounded element: its encoding, the flags of R134, the generator, and whether it is a subnormal result. -/
structure Out where
  enc : Nat
  flags : FFlags
  rng : BitVec 32
  sub : Bool
deriving DecidableEq, Repr, Inhabited

/-- The unit of the last place of the grid of a format at a magnitude: subnormals below, no limit above (R132). -/
def FSpec.ulp (f : FSpec) (n k : Nat) : Int :=
  let e := floorLog2 n k
  (if e < f.emin then f.emin else e) - (f.prec - 1 : Int)

/-- Whether a finite non-zero value is tiny after rounding (R134). -/
def FSpec.tiny (f : FSpec) (neg : Bool) (n k : Nat) (mode : Mode) (r : Rounded) : Bool :=
  let lim := pow2 f.emin
  let below (q : Nat) (u : Int) : Bool := q * (pow2 u).1 * lim.2 < lim.1 * (pow2 u).2
  match mode with
  | .sr => below r.q r.u
  | _ =>
    let z := roundAt neg n k (floorLog2 n k - (f.prec - 1 : Int)) mode 0
    below z.q z.u

/-- RoundNarrow into a float format (R132), with flags (R134). -/
def roundFloat (f : FSpec) (x : Num) (mode : Mode) (nf : Bool) (rng : BitVec 32) : Out :=
  match x with
  | .nan =>
    match f.nan with
    | some c => ⟨c, 0, rng, false⟩
    | none => ⟨0, fInvalid, rng, false⟩
  | .inf s =>
    if nf then
      if f.hasInf then ⟨f.infEnc s, 0, rng, false⟩
      else
        match f.nan with
        | some c => ⟨c, fInvalid, rng, false⟩
        | none => ⟨f.maxEnc s, fInvalid, rng, false⟩
    else ⟨f.maxEnc s, fInvalid, rng, false⟩
  | .fin s m e d =>
    let (n, k) := frac m e d
    if n == 0 then ⟨encodeFinite f s 0 0, 0, rng, false⟩
    else
      let r := roundAt s n k (f.ulp n k) mode rng
      let a := pow2 r.u
      let b := pow2 f.maxE
      if f.maxM * b.1 * a.2 < r.q * a.1 * b.2 then
        let fl := fOverflow ||| fInexact
        let sat := mode == .rz || (mode == .rd && !s) || (mode == .ru && s)
        if !nf || sat then ⟨f.maxEnc s, fl, r.rng, false⟩
        else if f.hasInf then ⟨f.infEnc s, fl, r.rng, false⟩
        else
          match f.nan with
          | some c => ⟨c, fl, r.rng, false⟩
          | none => ⟨f.maxEnc s, fl, r.rng, false⟩
      else
        let tiny := f.tiny s n k mode r
        let c := encodeFinite f s r.q r.u
        ⟨c, (if r.inexact then fInexact else 0) ||| (if r.inexact && tiny then fUnderflow else 0), r.rng,
          c / 2 ^ (f.prec - 1) % 2 ^ f.ebits == 0 && c % 2 ^ (f.prec - 1) != 0⟩

/-- RoundNarrow into an integer format of `w` bits (R132, R221). A value that rounds to -2^(w-1), which the format represents (R120),
does not overflow (DEDUCED, assumption log 76). -/
def roundInt (w : Nat) (x : Num) (mode : Mode) (rng : BitVec 32) : Out :=
  let mx (s : Bool) : Nat := if s then 2 ^ (w - 1) else 2 ^ (w - 1) - 1
  match x with
  | .nan => ⟨0, fInvalid, rng, false⟩
  | .inf s => ⟨mx s, fInvalid, rng, false⟩
  | .fin s m e d =>
    let (n, k) := frac m e d
    let r := roundAt s n k 0 mode rng
    if mx s < r.q then ⟨mx s, fOverflow ||| fInexact, r.rng, false⟩
    else ⟨(if s then 2 ^ w - r.q else r.q) % 2 ^ w, if r.inexact then fInexact else 0, r.rng, false⟩

/-- RoundNarrow (R132). -/
def roundNarrow (f : Fmt) (x : Num) (mode : Mode) (nf : Bool) (rng : BitVec 32) : Out :=
  match fmtSpec f with
  | some sp => roundFloat sp x mode nf rng
  | none => roundInt f.width x mode rng

/-! ## AW40 (R124, R125) -/

def aw40Nan : Aw40 := 0x7FE0000000

/-- An AW40 value; e = 0 reads as zero (R124). -/
def aw40Val (x : Aw40) : Num :=
  let v := x.toNat
  let s := bitAt v 39
  let e := bits v 38 30
  let f := v % 2 ^ 30
  if e == 511 then (if f == 0 then .inf s else .nan)
  else if e == 0 then .fin s 0 0 1
  else .fin s (2 ^ 30 + f) ((e : Int) - 285) 1

/-- RoundAW40 (R125). -/
def roundAW40 (x : Num) : Aw40 :=
  match x with
  | .nan => aw40Nan
  | .inf s => BitVec.ofNat 40 ((if s then 2 ^ 39 else 0) + 511 * 2 ^ 30)
  | .fin s m e d =>
    let sg := if s then 2 ^ 39 else 0
    let (n, k) := frac m e d
    if n == 0 then BitVec.ofNat 40 sg
    else
      let r := roundAt s n k (floorLog2 n k - 30) .rne 0
      let (q, u) := if r.q == 2 ^ 31 then (2 ^ 30, r.u + 1) else (r.q, r.u)
      let ex := u + 30 + 255
      if 511 ≤ ex then BitVec.ofNat 40 (sg + 511 * 2 ^ 30)
      else if ex < 1 then BitVec.ofNat 40 sg
      else BitVec.ofNat 40 (sg + ex.toNat * 2 ^ 30 + (q - 2 ^ 30))

/-- A loaded AW40 value: e = 0 with a fraction is held as zero (R250). -/
def aw40Load (x : Aw40) : Aw40 := if bits x.toNat 38 30 == 0 then x &&& 0x8000000000 else x

/-! ## Tint blocks (R122, R123, R133) -/

/-- The magnitude bits of a Tint format. -/
def tintMag (f : Fmt) : Nat := f.width - 1

/-- The value of element `j` of a block (R123). -/
def tintValue (f : Fmt) (header elem j : Nat) : Num :=
  let m := tintMag f
  let e := header / 256 % 256
  let mu := header / 2 ^ (j / 2) % 2
  if e == 0xFF then .nan
  else .fin (bitAt elem m) (elem % 2 ^ m) ((e : Int) - 127 - mu - ((m : Int) - 1)) 1

/-- The scaled quotient of R133: a magnitude over `2 ^ sh`, times `2 ^ (m - 1)`. -/
def tintQ (m e : Nat) (sh : Int) (x : Num) : Nat × Nat :=
  match x with
  | .fin _ a b d => frac a (b - sh + (m : Int) - 1) d
  | _ => (2 ^ (e + 600), 1)

/-- A Tint block from 16 values: header, elements, flags and the generator (R133, R134). -/
structure TintOut where
  header : Nat
  elems : List Nat
  flags : FFlags
  rng : BitVec 32
deriving DecidableEq, Repr, Inhabited

def rneNat (q : Nat × Nat) : Nat := (roundAt false q.1 q.2 0 .rne 0).q

/-- The shared exponent and micro-exponents of a block, chosen by RNE (R133). -/
def tintScale (m : Nat) (xs : List Num) : Nat × Nat :=
  let a := xs.foldl (fun r x => if r.lt x.abs then x.abs else r) Num.zero
  if a.isZero then (0, 0)
  else
    let e : Int := match a with
      | .fin _ p q d => let (n, k) := frac p q d; floorLog2 n k
      | _ => 127
    let big := 2 ^ m - 1
    let t := e + 127
    let E := if t < 1 then 1 else if 254 < t then 254 else t.toNat
    let E := if big < rneNat (tintQ m m ((E : Int) - 127) a) && E < 254 then E + 1 else E
    let mu := (List.range 8).foldl (fun r i =>
      let p := (xs.getD (2 * i) Num.zero).abs
      let q := (xs.getD (2 * i + 1) Num.zero).abs
      let pm := if p.lt q then q else p
      if !pm.isInf && rneNat (tintQ m m ((E : Int) - 128) pm) ≤ big then r + 2 ^ i else r) 0
    (E, mu)

/-- One element of a block: its bits, flags and the generator. -/
def tintElem (m E mu j : Nat) (mode : Mode) (x : Num) (rng : BitVec 32) : Nat × FFlags × BitVec 32 :=
  let big := 2 ^ m - 1
  let s := if x.neg then 2 ^ m else 0
  if x.isInf then (s + big, fInvalid, rng)
  else
    let q := tintQ m m ((E : Int) - 127 - (mu / 2 ^ (j / 2) % 2 : Nat)) x
    let r := roundAt x.neg q.1 q.2 0 mode rng
    if big < r.q then (s + big, fOverflow ||| fInexact, r.rng)
    else (s + r.q, if r.inexact then fInexact else 0, r.rng)

def tintElems (m E mu : Nat) (mode : Mode) : Nat → List Num → BitVec 32 → List Nat × FFlags × BitVec 32
  | _, [], rng => ([], 0, rng)
  | j, x :: xs, rng =>
    let (b, fl, rng) := tintElem m E mu j mode x rng
    let (bs, fs, rng) := tintElems m E mu mode (j + 1) xs rng
    (b :: bs, fl ||| fs, rng)

/-- Conversion into Tint (R133); an infinity that becomes a NaN sets invalid (R134). -/
def tintBlock (f : Fmt) (xs : List Num) (mode : Mode) (nf : Bool) (rng : BitVec 32) : TintOut :=
  let m := tintMag f
  let nan (fl : FFlags) : TintOut := ⟨0xFF00, xs.map fun _ => 0, fl, rng⟩
  if xs.any (·.isNan) then nan (if xs.any (·.isInf) then fInvalid else 0)
  else
    let a := xs.foldl (fun r x => if r.lt x.abs then x.abs else r) Num.zero
    let tooBig := match a with
      | .fin _ p q d => p != 0 && decide ((127 : Int) < floorLog2 (frac p q d).1 (frac p q d).2)
      | _ => false
    if nf && (a.isInf || tooBig) then nan (if a.isInf then fInvalid else fOverflow ||| fInexact)
    else
      let (E, mu) := tintScale m xs
      let (es, fl, rng) := tintElems m E mu mode 0 xs rng
      ⟨E * 256 + mu, es, fl, rng⟩

/-- The element bits of a block as a number (R122). -/
def tintPack (f : Fmt) (es : List Nat) : Nat := es.foldr (fun e r => e + 2 ^ f.width * r) 0

end Sys2Proof.Machine
end

