-- ==== Sys2Proof/Machine/Flags.lean ====
section
/-! DEFINITION. Lanes, predicates and the flags of vector instructions (R207 to R213, R134, R135), and the shells of the
immediate and the late vector writers (R209). -/

namespace Sys2Proof.Machine

/-! ## Lanes (R207, R208) -/

/-- Lane `i` of width `w`. -/
def lane (v : VWord) (w i : Nat) : Nat := v.toNat / 2 ^ (w * i) % 2 ^ w

/-- The lanes of a vector. -/
def lanesOf (v : VWord) (w : Nat) : List Nat := (List.range (1024 / w)).map fun i => lane v w i

/-- A vector from its lanes, lane 0 first. -/
def packLanes (w : Nat) (xs : List Nat) : VWord := BitVec.ofNat 1024 (xs.foldr (fun x r => x % 2 ^ w + 2 ^ w * r) 0)

/-- The predicate of an instruction as its context holds it. -/
def Ctx.pred (x : Ctx) (p : Pred) : Option (BitVec 32) := p.map fun i => rd x.p i.toNat 0

/-- Whether lane `i` of width `w` is active. -/
def laneOn (p : Option (BitVec 32)) (w i : Nat) : Bool :=
  match p with
  | none => true
  | some m => tb m (i * w / 32)

/-- Whether an instruction reads vd because inactive lanes keep their values (R209). -/
def keeps (p : Pred) (zm : Bool) : Bool := p.isSome && !zm

/-- The rounding mode of a field, with `.dyn` as status.rm (R210). -/
def modeOf (r : Rnd) (rm : BitVec 3) : Mode :=
  match r with
  | .rne => .rne | .rz => .rz | .ru => .ru | .rd => .rd | .sr => .sr
  | .dyn => Mode.ofCode rm.toNat

/-- Whether a lane type is a float. -/
def isFloat (f : Fmt) : Bool := (fmtSpec f).isSome

/-- Whether an element is subnormal in FP32, FP16 or BF16 (R135). -/
def isSub (f : Fmt) (x : Nat) : Bool :=
  match f with
  | .fp32 => x / 2 ^ 23 % 256 == 0 && x % 2 ^ 23 != 0
  | .fp16 => x / 2 ^ 10 % 32 == 0 && x % 2 ^ 10 != 0
  | .bf16 => x / 2 ^ 7 % 256 == 0 && x % 2 ^ 7 != 0
  | _ => false

/-! ## One lane of arithmetic (R211 to R213) -/

/-- The arithmetic operations of R211. -/
inductive VOp where
  | add | sub | mul | fma | fms | div | sqrt | min | max | abs | neg | rcp | rsq | exp2 | log2
deriving DecidableEq, Repr, Inhabited

/-- An exact value with the flags that its operation raises by itself. -/
abbrev Flagged := Num × FFlags

/-- A result whose NaN is invalid unless an operand is a NaN (R136). -/
def orInvalid (nanIn : Bool) (r : Num) : Flagged := (r, if r.isNan && !nanIn then fInvalid else 0)

/-- The fused sum of a product and an addend; where an operand product of zero and infinity meets a NaN addend, IEEE 754
leaves the invalid flag to the implementation. -/
def fused (a b c : Num) (zs : Bool) : Flagged :=
  let p := a.mul b
  let r := p.add c zs
  if a.isNan || b.isNan then (r, 0)
  else if c.isNan then (r, if p.isNan && Config.fmaInvalid then fInvalid else 0)
  else (r, if r.isNan then fInvalid else 0)

/-- The exact value of a float operation; `zs` is the sign of an exact zero sum. -/
def floatOp (op : VOp) (a b c : Num) (zs : Bool) : Flagged :=
  let nb := a.isNan || b.isNan
  match op with
  | .add => orInvalid nb (a.add b zs)
  | .sub => orInvalid nb (a.add b.opp zs)
  | .mul => orInvalid nb (a.mul b)
  | .fma => fused a b c zs
  | .fms => fused a b c.opp zs
  | .div =>
    let r := a.div b
    (r, if r.isNan then (if nb then 0 else fInvalid) else if b.isZero && !a.isInf then fDivZero else 0)
  | .sqrt =>
    match a with
    | .nan => (.nan, 0)
    | .inf true => (.nan, fInvalid)
    | .inf false => (.inf false, 0)
    | .fin s m e d => if m == 0 then (a, 0) else if s then (.nan, fInvalid) else ((Num.fin s m e d).sqrt, 0)
  | .min => (a.min b, 0)
  | .max => (a.max b, 0)
  | .abs => (a.abs, 0)
  | .neg => (a.opp, 0)
  | .rcp => (Num.div (.fin false 1 0 1) a, if a.isZero then fDivZero else 0)
  | .rsq =>
    match a with
    | .nan => (.nan, 0)
    | .inf true => (.nan, fInvalid)
    | .inf false => (.fin false 0 0 1, 0)
    | .fin s m e d =>
      if m == 0 then (.inf s, fDivZero * (if s then 0 else 1))
      else if s then (.nan, fInvalid)
      else ((Num.div (.fin false 1 0 1) (.fin false m e d)).sqrt, 0)
  | .exp2 => (a.exp2, 0)
  | .log2 =>
    match a with
    | .nan => (.nan, 0)
    | .inf true => (.nan, fInvalid)
    | .inf false => (.inf false, 0)
    | .fin s m e d =>
      if m == 0 then (.inf true, fDivZero) else if s then (.nan, fInvalid) else ((Num.fin s m e d).log2, 0)

/-- An integer of `w` bits from an exact result: wrapped, or clamped with sat (R213). -/
def intRes (w : Nat) (sat : Bool) (x : Int) : Nat :=
  let hi : Int := 2 ^ (w - 1) - 1
  let lo : Int := -(2 ^ (w - 1) : Int)
  let y := if sat then (if hi < x then hi else if x < lo then lo else x) else x
  (y % (2 ^ w : Int)).toNat

/-- The integer operations of R211. -/
def intOp (op : VOp) (a b : Int) : Int :=
  match op with
  | .add => a + b
  | .sub => a - b
  | .mul => a * b
  | .min => if a < b then a else b
  | .max => if b < a then a else b
  | .abs => a.natAbs
  | .neg => -a
  | _ => a

/-- An integer lane. -/
def intLane (op : VOp) (w : Nat) (sat : Bool) (a b : Nat) : Nat := intRes w sat (intOp op (signedOf w a) (signedOf w b))

/-- A float lane, rounded once (R212); VABS and VNEG change only the sign bit, also of a canonical NaN. -/
def floatLane (op : VOp) (f : Fmt) (sp : FSpec) (mode : Mode) (a b c : Nat) (rng : BitVec 32) : Out :=
  let sign := 2 ^ (f.width - 1)
  let x := decodeFloat sp a
  let canon := sp.nan.getD 0
  match op with
  | .abs => ⟨if x.isNan then canon else a % sign, 0, rng, isSub f a⟩
  | .neg => ⟨(if x.isNan then canon else a % sign) + (if bitAt a (f.width - 1) then 0 else sign), 0, rng, isSub f a⟩
  | _ =>
    let (r, fl) := floatOp op x (decodeFloat sp b) (decodeFloat sp c) (mode == .rd)
    let o := roundFloat sp r mode true rng
    { o with flags := o.flags ||| fl }

/-- A lane of a vector arithmetic instruction. -/
def arithLane (op : VOp) (f : Fmt) (mode : Mode) (sat : Bool) (a b c : Nat) (rng : BitVec 32) : Out :=
  match fmtSpec f with
  | some sp => floatLane op f sp mode a b c rng
  | none => ⟨intLane op f.width sat a b, 0, rng, false⟩

/-! ## A whole vector -/

/-- What a vector instruction computes: the result, flags, the generator, whether a subnormal was met or produced. -/
structure VRes where
  v : VWord
  flags : FFlags := 0
  rng : BitVec 32
  sub : Bool := false
deriving DecidableEq, Repr, Inhabited

/-- Lanes computed in ascending order, each with the generator that the lanes below it left (R131). -/
def runLanes (f : Nat → BitVec 32 → Out) : List Nat → BitVec 32 → List Nat × FFlags × BitVec 32 × Bool
  | [], g => ([], 0, g, false)
  | i :: is, g =>
    let o := f i g
    let (xs, fl, g, sb) := runLanes f is o.rng
    (o.enc :: xs, o.flags ||| fl, g, o.sub || sb)

/-- A lane-wise instruction: active lanes are computed, inactive ones keep vd or become +0 (R208). -/
def laneWise (w : Nat) (p : Option (BitVec 32)) (zm : Bool) (old : VWord) (rng : BitVec 32)
    (f : Nat → BitVec 32 → Out) : VRes :=
  let (xs, fl, g, sb) := runLanes (fun i g =>
    if laneOn p w i then f i g else ⟨if zm then 0 else lane old w i, 0, g, false⟩) (List.range (1024 / w)) rng
  { v := packLanes w xs, flags := fl, rng := g, sub := sb }

/-- Vector arithmetic (R211), with R135's test of sources. -/
def arith (op : VOp) (f : Fmt) (mode : Mode) (sat : Bool) (p : Option (BitVec 32)) (zm : Bool) (old a b c : VWord)
    (n : Nat) (rng : BitVec 32) : VRes :=
  let w := f.width
  laneWise w p zm old rng fun i g =>
    let x := lane a w i
    let y := lane b w i
    let z := lane c w i
    let o := arithLane op f mode sat x y z g
    { o with sub := o.sub || isSub f x || (2 ≤ n && isSub f y) || (3 ≤ n && isSub f z) }

/-! ## The shells of vector instructions (R209) -/

/-- What an issued vector instruction does to its context and core besides its result: flags, skipped turns (R46,
R135), and the generator (R131). -/
def State.vecEffects (s : State) (r : VRes) : State :=
  let s := s.modCore s.who.core fun k => { k with rng := r.rng }
  s.modCtx s.who fun x =>
    { x with flags := x.flags ||| r.flags, skips := if r.sub then x.skips + 2 else x.skips }

/-- An immediate vector writer. -/
def State.vecNow (s : State) (u : Uses) (vd : BitVec 3) (f : Ctx → Core → Vals → VRes) : State :=
  match s.peek u with
  | .stop t => t
  | .ok v =>
    let r := f (s.ctx s.who) (s.coreAt s.who.core) v
    (((s.commit u).vecEffects r).modCtx s.who fun x => x.setV vd.toNat r.v).finish

/-- Puts a late vector result into the divide unit, which takes one at a time (R353). -/
def State.intoDivider (s : State) (l : Late) (cycles : Nat) : State :=
  let k := s.coreAt s.who.core
  let s := if k.div.isEmpty then s.post (s.cycle + cycles) .vectorLateResult { core := s.who.core, late := l } else s
  s.setCore s.who.core { k with div := k.div ++ [{ late := l, cycles := cycles }] }

/-- A late vector writer of the divide unit: its flags and generator steps come at issue (DEDUCED, assumption log 12). -/
def State.vecLate (s : State) (u : Uses) (vd : BitVec 3) (cycles : Nat) (f : Ctx → Core → Vals → VRes) : State :=
  match s.peek u with
  | .stop t => t
  | .ok v =>
    let x := s.ctx s.who
    let r := f x (s.coreAt s.who.core) v
    let d : Dest := .vec vd 0xFFFFFFFF false
    let t := ((s.commit u).vecEffects r).emptyDest s.who d
    let t := t.modCtx s.who fun x => { x with lateOut := x.lateOut + 1 }
    (t.intoDivider { who := s.who, run := x.run, dest := d, val := r.v } cycles).finish

/-- The registers of a lane-wise vector instruction. -/
def vUses (srcs : List VSrc) (vd : BitVec 3) (p : Pred) (zm : Bool) : Uses :=
  { vs := srcs, vdr := if keeps p zm then some vd else none, vout := some vd }

/-- Source `i` of a vector instruction. -/
def Vals.v (x : Vals) (i : Nat) : VWord := x.vs.getD i 0

/-- The late time of a vector instruction on this stepping (R209). -/
def lateTime (a b : Nat) : Nat := if Config.stepping == .b then b else a

end Sys2Proof.Machine
end

