-- ==== Sys2Proof/Machine/Bank.lean ====
section
/-! DEFINITION. The places where accesses land: the slate switch, the walker and the bank units (R89 to R101, R104, R354,
R357 to R360), parked operations (R95, R364), sleeping CWAITs (R103), and the ends of accesses at their contexts. -/

namespace Sys2Proof.Machine

/-! ## The walker's writes (R98, R100) -/

/-- A translation-cache entry replaced by its update. -/
def State.setEnt (s : State) (die : Nat) (e f : TlbEnt) : State :=
  s.modDie die fun d => { d with tlb := mapIf (fun x => x.part == e.part && x.base == e.base && x.size == e.size) (fun _ => f) d.tlb }

/-- The bookkeeping of a translated access: D on the first write, and the access count with its notice (R98, R100). Whether the
page is queued already is what Q of the page-table entry says, whichever die set it (R100, R374). -/
def State.touch (s : State) (die : Nat) (e : TlbEnt) (writes : Bool) : State :=
  let l := e.leaf.toNat
  let dirty := writes && !bitAt l 55
  let s := if dirty then { s with mem := memWrite s.mem (e.pte + 6) (memRead s.mem (e.pte + 6) ||| 0x80) } else s
  let e' : TlbEnt := if dirty then { e with leaf := e.leaf ||| 0x0080000000000000 } else e
  if bitAt l 57 then
    let n := if 0xFFFF ≤ e.cnt then 0xFFFF else e.cnt + 1
    let ath := bits l 51 48
    if ath != 15 && n == 2 ^ (ath + 1) && e.cnt != n then
      let s := { s with mem := memWriteN s.mem e.pte 2 n }
      if bitAt (memRead s.mem (e.pte + 7)).toNat 0 then s.setEnt die e { e' with cnt := n }
      else
        let s := { s with mem := memWrite s.mem (e.pte + 7) (memRead s.mem (e.pte + 7) ||| 0x01) }
        (s.setEnt die e { e' with cnt := n, leaf := e'.leaf ||| 0x0100000000000000 }).notice die
          { kind := 0x03, value := BitVec.ofNat 64 (0xFFF * 2 ^ 48 + e.base) }
    else s.setEnt die e { e' with cnt := n }
  else if dirty then s.setEnt die e e'
  else s

/-! ## Ends of accesses -/

/-- Ends an access where its context is, and takes a stop that waited for the relaxed count (R105, R106, R322). -/
def State.accEnd (s : State) (a : Access) : State :=
  let s := s.modRun a.who a.run fun x => x.accDone a
  match s.place a.who a.run with
  | .at c => s.settle c
  | _ => s

/-- Completes the wait of an operation that keeps the pc at itself (R202, R282): the next instruction follows. -/
def Ctx.doneAt (x : Ctx) (id : Nat) : Ctx :=
  if x.wait == .reply id || x.wait == .cwait id then { x with wait := .none, pc := x.pc + 8, tries := 0 } else x

/-- Sends the outcome of a parked operation that fails its wait limit to its context at once (R364), `d` cycles on. -/
def State.limitReport (s : State) (a : Access) (d : Nat) : State :=
  s.postLate (s.cycle + d) .landingFaultReport { acc := a, cause := 0x18 }

/-! ## Parked operations (R95, R364) -/

/-- What a try of a full/empty operation at its word gives: it fails, or the state after it and whether the word
changed. -/
def State.tryFe (s : State) (k : Nat) (a : Access) : Option (State × Bool) :=
  let fullNow := s.full k
  let w := BitVec.ofNat 1024 (s.rd8 k)
  let ringIn (core q : Nat) (w : Word) (s : State) : State :=
    s.post (s.cycle + (a.lat - a.lat / 2)) .streamElementMove { core := core, n := q, id := 1, v := w }
  match a.kind with
  | .ldx => if fullNow then some ({ s with empty := insNat (k / 8) s.empty }.replyTo a w, true) else none
  | .ldf => if fullNow then some (s.replyTo a w, false) else none
  | .stx d => if fullNow then none else some ((s.putN k 8 d.toNat).replyTo a 0, true)
  | .ring core q out d =>
    if out then
      if fullNow then none else some (ringIn core q 0 (s.putN k 8 d.toNat), true)
    else if fullNow then some (ringIn core q (BitVec.ofNat 64 (s.rd8 k)) { s with empty := insNat (k / 8) s.empty }, true)
    else none
  | _ => some (s, false)

/-- The limit that a parked operation has now (R82, R365): slate-ring engines have none (R228). -/
def State.limitOf (s : State) (a : Access) : Option Nat :=
  match a.kind with
  | .ring _ _ _ _ => none
  | _ => some (((s.runCtx a.who a.run).map fun x => x.waitLimit.toNat).getD a.limit)

/-- Whether the context of an access is dropped; its re-tries are not counted then (R403). -/
def State.isDropped (s : State) (a : Access) : Bool := (s.runCtx a.who a.run).any fun x => !x.drops.isEmpty

/-- A failed re-try counts, and withdraws the operation once its count passes the limit. -/
def State.failTry (s : State) (a : Access) (d : Nat) : State :=
  let n := a.tries + 1
  match if s.isDropped a then none else s.limitOf a with
  | none => { s with parked := mapIf (·.acc.id == a.id) (fun p => { p with last := s.cycle }) s.parked }
  | some lim =>
    if lim < n then ({ s with parked := s.parked.filter fun p => p.acc.id != a.id }).limitReport { a with tries := n } d
    else
      { s with parked := mapIf (·.acc.id == a.id) (fun p => { p with acc := { p.acc with tries := n }, last := s.cycle }) s.parked }

/-- Whether a CWAIT's condition holds of a completion word (R103). -/
def cwaitDone (word threshold : Nat) : Bool := (word % 2 ^ 62 + 2 ^ 62 - threshold % 2 ^ 62) % 2 ^ 62 < 2 ^ 61

/-- Completes the sleeping CWAITs of a word that its present value satisfies (R103). -/
def State.wakeSleepers (s : State) (w : Nat) : State :=
  let v := s.rd8 (w * 8)
  let done (z : Sleeper) : Bool :=
    match z.acc.kind with
    | .cwait t _ => z.acc.key / 8 == w && cwaitDone v t
    | _ => false
  match s.sleepers.filter done with
  | [] => s
  | l => l.foldl (fun s z => s.replyTo { z.acc with lat := 0 } (BitVec.ofNat 1024 v)) { s with sleepers := s.sleepers.filter fun z => !done z }

/-- One re-try of a parked operation: the state, and whether it failed and whether the word changed. A re-try of a pass is
the bank's step in the cycle after the change, `d` = 1. -/
def State.retry (s : State) (k : Nat) (id d : Nat) : State × Bool × Bool :=
  match s.parked.find? (·.acc.id == id) with
  | none => (s, false, false)
  | some p =>
    match s.tryFe k { p.acc with lat := p.acc.lat + 2 * d } with
    | some (t, ch) =>
      let t : State := { t with parked := t.parked.filter fun q => q.acc.id != id }
      (if ch then t.wakeSleepers (k / 8) else t, false, ch)
    | none => (s.failTry p.acc d, true, false)

/-- One pass over a word's parked operations (R95): the state, the word's version, and each failed one with the version
it was tried against. -/
def State.onePass (s : State) (k ver : Nat) : List Nat → State × Nat × List (Nat × Nat)
  | [] => (s, ver, [])
  | i :: r =>
    let (t, failed, ch) := s.retry k i 1
    let (u, v, l) := t.onePass k (if ch then ver + 1 else ver) r
    (u, v, if failed then (i, ver) :: l else l)

/-- Passes until one changes nothing (R95). -/
def State.passes (k : Nat) : Nat → State → Nat → List Nat → State
  | 0, s, _, _ => s
  | n + 1, s, ver, l =>
    if l.isEmpty then s
    else
      let (t, v, failed) := s.onePass k ver l
      State.passes k n t v ((failed.filter fun p => p.2 < v).map (·.1))

/-- The word key of a parked operation. -/
def Parked.word (p : Parked) : Nat := p.acc.key / 8

/-- The re-tries of a word's parked operations after a change to it. -/
def State.passWord (s : State) (w : Nat) : State :=
  let l := (s.parked.filter fun p => p.word == w).map (·.acc.id)
  if l.isEmpty then s else State.passes (w * 8) (l.length + 2) (s.bankTake (w * 8)).2 0 l

/-- Lets the requests that wait on a FREE cell try again after a change to it (R42). -/
def State.wakeCells (s : State) (w : Nat) : State :=
  (s.cellWaits.filter fun z => z.key / 8 == w).foldl (fun s z =>
    s.post s.cycle .firstStep { id := z.id, n := 1, wire := z.req }) s

/-- What a change to words lets go on: waits on cells, sleeping CWAITs, which re-evaluate after every write to their word (R103),
and parked operations. -/
def State.afterWrite (s : State) (k n : Nat) : State :=
  (wordsOf k n).foldl (fun s w =>
    let s := s.wakeCells w
    if isSlateKey k then (s.wakeSleepers w).passWord w else s) s

/-- Stores bytes and lets the bank re-try what waits there. -/
def State.storeN (s : State) (k n v : Nat) : State := (s.putN k n v).afterWrite k n

/-- Stores a list of bytes and lets the bank re-try what waits there. -/
def State.storeL (s : State) (k : Nat) (bs : List Byte) : State :=
  if bs.isEmpty then s else (s.putL k bs).afterWrite k bs.length

/-! ## Where an access lands -/

/-- What the place of an access says: it goes on at a key, waits at a closed window, misses, or is refused. -/
inductive Landing where
  | go (k : Nat) (s : State)
  | wait (octet : Nat)
  | miss
  | bad (cause : Nat)

/-- The slate that an address names, whether or not the access is allowed: octet and slate. -/
def State.slateOf (s : State) (f : Form) : Option (Nat × Nat) :=
  match f with
  | .window c w _ => let e := rd (s.coreAt c).win w {}; if e.valid then some (octetOf c, e.slate) else none
  | .handle o sl _ _ => some (o, sl)
  | _ => none

/-- Whether a slate's window is closed by a GIVE, SUNMAP or reclaim in progress (R92 step 1). -/
def State.closed (s : State) (octet slate : Nat) : Bool := (s.octet octet).gives.any fun g => g.slate == slate

/-- The core at which an address's packets enter a rectangle: the named core, or the octet's first core. -/
def State.targetCore (f : Form) : Option Nat :=
  match f with
  | .window c _ _ => some c
  | .handle o _ _ _ => some (coreOfSeat o 0)
  | _ => none

/-- Whether an access is refused at a fenced rectangle's boundary (R396): staff handle accesses pass. -/
def State.isNacked (s : State) (core : Nat) (staff : Bool) (f : Form) : Bool :=
  match State.targetCore f with
  | none => false
  | some c =>
    let handle := match f with
      | .handle _ _ _ _ => true
      | _ => false
    s.fenced core c && !(staff && handle)

/-- The slate switch and the walker, for the parts of an access at an address as a core's access reaches them. Locks are
checked for accesses that `locks` says are thread accesses (R101, R360). -/
def State.landParts (s : State) (core : Nat) (staff locks : Bool) (a : Word) (parts : List (Nat × Nat)) (need : Need) (use : Nat) :
    Landing :=
  match s.form core a with
  | .bad => .bad 0x10
  | .remote _ => .bad 0x10
  | .mem off =>
    let die := dieOf core
    let part := s.partOf core
    match s.tlbFind die part off with
    | none => .miss
    | some e =>
      match s.checkParts e a off parts use with
      | .ok p e =>
        if !staff && s.isRetired p then .miss
        else .go p (s.touch die e (use == 1))
      | .miss => .miss
      | .bad k => .bad k
  | f =>
    if s.isNacked core staff f then .bad 0x32
    else
      match s.slateOf f with
      | none => .bad 0x10
      | some (o, sl) =>
        if s.closed o sl then .wait o
        else
          match s.protect core staff f need with
          | .error k => .bad k
          | .ok key =>
            if locks && parts.any fun p => (s.octet o).locks.any fun l => l.hits (some sl) (key % 65536 + p.1) p.2 (use == 1) then
              .bad 0x13
            else .go key s

/-- The landing of an access of `n` bytes. -/
def State.land (s : State) (core : Nat) (staff locks : Bool) (a : Word) (n : Nat) (need : Need) (use : Nat) : Landing :=
  s.landParts core staff locks a [(0, n)] need use

/-- Whether an address lies in a slate on which an engine operation holds a lock, so that its accesses there were let on when it
registered (R92 step 2, R361). -/
def State.lockedBy (s : State) (op : Nat) (f : Form) : Bool :=
  match s.slateOf f with
  | some (o, sl) => (s.octet o).locks.any fun l => l.op == op && l.slate == some sl
  | none => false

/-- The slate switch and the walker for an access that no context issues: a step of a wire, an increment, a piece of an engine
operation, a read of a drain, or a line of a message. It waits at a closed window (R92), unless its operation `op` holds a lock
there or it was let on before and comes in its turn at its banks, and at a range lock of another operation (R101), and is checked as
any access is (R90, R98, R99). -/
def State.enter (s : State) (core : Nat) (staff : Bool) (op : Nat) (a : Word) (n : Nat) (need : Need) (use : Nat) : Landing :=
  let f := s.form core a
  let r :=
    if s.lockedBy op f || (s.arg.slot && (s.slateOf f).isSome) then
      if s.isNacked core staff f then .bad 0x32
      else
        match s.protect core staff f need with
        | .error k => .bad k
        | .ok k => .go k s
    else s.land core staff false a n need use
  match r with
  | .go k t =>
    if isSlateKey k && !s.arg.slot && (s.octet (keyOctet k)).locks.any fun l => l.op != op && l.hits (some (keySlate k)) (k % 65536) n (use == 1) then
      .wait (keyOctet k)
    else .go k t
  | r => r

/-- The die whose staff hear of a missing address (R327, R354): that of the walker, or, for a frame with a retire mark, that
of its memory controller (R367). -/
def State.missDie (s : State) (core : Nat) (a : Word) : Nat :=
  let off := bits a.toNat 47 0
  match s.tlbFind (dieOf core) (s.partOf core) off with
  | some e => if s.isRetired (e.phys off) then physDie (e.phys off) else dieOf core
  | none => dieOf core

/-- The use that a kind of access makes of a leaf (R98): 0 read, 1 write. -/
def AccKind.use (k : AccKind) : Nat := if k.writes then 1 else 0

/-- Whether an access is a full/empty operation or an atomic, which host memory refuses (R201, R357). -/
def AccKind.bankOnly (k : AccKind) : Bool :=
  match k with
  | .load _ _ | .store _ _ | .vload | .vstore _ _ | .cellrd | .send _ _ _ _ _ _ | .bind _ => false
  | .tile _ _ _ _ | .drain _ => false
  | _ => true

/-- Holds an access at the walker and drops its context (R327, R354): the MISS comes from the die that missed, or from the
controller of a frame with a retire mark (R367). -/
def State.holdMiss (s : State) (a : Access) : State :=
  let addr := a.miss.getD a.addr
  let die := s.missDie a.who.core addr
  let s := { s with held := s.held ++ [a] }
  let s := s.modRun a.who a.run fun x =>
    { x with drops := addr :: x.drops, dropAt := if x.drops.isEmpty then s.cycle else x.dropAt }
  let c := match s.place a.who a.run with
    | .at c => c
    | _ => if a.who.core < 7680 then a.who else ⟨0, 0⟩
  s.missNotice die c (s.partOf a.who.core) addr 0

/-- Fills a die's translation cache from the page tables where the walk finds a leaf. -/
def State.fillFor (s : State) (die part off : Nat) : State :=
  match s.tlbFind die part off with
  | some _ => s
  | none =>
    match s.walk part off with
    | (some l, _) => s.tlbFill die part l
    | _ => s

/-- The missing address of a step: its walk takes 110 cycles for each level read (R91), and then either fills the translation
cache, and the step follows, or the step is held (R354) as `hold` says. A frame with a retire mark is missing at once (R367). -/
def State.walkStep (s : State) (core : Nat) (addr : Word) (ev : Instr) (hold : State → State) : State :=
  let die := dieOf core
  let part := s.partOf core
  let off := bits addr.toNat 47 0
  match s.tlbFind die part off with
  | some _ => hold s
  | none =>
    if !s.arg.walked then s.postIn (110 * (s.walk part off).2) ev { s.arg with walked := true }
    else
      match (s.walk part off).1 with
      | some l => (s.tlbFill die part l).post s.cycle ev { s.arg with walked := false }
      | none => hold s

/-- What the missing address of an engine or a drain gives, with the page whose walk is over: the cycle in which the walk ends,
110 cycles for each level read (R91); the translation cache as the walk filled it; or a missing page (R354). -/
inductive Walked where
  | till (t : Nat)
  | filled (s : State)
  | gone

def State.walkOf (s : State) (core : Nat) (a : Word) (walked : Option Word) : Walked :=
  let die := dieOf core
  let part := s.partOf core
  let off := bits a.toNat 47 0
  match s.tlbFind die part off with
  | some _ => .gone
  | none =>
    if walked != some a then .till (s.cycle + 110 * (s.walk part off).2)
    else
      match (s.walk part off).1 with
      | some l => .filled (s.tlbFill die part l)
      | none => .gone

/-- An access that has passed its checks at its place goes on in its turn at its banks (R94): in a later cycle it finds its key,
and is not checked again (R92 step 2, R360). -/
def State.inTurn (s : State) (ev : Instr) (keys : List Nat) (k : Nat) (go : State → State) : State :=
  let (n, b) := s.bankTakes keys
  if s.cycle < n then b.post n ev { s.arg with slot := true, acc := { s.arg.acc with key := k } } else go b

/-- Holds a step whose page is missing, with its MISS (R354). -/
def State.holdStep (s : State) (core : Nat) (c : CtxId) (addr cw : Word) (ev : Instr) : State :=
  State.missNotice { s with heldSteps := s.heldSteps ++ [{ core := core, addr := addr, ev := ev, arg := { s.arg with walked := false } }] }
    (s.missDie core addr) (if c.core < 7680 then c else ⟨0, 0⟩) (s.partOf core) addr cw

/-- Atomics (R203): the new value of `n` bytes. -/
def atomNew (op : AtomOp) (n old v cmp : Nat) : Nat :=
  let m := 2 ^ (8 * n)
  match op with
  | .add => (old + v) % m
  | .and => old &&& v
  | .or => old ||| v
  | .xor => old ^^^ v
  | .min => if signedOf (8 * n) v < signedOf (8 * n) old then v else old
  | .max => if signedOf (8 * n) old < signedOf (8 * n) v then v else old
  | .swp => v
  | .cas => if old == cmp then v else old
  | .incb => if old < v then old + 1 else old

/-- A loaded value: zero-extended, or sign-extended (R197). -/
def loadVal (n v : Nat) (sx : Bool) : Word :=
  if sx && bitAt v (8 * n - 1) then BitVec.ofNat 64 (2 ^ 64 - 2 ^ (8 * n) + v) else BitVec.ofNat 64 v

/-- The bytes of a vector store that its mask selects, by 32-bit lane, as its bank takes them; a granule that it covers is
stored whole. -/
def State.putMasked (s : State) (k : Nat) (mask : BitVec 32) (data : VWord) : State :=
  (List.range 4).foldl (fun s g =>
    if mask.toNat / 2 ^ (8 * g) % 256 == 255 then s.putN (k + 32 * g) 32 (lane data 256 g)
    else (List.range 8).foldl (fun s j =>
      let i := 8 * g + j
      if tb mask i then s.putN (k + 4 * i) 4 (lane data 32 i) else s) s) s

/-- A vector store in one bank step (R218): what waits on its words goes on after the whole of it is stored. -/
def State.storeMasked (s : State) (k : Nat) (mask : BitVec 32) (data : VWord) : State :=
  (List.range 16).foldl (fun s w => if mask.toNat / 4 ^ w % 4 != 0 then s.afterWrite (k + 8 * w) 8 else s) (s.putMasked k mask data)

/-! ## HSIFT (R225, R226) -/

/-- Whether heap entry X is better than entry Y (R225). -/
def entryBetter (x y : Nat) : Bool :=
  let ex := bits x 47 32
  let ey := bits y 47 32
  let v (e : Nat) : Num := fmtValue .fp32 (e % 2 ^ 32)
  if ey == 0xFFFF then ex != 0xFFFF
  else if ex == 0xFFFF then false
  else (v y).lt (v x) || ((v x).eqv (v y) && ex < ey)

/-- Sifts slot `i` up while its parent is better. -/
def siftUp : Nat → List Nat → Nat → List Nat
  | 0, h, _ => h
  | f + 1, h, i =>
    if i ≤ 1 then h
    else
      let p := h.getD (i / 2) 0
      let e := h.getD i 0
      if entryBetter p e then siftUp f ((h.set (i / 2) e).set i p) (i / 2) else h

/-- Sifts slot `i` of `n` down, swapping with the worse child while that child is worse than it. -/
def siftDown : Nat → List Nat → Nat → Nat → List Nat
  | 0, h, _, _ => h
  | f + 1, h, n, i =>
    if n < 2 * i then h
    else
      let l := h.getD (2 * i) 0
      let r := h.getD (2 * i + 1) 0
      let j := if 2 * i + 1 ≤ n && entryBetter l r then 2 * i + 1 else 2 * i
      let e := h.getD i 0
      let w := h.getD j 0
      if entryBetter e w then siftDown f ((h.set i w).set j e) n j else h

/-- Fills a heap up to its capacity with fillers. -/
def fillHeap : Nat → List Nat → Nat → Nat → List Nat
  | 0, h, _, _ => h
  | f + 1, h, n, k => if n < k then fillHeap f (siftUp 8 (h.set (n + 1) (0xFFFF * 2 ^ 32)) (n + 1)) (n + 1) k else h

/-- The heap after an HSIFT: header and eight slots (R226). -/
def hsiftNew (fin : Bool) (entry : Nat) (h : List Nat) : List Nat :=
  let d := h.getD 0 0
  let k0 := bits d 11 8
  let k := if k0 == 0 || 8 < k0 then 8 else k0
  let n := min (bits d 15 12) k
  let e := entry % 2 ^ 48
  let hdr (n : Nat) (extra : Nat) : Nat := (d - bits d 15 12 * 4096 - (d % 256 / 64) * 64) + n * 4096 + ((d % 256 / 64) ||| extra) * 64
  if bitAt d 7 then h
  else if fin then
    let short := if n < k then 1 else 0
    (fillHeap 8 h n k).set 0 (hdr k (2 + short))
  else if (fmtValue .fp32 (e % 2 ^ 32)).isNan then h
  else if n < k then (siftUp 8 (h.set (n + 1) e) (n + 1)).set 0 (hdr (n + 1) 0)
  else if entryBetter e (h.getD 1 0) then (siftDown 8 (h.set 1 e) n 1).set 0 (hdr n 0)
  else h.set 0 (hdr n 0)

/-- The words that an HSIFT writes (R226): none where the heap is done or the score is a NaN, and otherwise the header and
the slots that receive an entry, whether or not it equals the one before. Each slot's entry carries the slot's number above
its 64 bits, which the order of entries does not read. -/
def hsiftWrites (fin : Bool) (entry : Nat) (h : List Nat) : List Nat :=
  if bitAt (h.getD 0 0) 7 || (!fin && (fmtValue .fp32 (entry % 2 ^ 32)).isNan) then []
  else
    let g := hsiftNew fin entry ((List.range 9).map fun i => h.getD i 0 + 2 ^ 64 * i)
    0 :: (List.range 9).filter fun i => i != 0 && g.getD i 0 / 2 ^ 64 != i

/-- The bank step of an HSIFT: the words that it writes become full, and what waits on them goes on after it. -/
def State.hsiftStep (s : State) (k : Nat) (fin : Bool) (entry : Word) : State :=
  let h := (List.range 9).map fun i => s.rd8 (k + 8 * i)
  let g := hsiftNew fin entry.toNat h
  let ws := hsiftWrites fin entry.toNat h
  ws.foldl (fun s i => s.afterWrite (k + 8 * i) 8) (ws.foldl (fun s i => s.putN (k + 8 * i) 8 (g.getD i 0)) s)

end Sys2Proof.Machine
end

