-- ==== Sys2Proof/Machine/Notices.lean ====
section
/-! DEFINITION. The staff rings of the dies (R332 to R335, R374, R418). `staffBusy` lists the slots whose notice has no
ended handler, in the order written; `staffTaken` those that TAKE has taken. -/

namespace Sys2Proof.Machine

/-- The eight dwords of a notice record (R333): the header has type 0xFF1 and sz 1. -/
def Notice.words (n : Notice) : List Nat :=
  [0xFF1 * 2 ^ 52 + 2 ^ 46, 0,
   n.kind * 2 ^ 56 + n.cause * 2 ^ 48 + n.die * 2 ^ 46 + n.core * 2 ^ 33 + n.ctx * 2 ^ 29,
   n.value.toNat, n.pc.toNat, n.addr.toNat, n.word.toNat, 0]

/-- Dwords as bytes. -/
def dwordBytes (ws : List Nat) : List Byte := ws.flatMap fun w => natBytes w 8

/-- The size of a die's ring. -/
def Die.ringSize (d : Die) : Nat := bits d.staffRing.toNat 63 48

/-- The physical address of a ring slot. -/
def Die.slotAddr (d : Die) (slot : Nat) : Nat := bits d.staffRing.toNat 47 6 * 64 + slot * 64

/-- Whether a record can be written at the write position (R332). -/
def Die.hasRoom (d : Die) : Bool := 0 < d.ringSize && !d.staffBusy.contains d.staffWrite

/-- Writes a record at the write position, which advances cyclically. -/
def State.ringWrite (s : State) (die : Nat) (n : Notice) : State :=
  let d := s.die die
  let s := s.setDie die
    { d with staffBusy := d.staffBusy ++ [d.staffWrite],
             staffWrite := if d.ringSize ≤ d.staffWrite + 1 then 0 else d.staffWrite + 1 }
  s.storeL (d.slotAddr d.staffWrite) (dwordBytes n.words)

/-- The OVERFLOW record of a count (R334, R335). -/
def overflowNotice (die count : Nat) : Notice := { kind := 0xFE, die := die, value := BitVec.ofNat 64 count }

/-- Writes what waits for room: first an OVERFLOW where notices were dropped, then the MISSes that the walkers hold. -/
def State.ringFlush (die : Nat) : Nat → State → State
  | 0, s => s
  | f + 1, s =>
    let d := s.die die
    if !d.hasRoom then s
    else if d.staffDrop != 0 then
      State.ringFlush die f ((s.setDie die { d with staffDrop := 0 }).ringWrite die (overflowNotice die d.staffDrop))
    else
      match d.staffWait with
      | [] => s
      | n :: r => State.ringFlush die f ((s.setDie die { d with staffWait := r }).ringWrite die n)

/-- Writes all that waits on a die's ring. -/
def State.flushRing (s : State) (die : Nat) : State :=
  State.ringFlush die ((s.die die).staffWait.length + 2) s

/-- Wakes the staff homerooms of a die that wait in TAKE.w for a notice. -/
def State.wakeStaff (s : State) (die : Nat) : State :=
  (List.range 8).foldl (fun s i =>
    let core := coreOfSeat (die * 240 + (s.die die).staffPlace) i
    match (s.coreAt core).taking with
    | some t => if t.w then s.post s.cycle .takeWakeEvent { core := core } else s
    | none => s) s

/-- A notice stands in its ring, or finds it full (R335, R418): a MISS waits, every other is dropped and counted. -/
def execNoticeArrive (s : State) : Host.Outcome State Fault Refusal :=
  let die := s.arg.die
  let n := s.arg.notice
  let s := s.flushRing die
  let d := s.die die
  if d.hasRoom then .next ((s.ringWrite die n).wakeStaff die)
  else if n.kind == 0x01 then .next (s.setDie die { d with staffWait := d.staffWait ++ [n] })
  else .next (s.setDie die { d with staffDrop := min 0xFFFFFFFF (d.staffDrop + 1) })

/-- Frees the slot of an ended notice handler (R332). -/
def State.freeSlot (s : State) (die slot : Nat) : State :=
  let d := s.die die
  (s.setDie die { d with staffBusy := d.staffBusy.filter fun x => x != slot, staffTaken := d.staffTaken.filter fun x => x != slot }).flushRing die

/-- The first slot of a ring that no TAKE has taken. -/
def Die.firstNotice (d : Die) : Option Nat := d.staffBusy.find? fun x => !d.staffTaken.contains x

end Sys2Proof.Machine
end

