-- ==== Sys2Proof/Machine/Scalar.lean ====
section
/-! DEFINITION. Integer arithmetic and logic, immediates, bit fields and check codes (R180 to R187). Every instruction
writes its result in its issue cycle, but for the four divisions. -/

namespace Sys2Proof.Machine

/-! ## Registers -/

/-- `d, a, b`. -/
def uses3 (f : R3) : Uses := { a := some f.a, b := some f.b, out := [f.d] }
/-- `d, a, b, c`. -/
def uses4 (f : R4) : Uses := { a := some f.a, b := some f.b, c := some f.c, out := [f.d] }
/-- `d, a`. -/
def uses2 (f : R2) : Uses := { a := some f.a, out := [f.d] }
/-- `d, imm`, with d read through the d field (R181). -/
def usesDI (f : RImm) : Uses := { dr := some f.d, out := [f.d] }

/-! ## Results (R182 to R187) -/

/-- A 64-bit sum or difference, wrapped or clamped (R183). -/
def satAdd (m : Sat) (a b : Word) : Word :=
  match m with
  | .wrap => a + b
  | .ss =>
    let x := a.toInt + b.toInt
    if x < -(2 ^ 63 : Int) then BitVec.ofInt 64 (-(2 ^ 63 : Int))
    else if (2 ^ 63 : Int) - 1 < x then BitVec.ofInt 64 ((2 ^ 63 : Int) - 1)
    else BitVec.ofInt 64 x
  | .us => if a.toNat + b.toNat < 2 ^ 64 then a + b else BitVec.ofNat 64 (2 ^ 64 - 1)

def satSub (m : Sat) (a b : Word) : Word :=
  match m with
  | .wrap => a - b
  | .ss =>
    let x := a.toInt - b.toInt
    if x < -(2 ^ 63 : Int) then BitVec.ofInt 64 (-(2 ^ 63 : Int))
    else if (2 ^ 63 : Int) - 1 < x then BitVec.ofInt 64 ((2 ^ 63 : Int) - 1)
    else BitVec.ofInt 64 x
  | .us => if a.toNat < b.toNat then 0 else a - b

/-- The upper half of the signed product. -/
def mulHigh (a b : Word) : Word := BitVec.ofInt 64 (a.toInt * b.toInt / (2 ^ 64 : Int))
/-- The upper half of the unsigned product. -/
def mulHighU (a b : Word) : Word := BitVec.ofNat 64 (a.toNat * b.toNat / 2 ^ 64)

/-- Quotients and remainders with the corners of R184. -/
def divS (a b : Word) : Word := if b == 0 then BitVec.ofInt 64 (-1) else BitVec.ofInt 64 (Int.tdiv a.toInt b.toInt)
def divU (a b : Word) : Word := if b == 0 then BitVec.ofInt 64 (-1) else BitVec.ofNat 64 (a.toNat / b.toNat)
def remS (a b : Word) : Word := if b == 0 then a else BitVec.ofInt 64 (Int.tmod a.toInt b.toInt)
def remU (a b : Word) : Word := if b == 0 then a else BitVec.ofNat 64 (a.toNat % b.toNat)

/-- A truth value as a register value. -/
def ofBool (b : Bool) : Word := if b then 1 else 0

/-- The shift amount of a register (R182). -/
def shAmt (b : Word) : Nat := b.toNat % 64

/-- A bit field's place and length (R186). -/
def fieldPos (b : Word) : Nat := b.toNat % 64
def fieldLen (b c : Word) : Nat := min (c.toNat % 128) (64 - b.toNat % 64)

def bitField (a b c : Word) : Nat := a.toNat / 2 ^ fieldPos b % 2 ^ fieldLen b c

def bextVal (a b c : Word) : Word :=
  let n := fieldLen b c
  let v := bitField a b c
  if n == 0 then 0
  else if bitAt v (n - 1) then BitVec.ofNat 64 (2 ^ 64 - 2 ^ n + v) else BitVec.ofNat 64 v

def bextuVal (a b c : Word) : Word := BitVec.ofNat 64 (bitField a b c)

def binsVal (d a b c : Word) : Word :=
  let n := fieldLen b c
  let p := fieldPos b
  let m : Word := BitVec.ofNat 64 ((2 ^ n - 1) * 2 ^ p)
  (d &&& ~~~m) ||| BitVec.ofNat 64 (a.toNat % 2 ^ n * 2 ^ p)

/-- Zeros above the highest set bit of `w` bits, and below the lowest. -/
def leadZeros (a : Word) : Nat := ((List.range 64).find? fun i => tb a (63 - i)).getD 64
def tailZeros (a : Word) : Nat := ((List.range 64).find? fun i => tb a i).getD 64
def bitCount (a : Word) : Nat := ((List.range 64).filter fun i => tb a i).length

/-- The bytes of a dword in reverse order. -/
def swapBytes (a : Word) : Word := BitVec.ofNat 64 (bytesNat (natBytes a.toNat 8).reverse)

/-- One step of CRC-32C (R187). -/
def crc32cStep (x : Nat) (b : Bool) : Nat :=
  let y := x / 2
  if (x % 2 == 1) != b then y ^^^ 0x82F63B78 else y

/-- One step of a code that takes its highest bit first. -/
def crcStep (w p : Nat) (x : Nat) (b : Bool) : Nat :=
  let y := x * 2 % 2 ^ w
  if bitAt x (w - 1) != b then y ^^^ p else y

/-- The message bits of a check code. -/
def crcLen (c : Word) : Nat := min (c.toNat % 128) 64

def crc32cVal (a b c : Word) : Word :=
  BitVec.ofNat 64 ((List.range (crcLen c)).foldl (fun x j => crc32cStep x (tb b j)) (a.toNat % 2 ^ 32))

def crcVal (w p : Nat) (a b c : Word) : Word :=
  BitVec.ofNat 64 ((List.range (crcLen c)).foldl (fun x j => crcStep w p x (tb b (crcLen c - 1 - j))) (a.toNat % 2 ^ w))

/-- A sign-extended immediate (R185). -/
def sextImm (i : BitVec 32) : Word := i.signExtend 64

/-! ## Integer arithmetic and logic (R182, R183) -/

def execIadd (f : R3) (m : Sat) (s : State) : Host.Outcome State Fault Refusal := .next (s.compute (uses3 f) fun v => satAdd m v.a v.b)
def execIsub (f : R3) (m : Sat) (s : State) : Host.Outcome State Fault Refusal := .next (s.compute (uses3 f) fun v => satSub m v.a v.b)
def execImul (f : R3) (s : State) : Host.Outcome State Fault Refusal := .next (s.compute (uses3 f) fun v => v.a * v.b)
def execImulh (f : R3) (s : State) : Host.Outcome State Fault Refusal := .next (s.compute (uses3 f) fun v => mulHigh v.a v.b)
def execImulhu (f : R3) (s : State) : Host.Outcome State Fault Refusal := .next (s.compute (uses3 f) fun v => mulHighU v.a v.b)
def execIand (f : R3) (s : State) : Host.Outcome State Fault Refusal := .next (s.compute (uses3 f) fun v => v.a &&& v.b)
def execIor (f : R3) (s : State) : Host.Outcome State Fault Refusal := .next (s.compute (uses3 f) fun v => v.a ||| v.b)
def execIxor (f : R3) (s : State) : Host.Outcome State Fault Refusal := .next (s.compute (uses3 f) fun v => v.a ^^^ v.b)
def execIandn (f : R3) (s : State) : Host.Outcome State Fault Refusal := .next (s.compute (uses3 f) fun v => v.a &&& ~~~v.b)
def execIshl (f : R3) (s : State) : Host.Outcome State Fault Refusal := .next (s.compute (uses3 f) fun v => v.a <<< shAmt v.b)
def execIshr (f : R3) (s : State) : Host.Outcome State Fault Refusal := .next (s.compute (uses3 f) fun v => v.a >>> shAmt v.b)
def execIsra (f : R3) (s : State) : Host.Outcome State Fault Refusal := .next (s.compute (uses3 f) fun v => v.a.sshiftRight (shAmt v.b))
def execIrol (f : R3) (s : State) : Host.Outcome State Fault Refusal := .next (s.compute (uses3 f) fun v => v.a.rotateLeft (shAmt v.b))
def execImin (f : R3) (s : State) : Host.Outcome State Fault Refusal := .next (s.compute (uses3 f) fun v => if v.a.toInt < v.b.toInt then v.a else v.b)
def execImax (f : R3) (s : State) : Host.Outcome State Fault Refusal := .next (s.compute (uses3 f) fun v => if v.b.toInt < v.a.toInt then v.a else v.b)
def execIminu (f : R3) (s : State) : Host.Outcome State Fault Refusal := .next (s.compute (uses3 f) fun v => if v.a.toNat < v.b.toNat then v.a else v.b)
def execImaxu (f : R3) (s : State) : Host.Outcome State Fault Refusal := .next (s.compute (uses3 f) fun v => if v.b.toNat < v.a.toNat then v.a else v.b)
def execIseq (f : R3) (s : State) : Host.Outcome State Fault Refusal := .next (s.compute (uses3 f) fun v => ofBool (v.a == v.b))
def execIslt (f : R3) (s : State) : Host.Outcome State Fault Refusal := .next (s.compute (uses3 f) fun v => ofBool (decide (v.a.toInt < v.b.toInt)))
def execIsltu (f : R3) (s : State) : Host.Outcome State Fault Refusal := .next (s.compute (uses3 f) fun v => ofBool (decide (v.a.toNat < v.b.toNat)))
def execIsel (f : R4) (s : State) : Host.Outcome State Fault Refusal := .next (s.compute (uses4 f) fun v => if v.c == 0 then v.b else v.a)

/-! ## Division (R184): the result is written 20 cycles after issue -/

/-- A division: its destination is empty until the result is written. -/
def State.divide (s : State) (f : R3) (g : Word → Word → Word) : State :=
  let u : Uses := { a := some f.a, b := some f.b, late := [f.d] }
  match s.peek u with
  | .stop t => t
  | .ok v =>
    let x := s.ctx s.who
    let t := (s.commit u).emptyDest s.who (.reg f.d)
    let t := t.modCtx s.who fun x => { x with lateOut := x.lateOut + 1 }
    (t.post (s.cycle + 20) .divisionResult
      { late := { who := s.who, run := x.run, dest := .reg f.d, val := (g v.a v.b).setWidth 1024 } }).finish

def execIdiv (f : R3) (s : State) : Host.Outcome State Fault Refusal := .next (s.divide f divS)
def execIdivu (f : R3) (s : State) : Host.Outcome State Fault Refusal := .next (s.divide f divU)
def execIrem (f : R3) (s : State) : Host.Outcome State Fault Refusal := .next (s.divide f remS)
def execIremu (f : R3) (s : State) : Host.Outcome State Fault Refusal := .next (s.divide f remU)

/-! ## Bit fields and check codes (R186, R187) -/

def execBext (f : R4) (s : State) : Host.Outcome State Fault Refusal := .next (s.compute (uses4 f) fun v => bextVal v.a v.b v.c)
def execBextu (f : R4) (s : State) : Host.Outcome State Fault Refusal := .next (s.compute (uses4 f) fun v => bextuVal v.a v.b v.c)
def execBins (f : R4) (s : State) : Host.Outcome State Fault Refusal := .next (s.compute { uses4 f with dr := some f.d } fun v => binsVal v.d v.a v.b v.c)
def execClz (f : R2) (s : State) : Host.Outcome State Fault Refusal := .next (s.compute (uses2 f) fun v => BitVec.ofNat 64 (leadZeros v.a))
def execCtz (f : R2) (s : State) : Host.Outcome State Fault Refusal := .next (s.compute (uses2 f) fun v => BitVec.ofNat 64 (tailZeros v.a))
def execPopc (f : R2) (s : State) : Host.Outcome State Fault Refusal := .next (s.compute (uses2 f) fun v => BitVec.ofNat 64 (bitCount v.a))
def execBswap (f : R2) (s : State) : Host.Outcome State Fault Refusal := .next (s.compute (uses2 f) fun v => swapBytes v.a)
def execCrc32c (f : R4) (s : State) : Host.Outcome State Fault Refusal := .next (s.compute (uses4 f) fun v => crc32cVal v.a v.b v.c)
def execCrc16 (f : R4) (s : State) : Host.Outcome State Fault Refusal := .next (s.compute (uses4 f) fun v => crcVal 16 0x1021 v.a v.b v.c)
def execCrc15 (f : R4) (s : State) : Host.Outcome State Fault Refusal := .next (s.compute (uses4 f) fun v => crcVal 15 0x4599 v.a v.b v.c)

/-! ## Immediates (R185) -/

def execMovi (f : RImm) (s : State) : Host.Outcome State Fault Refusal := .next (s.compute { out := [f.d] } fun _ => sextImm f.imm)
def execMovhi (d : Reg) (a : Src) (imm : BitVec 32) (s : State) : Host.Outcome State Fault Refusal := 
  .next (s.compute { a := some a, out := [d] } fun v => BitVec.ofNat 64 (imm.toNat * 2 ^ 32 + v.a.toNat % 2 ^ 32))
def execIaddi (f : RImm) (m : Sat) (s : State) : Host.Outcome State Fault Refusal := .next (s.compute (usesDI f) fun v => satAdd m v.d (sextImm f.imm))
def execIandi (f : RImm) (s : State) : Host.Outcome State Fault Refusal := .next (s.compute (usesDI f) fun v => v.d &&& sextImm f.imm)
def execIori (f : RImm) (s : State) : Host.Outcome State Fault Refusal := .next (s.compute (usesDI f) fun v => v.d ||| sextImm f.imm)
def execIxori (f : RImm) (s : State) : Host.Outcome State Fault Refusal := .next (s.compute (usesDI f) fun v => v.d ^^^ sextImm f.imm)
def execIshli (f : RImm) (s : State) : Host.Outcome State Fault Refusal := .next (s.compute (usesDI f) fun v => v.d <<< f.imm.toNat)
def execIshri (f : RImm) (s : State) : Host.Outcome State Fault Refusal := .next (s.compute (usesDI f) fun v => v.d >>> f.imm.toNat)
def execIsrai (f : RImm) (s : State) : Host.Outcome State Fault Refusal := .next (s.compute (usesDI f) fun v => v.d.sshiftRight f.imm.toNat)
def execIslti (f : RImm) (s : State) : Host.Outcome State Fault Refusal := .next (s.compute (usesDI f) fun v => ofBool (decide (v.d.toInt < (sextImm f.imm).toInt)))
def execIseqi (f : RImm) (s : State) : Host.Outcome State Fault Refusal := .next (s.compute (usesDI f) fun v => ofBool (v.d == sextImm f.imm))

end Sys2Proof.Machine
end

