-- ==== Sys2Proof/Machine/Control.lean ====
section
/-! DEFINITION. Branches, jumps, END, counters, pauses and fences (R188 to R195, R205), and the arrival of late results
(R184, R209, R353). -/

namespace Sys2Proof.Machine

/-! ## Branches (R189 to R191) -/

/-- The target of a branch: its own address + 8 times the displacement. -/
def branchTarget (pc : Word) (disp : BitVec 30) : Word := pc + (disp.signExtend 64 <<< 3)

/-- Whether a condition holds (R189). -/
def condHolds (c : Cond) (a b : Word) : Bool :=
  match c with
  | .al => true
  | .eq => a == b
  | .ne => a != b
  | .lt => decide (a.toInt < b.toInt)
  | .ge => decide (b.toInt ≤ a.toInt)
  | .ltu => decide (a.toNat < b.toNat)
  | .geu => decide (b.toNat ≤ a.toNat)

/-- Ends a branch. -/
def State.branch (s : State) (taken : Bool) (disp : BitVec 30) : State :=
  let pc := (s.ctx s.who).pc
  s.endAt (if taken then branchTarget pc disp else pc + 8)

/-- A branch on operands. -/
def State.branchOn (s : State) (u : Uses) (disp : BitVec 30) (f : Vals → Bool) : State :=
  match s.peek u with
  | .stop t => t
  | .ok v => (s.commit u).branch (f v) disp

/-- NOP (R195). -/
def execNop (s : State) : Host.Outcome State Fault Refusal := .next s.finish

/-- BR (R189); br.al reads no register. -/
def execBr (c : Cond) (a b : Src) (disp : BitVec 30) (s : State) : Host.Outcome State Fault Refusal :=
  .next (s.branchOn (if c == .al then {} else { a := some a, b := some b }) disp fun v => condHolds c v.a v.b)

/-- BRBIT (R190). -/
def execBrbit (set : Bool) (a : Src) (n : BitVec 6) (disp : BitVec 30) (s : State) : Host.Outcome State Fault Refusal :=
  .next (s.branchOn { a := some a } disp fun v => tb v.a n.toNat == set)

/-- Whether a stream register is bound and held by the issuing context (R75, R229). -/
def State.holdsStream (s : State) (r : Reg) : Bool :=
  let q := s.stream s.who.core r
  q.bound && q.owner == some (s.ctx s.who).run

/-- BRF (R190): it reads the full/empty bit alone. -/
def execBrf (empty : Bool) (a : Reg) (disp : BitVec 30) (s : State) : Host.Outcome State Fault Refusal :=
  if isStream a && !s.holdsStream a then .next (s.trapHere 0x0A 0)
  else .next (s.branch (s.regFull s.who a 1 != empty) disp)

/-- BRE (R190). -/
def execBre (nex : Bool) (a : Reg) (disp : BitVec 30) (s : State) : Host.Outcome State Fault Refusal :=
  if !isStream a then .next (s.trapHere 0x05 0)
  else if !s.holdsStream a then .next (s.trapHere 0x0A 0)
  else .next (s.branch (((s.stream s.who.core a).leftOver == 0) != nex) disp)

/-- LOOP (R191). -/
def execLoop (a : Src) (disp : BitVec 30) (s : State) : Host.Outcome State Fault Refusal :=
  let u : Uses := { a := some a, out := [a.r], codeOk := 1 ≤ a.r.toNat && a.r.toNat ≤ 47 }
  match s.peek u with
  | .stop t => .next t
  | .ok v => .next (((s.commit u).setReg a.r (v.a - 1)).branch (v.a - 1 != 0) disp)

/-! ## Jumps (R192) -/

/-- JAL. -/
def execJal (f : RImm) (s : State) : Host.Outcome State Fault Refusal :=
  let u : Uses := { out := [f.d] }
  let pc := (s.ctx s.who).pc
  match s.peek u with
  | .stop t => .next t
  | .ok _ => .next ((s.setReg f.d (pc + 8)).endAt (pc + (sextImm f.imm <<< 3)))

/-- JALR. -/
def execJalr (f : R2) (s : State) : Host.Outcome State Fault Refusal :=
  let u := uses2 f
  let pc := (s.ctx s.who).pc
  match s.peek u with
  | .stop t => .next t
  | .ok v =>
    if v.a.toNat % 8 != 0 then .next (s.trapHere 0x15 v.a)
    else .next (((s.commit u).setReg f.d (pc + 8)).endAt v.a)

/-! ## END, counters, pauses and fences -/

/-- The end of a context: it leaves rotation for REAP (R49, R193), and its notice's slot is free (R332). -/
def State.endContext (s : State) (v : Word) : State :=
  let c := s.who
  let x := s.ctx c
  let s := s.modCtx c fun x =>
    { x with life := .finished, exitVal := v, wait := .none, insCount := x.insCount + 1, starting := false, reported := false,
             notice := none }
  let s := match x.notice with
    | some (die, slot) => s.freeSlot die slot
    | none => s
  s.wakeHome c.core

/-- END (R193): it waits for its relaxed accesses and its stores; context 0 does not have it. -/
def execEndRun (a : Src) (s : State) : Host.Outcome State Fault Refusal :=
  if s.who.ctx == 0 then .next (s.trapHere 0x01 0)
  else
    let u : Uses := { a := some a }
    .next (s.waiting u Ctx.storesDone fun v s => (s.commit u).endContext v.a)

/-- RDCYC (R194, R16): the cycles since the last power-on or device reset. -/
def execRdcyc (d : Reg) (k : CycSel) (s : State) : Host.Outcome State Fault Refusal :=
  .next (s.compute { out := [d] } fun _ =>
    match k with
    | .cycles => BitVec.ofNat 64 (s.cycle - s.bootAt)
    | .ins => BitVec.ofNat 64 (s.ctx s.who).insCount
    | .ident => BitVec.ofNat 64 (s.who.core * 16 + s.who.ctx))

/-- PAUSE (R195): the context is back in the ready set `imm` cycles after the issue. -/
def execPause (imm : BitVec 32) (s : State) : Host.Outcome State Fault Refusal :=
  let t := s.finish
  if imm == 0 then .next t
  else
    let till := s.cycle + imm.toNat
    let run := (s.ctx s.who).run
    .next ((t.modCtx s.who fun x => { x with wait := .pause till }).post till .pauseEnd { c := s.who, run := run, n := till })

/-- The end of a pause; a pause that a save ended is over already (R195). -/
def execPauseEnd (s : State) : Host.Outcome State Fault Refusal :=
  .next (s.modRun s.arg.c s.arg.run fun x => if x.wait == .pause s.arg.n then { x with wait := .none } else x)

/-- The conditions of a FENCE (R107, R205). -/
def Ctx.fenceOk (x : Ctx) (r e d : Bool) : Bool :=
  let all := !r && !e && !d
  (!(r || all) || x.quiet) && (!(e || all) || x.engOut == 0) && (!(d || all) || x.matxOut == 0)

/-- FENCE (R107, R205): it waits, without an issue slot, until its conditions hold. -/
def execFence (r e d : Bool) (s : State) : Host.Outcome State Fault Refusal :=
  .next (s.waiting {} (fun x => x.fenceOk r e d) fun _ s => s.finish)

/-! ## Late results -/

/-- Wakes a REAP that waits for late results into its context (R276). -/
def State.wakeReap (s : State) (c : CtxId) : State :=
  match (s.coreAt c.core).reaping with
  | some r => if r.victim == some c.ctx then s.post s.cycle .homeroomLateResult { core := c.core, n := 1 } else s
  | none => s

/-- Where a core's network interface forwards what comes for a run that has migrated (R63). -/
def State.forwardOf (s : State) (core run : Nat) : Option Nat :=
  ((s.coreAt core).fwd.find? fun (f : Forward) => f.run == run).map (·.dest.core)

/-- The unloaded time of a forwarded reply (R63). -/
def forwardTime (a b : Nat) : Nat := 2 * hops a b + 14 * crossings (dieOf a) (dieOf b)

/-- Whether a destination lies in a context's own bank. -/
def Dest.inBank (d : Dest) : Bool :=
  match d with
  | .reg r => r.toNat < 32
  | .vec _ _ _ => true
  | _ => false

/-- Writes a late result and counts it in (R72, R78). -/
def State.lateDone (s : State) (l : Late) : State :=
  let s := s.fill l.who l.run l.dest l.val
  (s.modRun l.who l.run fun x => { x with lateOut := x.lateOut - 1 }).wakeReap l.who

/-- A late result comes to the core of its instruction, which sends it on where its context has migrated (R63). -/
def State.lateArrive (s : State) (l : Late) : State :=
  match s.forwardOf l.who.core l.run with
  | some d =>
    if l.dest.inBank then s.sendN l.who.core (dieOf d) 80 (forwardTime l.who.core d) .forwardedReply { core := d, n := 2, late := l } else s.lateDone l
  | none => s.lateDone l

/-- A division's result (R184). -/
def execDivisionResult (s : State) : Host.Outcome State Fault Refusal := .next (s.lateArrive s.arg.late)

/-- The result of the vector divide unit: the unit takes its next instruction in the cycle after (R353). -/
def execVectorLateResult (s : State) : Host.Outcome State Fault Refusal :=
  let core := s.arg.core
  let k := s.coreAt core
  let s := s.lateArrive s.arg.late
  match k.div.drop 1 with
  | [] => .next (s.modCore core fun k => { k with div := [] })
  | d :: r =>
    .next ((s.modCore core fun k => { k with div := d :: r }).post (s.cycle + 1 + d.cycles) .vectorLateResult
      { core := core, late := d.late })

/-- GSEL's result (R209, R224). -/
def execGselResult (s : State) : Host.Outcome State Fault Refusal := .next (s.lateArrive s.arg.late)

end Sys2Proof.Machine
end

