-- ==== Sys2Proof/Machine/Queue.lean ====
section
/-! DEFINITION. The pair queues: core deques, octet queues and die queues, their moves (R55 to R57), aging (R58), and the
events on which a TAKE.w searches again (R274). A deque's list starts at its near end, a queue's at its head; the order
number of an entry is its age. -/

namespace Sys2Proof.Machine

/-! ## Wake events of TAKE.w (R48, R274) -/

/-- Lets a core's waiting TAKE.w search again. -/
def State.wakeTake (s : State) (core : Nat) : State :=
  match (s.coreAt core).taking with
  | some t => if t.w then s.post s.cycle .takeWakeEvent { core := core } else s
  | none => s

/-- Lets the waiting TAKE.w of every core that meets `p` search again. -/
def State.wakeTakes (s : State) (p : Nat → Bool) : State :=
  (s.cores.filter fun e => p e.1).foldl (fun s e => s.wakeTake e.1) s

/-- A die's queue gained an entry, or an occupancy bit of the die was set. -/
def State.wakeDie (s : State) (die : Nat) : State := s.wakeTakes fun k => dieOf k == die

/-- An octet's queue gained an entry. -/
def State.wakeOctet (s : State) (octet : Nat) : State := s.wakeTakes fun k => octetOf k == octet

/-! ## Entries -/

/-- A pair as an entry: records named as R55 keeps them. -/
def pairItem (id prio : Nat) (a b : Word) (now : Nat) : QItem := { id := id, prio := prio, a := a, b := b, since := now }

/-- An entry put into a list in the order of age. -/
def insertAge (q : QItem) : List QItem → List QItem
  | [] => [q]
  | x :: r => if q.id ≤ x.id then q :: x :: r else x :: insertAge q r

/-- Entries in the order of their age. -/
def byAge (l : List QItem) : List QItem := l.foldr insertAge []

/-- A core's occupancy bit (R57). -/
def State.occupied (s : State) (core : Nat) : Bool := 2 ≤ (s.coreAt core).deque.length

/-- Replaces a core's deque; an occupancy bit that this sets wakes the die. -/
def State.setDeque (s : State) (core : Nat) (l : List QItem) : State :=
  let had := s.occupied core
  let s := s.modCore core fun k => { k with deque := l }
  if !had && s.occupied core then s.wakeDie (dieOf core) else s

/-- Puts entries at the near end of a core's deque; of more than 64, the 8 at the far end leave as a block (R56). -/
def State.nearEnd (s : State) (core : Nat) (new : List QItem) : State :=
  let l := new ++ (s.coreAt core).deque
  if 64 < l.length then
    (s.setDeque core (l.take (l.length - 8))).post s.cycle .queueBlockMove
      { move := .dequeToOctet core, items := byAge (l.drop (l.length - 8)) }
  else s.setDeque core l

/-- Pushes an entry at the near end of a core's deque. -/
def State.pushDeque (s : State) (core : Nat) (q : QItem) : State := (s.nearEnd core [q]).wakeTake core

/-- Whether one entry goes before another in a die queue (R56): by priority, then by its entry into that queue. -/
def QItem.ahead (x y : QItem) : Bool := y.prio < x.prio || (x.prio == y.prio && x.ent ≤ y.ent)

/-- An entry put into a die queue in its place. -/
def insertItem (q : QItem) : List QItem → List QItem
  | [] => [q]
  | x :: r => if q.ahead x then q :: x :: r else x :: insertItem q r

/-- Puts an entry into a die queue, where it ages (R58). -/
def State.pushDie (s : State) (die : Nat) (q : QItem) : State :=
  let (e, s) := s.newId
  let q := { q with since := s.cycle, ent := e }
  let s := s.modDie die fun d => { d with queue := insertItem q d.queue }
  (s.post (s.cycle + 2 ^ 20) .queueAging { aged := .die die q.id, n := s.cycle }).wakeDie die

/-- Puts a block at a deque's near end, its oldest entry nearest (R56). -/
def State.blockToDeque (s : State) (core : Nat) (l : List QItem) : State :=
  (s.nearEnd core (byAge l)).wakeTake core

/-- Moves a block of up to 8 entries from the head of a die's queue to an octet queue (R56). -/
def State.refillOctet (s : State) (octet : Nat) : State :=
  let die := octetDie octet
  let l := (s.die die).queue
  if l.isEmpty then s
  else
    let s := s.modDie die fun d => { d with queue := l.drop 8 }
    (s.modOctet octet fun o => { o with queue := o.queue ++ byAge (l.take 8) }).wakeOctet octet

/-- Refills an empty deque with a block of up to 8 from the octet queue. -/
def State.refillDeque (s : State) (core : Nat) : State :=
  let o := s.octet (octetOf core)
  if o.queue.isEmpty then s
  else (s.setOctet (octetOf core) { o with queue := o.queue.drop 8 }).blockToDeque core (o.queue.take 8)

/-- A block of R56 moves between two levels. -/
def execQueueBlockMove (s : State) : Host.Outcome State Fault Refusal :=
  match s.arg.move with
  | .dequeToOctet core =>
    let octet := octetOf core
    let l := (s.octet octet).queue ++ s.arg.items
    let s := s.modOctet octet fun o => { o with queue := l }
    let s := s.wakeOctet octet
    .next (if 512 < l.length then s.post s.cycle .queueBlockMove { move := .octetToDie octet } else s)
  | .octetToDie octet =>
    let l := (s.octet octet).queue
    let s := s.modOctet octet fun o => { o with queue := l.drop 8 }
    .next ((l.take 8).foldl (fun s q => s.pushDie (octetDie octet) q) s)
  | .dieToOctet octet => .next (s.refillOctet octet)
  | .octetToDeque core => .next (s.refillDeque core)

/-- A pushed pair arrives at a core's deque (R41, R56); in a fenced rectangle it goes to the die queue (R396). -/
def execPairPushArrive (s : State) : Host.Outcome State Fault Refusal :=
  let core := s.arg.core
  let src := s.arg.c.core
  let s := if s.arg.n == 1 || src == core then s else s.cutLog core (chanFrom src core) 1 0 s.arg.item.words
  let (i, s) := s.newId
  let q := { s.arg.item with id := i, since := s.cycle }
  if s.fences.any (·.has core) then .next (s.pushDie (dieOf core) q) else .next (s.pushDeque core q)

/-! ## The cloakroom (R60) -/

/-- Makes a saved entry ready: it competes in TAKE, and ages, from now on (R58). -/
def State.readySaved (s : State) (octet id : Nat) : State :=
  match (s.octet octet).cloak.find? fun (x : Saved) => x.id == id && !x.ready with
  | none => s
  | some x =>
    let s := s.modOctet octet fun o =>
      { o with cloak := mapIf (fun (y : Saved) => y.id == id) (fun y => { y with ready := true, since := s.cycle }) o.cloak }
    (s.post (s.cycle + 2 ^ 20) .queueAging { aged := .cloak octet id, n := s.cycle }).wakeTake x.core

/-- Puts an entry into the cloakroom of an octet. -/
def State.cloakPut (s : State) (octet : Nat) (x : Saved) : State :=
  let s := s.modOctet octet fun o => { o with cloak := o.cloak ++ [{ x with ready := false }] }
  if x.ready then s.readySaved octet x.id else s

/-- Makes ready every saved entry of the device that meets `p`. -/
def State.readyWhere (s : State) (p : Saved → Bool) : State :=
  s.octets.foldl (fun s o => (o.2.cloak.filter fun (x : Saved) => !x.ready && p x).foldl (fun s x => s.readySaved o.1 x.id) s) s

/-! ## Aging (R58) -/

/-- A level of priority for an entry that has waited 2^20 cycles; it stops at 255, and when the entry has left. -/
def execQueueAging (s : State) : Host.Outcome State Fault Refusal :=
  match s.arg.aged with
  | .die die id =>
    match pickFirst (fun q => q.id == id && q.since == s.arg.n) (s.die die).queue with
    | none => .next s
    | some (q, r) =>
      if 255 ≤ q.prio then .next s
      else
        let q := { q with prio := q.prio + 1, since := s.cycle }
        let s := s.modDie die fun d => { d with queue := insertItem q r }
        .next ((s.post (s.cycle + 2 ^ 20) .queueAging { aged := .die die id, n := s.cycle }).wakeDie die)
  | .cloak octet id =>
    match (s.octet octet).cloak.find? (fun x => x.id == id && x.since == s.arg.n) with
    | none => .next s
    | some x =>
      if 255 ≤ x.prio || !x.ready then .next s
      else
        let s := s.modOctet octet fun o =>
          { o with cloak := mapIf (·.id == id) (fun y => { y with prio := y.prio + 1, since := s.cycle }) o.cloak }
        .next ((s.post (s.cycle + 2 ^ 20) .queueAging { aged := .cloak octet id, n := s.cycle }).wakeTake x.core)

end Sys2Proof.Machine
end

