-- ==== Sys2Proof/Machine/Net.lean ====
section
/-! DEFINITION. Nets: records and port cells (R26 to R30), rules (R32 to R35), payloads (R36, R37, R268), arenas (R266,
R267), the wire protocol (R39 to R43, R316, R387), the built-in rules (R38), and the start of a pair (R275, R388). -/

namespace Sys2Proof.Machine

/-! ## Words of records and cells -/

/-- The storage of a cell, record or descriptor address as a core reads it; `none` on another node. The walk that a miss
needs gives the same place. -/
def State.cellKey (s : State) (core : Nat) (a : Word) : Option Nat :=
  match s.form core a with
  | .window c w off => let e := rd (s.coreAt c).win w {}; if e.valid then some (slateKey (octetOf c) e.slate off) else none
  | .handle o sl _ off => some (slateKey o sl off)
  | .mem off =>
    match s.tlbFind (dieOf core) (s.partOf core) off with
    | some e => some (e.phys off)
    | none => (s.walk (s.partOf core) off).1.map fun l =>
        TlbEnt.phys { base := l.base, size := l.size, pte := l.pte, leaf := l.leaf } off
  | _ => none

/-- The dword at an address; zero where this device has none. -/
def State.dword (s : State) (core : Nat) (a : Word) : Nat := ((s.cellKey core a).map fun k => s.rd8 (k / 8 * 8)).getD 0

/-- Writes the dword at an address, as a step of the net protocol does (R90, R92, R97 to R101): the write is checked and
translated as every access is. Where it cannot be made the step's log says why, and the step as a whole has no effect
(`State.atomically`). -/
def State.putDword (s : State) (core : Nat) (a : Word) (v : Nat) : State :=
  let stop (x : Stop) : State := { s with txn := { s.txn with stop := s.txn.stop.orElse fun _ => some x } }
  match s.enter core (s.isStaffCore core) 0 a 8 .fullEmpty 1 with
  | .go k t => { t.storeN (k / 8 * 8) 8 v with txn := { s.txn with keys := k / 8 * 8 :: s.txn.keys } }
  | .wait _ => stop .wait
  | .miss => stop (.miss a)
  | .bad k => stop (.bad k a)

/-- The errors that the words of a step meet, which it reads before it writes them (R366, R370). -/
def State.meetKeys (s : State) (f : State → State) : State :=
  if s.latent.isEmpty then s else ((f { s with txn := {} }).txn.keys).foldl (fun s k => (s.meetErrors k 8).1) s

/-- A step that takes effect as a whole (R94): where a write of it cannot be made, a word of it is poisoned (R366), or a core of
this device would write a watched granule (R373), nothing of it happens, and `other` says what follows. -/
def State.atomically (s : State) (core : Nat) (f : State → State) (other : Stop → State → State) : State :=
  let s := s.meetKeys f
  let t := f { s with txn := {} }
  match t.txn.stop with
  | some x => other x s
  | none =>
    match t.txn.keys.find? fun k => s.isPoisoned k 8 with
    | some k => other (.bad 0x17 (BitVec.ofNat 64 k)) s
    | none =>
      match if core < 7680 && !s.isStaffCore core then t.txn.keys.find? fun k => !(s.watchHits k 8).isEmpty else none with
      | some k => other (.bad 0x3F (BitVec.ofNat 64 k)) s
      | none => { t with txn := {} }

/-- A write of the net's storage beside another step, whole or not at all: where it cannot be made nothing changes. -/
def State.apart (s : State) (core : Nat) (f : State → State) : State :=
  { s.atomically core f (fun _ s => s) with txn := s.txn }

/-- The unloaded one-way time from a core to an address (R91). -/
def State.oneWay (s : State) (core : Nat) (a : Word) : Nat := s.lat core a / 2

/-- An address that other cores may read: an own window in core form (R87; DEDUCED, assumption log 24). -/
def State.homed (s : State) (core : Nat) (a : Word) : Word :=
  match s.form core a with
  | .window c w off =>
    if bits a.toNat 39 38 == 0 then
      BitVec.ofNat 64 (bits a.toNat 59 48 * 2 ^ 48 + 0x0F4000000000 + c * 2 ^ 19 + w * 2 ^ 16 + off)
    else a
  | _ => a

/-- The name of a record or cell (R88): in a slate, its handle-form address. -/
def State.norm (s : State) (core : Nat) (a : Word) : Word :=
  match s.form core a with
  | .window c w off =>
    let e := rd (s.coreAt c).win w {}
    if e.valid then BitVec.ofNat 64 (bits a.toNat 59 48 * 2 ^ 48 + bits (handleAddr (octetOf c) e.slate e.gen.toNat off).toNat 47 0)
    else a
  | _ => a

/-- The state of a port cell (R28): 0 FREE, 1 LIVE, 2 FWD. -/
def cellSt (w : Nat) : Nat := bits w 63 62
def cellTag (w : Nat) : Nat := bits w 61 54
/-- The address that a port cell names. -/
def cellPeer (w : Nat) : Word := BitVec.ofNat 64 (bits w 52 41 * 2 ^ 48 + bits w 40 0 * 8)

/-- A port cell (R28). -/
def mkCell (st tag : Nat) (pp : Bool) (peer : Word) : Nat :=
  st * 2 ^ 62 + tag % 256 * 2 ^ 54 + b2n pp * 2 ^ 53 + bits peer.toNat 59 48 * 2 ^ 41 + bits peer.toNat 43 3

/-- Whether a dword is the header of a 64-byte record with an auxiliary cell in its dword 5 (R26, R27): arity 4 to 6, sz set,
and the reserved bits zero. -/
def longHeader (h : Nat) : Bool := bitAt h 46 && 4 ≤ bits h 51 49 && bits h 51 49 ≤ 6 && bits h 45 16 == 0

/-- Whether an address is a principal cell (R26): dword 1 of a record, which is aligned to its size, and not dword 5 of a
64-byte record. The records of the net say which (DEDUCED, assumption log 50). -/
def State.isPrincipal (s : State) (core : Nat) (a : Word) : Bool :=
  a.toNat % 32 == 8 && !(a.toNat % 64 == 40 && longHeader (s.dword core (a - 40)))

/-- The number of the node that an address names (R87): this device's own number stands for 0xFFF. -/
def State.nodeNo (s : State) (a : Word) : Nat :=
  let n := bits a.toNat 59 48
  if n == 0xFFF then (s.die 0).node.toNat % 4096 else n

/-- The order of cells (R30): by node, then by offset. -/
def State.cellLt (s : State) (a b : Word) : Bool :=
  let node := s.nodeNo
  node a < node b || (node a == node b && bits a.toNat 47 0 < bits b.toNat 47 0)

/-- Whether two addresses name one cell. -/
def State.sameCell (s : State) (core : Nat) (a b : Word) : Bool :=
  match s.cellKey core a, s.cellKey core b with
  | some k, some l => k == l
  | none, none => a == b
  | _, _ => false

/-- Whether an address lies on another node. -/
def State.isAway (s : State) (core : Nat) (a : Word) : Bool :=
  match s.form core a with
  | .remote _ => true
  | _ => false

/-- A step of the wire protocol on a cell of another node leaves as a message (R97, R393): what it does there (0 REPOINT, 1
DECIDE, 2 the cell is LIVE with the tag and peer of the request, 3 the cell is freed). -/
def State.wireAway (s : State) (core : Nat) (what : Nat) (r : WireReq) : State :=
  let r := if core < 7680 then { r with asker := r.acc.who } else r
  s.postIn 4 .seatRequest { n := 4, core := core, id := what, wire := r, die := dieOf core }

/-- A LIVE cell that names a peer. -/
def State.setLive (s : State) (core : Nat) (a : Word) (tag : Nat) (peer : Word) : State :=
  if s.isAway core a then s.wireAway core 2 { old := a, peer := s.norm core peer, tag := tag, acc := { who := ⟨core, 0⟩ } }
  else s.putDword core a (mkCell 1 tag (s.isPrincipal core peer) (s.norm core peer))

/-- The next tag of the bank that holds a cell (R30). -/
def State.newTag (s : State) (core : Nat) (a : Word) : Nat × State :=
  let b := bankOf ((s.cellKey core a).getD 0)
  let t := s.wires.get b 0
  (t, { s with wires := s.wires.set b ((t + 1) % 256) })

/-! ## Descriptors, arenas and records (R26, R27, R266, R267) -/

/-- The descriptor of a net, 0 for none (R266). -/
def State.desc (s : State) (net : Nat) : Nat :=
  let b := bits s.netTable.toNat 47 19 * 2 ^ 19
  if b == 0 then 0 else s.rd8 (b + 8 * net)

/-- A dword of a net's descriptor. -/
def State.descWord (s : State) (core net i : Nat) : Nat := s.dword core (BitVec.ofNat 64 (s.desc net + 8 * i))

/-- The size of a record (R26). -/
def recSize (arity pf : Nat) : Nat := if 2 + arity + pf ≤ 4 then 32 else 64

/-- Allocates a record of an arena (R267), aligned to its own size (R26; DEDUCED, assumption log 50). -/
def State.allocRec (s : State) (core : Nat) (arena : Word) (z : Nat) : Option (Word × State) :=
  let list := arena + (if z == 32 then 0 else 8)
  let head := s.dword core list
  let next := (s.dword core (arena + 16) + z - 1) / z * z
  if head != 0 then
    some (BitVec.ofNat 64 head, s.putDword core list (s.dword core (BitVec.ofNat 64 head)))
  else if next + z ≤ s.dword core (arena + 24) then
    some (BitVec.ofNat 64 next, s.putDword core (arena + 16) (next + z))
  else none

/-- Returns a record to the arena of the net that its header names (R267). -/
def State.returnRec (s : State) (core : Nat) (r : Word) : State :=
  let h := s.dword core r
  let net := h % 65536
  if s.desc net == 0 then s
  else
    let list := BitVec.ofNat 64 (s.descWord core net 3) + (if bitAt h 46 then 8 else 0)
    (s.putDword core r (s.dword core list)).putDword core list r.toNat

/-- Writes a new record (R27, R270): its header, FREE cells, and its payload reference after the last cell. -/
def State.initRec (s : State) (core : Nat) (r : Word) (type arity pf net : Nat) (pl : Word) : State :=
  let z := recSize arity pf
  let s := s.putDword core r (type * 2 ^ 52 + arity * 2 ^ 49 + pf * 2 ^ 48 + b2n (z == 64) * 2 ^ 46 + net)
  (List.range (z / 8 - 1)).foldl (fun s i =>
    s.putDword core (r + BitVec.ofNat 64 (8 * (i + 1))) (if pf == 1 && i + 1 == 2 + arity then pl.toNat else 0)) s

/-- Returns a marked record once every cell of it is FREE (R42, R270). -/
def State.checkRec (s : State) (k : Nat) : State :=
  match s.marked.find? (·.1 == k) with
  | none => s
  | some (_, core, a) =>
    let h := s.rd8 k
    if (List.range (bits h 51 49 + 1)).any fun i => cellSt (s.rd8 (k + 8 * (i + 1))) != 0 then s
    else State.returnRec { s with marked := s.marked.filter (·.1 != k) } core (BitVec.ofNat 64 a)

/-- Makes a cell FREE: its whole dword is zero (R316), and its record may return (R42). -/
def State.freeCell (s : State) (core : Nat) (a : Word) : State :=
  let s := s.putDword core a 0
  match s.cellKey core a with
  | some k =>
    let s := s.checkRec (k / 32 * 32)
    if k / 64 * 64 == k / 32 * 32 then s else s.checkRec (k / 64 * 64)
  | none => s

/-- Marks a record for return (R42, R270); a second mark has no effect. -/
def State.markRec (s : State) (core : Nat) (a : Word) : State :=
  match s.cellKey core a with
  | some k =>
    if s.marked.any (·.1 == k) then s
    else State.checkRec { s with marked := (k, core, (s.norm core a).toNat) :: s.marked } k
  | none => s

/-! ## Rules (R32 to R35) -/

/-- The pair in the order of R32: the s1 agent and the s2 agent. -/
def State.orderPair (s : State) (core : Nat) (a b : Word) : Word × Word :=
  let x := bits (s.dword core a) 63 52
  let y := bits (s.dword core b) 63 52
  if x < y || (x == y && (s.cellLt a b || a == b)) then (a, b) else (b, a)

/-- The probes of a rule table (R33). -/
def State.probeRules (s : State) (core : Nat) (base : Word) (k x y : Nat) : Nat → Nat → Option (BitVec 8 × Word)
  | 0, _ => none
  | f + 1, i =>
    let e := s.dword core (base + BitVec.ofNat 64 (16 * i))
    if !bitAt e 39 then none
    else if bits e 63 52 == x && bits e 51 40 == y then
      some (BitVec.ofNat 8 (bits e 31 24), BitVec.ofNat 64 (s.dword core (base + BitVec.ofNat 64 (16 * i + 8))))
    else s.probeRules core base k x y f ((i + 1) % 2 ^ k)

/-- The hash of a pair of types (R33). -/
def ruleHash (x y k : Nat) : Nat := (x * 4096 + y) * 0x9E3779B1 % 2 ^ 32 / 2 ^ (32 - k)

/-- The lookup in a net's rule table. -/
def State.ruleTable (s : State) (core net x y : Nat) : Option (BitVec 8 × Word) :=
  if s.desc net == 0 then none
  else
    let k := bits (s.descWord core net 0) 39 35
    s.probeRules core (BitVec.ofNat 64 (s.descWord core net 1)) k x y (2 ^ k) (ruleHash x y k)

/-- Whether a type is built in (R31). -/
def isBuiltin (x : Nat) : Bool := 0xFF0 ≤ x

/-- The lookup through the octet's rule cache, in least-recently-used order (R34). -/
def State.rule (s : State) (core net x y : Nat) : State × Option (BitVec 8 × Word) :=
  let oct := octetOf core
  if isBuiltin x && isBuiltin y then (s, none)
  else
    match pickFirst (fun l : RuleLine => l.net == net && l.x == x && l.y == y) (s.octet oct).rules with
    | some (l, r) => (s.modOctet oct fun o => { o with rules := l :: r }, some (l.padj, l.entry))
    | none =>
      match s.ruleTable core net x y with
      | none => (s, none)
      | some (padj, entry) =>
        (s.modOctet oct fun o =>
          { o with rules := { net := net, x := x, y := y, padj := padj, entry := entry } :: o.rules.take 1023 }, some (padj, entry))

/-- A priority moved by a signed adjustment and held to 0 to 255 (R35). -/
def adjPrio (p : Nat) (adj : BitVec 8) : Nat := (max 0 (min 255 ((p : Int) + adj.toInt))).toNat

/-- The effective priority of a pair (R35, R266, R272): a MISS gives the net's, a net without descriptor 0. -/
def State.pairPrio (s : State) (core : Nat) (a b : Word) : State × Nat :=
  let (s1, s2) := s.orderPair core a b
  let h1 := s.dword core s1
  let net := h1 % 65536
  if s.desc net == 0 then (s, 0)
  else
    let p := bits (s.descWord core net 0) 47 40
    match s.rule core net (bits h1 63 52) (bits (s.dword core s2) 63 52) with
    | (t, some (adj, _)) => (t, adjPrio p adj)
    | (t, none) => (t, p)

/-! ## Wires that are complete, and bridges (R24, R41, R43) -/

/-- The core of the window that a slate cell lies in; for another cell, the core that asks. -/
def State.holderOf (s : State) (core : Nat) (a : Word) : Nat :=
  match s.cellKey core a with
  | some k => if isSlateKey k then ((s.installed (keyOctet k) (keySlate k)).map (·.1)).getD core else core
  | none => core

/-- Logs a port-cell request that reaches a slate of a core (R67). -/
def State.cutCell (s : State) (core : Nat) (a : Word) : State :=
  let dst := s.holderOf core a
  if dst == core then s else s.cutLog dst (chanFrom core dst) 0 a [BitVec.ofNat 64 (s.dword core a)]

/-- Pushes the pair of two principal cells to a core's deque; a request of another node pushes none here, since its own node
does (R41). -/
def State.pushWire (s : State) (core : Nat) (a b : Word) : State :=
  if 7680 ≤ core then s
  else
  let ra := s.norm core a - 8
  let rb := s.norm core b - 8
  let (s, p) := s.pairPrio core ra rb
  s.sendN (s.holderOf core a) (dieOf core) 32 (s.oneWay core a) .pairPushArrive { core := core, c := ⟨s.holderOf core a, 0⟩, item := pairItem 0 p ra rb 0 }

/-- NET_FAULT (R387, R393, R396): a fault of a wire's step found after its instruction is done. For a request of another node the
notice names no context. -/
def State.netFaultOf (s : State) (c : CtxId) (cause : Nat) (cell : Word) : State :=
  let d := if c.core < 7680 then c else ⟨0, 0⟩
  s.notice (dieOf c.core) { kind := 0x0C, cause := cause, core := d.core, ctx := d.ctx, value := cell }

/-- NET_FAULT of a port-cell fault. -/
def State.netFault (s : State) (c : CtxId) (cell : Word) : State := s.netFaultOf c 0x28 cell

/-- The bridge whose cells hold an address; the second bridge cell where `true`. -/
def State.bridgeOf (s : State) (core : Nat) (a : Word) : Option (Bridge × Bool) :=
  s.bridges.findSome? fun b =>
    if s.sameCell core a (b.addr + 16) then some (b, false)
    else if s.sameCell core a (b.addr + 24) then some (b, true)
    else none

/-- Replaces a bridge. -/
def State.setBridge (s : State) (b : Bridge) : State := { s with bridges := mapIf (·.addr == b.addr) (fun _ => b) s.bridges }

/-- What a dissolution finds at the far end of a bridge cell: the end, which is LIVE or which a request of the end's own has
named; a low end that has been spliced to another cell, whose REPOINT is on its way; a high end that is departing, whose DECIDE
is on its way; or a fault. -/
inductive FarEnd where
  | here (e : Word)
  | moved (old e : Word)
  | coming
  | fault (cell : Word)
deriving DecidableEq, Repr

/-- The far end of a bridge cell as it stands (R43): a LIVE end that names the cell; an FWD end below it, whose marker is
followed as in case 6 of R41; an FWD end above it, which departs. -/
def State.farEnd (s : State) (core : Nat) (cell : Word) (named : Option Word) (fwd : Bool) : FarEnd :=
  match named with
  | some e => .here e
  | none =>
    let w := s.dword core cell
    if fwd then .coming
    else if cellSt w != 1 then .fault cell
    else
      let p := cellPeer w
      let h := s.dword core p
      if cellTag h != cellTag w then .fault p
      else if cellSt h == 1 && s.sameCell core (cellPeer h) cell then .here p
      else if cellSt h == 2 && s.cellLt p (s.norm core cell) then .moved p (cellPeer h)
      else if cellSt h == 2 then .coming
      else .fault p

/-- Ends a bridge cell once the wire that it was on is decided: it is free, or, where a REPOINT is on its way to it, departing
until that has found it so (cases 3 and 6 of R41). -/
def State.endBridgeCell (s : State) (b : Bridge) (cell : Word) (far : FarEnd) : State :=
  match far with
  | .moved old _ =>
    let s := s.freeCell b.core old
    let s := s.putDword b.core cell (s.dword b.core cell % 2 ^ 62 + 2 * 2 ^ 62)
    s.post s.cycle .freeLMessage { v := cell, wire := { acc := { who := b.who } } }
  | _ => s.freeCell b.core cell

/-- Takes the two decisions of a dissolution in one step (R43): the far ends name each other under one new tag, the bridge's cells
are freed, and its record returns when both are (R42). -/
def State.dissolve (s : State) (b : Bridge) (f1 f2 : FarEnd) (e1 e2 : Word) : State :=
  let (t, s) := s.newTag b.core b.addr
  let s := (s.setLive b.core e1 t e2).setLive b.core e2 t e1
  let s := (s.endBridgeCell b (b.addr + 16) f1).endBridgeCell b (b.addr + 24) f2
  State.markRec { s with bridges := s.bridges.filter (·.addr != b.addr) } b.core b.addr

/-- The end that a far end gives where it is known. -/
def FarEnd.end? (f : FarEnd) : Option Word :=
  match f with
  | .here e => some e
  | .moved _ e => some e
  | _ => none

/-- The first step of a dissolution's decision on a wire whose far end departs (case 1 of R41): the bridge cell is FWD, and names
the opposite far end; the DECIDE that is on its way completes the wire (case 6). -/
def State.forwardCell (s : State) (b : Bridge) (second : Bool) (mine other : FarEnd) : State :=
  let cell := b.addr + (if second then 24 else 16)
  match mine, other.end? with
  | .coming, some e =>
    if (if second then b.fwd2 else b.fwd1) then s
    else
      (s.putDword b.core cell (mkCell 2 (cellTag (s.dword b.core cell)) (s.isPrincipal b.core e) e)).setBridge
        (if second then { b with fwd2 := true } else { b with fwd1 := true })
  | _, _ => s

/-- Tries the dissolution of a bridge whose two cells are LIVE; the wire that it completes. It takes its decisions at once, against
the far ends as they stand (R43). -/
def State.tryBridge (s : State) (b : Bridge) : State × Option (Word × Word × Bridge) :=
  let live (c : Word) (e : Option Word) : Bool := e.isSome || cellSt (s.dword b.core c) == 1
  if !b.dissolving && !(live (b.addr + 16) b.e1 && live (b.addr + 24) b.e2) then (s, none)
  else
    let b := { b with dissolving := true }
    let s := s.setBridge b
    let f1 := s.farEnd b.core (b.addr + 16) b.e1 b.fwd1
    let f2 := s.farEnd b.core (b.addr + 24) b.e2 b.fwd2
    match f1, f2 with
    | .fault x, _ => (s.netFault b.who x, none)
    | _, .fault x => (s.netFault b.who x, none)
    | _, _ =>
      match f1.end?, f2.end? with
      | some e1, some e2 => (s.dissolve b f1 f2 e1 e2, some (e1, e2, b))
      | some _, none => (s.forwardCell b true f2 f1, none)
      | none, _ => (s.forwardCell b false f1 f2, none)

/-- Follows completed wires: a pair of principal ends is pushed, and a bridge with two LIVE cells dissolves, which completes
another wire. -/
def State.completed : Nat → List (Word × Word) → Nat → State → State
  | 0, _, _, s => s
  | _ + 1, [], _, s => s
  | f + 1, (a, b) :: r, core, s =>
    let s := if s.isPrincipal core a && s.isPrincipal core b then s.pushWire core a b else s
    let at' (s : State) (x : Word) : State × List (Word × Word) :=
      match s.bridgeOf core x with
      | some (br, _) => let (t, w) := s.tryBridge br; (t, (w.map fun q => (q.1, q.2.1)).toList)
      | none => (s, [])
    let (s, l1) := at' s a
    let (s, l2) := at' s b
    State.completed f (r ++ l1 ++ l2) core s

/-- A wire is complete (R41). -/
def State.complete (s : State) (core : Nat) (a b : Word) : State :=
  State.completed (2 * s.bridges.length + 2) [(a, b)] core s

/-! ## Splices (R40 to R43) -/

/-- A splice has taken its first step, or is refused: its instruction's access ends (R263), a JOIN's with its second. -/
def State.spliceDone (s : State) (r : WireReq) (cause : Nat) : State :=
  if !r.join then if cause == 0 then s.replyTo r.acc 0 else s.refuse r.acc cause
  else
    match s.bridges.find? (·.acc.id == r.acc.id) with
    | none => if cause == 0 then s.replyTo r.acc 0 else s.refuse r.acc cause
    | some b =>
      let b := if b.cause == 0 && cause != 0 then { b with cause := cause, bad := r.acc.addr } else b
      if b.left != 1 then s.setBridge { b with left := b.left - 1 }
      else
        let s := s.setBridge { b with left := 0 }
        if b.cause == 0 then s.replyTo r.acc 0 else s.refuse { r.acc with addr := b.bad } b.cause

/-- Notes that a run has taken a step of R40 on a cell of its two agents (R397). -/
def State.noteWired (s : State) (r : WireReq) : State :=
  let core := r.acc.who.core
  let inRec (k : Nat) (a : Word) : Bool :=
    match s.cellKey core a with
    | some j => a != 0 && j ≤ k && k < j + 64
    | none => false
  match s.cellKey core r.old with
  | some k => s.modRun r.acc.who r.acc.run fun x => if inRec k x.agentRec || inRec k x.mate then { x with wired := true } else x
  | none => s

/-- The first step on an old cell that is LIVE (R40, cases 1 and 4 of R41). -/
def State.firstLive (s : State) (r : WireReq) (w : Nat) : State :=
  let core := r.acc.who.core
  let p := cellPeer w
  let r := { r with peer := p, tag := cellTag w }
  let s := s.noteWired r
  if s.cellLt r.old p then
    let s := s.putDword core r.old (mkCell 2 (cellTag w) (s.isPrincipal core r.new) r.new)
    (s.sendN (s.holderOf core r.old) (s.farDie core p) 80 (s.oneWay core p) .repoint { wire := r }).spliceDone r 0
  else
    let s := s.putDword core r.old (w % 2 ^ 62 + 2 * 2 ^ 62)
    (s.sendN (s.holderOf core r.old) (s.farDie core p) 80 (s.oneWay core p) .decide { wire := r }).spliceDone r 0

/-- A request goes on waiting for a FREE cell (R42): it is tried again after a change, and 256 cycles after its last try. Its
context waits meanwhile (R263). -/
def State.waitCell (s : State) (r : WireReq) (k : Nat) : State :=
  let (i, s) := s.newId
  let s := s.modRun r.acc.who r.acc.run fun x => if x.builtin.isSome then x else { x with wait := .hold r.acc.id }
  State.post { s with cellWaits := s.cellWaits ++ [{ id := i, key := k, req := r, last := s.cycle }] } (s.cycle + 256)
    .portCellWaitLimit { id := i }

/-- A try of a splice at its old cell (R40). `wait` is the request's entry where it has waited. -/
def State.tryFirst (s : State) (r : WireReq) (wait : Option Nat) : State :=
  let core := r.acc.who.core
  let drop (s : State) : State := { s with cellWaits := s.cellWaits.filter fun z => some z.id != wait }
  match s.cellKey core r.old with
  | none => (drop s).spliceDone r 0x10
  | some k =>
    let w := s.rd8 (k / 8 * 8)
    if cellSt (s.dword core r.new) != 0 then (drop s).spliceDone r 0x28
    else if cellSt w == 1 then (drop s).firstLive r w
    else if cellSt w != 0 then (drop s).spliceDone r 0x28
    else
      match wait with
      | none => s.waitCell r k
      | some i =>
        let n := r.tries + 1
        let lim := ((s.runCtx r.acc.who r.acc.run).map fun x => x.waitLimit.toNat).getD r.acc.limit
        if lim < n then (drop s).spliceDone r 0x18
        else { s with cellWaits := mapIf (·.id == i) (fun z => { z with req := { z.req with tries := n }, last := s.cycle }) s.cellWaits }

/-- A step of the wire protocol on a cell (R40, R41): it is checked and translated as every access is (R90, R92, R97 to R101), is
performed in its turn at the banks that it uses (R94), and takes effect as a whole. A step that waits is tried again in the next
cycle, one whose page is missing is held (R354), and a refused one ends as `bad` says. -/
def State.wireStep (s : State) (ev : Instr) (core : Nat) (c : CtxId) (cell : Word) (f : State → State)
    (bad : Nat → Word → State → State) : State :=
  let again (s : State) : State := s.post (s.cycle + 1) ev { s.arg with slot := false }
  let miss (a : Word) (s : State) : State := s.walkStep core a ev fun s => s.holdStep core c a 0 ev
  match s.enter core (s.isStaffCore core) 0 cell 8 .fullEmpty 1 with
  | .wait _ => again s
  | .miss => miss cell s
  | .bad k => bad k cell s
  | .go k t =>
    let (n, b) := s.bankTakes (k :: (f { s with txn := {} }).txn.keys)
    if !s.arg.slot && s.cycle < n then b.post n ev { s.arg with slot := true, acc := { s.arg.acc with key := k } }
    else
      let s := if s.arg.slot then s else b
      s.atomically core (fun s =>
        let u := f s
        if u.txn.keys.isEmpty && u.txn.stop.isNone then f { t with banks := s.banks, txn := {} } else u) fun x s =>
          match x with
          | .wait => again s
          | .miss a => miss a s
          | .bad k a => bad k a s

/-- A try of a splice as a whole; a missing page holds its access (R327). -/
def State.tryWhole (s : State) (ev : Instr) (r : WireReq) (wait : Option Nat) : State :=
  s.atomically r.acc.who.core (fun s => s.tryFirst r wait) fun x s =>
    let drop (s : State) : State := { s with cellWaits := s.cellWaits.filter fun z => some z.id != wait }
    match x with
    | .wait => if ev == .portCellWaitLimit then s else s.post (s.cycle + 1) ev { s.arg with slot := false }
    | .miss a => (drop s).holdMiss { r.acc with miss := some a }
    | .bad k a => (drop s).spliceDone { r with acc := { r.acc with addr := a } } k

/-- The first step of a splice, or its re-try after a change to its FREE old cell (R40, R42). -/
def execFirstStep (s : State) : Host.Outcome State Fault Refusal :=
  if s.arg.n == 0 then .next ((s.cutCell s.arg.wire.acc.who.core s.arg.wire.old).tryWhole .firstStep s.arg.wire none)
  else
    match s.cellWaits.find? (·.id == s.arg.id) with
    | some z =>
      let (n, b) := s.bankTakes [z.key]
      .next (if !s.arg.slot && s.cycle < n then b.post n .firstStep { s.arg with slot := true, acc := { s.arg.acc with key := z.key } }
        else (if s.arg.slot then s else b).tryWhole .firstStep z.req (some z.id))
    | none => .next s

/-- The timer of a request that waits on a FREE cell (R42, R365): a re-try 256 cycles after its last, and past the limit the
request traps with 0x18. -/
def execPortCellWaitLimit (s : State) : Host.Outcome State Fault Refusal :=
  match s.cellWaits.find? (·.id == s.arg.id) with
  | none => .next s
  | some z =>
    if s.cycle < z.last + 256 then .next (s.post (z.last + 256) .portCellWaitLimit s.arg)
    else .next ((s.tryWhole .portCellWaitLimit z.req (some z.id)).post (s.cycle + 256) .portCellWaitLimit s.arg)

/-- Frees a cell by a message (R41). -/
def State.freeMessage (s : State) (r : WireReq) (cell : Word) : State :=
  let core := r.acc.who.core
  s.sendN (s.holderOf core r.peer) (s.farDie core cell) 80 (s.oneWay core cell) .freeLMessage { v := cell, wire := r }

/-- Records the cell that a far end's own request names to a bridge that dissolves (R43). The wire that this completes is
completed by that request, and its pair goes to the deque of the core of that request (DESIGN CHOICE, assumption log 15). -/
def State.nameEnd (s : State) (b : Bridge) (second : Bool) (e : Word) (core : Nat) : State :=
  let b := if second then { b with e2 := some e } else { b with e1 := some e }
  match (s.setBridge b).tryBridge b with
  | (t, some (e1, e2, _)) => t.complete core e1 e2
  | (t, none) => t

/-- Whether a bridge has forwarded one of its cells. -/
def Bridge.forwarded (b : Bridge) (second : Bool) : Bool := if second then b.fwd2 else b.fwd1

/-- The fresh cell of a request becomes LIVE, and with it the wire to the given cell is complete (R41); where the request came
from another node, the cell and the wire's pair are that node's. -/
def State.setNew (s : State) (r : WireReq) (tag : Nat) (peer : Word) : State :=
  let core := r.acc.who.core
  if s.isAway core r.new then s.wireAway core 2 { r with old := r.new, peer := s.norm core peer, tag := tag, ends := true }
  else s.setLive core r.new tag peer

/-- The wire of a request and a cell is complete, unless the fresh cell's node completes it. -/
def State.completeNew (s : State) (r : WireReq) (peer : Word) : State :=
  let core := r.acc.who.core
  if s.isAway core r.new then s else s.complete core peer r.new

/-- A REPOINT at H's bank (R41 cases 2 and 3, R387). -/
def State.repointStep (s : State) (r : WireReq) : State :=
  let core := r.acc.who.core
  let h := s.dword core r.peer
  let mine := cellTag h == r.tag && s.sameCell core (cellPeer h) r.old
  let dis := (s.bridgeOf core r.peer).filter fun b => b.1.dissolving
  if cellSt h == 1 && mine then
    match dis with
    | some (b, second) => (s.freeMessage r r.old).nameEnd b second r.new core
    | none =>
      let s := (s.setLive core r.peer r.tag r.new).setNew r r.tag r.peer
      (s.freeMessage r r.old).completeNew r r.peer
  else if cellSt h == 2 && mine then s
  else s.netFault r.acc.who r.peer

def execRepoint (s : State) : Host.Outcome State Fault Refusal :=
  let r := s.arg.wire
  let core := r.acc.who.core
  .next (if s.isAway core r.peer then s.wireAway core 0 r
    else s.wireStep .repoint core r.acc.who r.peer (fun s => s.repointStep r) fun k a s => s.netFaultOf r.acc.who k a)

/-- A DECIDE at L's bank (R41 cases 5 to 7, R387). -/
def State.decideStep (s : State) (r : WireReq) : State :=
  let core := r.acc.who.core
  let l := r.peer
  let w := s.dword core l
  let dis := (s.bridgeOf core l).filter fun b => b.1.dissolving
  let fwd := dis.any fun b => b.1.forwarded b.2
  if cellTag w != r.tag then s.netFault r.acc.who l
  else if fwd || (cellSt w == 1 && s.sameCell core (cellPeer w) r.old) then
    match dis with
    | some (b, second) => (s.freeMessage r r.old).nameEnd b second r.new core
    | none =>
      let (t, s) := s.newTag core l
      let s := (s.setLive core l t r.new).setNew r t l
      (s.freeMessage r r.old).completeNew r l
  else if cellSt w == 2 then
    let n := cellPeer w
    let (t, s) := s.newTag core l
    let s := (s.setLive core n t r.new).setNew r t n
    ((s.freeCell core l).freeMessage r r.old).completeNew r n
  else s.netFault r.acc.who l

def execDecide (s : State) : Host.Outcome State Fault Refusal :=
  let r := s.arg.wire
  let core := r.acc.who.core
  .next (if s.isAway core r.peer then s.wireAway core 1 r
    else s.wireStep .decide core r.acc.who r.peer (fun s => s.decideStep r) fun k a s => s.netFaultOf r.acc.who k a)

/-- Whether a REPOINT is on its way to a cell. -/
def State.repointDue (s : State) (core : Nat) (cell : Word) : Bool :=
  s.underWay.any fun p => p.ev == .repoint && s.sameCell core p.arg.wire.peer cell

/-- The message that frees the old cell of a decided wire (R41, R316). It waits while a REPOINT that must find the cell
departing is on its way there (case 3). With `n` = 1, another node has decided a wire to a cell of this node: the cell becomes
LIVE, and where the wire was spliced from here its pair goes to the deque of the core that asked. -/
def execFreeLMessage (s : State) : Host.Outcome State Fault Refusal :=
  let core := s.arg.wire.acc.who.core
  let cell := s.arg.v
  let r := s.arg.wire
  if s.arg.n == 1 then
    .next (s.wireStep .freeLMessage core r.acc.who cell
      (fun s =>
        let s := s.setLive core cell r.tag r.peer
        if r.ends then s.complete r.asker.core r.peer cell else s) fun k a s => s.netFaultOf r.acc.who k a)
  else if s.isAway core cell then .next (s.wireAway core 3 { s.arg.wire with old := cell })
  else if s.repointDue core cell then .next (s.post (s.cycle + 1) .freeLMessage s.arg)
  else
    .next (s.wireStep .freeLMessage core s.arg.wire.acc.who cell
      (fun s => if cellSt (s.dword core cell) == 2 then s.freeCell core cell else s) fun k a s => s.netFaultOf s.arg.wire.acc.who k a)

/-! ## Payloads (R36, R37, R268) -/

/-- The bytes of a payload and of its scale plane. -/
def payloadSize (d0 d1 : Nat) : Nat × Nat :=
  let kind := bits d0 43 42
  let rows := bits d1 63 48
  let cols := bits d1 47 32
  let fmt := bits d0 47 44
  if kind == 0 then (0, 0) else (rows * bits d1 31 0, if 9 ≤ fmt && fmt ≤ 11 then rows * cols / 8 else 0)

/-- The least class of a data block (R268). -/
def blockClass (n : Nat) : Nat := ((List.range 27).find? fun j => n ≤ 2 ^ (8 + j)).getD 27

/-- Takes the head of a list, or else the bump pointer rounded up to the block's size. -/
def State.takeBlock (s : State) (core : Nat) (list next lim : Word) (size : Nat) : Option (Word × State) :=
  let head := s.dword core list
  let n := (s.dword core next + size - 1) / size * size
  if head != 0 then some (BitVec.ofNat 64 head, s.putDword core list (s.dword core (BitVec.ofNat 64 head)))
  else if n + size ≤ s.dword core lim then some (BitVec.ofNat 64 n, s.putDword core next (n + size))
  else none

/-- Allocates a descriptor and, for a kind other than 0, a data block (R268, R271), and writes the descriptor. -/
def State.allocPayload (s : State) (core : Nat) (ps : Word) (d0 d1 value : Nat) : Option (Word × State) :=
  let (b, sc) := payloadSize d0 d1
  let j := blockClass (b + sc)
  if 2 ^ 34 < b + sc then none
  else
    match s.takeBlock core ps (ps + 8) (ps + 16) 32 with
    | none => none
    | some (d, t) =>
      let write (t : State) (data scale : Nat) : State :=
        (((t.putDword core d (2 ^ 48 + bits d0 47 42 * 2 ^ 42)).putDword core (d + 8) d1).putDword core (d + 16) data).putDword core (d + 24) scale
      if bits d0 43 42 == 0 then some (d, write t value 0)
      else
        match t.takeBlock core (ps + BitVec.ofNat 64 (40 + 8 * j)) (ps + 24) (ps + 32) (2 ^ (8 + j)) with
        | none => none
        | some (blk, u) => some (d, write u blk.toNat (if sc == 0 then 0 else blk.toNat + b))

/-- Puts a block at the head of a list. -/
def State.giveBack (s : State) (core : Nat) (list a : Word) : State :=
  (s.putDword core a (s.dword core list)).putDword core list a.toNat

/-- Returns a descriptor and its data block to a payload store (R37, R268). -/
def State.returnPayload (s : State) (core : Nat) (ps d : Word) : State :=
  let d0 := s.dword core d
  let (b, sc) := payloadSize d0 (s.dword core (d + 8))
  let s :=
    if bits d0 43 42 == 0 then s
    else s.giveBack core (ps + BitVec.ofNat 64 (40 + 8 * blockClass (b + sc))) (BitVec.ofNat 64 (s.dword core (d + 16)))
  s.giveBack core ps d

/-- The payload store of a net. -/
def State.storeOf (s : State) (core net : Nat) : Word := BitVec.ofNat 64 (s.descWord core net 2)

/-- A descriptor's count replaced. -/
def setRefc (d0 n : Nat) : Nat := n * 2 ^ 48 + d0 % 2 ^ 48

/-! ## The accesses of net instructions at their banks (R263, R269 to R271) -/

/-- PREF at its descriptor (R37, R389). -/
def State.bankPref (s : State) (a : Access) (k : Nat) : State :=
  let d0 := s.rd8 k
  if bits d0 63 48 == 0xFFFF then s.refuse a 0x2A else (s.storeN k 8 (setRefc d0 (bits d0 63 48 + 1))).replyTo a 0

/-- UNREF at its descriptor. -/
def State.bankUnref (s : State) (a : Access) (k net : Nat) : State :=
  let core := a.who.core
  let d0 := s.rd8 k
  let n := bits d0 63 48
  if n == 0 then s.refuse a 0x2A
  else
    let s := s.storeN k 8 (setRefc d0 (n - 1))
    (if n == 1 then s.returnPayload core (s.storeOf core net) (s.norm core a.addr) else s).replyTo a 0

/-- PALLOC at its payload store (R271). -/
def State.bankPalloc (s : State) (a : Access) (d0 d1 : Word) : State :=
  match s.allocPayload a.who.core a.addr d0.toNat d1.toNat 0 with
  | none => s.replyTo a 0
  | some (d, t) => t.replyTo a (d.setWidth 1024)

/-- AGENT at its arena (R270). -/
def State.bankAgent (s : State) (a : Access) (h pl : Word) (net : Nat) : State :=
  let core := a.who.core
  let ar := bits h.toNat 51 49
  let pf := bits h.toNat 48 48
  if ar == 7 || (ar == 6 && pf == 1) then s.replyTo a 0
  else
    match s.allocRec core a.addr (recSize ar pf) with
    | none => s.replyTo a 0
    | some (r, t) => (t.initRec core r (bits h.toNat 63 52) ar pf net pl).replyTo a (r.setWidth 1024)

/-- LINK at its lower cell's bank (R39). -/
def State.bankLink (s : State) (a : Access) (b : Word) : State :=
  let core := a.who.core
  if s.sameCell core a.addr b || cellSt (s.dword core a.addr) != 0 || cellSt (s.dword core b) != 0 then s.refuse a 0x28
  else
    let (x, y) := if s.cellLt (s.norm core b) (s.norm core a.addr) then (b, a.addr) else (a.addr, b)
    let (t, s) := s.newTag core x
    let s := (s.setLive core x t y).setLive core y t x
    (s.complete core x y).replyTo a 0

/-- Takes a BRIDGE of an arena for a JOIN (R43, R270). -/
def State.takeBridge (s : State) (c : CtxId) (arena : Word) (net : Nat) : Option (Word × State) :=
  match s.allocRec c.core arena 32 with
  | none => none
  | some (r, t) =>
    let t := t.initRec c.core r 0xFF0 2 0 net 0
    some (r, { t with bridges := t.bridges ++ [{ addr := r, net := net, core := c.core, who := c }] })

/-- The two splices of a JOIN onto its bridge (R43): each leaves for its own cell's bank as an access does, and is refused as it
leaves where it meets a memory-range lock of its octet (R101, R360). -/
def State.joinSplices (s : State) (a : Access) (br o1 o2 : Word) : State :=
  let core := a.who.core
  let s := { s with bridges := mapIf (·.addr == br) (fun b => { b with acc := a }) s.bridges }
  let one (s : State) (o n : Word) : State :=
    let b : Access := { a with kind := .splice n, addr := o, lat := s.lat core o }
    if s.memLocked core b.kind o then s.spliceDone { old := o, new := n, acc := b, join := true } 0x13
    else s.sendN core (s.farDie core o) 80 (s.oneWay core o) .bankAccess { acc := b, ok := true, n := 1 }
  one (one s o1 (br + 16)) o2 (br + 24)

/-- JOIN at its arena's bank (R43, R270, R348). -/
def State.bankJoin (s : State) (a : Access) (o1 o2 : Word) (net : Nat) : State :=
  if s.sameCell a.who.core o1 o2 then s.refuse a 0x28
  else
    match s.takeBridge a.who a.addr net with
    | none => s.refuse a 0x2B
    | some (br, t) => t.joinSplices a br o1 o2

/-- SPLICE at its old cell's bank: the first step of R40. -/
def State.bankSplice (s : State) (a : Access) (n : Word) (join : Bool) : State :=
  s.post s.cycle .firstStep { wire := { old := s.norm a.who.core a.addr, new := s.norm a.who.core n, acc := a, join := join } }

/-! ## The net instructions as they issue (R262, R263, R269, R288) -/

/-- A net instruction that is a plain access: an address operand with its alignment and right, the need of a descriptor,
and the access. -/
structure NetReq where
  addrs : List (Word × Nat)
  need : Need := .fullEmpty
  kind : AccKind
  addr : Word
  dest : Dest := .none

/-- The issue of a net instruction: the checks of R288 in the order of their causes' places, then its access. -/
def State.netIssue (s : State) (u : Uses) (net : Vals → State → Bool) (f : Vals → State → NetReq) : State :=
  s.waiting u Ctx.quiet fun v s =>
    let m := f v s
    match m.addrs.find? fun p => p.1.toNat % p.2 != 0 with
    | some (a, _) => s.trapHere 0x15 a
    | none =>
      match m.addrs.findSome? fun p => (s.ownFault p.1 m.need).map fun k => (k, p.1) with
      | some (k, a) => s.trapHere k a
      | none =>
        if net v s && s.desc (s.ctx s.who).net.toNat == 0 then s.trapHere 0x29 0
        else ((s.commit u).startAccess m.kind m.addr false m.dest).finish

/-- The arena and the payload store of the issuing context's net. -/
def State.myArena (s : State) : Word := BitVec.ofNat 64 (s.descWord s.who.core (s.ctx s.who).net.toNat 3)
def State.myStore (s : State) : Word := s.storeOf s.who.core (s.ctx s.who).net.toNat
def State.myNet (s : State) : Nat := (s.ctx s.who).net.toNat

/-- Whether an AGENT without a payload names another b than s0, a reserved field that is not zero (R170 step 3, R270, R288); its
a says so once it can be read. -/
def State.agentBad (s : State) (a b : Src) : Bool :=
  (b.r != 0 || b.e) && (s.streamFault s.who { a := some a }).isNone && s.regFull s.who a.r 1 &&
    !bitAt (s.regVal s.who a.r 0).toNat 48

/-- AGENT (R270). -/
def execAgent (d : Reg) (a b : Src) (s : State) : Host.Outcome State Fault Refusal :=
  .next (if s.agentBad a b then s.trapHere 0x02 0
    else s.netIssue { a := some a, b := some b, late := [d] } (fun _ _ => true)
      fun v s => { addrs := [], kind := .agent v.a v.b s.myNet, addr := s.myArena, dest := .reg d })

/-- The alignment of a record (R26, R269): its size, which sz of its header gives (R27). -/
def State.recAlign (s : State) (a : Word) : Nat := if bitAt (s.dword s.who.core a) 46 then 64 else 32

/-- FREE (R270). -/
def execFree (a : Src) (s : State) : Host.Outcome State Fault Refusal :=
  .next (s.netIssue { a := some a } (fun _ _ => true)
    fun v s => { addrs := [(v.a, s.recAlign v.a)], kind := .free s.myNet, addr := v.a })

/-- LINK (R39): it goes to its lower cell's bank. -/
def execLink (a b : Src) (s : State) : Host.Outcome State Fault Refusal :=
  .next (s.netIssue { a := some a, b := some b } (fun _ _ => false)
    fun v s =>
      let x := s.norm s.who.core v.a
      let y := s.norm s.who.core v.b
      if s.cellLt y x then { addrs := [(v.a, 8), (v.b, 8)], kind := .link v.a, addr := v.b }
      else { addrs := [(v.a, 8), (v.b, 8)], kind := .link v.b, addr := v.a })

/-- SPLICE (R40). -/
def execSplice (a b : Src) (s : State) : Host.Outcome State Fault Refusal :=
  .next (s.netIssue { a := some a, b := some b } (fun _ _ => false)
    fun v _ => { addrs := [(v.a, 8), (v.b, 8)], kind := .splice v.b, addr := v.a })

/-- JOIN (R43). -/
def execJoin (a b : Src) (s : State) : Host.Outcome State Fault Refusal :=
  .next (s.netIssue { a := some a, b := some b } (fun _ _ => true)
    fun v s => { addrs := [(v.a, 8), (v.b, 8)], kind := .join v.a v.b s.myNet, addr := s.myArena })

/-- PREF (R37). -/
def execPref (a : Src) (s : State) : Host.Outcome State Fault Refusal :=
  .next (s.netIssue { a := some a } (fun _ _ => false)
    fun v _ => { addrs := [(v.a, 32)], need := .store, kind := .pref, addr := v.a })

/-- UNREF (R37). -/
def execUnref (a : Src) (s : State) : Host.Outcome State Fault Refusal :=
  .next (s.netIssue { a := some a } (fun _ _ => true)
    fun v s => { addrs := [(v.a, 32)], need := .store, kind := .unref s.myNet, addr := v.a })

/-- PMUT (R271). -/
def execPmut (d : Reg) (a : Src) (s : State) : Host.Outcome State Fault Refusal :=
  .next (s.netIssue { a := some a, late := [d] } (fun _ _ => true)
    fun v s => { addrs := [(v.a, 32)], need := .store, kind := .pmut s.myNet, addr := v.a, dest := .reg d })

/-- PALLOC (R271). -/
def execPalloc (d : Reg) (a b : Src) (s : State) : Host.Outcome State Fault Refusal :=
  .next (s.netIssue { a := some a, b := some b, late := [d] } (fun _ _ => true)
    fun v s => { addrs := [], kind := .palloc v.a v.b s.myNet, addr := s.myStore, dest := .reg d })

/-- CELLRD (R269). -/
def execCellrd (d : Reg) (a : Src) (s : State) : Host.Outcome State Fault Refusal :=
  .next (s.netIssue { a := some a, late := [d] } (fun _ _ => false)
    fun v _ => { addrs := [(v.a, 8)], kind := .cellrd, addr := v.a, dest := .reg d })

/-- PUSHP (R272): the pair goes to the near end of the issuing core's deque. -/
def execPushp (a b : Src) (s : State) : Host.Outcome State Fault Refusal :=
  let u : Uses := { a := some a, b := some b }
  let core := s.who.core
  match s.peek u with
  | .stop t => .next t
  | .ok v =>
    match [v.a, v.b].find? fun x => x.toNat % s.recAlign x != 0 with
    | some x => .next (s.trapHere 0x15 x)
    | none =>
      match [v.a, v.b].findSome? fun x => (s.ownFault x .load).map fun k => (k, x) with
      | some (k, x) => .next (s.trapHere k x)
      | none =>
        let x := s.norm core v.a
        let y := s.norm core v.b
        let (s, p) := (s.commit u).pairPrio core x y
        let (i, s) := s.newId
        .next ((s.pushDeque core (pairItem i p x y s.cycle)).finish)

/-! ## The external effects of a run (R265) -/

/-- Sets eb in the header of the run's s1 agent, once. -/
def State.setEb (s : State) (c : CtxId) (run : Nat) : State :=
  match s.runCtx c run with
  | none => s
  | some x =>
    if x.agentRec == 0 || x.ebDone then s
    else
      let h := s.dword c.core x.agentRec
      (s.apart c.core fun s => s.putDword c.core x.agentRec (if bitAt h 47 then h else h + 2 ^ 47)).modRun c run fun y =>
        { y with ebDone := true }

/-! ## The start of a context (R50, R275) -/

/-- A bank as a start makes it: zero, every register full, and the status and pc of the start. -/
def Ctx.fresh (run prio : Nat) (pc : Word) (at' : Nat) : Ctx :=
  { run := run, life := .active, prio := prio, pc := pc, readyAt := at', starting := true }

/-- A pair of built-in types whose rule R38 gives. -/
def builtinPair (x y : Nat) : Bool :=
  (x == 0xFFF && y == 0xFFF) || (x == 0xFFE && y == 0xFFF) || (x == 0xFFE && y == 0xFFE)

/-- Starts a pair in a context (R32, R50, R275): s1 and s2, the net and the entry of its rule, and FREE principal cells. A pair
without a rule or without a descriptor gives the stopped context of R388. -/
def State.startPair (s : State) (c : CtxId) (a b : Word) (prio at' : Nat) : State :=
  let core := c.core
  let (s1, s2) := s.orderPair core a b
  let h1 := s.dword core s1
  let net := h1 % 65536
  let x := bits h1 63 52
  let y := bits (s.dword core s2) 63 52
  let (run, s) := s.newId
  let (s, r) := s.rule core net x y
  let bank (pc : Word) : Ctx :=
    { ((Ctx.fresh run prio pc at').setS 1 s1).setS 2 s2 with net := BitVec.ofNat 16 net, agentRec := s1, mate := s2 }
  let freed (s : State) : State :=
    (s.apart core fun s => s.freeCell core (s1 + 8)).apart core fun s => s.freeCell core (s2 + 8)
  let stopped : State :=
    (s.setCtx c { bank 0 with life := .trapped, starting := false, frec := { cause := 0x29, addr := s1, ctx := c.ctx } }).wakeHome core
  if s.desc net == 0 then stopped
  else if builtinPair x y then
    (((freed s).setCtx c { bank 0 with wait := .hold run, builtin := some (0, 0, 0) }).post at' .builtinRuleRun
      { c := c, run := run })
  else
    match r with
    | some (_, entry) => (freed s).setCtx c (bank entry)
    | none => stopped

/-! ## The built-in rules (R38) -/

/-- The phase after one of a built-in rule's run. -/
def State.nextPhase (s : State) (c : CtxId) (n : Nat) (p q : Word) : State :=
  (s.modCtx c fun x => { x with builtin := some (n, p, q), starting := false, insCount := x.insCount + 1 }).post (s.cycle + 8)
    .builtinRuleRun { c := c, run := (s.ctx c).run }

/-- The records that a built-in rule takes before it changes any cell: two BRIDGEs or two ERAs, or none. -/
def State.builtinTake (s : State) (c : CtxId) (x y net : Nat) : Option (Word × Word × State) :=
  let arena := BitVec.ofNat 64 (s.descWord c.core net 3)
  let era (s : State) : Option (Word × State) :=
    (s.allocRec c.core arena 32).map fun q => (q.1, q.2.initRec c.core q.1 0xFFE 0 0 net 0)
  let two (f : State → Option (Word × State)) : Option (Word × Word × State) :=
    match f s with
    | none => none
    | some (p, t) => (f t).map fun q => (p, q.1, q.2)
  if x == 0xFFF then two fun s => s.takeBridge c arena net
  else if y == 0xFFF then two era
  else some (0, 0, s)

/-- One piece of the run of a built-in rule, once its accesses are done: the records, the two joins or splices, the returns
of the two consumed records, and its end. -/
def execBuiltinRuleRun (s : State) : Host.Outcome State Fault Refusal :=
  let c := s.arg.c
  let x := s.ctx c
  let core := c.core
  match x.builtin with
  | none => .next s
  | some (n, p, q) =>
    if x.run != s.arg.run || x.life != .active || s.isSaving c then .next s
    else if !x.quiet || !x.drops.isEmpty then .next (s.post (s.cycle + 1) .builtinRuleRun s.arg)
    else
      let s := { s with who := c, word := 0 }
      let s1 := rd x.s 1 0
      let s2 := rd x.s 2 0
      let tx := bits (s.dword core s1) 63 52
      let ty := bits (s.dword core s2) 63 52
      let piece (s : State) (o fresh : Word) (second : Bool) : State :=
        if tx == 0xFFF then
          let (i, s) := s.newId
          let a : Access :=
            { id := i, run := x.run, who := c, kind := .join o fresh 0, addr := o, issued := s.cycle, staff := s.priv c == 2,
              limit := x.waitLimit.toNat }
          let o2 := s2 + (if second then 24 else 16)
          (s.modCtx c fun x => { x with plain := .store }).joinSplices a fresh o o2
        else s.startAccess (.splice (fresh + 8)) (s2 + (if second then 24 else 16)) false .none
      match n with
      | 0 =>
        match State.builtinTake { s with txn := {} } c tx ty x.net.toNat with
        | none => .next (s.trap c { cause := 0x2B })
        | some (p, q, t) =>
          match t.txn.stop with
          | none => .next (State.nextPhase { t with txn := {} } c (if tx == 0xFFE && ty == 0xFFE then 3 else 1) p q)
          | some .wait => .next (s.post (s.cycle + 1) .builtinRuleRun s.arg)
          | some (.miss a) => .next (s.walkStep core a .builtinRuleRun fun s => s.holdStep core c a 0 .builtinRuleRun)
          | some (.bad k a) => .next (s.trap c { cause := k, addr := a })
      | 1 => .next ((piece s (s1 + 16) p false).nextPhase c 2 p q)
      | 2 => .next ((piece s (s1 + 24) q true).nextPhase c 3 p q)
      | 3 => .next ((s.startAccess (.free x.net.toNat) s1 false .none).nextPhase c 4 p q)
      | 4 => .next ((s.startAccess (.free x.net.toNat) s2 false .none).nextPhase c 5 p q)
      | _ => .next ((s.modCtx c fun x => { x with life := .finished, wait := .none, builtin := none, exitVal := 0 }).wakeHome core)

end Sys2Proof.Machine
end

