-- ==== Sys2Proof/Machine/Engine.lean ====
section
/-! DEFINITION. Range locks, the copy engine of an octet, completion words and CWAIT (R101 to R103, R109, R280, R282, R328,
R343, R350, R351, R354 to R356, R360, R373). -/

namespace Sys2Proof.Machine

/-! ## Range locks (R101) -/

/-- A range of an engine operation. -/
structure Span where
  addr : Word
  len : Nat
  write : Bool
deriving DecidableEq, Repr, Inhabited

/-- Where a range is registered: the octet of the table, its slate or `none` for memory, and its first byte. -/
def State.spanAt (s : State) (core : Nat) (p : Span) : Option (Nat × Option Nat × Nat) :=
  match s.form core p.addr with
  | .mem _ => some (octetOf core, none, lockAddr p.addr)
  | .remote _ => none
  | .bad => none
  | f => (s.slateOf f).map fun q => (q.1, some q.2, bits p.addr.toNat 15 0)

/-- Whether a range conflicts with a registered lock: write against anything. -/
def State.lockConflict (s : State) (core : Nat) (p : Span) : Bool :=
  match s.spanAt core p with
  | none => false
  | some (o, sl, lo) =>
    (s.octet o).locks.any fun l => l.slate == sl && lo < l.hi && l.lo < lo + p.len && (l.write || p.write)

/-- Whether the tables have room for an operation's ranges: 64 entries each. -/
def State.lockRoom (s : State) (core : Nat) (ps : List Span) : Bool :=
  let os := ps.filterMap fun p => (s.spanAt core p).map (·.1)
  os.all fun o => (s.octet o).locks.length + (os.filter (· == o)).length ≤ 64

/-- Whether a range lies in a slate whose window is closed (R92). -/
def State.spanClosed (s : State) (core : Nat) (p : Span) : Bool :=
  match s.slateOf (s.form core p.addr) with
  | some (o, sl) => s.closed o sl
  | none => false

/-- Enters an operation's ranges. -/
def State.addLocks (s : State) (core op : Nat) (ps : List Span) : State :=
  ps.foldl (fun s p =>
    match s.spanAt core p with
    | none => s
    | some (o, sl, lo) =>
      s.modOctet o fun x =>
        { x with locks := x.locks ++ [{ op := op, write := p.write, slate := sl, lo := lo, hi := lo + p.len }] }) s

/-- Releases an operation's locks in every table. -/
def State.dropLocks (s : State) (op : Nat) : State :=
  { s with octets := s.octets.map fun p => (p.1, { p.2 with locks := p.2.locks.filter fun l => l.op != op }) }

/-- The right that a range needs, checked when its operation registers (R90). -/
def State.spanFault (s : State) (core : Nat) (staff : Bool) (p : Span) : Option Nat :=
  match s.form core p.addr with
  | .mem _ => none
  | .remote _ => some 0x16
  | .bad => some 0x10
  | f =>
    match s.protect core staff f (if p.write then .store else .load) with
    | .error k => some k
    | .ok _ => none

/-! ## Completion words (R103, R328, R343) -/

/-- What an increment finds at its word. -/
inductive CountPlace where
  | word (k : Nat) (s : State)
  | away
  | wait
  | miss
  | failed (cause : Nat)

/-- The engine operation whose locks an increment passes. -/
def State.countOp (s : State) (c : Count) : Nat :=
  match c.what with
  | .engine _ id => id
  | .stream core q => (rd (s.coreAt core).q q {}).bindId
  | _ => 0

/-- The word of a completion address, which its operation's core names: an increment is checked and translated as a store of that
core is (R90, R97 to R101; DEDUCED, assumption log 25). -/
def State.countPlace (s : State) (c : Count) : CountPlace :=
  let core := c.who.core
  if s.isAway core c.addr then .away
  else
    match s.enter core (s.isStaffCore core) (s.countOp c) c.addr 8 .store 1 with
    | .go k t => if isHostKey k then .failed 0x16 else .word (k / 8 * 8) t
    | .wait _ => .wait
    | .miss => .miss
    | .bad k => .failed k

/-- One increment of a completion word, which also fills it (R103). -/
def countNext (w : Nat) (err : Bool) : Nat :=
  (w % 2 ^ 62 + 1) % 2 ^ 62 + bits w 62 62 * 2 ^ 62 + (if err || bitAt w 63 then 2 ^ 63 else 0)

/-- Whether an increment is an external effect of its run (R265): of an engine operation, a MATX or a CUT, not of an ISOL. -/
def Count.external (c : Count) : Bool :=
  match c.what with
  | .isol _ => false
  | _ => true

/-- The increment at its word, after the effect bit of the run that it counts for (R265). -/
def State.countAt (s : State) (c : Count) (k : Nat) : State :=
  let s := if c.external then s.setEb c.who c.run else s
  s.storeN k 8 (countNext (s.rd8 k) c.err)

/-- The increment of a word on another node leaves as a message (R97, R103), and what follows it waits for its reply. -/
def State.countAway (s : State) (c : Count) : State :=
  let core := c.who.core
  let s := if c.external then s.setEb c.who c.run else s
  let (i, s) := s.newId
  s.postIn 4 .seatRequest
    { acc := { id := i, run := c.run, who := c.who, kind := .count c.err c.what, addr := c.addr, issued := s.cycle,
               staff := s.isStaffCore core },
      n := 1, die := dieOf core }

/-- The ENGINE_ERR that goes with an increment in one step (R363). -/
def State.countErr (s : State) (c : Count) : State :=
  match c.notice with
  | some (k, a) => s.engineErr (dieOf c.who.core) c.who k c.addr a
  | none => s

/-- A step that increments a completion word (R103), in its turn at the word's bank (R94), and what follows it, `done`. A closed
window or a lock lets it wait, a word whose page is missing waits for a PAGE_MAPPED, and a refused increment posts ENGINE_ERR
(R343). -/
def State.countStep (s : State) (ev : Instr) (done : State → State) : State :=
  let c := s.arg.count
  let core := c.who.core
  match s.countPlace c with
  | .word k t =>
    let (n, b) := s.bankTakes [k]
    if !s.arg.slot && s.cycle < n then b.post n ev { s.arg with n := 1, slot := true, acc := { s.arg.acc with key := k } }
    else done ((State.countAt { t with banks := if s.arg.slot then s.banks else b.banks } c k).countErr c)
  | .away => (s.countErr c).countAway c
  | .wait => s.post (s.cycle + 1) ev { s.arg with n := 1, slot := false }
  | .failed k => done ((s.engineErr (dieOf core) c.who k c.addr c.addr).countErr c)
  | .miss =>
    State.walkStep { s with arg := { s.arg with n := 1 } } core c.addr ev fun s =>
      { s.missNotice (s.missDie core c.addr) c.who (s.partOf core) c.addr 0 with heldCounts := s.heldCounts ++ [c] }

/-- An engine operation of a run has counted (R107). -/
def State.engDone (s : State) (c : CtxId) (run : Nat) : State := s.modRun c run fun x => { x with engOut := x.engOut - 1 }

/-- What follows a count: locks are released, and a fence of the run sees it (R101, R107). -/
def State.counted (s : State) (c : Count) : State :=
  match c.what with
  | .engine octet id =>
    ((s.modOctet octet fun o =>
      { o with ops := o.ops.filter (·.id != id), fixups := o.fixups.filter (·.op != id) }).dropLocks id).engDone c.who c.run
  | .stream core q =>
    let b := rd (s.coreAt core).q q {}
    ((s.dropLocks b.bindId).modCore core fun k =>
      { k with q := wr k.q q { rd k.q q {} with counted := true } }).engDone b.who b.run
  | _ => s

/-- COMPLETION_INCREMENT (R103): for a CWAIT, the words of engines, streams, cuts and isolations. -/
def execCompletionIncrement (s : State) : Host.Outcome State Fault Refusal :=
  let c := s.arg.count
  let mine := match c.what with
    | .engine _ _ | .stream _ _ => true
    | _ => false
  .next ((if mine && s.arg.n == 0 then s.cutLog c.who.core 6 4 c.addr [] else s).countStep .completionIncrement fun s =>
    s.counted c)

/-! ## Pieces of the copy engine (R102, R354 to R356) -/

/-- The bytes of one side of a piece: their storage, a missing address, a closed window or a lock, or a cause. -/
inductive Side where
  | ok (l : List Nat) (s : State)
  | miss (addr : Word)
  | wait
  | bad (cause : Nat) (addr : Word)

/-- The page that a missing address lies in (R355; DEDUCED, assumption log 20). -/
def pageOf (a : Word) : Word := BitVec.ofNat 64 (a.toNat / 65536 * 65536)

/-- The keys of `n` bytes from an address that lie in one 64-byte line, as an operation `op` of a context reaches them. -/
def State.sidePart (s : State) (c : CtxId) (staff : Bool) (op : Nat) (a : Word) (n use : Nat) : Side :=
  if s.isAway c.core a then .bad 0x16 a
  else
    match s.enter c.core staff op a n (if use == 1 then .store else .load) use with
    | .go k t => .ok ((List.range n).map fun i => k + i) t
    | .wait _ => .wait
    | .miss => .miss a
    | .bad k => .bad k a

/-- One side of a piece, in at most two lines. -/
def State.side (s : State) (c : CtxId) (staff : Bool) (op : Nat) (a : Word) (n use : Nat) : Side :=
  let k := min n (64 - a.toNat % 64)
  match s.sidePart c staff op a k use with
  | .ok l s =>
    if n ≤ k then .ok l s
    else
      match s.sidePart c staff op (a + BitVec.ofNat 64 k) (n - k) use with
      | .ok m t => .ok (l ++ m) t
      | r => r
  | r => r

/-- Element bytes of a CPYR type, and its float format. -/
def redSize (ty : RedTy) : Nat :=
  match ty with
  | .i32 => 4 | .i64 => 8 | .f32 => 4 | .bf16 => 2 | .f16 => 2

/-- One element of a CPYR (R280). -/
def redElem (op : RedOp) (ty : RedTy) (x y : Nat) : Nat :=
  let w := 8 * redSize ty
  let fl (f : Fmt) : Nat :=
    match op with
    | .add => (arithLane .add f .rne false x y 0 0).enc
    | .min => (arithLane .min f .rne false x y 0 0).enc
    | .max => (arithLane .max f .rne false x y 0 0).enc
    | _ => x
  let int : Nat :=
    match op with
    | .add => (x + y) % 2 ^ w
    | .min => if signedOf w y < signedOf w x then y else x
    | .max => if signedOf w x < signedOf w y then y else x
    | .and => x &&& y
    | .or => x ||| y
    | .xor => x ^^^ y
  match ty with
  | .i32 => int
  | .i64 => int
  | .f32 => fl .fp32
  | .bf16 => fl .bf16
  | .f16 => fl .fp16

/-- The elements of a piece of a CPYR. -/
def redBytes (op : RedOp) (ty : RedTy) : Nat → List Byte → List Byte → List Byte
  | 0, _, _ => []
  | f + 1, xs, ys =>
    let n := redSize ty
    if xs.isEmpty then []
    else natBytes (redElem op ty (bytesNat (xs.take n)) (bytesNat (ys.take n))) n ++ redBytes op ty f (xs.drop n) (ys.drop n)

/-- Stores bytes at keys that may lie apart. -/
def State.storeKeys (s : State) : List Nat → List Byte → State
  | k :: ks, b :: bs => State.storeKeys (s.storeN k 1 b.toNat) ks bs
  | _, _ => s

/-- The runs of rising keys in a list, as first key and length. -/
def runsOf : List Nat → List (Nat × Nat)
  | [] => []
  | k :: ks =>
    match runsOf ks with
    | (j, n) :: r => if j == k + 1 then (k, n + 1) :: r else (k, 1) :: (j, n) :: r
    | [] => [(k, 1)]

/-- Stores bytes at keys, each run of keys at once. -/
def State.storeRuns (s : State) : List (Nat × Nat) → List Byte → State
  | [], _ => s
  | (k, n) :: r, bs => State.storeRuns (s.storeL k (bs.take n)) r (bs.drop n)

/-- The result of a piece: it has moved or failed, it waits with its operation as given, or a page is missing. -/
inductive Piece where
  | done (s : State) (op : EngOp)
  | later (s : State) (op : EngOp)
  | miss (addr : Word)

/-- Notes the first fault of an operation (R328). -/
def EngOp.fail (op : EngOp) (cause : Nat) (addr : Word) : EngOp :=
  if op.err.isSome then op else { op with err := some (cause, addr) }

/-- The unloaded time of an engine's access to an address (R91): it reaches a slate through the switch. -/
def State.engLat (s : State) (core : Nat) (a : Word) : Nat :=
  match s.form core a with
  | .window c _ _ => slateLat core (octetOf c)
  | _ => s.lat core a

/-- One piece of an operation at its bytes (R102, R280): a fault leaves it unwritten (R328), and a poisoned source writes its
destination granules poisoned (R366). Its stores are acknowledged half their time later (R91). -/
def State.pieceAt (s : State) (op : EngOp) (pos : Nat) (sk dk : List Nat) : State × EngOp :=
  let n := min 64 (op.len - pos)
  let src := op.src + BitVec.ofNat 64 pos
  let dst := op.dst + BitVec.ofNat 64 pos
  let reads := match op.kind with
    | .cpyr _ _ => sk ++ dk
    | _ => sk
  let s := (runsOf reads).foldl (fun s r => (s.meetErrors r.1 r.2).1) s
  let host := match op.kind with
    | .cpyr _ _ => dk.any isHostKey
    | _ => false
  if host then (s, op.fail 0x16 dst)
  else
    let xs := sk.map fun k => memRead s.mem k
    let ys := dk.map fun k => memRead s.mem k
    let bytes := match op.kind with
      | .cpyr o t => redBytes o t 64 ys xs
      | _ => xs
    let badAt := (List.range n).filter fun i =>
      s.isPoisoned (sk.getD i 0) 1 || (match op.kind with
        | .cpyr _ _ => s.isPoisoned (dk.getD i 0) 1
        | _ => false)
    let (s, seen) :=
      if op.staff then (s, op.watched)
      else (runsOf dk).foldl (fun (s, seen) r => s.postWatch r.1 (s.watchHits r.1 r.2) seen dst 0xFFF) (s, op.watched)
    let s := s.storeRuns (runsOf dk) bytes
    let s := badAt.foldl (fun s i => s.addPoison (dk.getD i 0 / 32)) s
    let op := { op with watched := seen, ackAt := max op.ackAt (s.cycle + s.engLat op.who.core dst / 2) }
    (s, if badAt.isEmpty then op else op.fail 0x17 src)

/-- Moves one piece of an operation, in its turn at the banks of its bytes (R94). -/
def State.movePiece (s : State) (op : EngOp) (pos : Nat) : Piece :=
  let n := min 64 (op.len - pos)
  let again : Piece := .later s { op with start := s.cycle + 1, slot := false }
  match s.side op.who op.staff op.id (op.src + BitVec.ofNat 64 pos) n 0 with
  | .miss p => .miss p
  | .wait => again
  | .bad k a => .done s (op.fail k a)
  | .ok sk t =>
    match t.side op.who op.staff op.id (op.dst + BitVec.ofNat 64 pos) n 1 with
    | .miss p => .miss p
    | .wait => again
    | .bad k a => .done s (op.fail k a)
    | .ok dk t =>
      let (n, b) := s.bankTakes (sk ++ dk)
      if !op.slot && s.cycle < n then .later b { op with start := n, slot := true }
      else
        let (t, op) := State.pieceAt { t with banks := if op.slot then s.banks else b.banks } op pos sk dk
        .done t op

/-- Moves one piece after the walks of the pages that it misses in the translation cache (R91). -/
def State.tryPiece : Nat → State → EngOp → Nat → Piece
  | 0, s, op, pos => s.movePiece op pos
  | f + 1, s, op, pos =>
    match s.movePiece op pos with
    | .miss p =>
      match s.walkOf op.who.core p op.walked with
      | .till t => .later s { op with walked := some p, start := t, slot := false }
      | .filled t => State.tryPiece f t op pos
      | .gone => .miss p
    | r => r

/-- Replaces an operation of an octet. -/
def State.setOp (s : State) (octet : Nat) (op : EngOp) : State :=
  s.modOctet octet fun o => { o with ops := mapIf (·.id == op.id) (fun _ => op) o.ops }

/-- Whether a piece touches a page. -/
def EngOp.touches (op : EngOp) (pos : Nat) (page : Word) : Bool :=
  let n := min 64 (op.len - pos)
  let one (a : Word) : Bool := pageOf a == page || pageOf (a + BitVec.ofNat 64 (n - 1)) == page
  one (op.src + BitVec.ofNat 64 pos) || one (op.dst + BitVec.ofNat 64 pos)

/-- The MISS of an engine operation (R355), which the controller of a frame with a retire mark posts (R367). -/
def State.engMiss (s : State) (op : EngOp) (a : Word) : State :=
  s.missNotice (s.missDie op.who.core a) op.who (s.partOf op.who.core) a op.cw

/-- A piece that misses: it is skipped and noted on the fix-up list, or stops its operation (R355). -/
def State.skipPiece (s : State) (octet : Nat) (op : EngOp) (addr : Word) : State :=
  let o := s.octet octet
  let page := pageOf addr
  match o.fixups.find? fun f => f.op == op.id && f.page == page with
  | some _ =>
    (s.modOctet octet fun o =>
      { o with fixups := mapIf (fun f => f.op == op.id && f.page == page) (fun f => { f with pieces := f.pieces ++ [op.pos] }) o.fixups }).setOp
      octet { op with pos := op.pos + 64 }
  | none =>
    if op.overlap || 32 ≤ o.fixups.length then (s.setOp octet { op with stalled := some page }).engMiss op addr
    else
      ((s.modOctet octet fun o => { o with fixups := o.fixups ++ [{ op := op.id, page := page, pieces := [op.pos] }] }).setOp octet
        { op with pos := op.pos + 64 }).engMiss op addr

/-- An operation after a piece. -/
def EngOp.moved (op : EngOp) (pos : Nat) : EngOp := { op with pos := pos, slot := false, walked := none }

/-- Moves the next piece of an operation, or notes it under a page that is already on the list. -/
def State.nextPiece (s : State) (octet : Nat) (op : EngOp) : State :=
  match (s.octet octet).fixups.find? fun f => f.op == op.id && !f.ready && op.touches op.pos f.page with
  | some f => s.skipPiece octet op f.page
  | none =>
    match State.tryPiece 4 s op op.pos with
    | .done t op => t.setOp octet (op.moved (op.pos + 64))
    | .later t op => t.setOp octet op
    | .miss p => s.skipPiece octet (op.moved op.pos) p

/-- Moves a skipped piece of a ready entry (R356); one that misses again keeps its entry, without a new MISS. -/
def State.replayPiece (s : State) (octet : Nat) (f : Fixup) (op : EngOp) : State :=
  let put (s : State) (g : Fixup) : State :=
    s.modOctet octet fun o => { o with fixups := mapIf (fun x => x.op == f.op && x.page == f.page) (fun _ => g) o.fixups }
  let drop (s : State) : State :=
    s.modOctet octet fun o => { o with fixups := o.fixups.filter fun x => !(x.op == f.op && x.page == f.page) }
  match f.pieces with
  | [] => drop s
  | p :: r =>
    match State.tryPiece 4 s op p with
    | .miss _ => put (s.setOp octet (op.moved op.pos)) { f with ready := false }
    | .later t op => t.setOp octet op
    | .done t op =>
      let t := t.setOp octet (op.moved op.pos)
      if r.isEmpty then drop t else put t { f with pieces := r }

/-- The end of a PMUT's copy, once its stores are acknowledged: the counts, and the new reference (R271); a faulted copy refuses
the access. -/
def State.pmutEnd (s : State) (op : EngOp) (new : Word) (reply : Access) : State :=
  let core := reply.who.core
  let reply := { reply with lat := reply.lat + 2 * (op.ackAt - s.cycle) }
  match op.err with
  | some (k, _) => s.refuse reply k
  | none =>
    let d0 := s.dword core reply.addr
    let s := s.apart core fun s => s.putDword core reply.addr (setRefc d0 (bits d0 63 48 - 1))
    (s.apart core fun s => s.putDword core new (setRefc (s.dword core new) 1)).replyTo reply (new.setWidth 1024)

/-- An operation whose pieces are all moved counts once its stores are acknowledged and its increment has come to its word (R91,
R102, R328). -/
def State.endOp (s : State) (octet : Nat) (op : EngOp) : State :=
  let s := s.setOp octet { op with counting := true }
  match op.kind with
  | .pmut new reply => (s.modOctet octet fun o => { o with ops := o.ops.filter (·.id != op.id) }).pmutEnd op new reply
  | _ =>
    let s := match op.err with
      | some (k, a) => s.engineErr (dieOf op.who.core) op.who k op.cw a
      | none => s
    s.carry (octetDie octet) (s.farDie op.who.core op.cw) false false 16 (op.ackAt - s.cycle + s.engLat op.who.core op.cw / 2)
      .completionIncrement
      { count := { addr := op.cw, err := op.err.isSome, what := .engine octet op.id, who := op.who, run := op.run } }

/-- Whether an operation has pieces to move. -/
def EngOp.moving (op : EngOp) : Bool := op.pos < op.len && op.stalled.isNone && !op.aborted && !op.counting

/-- Lets an octet's engine go on. -/
def State.engTick (s : State) (octet at' : Nat) : State :=
  if s.agenda.any fun p => p.ev == .copyEnginePiece && p.arg.octet == octet && p.due ≤ at' then s
  else s.post at' .copyEnginePiece { octet := octet }

/-- What an octet's engine does in a cycle (R102, R356): the piece whose banks are booked, and nothing while it waits for them;
else a skipped piece of a ready entry, in list order, or the next piece of the first operation in registration order. -/
def State.engineTurn (s : State) (octet : Nat) : State :=
  let o := s.octet octet
  let booked := o.ops.find? (·.slot)
  let mine (op : EngOp) : Bool := op.start ≤ s.cycle && (booked.map (·.id)).all (· == op.id)
  match o.fixups.findSome? fun f => if f.ready then (o.ops.find? fun op => op.id == f.op && mine op).map fun op => (f, op) else none with
  | some (f, op) => s.replayPiece octet f op
  | none =>
    match o.ops.find? fun (op : EngOp) => op.moving && mine op with
    | some op => s.nextPiece octet op
    | none => s

/-- One cycle of an octet's copy engine: its piece; then the ends of operations, and the next cycle. -/
def execCopyEnginePiece (s : State) : Host.Outcome State Fault Refusal :=
  let octet := s.arg.octet
  let s := s.engineTurn octet
  let o := s.octet octet
  let ended := o.ops.filter fun (op : EngOp) =>
    op.len ≤ op.pos && !op.counting && !op.aborted && !(o.fixups.any fun f => f.op == op.id)
  let s := ended.foldl (fun s op => s.endOp octet op) s
  let o := s.octet octet
  if o.fixups.any (·.ready) || o.ops.any fun (op : EngOp) => op.moving then .next (s.engTick octet (s.cycle + 1)) else .next s

/-! ## CPY and CPYR (R101, R102, R280, R351) -/

/-- Whether two ranges overlap (R280). -/
def State.spansMeet (s : State) (core : Nat) (p q : Span) : Bool :=
  match s.spanAt core p, s.spanAt core q with
  | some (o, sl, lo), some (o', sl', lo') => o == o' && sl == sl' && lo < lo' + q.len && lo' < lo + p.len
  | _, _ => false

/-- A slate range that leaves its slate (R280). -/
def State.leavesSlate (s : State) (core : Nat) (p : Span) : Bool :=
  match s.form core p.addr with
  | .mem _ => false
  | .remote _ => false
  | .bad => false
  | _ => 65536 < bits p.addr.toNat 15 0 + p.len

/-- Puts an operation that counts for the issuing context to the end at once: with an err (R328) or of no bytes. -/
def State.countNow (s : State) (cw : Word) (err : Option (Nat × Word)) : State :=
  let c := s.who
  let s := match err with
    | some (k, a) => s.engineErr (dieOf c.core) c k cw a
    | none => s
  s.post s.cycle .completionIncrement
    { count := { addr := cw, err := err.isSome, what := .engine (octetOf c.core) 0, who := c, run := (s.ctx c).run } }

/-- The time to an operation's first piece: the read of its source, and the way to a destination in another octet. -/
def State.engLead (s : State) (core : Nat) (src dst : Word) : Nat :=
  let near := match s.slateOf (s.form core dst) with
    | some (o, _) => o == octetOf core
    | none => false
  s.lat core src + (if near then 0 else s.oneWay core dst)

/-- Registers and starts an operation. -/
def State.startOp (s : State) (kind : EngKind) (src dst : Word) (len : Nat) (cw : Word) : State :=
  let c := s.who
  let octet := octetOf c.core
  let (i, s) := s.newId
  let ps : List Span := [⟨src, len, false⟩, ⟨dst, len, true⟩]
  let start := s.cycle + s.engLead c.core src dst
  let op : EngOp :=
    { id := i, who := c, run := (s.ctx c).run, staff := s.priv c == 2, kind := kind, src := src,
      dst := dst, len := len, cw := cw, start := start, overlap := s.spansMeet c.core ⟨src, len, false⟩ ⟨dst, len, true⟩ }
  let s := match kind with
    | .pmut _ _ => s
    | _ => s.addLocks c.core i ps
  (s.modOctet octet fun o => { o with ops := o.ops ++ [op] }).engTick octet start

/-- The issue of CPY and CPYR. -/
def State.copyIssue (s : State) (d : Reg) (a b c : Src) (kind : EngKind) (unit' : Nat) : State :=
  s.waiting { dr := some d, a := some a, b := some b, c := some c } Ctx.quiet fun v s =>
    let u : Uses := { dr := some d, a := some a, b := some b, c := some c }
    let core := s.who.core
    let len := v.c.toNat % 2 ^ 32
    let src : Span := ⟨v.a, len, false⟩
    let dst : Span := ⟨v.b, len, true⟩
    let far (x : Word) : Bool :=
      match s.form core x with
      | .remote _ => true
      | _ => false
    match [v.a, v.b].find? far with
    | some x => s.trapHere 0x16 x
    | none =>
      match [src, dst].find? fun p => s.leavesSlate core p with
      | some p => s.trapHere 0x15 p.addr
      | none =>
        if len % unit' != 0 then s.trapHere 0x15 v.b
        else
          let staff := s.priv s.who == 2
          let out (s : State) : State := (s.commit u).modCtx s.who fun x => { x with engOut := x.engOut + 1 }
          if s.spanClosed core src || s.spanClosed core dst then s.block 0
          else
            match [src, dst].findSome? fun p => (s.spanFault core staff p).map fun k => (k, p.addr) with
            | some e => ((out s).countNow v.d (some e)).finish
            | none =>
              if len == 0 then ((out s).countNow v.d none).finish
              else if s.lockConflict core src || s.lockConflict core dst || !s.lockRoom core [src, dst] then s.block 0
              else ((out s).startOp kind v.a v.b len v.d).finish

/-- CPY (R280). -/
def execCpy (d : Reg) (a b c : Src) (s : State) : Host.Outcome State Fault Refusal := .next (s.copyIssue d a b c .cpy 1)

/-- CPYR (R280). -/
def execCpyr (d : Reg) (a b c : Src) (op : RedOp) (ty : RedTy) (s : State) : Host.Outcome State Fault Refusal :=
  .next (s.copyIssue d a b c (.cpyr op ty) (redSize ty))

/-! ## PMUT at its descriptor (R37, R271) -/

/-- PMUT: a count of 1 gives the reference back; above 1 the payload is copied to a new descriptor. -/
def State.bankPmut (s : State) (a : Access) (k net : Nat) : State :=
  let core := a.who.core
  let d0 := s.rd8 k
  let n := bits d0 63 48
  if n == 0 then s.refuse a 0x2A
  else if n == 1 then s.replyTo a (a.addr.setWidth 1024)
  else
    let d1 := s.dword core (a.addr + 8)
    let data := s.dword core (a.addr + 16)
    let (b, sc) := payloadSize d0 d1
    match s.allocPayload core (s.storeOf core net) d0 d1 data with
    | none => s.replyTo a 0
    | some (d, t) =>
      if b + sc == 0 then t.pmutEnd {} d a
      else
        { ({ t with who := a.who }.startOp (.pmut d a) (BitVec.ofNat 64 data) (BitVec.ofNat 64 (t.dword core (d + 16))) (b + sc) 0) with
          who := s.who }

/-! ## CWAIT (R103, R282, R365, R403) -/

/-- CWAIT: a word that already satisfies it completes at once; otherwise the context sleeps with its pc at the CWAIT. -/
def execCwait (d : Reg) (a b c : Src) (s : State) : Host.Outcome State Fault Refusal :=
  let u : Uses := { a := some a, b := some b, c := some c, late := [d] }
  match s.peek u with
  | .stop t => .next t
  | .ok v =>
    let core := s.who.core
    let x := s.ctx s.who
    if s.form core v.a == .bad then .next (s.trapHere 0x10 v.a)
    else if !inSlateSpace v.a then .next (s.trapHere 0x16 v.a)
    else
      match s.ownFault v.a .sync with
      | some k => .next (s.trapHere k v.a)
      | none =>
        let t := v.b.toNat % 2 ^ 62
        let limit := if x.left != 0 then x.left else v.c.toNat
        let met := match s.land core (s.priv s.who == 2) true v.a 8 .sync 0 with
          | .go k _ => if cwaitDone (s.rd8 (k / 8 * 8)) t then some (s.rd8 (k / 8 * 8)) else none
          | _ => none
        match met with
        | some w => .next (((((s.commit u).modCtx s.who fun x => { x with left := 0 }).fill s.who x.run (.reg d) (BitVec.ofNat 1024 w))).finish)
        | none =>
          let id := (s.commit u).seq
          let s1 := ((s.commit u).startAccess (.cwait t limit) v.a false (.reg d))
          let s2 := (s1.endAt x.pc).modCtx s.who fun x =>
            { x with wait := .cwait id, left := 0, limitAt := if limit == 0 then 0 else s.cycle + limit }
          .next (if limit == 0 then s2
            else s2.post (s.cycle + limit) .cwaitLimitExpire { c := s.who, run := x.run, id := id, n := s.cycle + limit })

/-- The end of a CWAIT's limit (R282, R322): it has no effect and traps with 0x1A. A drop stops the limit (R403). -/
def execCwaitLimitExpire (s : State) : Host.Outcome State Fault Refusal :=
  match s.place s.arg.c s.arg.run with
  | .at c =>
    let x := s.ctx c
    if x.wait != .cwait s.arg.id then .next s
    else if !x.drops.isEmpty then .next (s.post (s.cycle + 1) .cwaitLimitExpire s.arg)
    else
      let n := s.arg.n + x.left
      if s.cycle < n then
        .next ((s.modCtx c fun x => { x with left := 0, limitAt := n }).post n .cwaitLimitExpire { s.arg with n := n })
      else
        match s.sleepers.find? fun z => z.acc.id == s.arg.id with
        | some z =>
          let s := { s with sleepers := s.sleepers.filter fun y => y.acc.id != z.acc.id }
          .next ((s.undoDest c x.run z.acc.dest z.acc.was).trap c
            { cause := 0x1A, pc := x.pc, addr := z.acc.addr, word := z.acc.word })
        | none => .next (s.post (s.cycle + 1) .cwaitLimitExpire s.arg)
  | _ => .next s

end Sys2Proof.Machine
end

