-- ==== Sys2Proof/Machine/Slate.lean ====
section
/-! DEFINITION. The slate map and the hand-over of slates: SMAP, SUNMAP, GIVE, SGEN and the reclaim of R362 (R89, R92, R93,
R279, R349, R361 to R363). -/

namespace Sys2Proof.Machine

/-- A window operand (R279). -/
def winOf (w : Word) : Nat := w.toNat % 8

/-- A slate-map entry in R89's layout. -/
def Win.word (w : Win) : Word :=
  BitVec.ofNat 64 (b2n w.valid * 2 ^ 31 + w.slate * 2 ^ 26 + w.gen.toNat * 2 ^ 18 + w.own.toNat * 2 ^ 16 + w.rem.toNat * 2 ^ 14)

/-- SMAP (R279): only status 0 changes the map; own = 3 is a reserved field (R349). -/
def execSmap (d : Reg) (a b : Src) (s : State) : Host.Outcome State Fault Refusal :=
  let u : Uses := { a := some a, b := some b, out := [d], need := 1 }
  match s.peek u with
  | .stop t => .next t
  | .ok v =>
    let core := s.who.core
    let w := winOf v.b
    let slate := bits v.a.toNat 30 26
    if bits v.a.toNat 17 16 == 3 then .next (s.trapHere 0x02 0)
    else
      let s := s.commit u
      if (rd (s.coreAt core).win w {}).valid then .next ((s.setReg d 1).finish)
      else if (s.installed (octetOf core) slate).isSome then .next ((s.setReg d 2).finish)
      else
        let e : Win :=
          { valid := true, slate := slate, gen := rd (s.octet (octetOf core)).gens slate 0, own := BitVec.ofNat 2 (bits v.a.toNat 17 16),
            rem := BitVec.ofNat 2 (bits v.a.toNat 15 14) }
        .next (((s.modCore core fun k => { k with win := wr k.win w e }).setReg d 0).finish)

/-- SGEN (R279): the entry with its generation as installed. -/
def execSgen (d : Reg) (a : Src) (s : State) : Host.Outcome State Fault Refusal :=
  .next (s.compute { a := some a, out := [d] } fun v => (rd (s.coreAt s.who.core).win (winOf v.a) {}).word)

/-! ## Transfers (R92) -/

/-- The issuing context waits for a status that its instruction writes late. -/
def State.holdFor (s : State) (d : Dest) : State × Late :=
  let c := s.who
  let (i, s) := s.newId
  let s := s.emptyDest c d
  let t := s.finish
  (t.modCtx c fun x => { x with wait := .hold i, lateOut := x.lateOut + 1 }, { who := c, run := (s.ctx c).run, dest := d })

/-- Writes a late status and ends the wait for it. -/
def State.holdDone (s : State) (l : Late) (v : Word) : State :=
  let s := s.fill l.who l.run l.dest (v.setWidth 1024)
  s.modRun l.who l.run fun x =>
    { x with lateOut := x.lateOut - 1, wait := match x.wait with
        | .hold _ => .none
        | w => w }

/-- A refused transfer writes its status and closes nothing. -/
def State.giveRefused (s : State) (u : Uses) (d : Reg) (v : Word) : State :=
  let (s, l) := (s.commit u).holdFor (.reg d)
  s.postIn 8 .giveInstall { late := { l with val := v.setWidth 1024 }, n := 1 }

/-- Starts a transfer: its slate's window is closed from now on (R92 step 1). -/
def State.startGive (s : State) (u : Uses) (d : Reg) (octet : Nat) (g : GiveOp) : State :=
  let (s, l) := (s.commit u).holdFor (.reg d)
  let (i, s) := s.newId
  (s.modOctet octet fun o => { o with gives := o.gives ++ [{ g with id := i, reply := l }] }).postIn 8 .giveInstall
    { octet := octet, id := i }

/-- Whether the notice of one more GIVE to a core finds room (R74). -/
def State.noticeRoom (s : State) (octet core : Nat) : Bool :=
  let k := s.coreAt core
  let coming := ((s.octet octet).gives.filter fun g => g.target.any fun t => t.1 == core).length
  k.m7q.length + coming < 8 + (if tb k.mFull 7 then 0 else 1)

/-- GIVE (R92, R279). One whose window or target window another transfer moves waits, without an issue slot, until that has ended,
and finds what it left: they are served in arrival order. -/
def execGive (d : Reg) (a b c : Src) (s : State) : Host.Outcome State Fault Refusal :=
  let u : Uses := { a := some a, b := some b, c := some c, late := [d] }
  .next (s.waiting u Ctx.storesDone fun v s =>
    let core := s.who.core
    let octet := octetOf core
    let own := winOf v.a
    let dst := coreOfSeat octet (v.b.toNat % 8)
    let win := winOf v.c
    let e := rd (s.coreAt core).win own {}
    let taken := (s.octet octet).gives.any fun g => g.target == some (dst, win)
    if !e.valid then s.giveRefused u d 1
    else if (rd (s.coreAt dst).win win {}).valid then s.giveRefused u d 2
    else if taken || s.closed octet e.slate || !s.noticeRoom octet dst then s.block 0
    else s.startGive u d octet { core := core, win := own, target := some (dst, win), slate := e.slate })

/-- SUNMAP (R279): GIVE's steps 1 to 3, and the slate is left in no window. -/
def execSunmap (d : Reg) (a : Src) (s : State) : Host.Outcome State Fault Refusal :=
  let u : Uses := { a := some a, late := [d], need := 1 }
  match s.peek u with
  | .stop t => .next t
  | .ok v =>
    let core := s.who.core
    let e := rd (s.coreAt core).win (winOf v.a) {}
    if !e.valid then .next (s.giveRefused u d 1)
    else if s.closed (octetOf core) e.slate then .next (s.block 0)
    else .next (s.startGive u d (octetOf core) { core := core, win := winOf v.a, slate := e.slate })

/-- Drops the fix-up entries of an operation of an octet. -/
def State.dropFixups (s : State) (octet op : Nat) : State :=
  s.modOctet octet fun o => { o with fixups := o.fixups.filter (·.op != op) }

/-- Aborts a copy (R363): it stops at a piece boundary, and counts with err and its ENGINE_ERR in one step. -/
def State.abortCopy (s : State) (octet : Nat) (op : EngOp) : State :=
  let s := s.modOctet octet fun o =>
    { o with ops := mapIf (·.id == op.id) (fun x => { x with aborted := true, counting := true }) o.ops }
  (s.dropFixups octet op.id).post s.cycle .completionIncrement
    { count := { addr := op.cw, err := true, notice := some (0x12, 0), what := .engine octet op.id, who := op.who, run := op.run } }

/-- Aborts a bound stream (R101, R359, R363): no further element is read or written, and it counts with err and its ENGINE_ERR in
one step. -/
def State.abortStream (s : State) (core i : Nat) : State :=
  let q := rd (s.coreAt core).q i {}
  let p : Stream :=
    { q with err := some (0x12, 0), stopAt := some (if q.outb then q.done else q.moved), buf := if q.outb then [] else q.buf,
             skipped := [], stalled := none, ending := true }
  let s := (s.modCore core fun k => { k with q := wr k.q i p }).dropFixups (octetOf core) q.bindId
  let c : Count :=
    { addr := q.cw, err := true, notice := some (0x12, 0), what := .stream core i, who := q.who, run := q.run }
  if q.cw == 0 then (s.countErr c).counted c else s.post s.cycle .completionIncrement { count := c }

/-- Aborts the engine operations with a lock on a slate (R363). -/
def State.abortOps (s : State) (octet slate : Nat) : State :=
  let ids := (s.octet octet).locks.filterMap fun l => if l.slate == some slate then some l.op else none
  let s := s.octets.foldl (fun s p =>
    (p.2.ops.filter fun op => ids.contains op.id && !op.counting).foldl (fun s op => s.abortCopy p.1 op) s) s
  s.cores.foldl (fun s p =>
    ((List.range 8).filter fun i => let q := rd p.2.q i {}; q.bound && !q.ending && ids.contains q.bindId).foldl
      (fun s i => s.abortStream p.1 i) s) s

/-- Refuses the operations parked on a slate's words with 0x12 (R362). -/
def State.refuseParked (s : State) (octet slate cause : Nat) : State :=
  let hit (p : Parked) : Bool := isSlateKey p.acc.key && keyOctet p.acc.key == octet && keySlate p.acc.key == slate
  (s.parked.filter hit).foldl (fun s p => s.refuse p.acc cause) { s with parked := s.parked.filter fun p => !hit p }

/-- sunmap.rc (R362, R363): a staff context reclaims the slate that a handle names, wherever it is installed. -/
def execSunmapRc (d : Reg) (a : Src) (s : State) : Host.Outcome State Fault Refusal :=
  let u : Uses := { a := some a, late := [d], need := 2 }
  match s.peek u with
  | .stop t => .next t
  | .ok v =>
    match s.form s.who.core v.a with
    | .handle o sl g _ =>
      if (rd (s.octet o).gens sl 0).toNat != g then .next (s.giveRefused u d 1)
      else .next (((s.abortOps o sl).refuseParked o sl 0x12).startGive u d o { slate := sl, reclaim := true })
    | _ => .next (s.giveRefused u d 1)

/-- The notice of a GIVE (R93). -/
def giveNotice (win slate gen seat : Nat) : Word := BitVec.ofNat 64 (win * 2 ^ 21 + slate * 2 ^ 16 + gen * 2 ^ 8 + seat)

/-- Lets what waited at an octet's closed windows go on: each is checked afresh (R92). -/
def State.openWaiting (s : State) (octet : Nat) : State :=
  let o := s.octet octet
  let s := s.setOctet octet { o with waiting := [] }
  o.waiting.foldl (fun s a => s.post s.cycle .bankAccess { acc := a }) s

/-- Steps 3 and 4 of R92, once no live range lock covers the slate: the generation advances, the entries change, and the notice
is placed; a SUNMAP and a reclaim leave the slate in no window (R279, R362). -/
def State.install (s : State) (octet : Nat) (g : GiveOp) : State :=
  let gen := rd (s.octet octet).gens g.slate 0 + 1
  let s := s.modOctet octet fun o =>
    { o with gens := wr o.gens g.slate gen, gives := o.gives.filter (·.id != g.id) }
  let old := rd (s.coreAt g.core).win g.win {}
  let s :=
    if g.reclaim then
      (List.range 8).foldl (fun s i => s.modCore (coreOfSeat octet i) fun k =>
        { k with win := k.win.map fun w => if w.slate == g.slate then {} else w }) s
    else s.modCore g.core fun k => { k with win := wr k.win g.win {} }
  let s :=
    match g.target with
    | some (dst, win) =>
      s.modCore dst fun k =>
        { k with win := wr k.win win { valid := true, slate := g.slate, gen := gen, own := old.own, rem := old.rem } }.giveNotice
          (giveNotice win g.slate gen.toNat (seatOf g.core))
    | none => s
  (s.openWaiting octet).holdDone g.reply 0

/-- Whether an access to a slate has passed the protection unit and waits for its turn at the bank (R92 step 2). -/
def State.draining (s : State) (octet slate : Nat) : Bool :=
  s.agenda.any fun (p : Pending) =>
    p.arg.slot && isSlateKey p.arg.acc.key && keyOctet p.arg.acc.key == octet && keySlate p.arg.acc.key == slate

/-- The install step of a transfer, or the status of a refused one. -/
def execGiveInstall (s : State) : Host.Outcome State Fault Refusal :=
  if s.arg.n == 1 then .next (s.holdDone s.arg.late (s.arg.late.val.setWidth 64))
  else
    let octet := s.arg.octet
    match (s.octet octet).gives.find? (·.id == s.arg.id) with
    | none => .next s
    | some g =>
      if s.draining octet g.slate || (s.octet octet).locks.any fun l => l.slate == some g.slate then .next (s.post (s.cycle + 1) .giveInstall s.arg)
      else .next (s.install octet g)

end Sys2Proof.Machine
end

