-- ==== Sys2Proof/Machine/Stream.lean ====
section
/-! DEFINITION. Streams and mailboxes: claims, binding, the moves of elements, neighbour channels and slate rings (R74, R75,
R141, R227 to R232, R281, R345, R346, R354, R359). -/

namespace Sys2Proof.Machine

/-- A stream register of a core, and its replacement. -/
def State.q (s : State) (core i : Nat) : Stream := rd (s.coreAt core).q i {}
def State.setQ (s : State) (core i : Nat) (q : Stream) : State := s.modCore core fun k => { k with q := wr k.q i q }
def State.modQ (s : State) (core i : Nat) (f : Stream → Stream) : State := s.setQ core i (f (s.q core i))

/-- Lets a stream's engine go on. -/
def State.streamGo (s : State) (core i at' : Nat) : State := s.post at' .streamElementMove { core := core, n := i }

/-! ## The end of a binding (R229, R231) -/

/-- Counts a stream that has ended, and releases its lock (R229); a stream without a completion word only releases it. -/
def State.streamEnd (s : State) (core i : Nat) : State :=
  let q := s.q core i
  if !q.bound || q.ending then s
  else
    let s := s.setQ core i { q with ending := true }
    let s := match q.err with
      | some (k, a) => s.engineErr (dieOf core) q.who k q.cw a
      | none => s
    let c : Count := { addr := q.cw, err := q.err.isSome, what := .stream core i, who := q.who, run := q.run }
    if q.cw == 0 then s.counted c else s.post s.cycle .completionIncrement { count := c }

/-- Whether every element of a stream has gone where it goes. -/
def Stream.settled (q : Stream) : Bool :=
  q.inflight == 0 && (if q.outb then q.buf.isEmpty && q.skipped.isEmpty && (q.closing || q.leftOver == 0)
    else q.closing || q.limit ≤ q.moved)

/-- Ends a stream whose elements have all moved. -/
def State.streamCheck (s : State) (core i : Nat) : State :=
  let q := s.q core i
  if q.bound && q.settled then s.streamEnd core i else s

/-- An element meets an err fault: the stream ends early (R359). -/
def State.streamFail (s : State) (core i cause : Nat) (addr : Word) : State :=
  let q := s.q core i
  let q := { q with err := if q.err.isSome then q.err else some (cause, addr) }
  let q := if q.outb then { q with stopAt := some q.done, buf := [], skipped := [] } else { q with stopAt := some q.moved }
  ((if q.outb then s.dropFixups (octetOf core) q.bindId else s).setQ core i q).streamCheck core i

/-! ## Addresses of elements (R227) -/

/-- The address of an affine element; without overflow it is base + Σ i_k × st_k. -/
def Stream.addrOf (q : Stream) (j : Nat) : Word :=
  let n (k : Nat) : Nat := max 1 (rd q.ns k 0)
  let i0 := j % n 0
  let i1 := j / n 0 % n 1
  let i2 := j / n 0 / n 1 % n 2
  let i3 := j / n 0 / n 1 / n 2
  q.base + BitVec.ofNat 64 i0 * rd q.sts 0 0 + BitVec.ofNat 64 i1 * rd q.sts 1 0 + BitVec.ofNat 64 i2 * rd q.sts 2 0
    + BitVec.ofNat 64 i3 * rd q.sts 3 0

/-- The address of a ring's element. -/
def Stream.slotAddr (q : Stream) (j : Nat) : Word := q.base + BitVec.ofNat 64 (8 * ((q.first + j) % max 1 q.slots))

/-- An inbound element of the low 8 × esz bits, extended under sx (R228). -/
def Stream.extend (q : Stream) (v : Nat) : Word :=
  let n := 2 ^ q.esz
  loadVal n (v % 2 ^ (8 * n)) q.sx

/-- Where the bytes of an element are: in memory, or under tsp in a tile register (DEDUCED, assumption log 26). -/
def State.elemSide (s : State) (core : Nat) (q : Stream) (a : Word) (use : Nat) : Side :=
  let n := 2 ^ q.esz
  if q.tsp then .ok ((List.range n).map fun i => tileKey core q.tt ((a.toNat + i) % 32768)) s
  else s.side q.who q.staff q.bindId a n use

/-- The unloaded time of an element's access. -/
def State.elemLat (s : State) (core : Nat) (q : Stream) (a : Word) : Nat := if q.tsp then 4 else s.lat core a

/-! ## Affine streams -/

/-- A stream's engine tries its element again in a later cycle. -/
def State.streamLater (s : State) (core i at' : Nat) (f : Stream → Stream) : State :=
  (s.modQ core i fun q => { f q with start := at' }).streamGo core i at'

/-- What the place of an element gives: its bytes, in their turn at the bank (R94); a later try, after a walk (R91) or a lock; a
missing page; or a fault. -/
inductive Elem where
  | ok (ks : List Nat) (s : State)
  | later (s : State)
  | miss (page addr : Word)
  | bad (cause : Nat) (addr : Word)

/-- An element's place, now. -/
def State.elemAt (s : State) (core i : Nat) (a : Word) (use : Nat) : Elem :=
  let q := s.q core i
  match s.elemSide core q a use with
  | .bad k x => .bad k x
  | .wait => .later (s.streamLater core i (s.cycle + 1) fun q => { q with slot := false })
  | .miss p =>
    match s.walkOf q.who.core p q.walked with
    | .till n => .later (s.streamLater core i n fun q => { q with slot := false, walked := some p })
    | .filled t => .later (t.streamLater core i s.cycle id)
    | .gone => .miss (pageOf p) p
  | .ok ks t =>
    let (n, b) := s.bankTakes ks
    if !q.slot && s.cycle < n then .later (b.streamLater core i n fun q => { q with slot := true })
    else .ok ks (State.modQ { t with banks := if q.slot then s.banks else b.banks } core i fun q => { q with slot := false, walked := none })

/-- The MISS of a stream (R354, R355), which the controller of a frame with a retire mark posts (R367). -/
def State.elemMiss (s : State) (core : Nat) (q : Stream) (at' a : Word) : State :=
  s.missNotice (s.missDie q.who.core at') q.who (s.partOf core) a q.cw

/-- Fetches the next element of an affine inbound stream: at most 16 ahead, in element order (R228, R230). -/
def State.fetchElem (s : State) (core i : Nat) : State :=
  let q := s.q core i
  let a := q.addrOf q.moved
  match s.elemAt core i a 0 with
  | .later t => t
  | .miss p x => (s.setQ core i { q with stalled := some p }).elemMiss core q x a
  | .bad k x => s.streamFail core i k x
  | .ok ks s =>
    let s := (runsOf ks).foldl (fun s r => (s.meetErrors r.1 r.2).1) s
    if ks.any fun k => s.isPoisoned k 1 then s.streamFail core i 0x17 a
    else
      let v := bytesNat (ks.map fun k => memRead s.mem k)
      let due := max q.lastAt (s.cycle + s.elemLat core q a + Config.traffic s.fresh)
      let s := State.modQ { s with fresh := s.fresh + 1 } core i fun q =>
        { q with moved := q.moved + 1, inflight := q.inflight + 1, lastAt := due }
      (s.post due .streamElementMove { core := core, n := i, id := 2, v := q.extend v }).streamGo core i (s.cycle + 1)

/-- Stores an element of an affine outbound stream at its bytes. -/
def State.storeElem (s : State) (core i : Nat) (a : Word) (ks : List Nat) (w : Word) : State :=
  let q := s.q core i
  let (s, seen) :=
    if q.staff then (s, q.watched)
    else (runsOf ks).foldl (fun (s, seen) r => s.postWatch r.1 (s.watchHits r.1 r.2) seen a 0xFFF) (s, q.watched)
  let s := s.storeRuns (runsOf ks) (natBytes w.toNat (2 ^ q.esz))
  (s.modQ core i fun q => { q with inflight := q.inflight + 1, watched := seen }).carry (s.farDie core a) (dieOf core) false false 16
    (s.elemLat core q a / 2) .streamElementMove { core := core, n := i, id := 3 }

/-- Notes the head of the buffer under a page of the fix-up list (R355). -/
def State.skipElem (s : State) (core i : Nat) (page : Word) : State :=
  let q := s.q core i
  let s := s.modOctet (octetOf core) fun o =>
    { o with fixups := mapIf (fun f => f.op == q.bindId && f.page == page) (fun f => { f with pieces := f.pieces ++ [q.moved] }) o.fixups }
  (s.setQ core i
    { q with skipped := q.skipped ++ [(q.moved, q.buf.headD 0)], buf := q.buf.drop 1, moved := q.moved + 1, walked := none }).streamGo
    core i (s.cycle + 1)

/-- The next new element of an affine outbound stream: one whose page is on the fix-up list is skipped, and one that misses stops
its stream where the list is full (R355). -/
def State.newElem (s : State) (core i : Nat) : State :=
  let q := s.q core i
  let octet := octetOf core
  let l := (s.octet octet).fixups
  let listed (p : Word) : Bool := l.any fun f => f.op == q.bindId && f.page == p
  match q.buf with
  | [] => s.streamCheck core i
  | w :: _ =>
    let a := q.addrOf q.moved
    if listed (pageOf a) then s.skipElem core i (pageOf a)
    else
      match s.elemAt core i a 1 with
      | .later t => t
      | .bad k x => s.streamFail core i k x
      | .ok ks t =>
        (State.modQ (t.storeElem core i a ks w) core i fun q => { q with buf := q.buf.drop 1, moved := q.moved + 1 }).streamGo core i
          (s.cycle + 1)
      | .miss p x =>
        if listed p then s.skipElem core i p
        else if 32 ≤ l.length then (s.modQ core i fun q => { q with stalled := some p }).elemMiss core q x a
        else
          ((s.modOctet octet fun o => { o with fixups := o.fixups ++ [{ op := q.bindId, page := p }] }).skipElem core i p).elemMiss core q
            x a

/-- A skipped element of a ready entry (R356); one that misses again keeps its entry, without a new MISS. -/
def State.replayElem (s : State) (core i : Nat) (f : Fixup) : State :=
  let q := s.q core i
  let put (s : State) (g : Fixup) : State :=
    s.modOctet (octetOf core) fun o =>
      { o with fixups := mapIf (fun x => x.op == f.op && x.page == f.page) (fun _ => g) o.fixups }
  let drop (s : State) : State :=
    s.modOctet (octetOf core) fun o => { o with fixups := o.fixups.filter fun x => !(x.op == f.op && x.page == f.page) }
  match f.pieces with
  | [] => (drop s).streamGo core i s.cycle
  | j :: r =>
    let a := q.addrOf j
    match s.elemAt core i a 1 with
    | .later t => t
    | .bad k x => s.streamFail core i k x
    | .miss _ _ => (put (s.modQ core i fun q => { q with walked := none }) { f with ready := false }).streamGo core i s.cycle
    | .ok ks t =>
      let w := ((q.skipped.find? fun p => p.1 == j).map (·.2)).getD 0
      let t := (t.storeElem core i a ks w).modQ core i fun q => { q with skipped := q.skipped.filter fun p => p.1 != j }
      (if r.isEmpty then drop t else put t { f with pieces := r }).streamGo core i (s.cycle + 1)

/-- The next store of an affine outbound stream (R356): the elements of its ready entries in list order, then new ones. -/
def State.pushElem (s : State) (core i : Nat) : State :=
  let q := s.q core i
  match (s.octet (octetOf core)).fixups.find? fun f => f.op == q.bindId && f.ready with
  | some f => s.replayElem core i f
  | none => if q.stalled.isSome then s else s.newElem core i

/-! ## Neighbour channels (R141, R228) -/

/-- The core at a rank of a stitched rectangle, or by its row and column in it. -/
def Stitch.coreOf (t : Stitch) (die row col : Nat) : Nat := coreAt die (t.row + row) (t.col + col)

/-- The neighbour of a core on a channel (R141); `none` for a channel that is "none" or leaves the die (R346). -/
def State.neighbour (s : State) (core ch : Nat) : Option Nat :=
  let t := (s.coreAt core).stitch
  let die := dieOf core
  let row := rowOf core
  let col := colOf core
  let r := row - t.row
  let c := col - t.col
  let n := t.ncols * t.nrows
  match t.shape with
  | 0 =>
    let k := r * t.ncols + (if r % 2 == 0 then c else t.ncols - 1 - c)
    let place (k : Nat) : Nat :=
      let r := k / max 1 t.ncols
      let c := k % max 1 t.ncols
      t.coreOf die r (if r % 2 == 0 then c else t.ncols - 1 - c)
    if ch == 0 then some (place ((k + 1) % max 1 n))
    else if ch == 2 then some (place ((k + n - 1) % max 1 n))
    else none
  | 1 =>
    let k := r * t.ncols + c
    let place (k : Nat) : Nat := t.coreOf die (k / max 1 t.ncols) (k % max 1 t.ncols)
    if ch == 0 then if 2 * k + 1 < n then some (place (2 * k + 1)) else none
    else if ch == 1 then if 2 * k + 2 < n then some (place (2 * k + 2)) else none
    else if ch == 3 then if 0 < k then some (place ((k - 1) / 2)) else none
    else none
  | 2 =>
    let nc := max 1 t.ncols
    let nr := max 1 t.nrows
    if ch == 0 then some (t.coreOf die r ((c + 1) % nc))
    else if ch == 1 then some (t.coreOf die ((r + 1) % nr) c)
    else if ch == 2 then some (t.coreOf die r ((c + nc - 1) % nc))
    else some (t.coreOf die ((r + nr - 1) % nr) c)
  | _ =>
    if ch == 0 then if col < 47 then some (Sys2Proof.Machine.coreAt die row (col + 1)) else none
    else if ch == 1 then if row < 39 then some (Sys2Proof.Machine.coreAt die (row + 1) col) else none
    else if ch == 2 then if 0 < col then some (Sys2Proof.Machine.coreAt die row (col - 1)) else none
    else if 0 < row then some (Sys2Proof.Machine.coreAt die (row - 1) col) else none

/-- The channel of a neighbour that names a core: the opposite one where that names it, else the first that does. -/
def State.backChannel (s : State) (core ch dst : Nat) : Nat :=
  if s.neighbour dst ((ch + 2) % 4) == some core then (ch + 2) % 4
  else ((List.range 4).find? fun c => s.neighbour dst c == some core).getD ((ch + 2) % 4)

/-- Sends the buffered elements of an outbound channel on: each takes one of the 16 places at the neighbour. -/
def State.sendElem (s : State) (core i : Nat) : State :=
  let q := s.q core i
  match q.buf, s.neighbour core q.ch with
  | w :: r, some dst =>
    if 16 ≤ rd (s.coreAt core).nbrOut q.ch 0 then s
    else
      let s := s.setQ core i { q with buf := r, moved := q.moved + 1, inflight := q.inflight + 1 }
      let s := s.modCore core fun k => { k with nbrOut := wr k.nbrOut q.ch (rd k.nbrOut q.ch 0 + 1) }
      (s.post (s.cycle + 2) .neighbourElementArrive { core := dst, n := s.backChannel core q.ch dst, v := w, die := core, octet := q.ch, id := i }).streamGo
        core i s.cycle
  | _, _ => s.streamCheck core i

/-- Takes the elements that wait on an inbound channel into the buffer of the register bound on it; each frees its place. -/
def State.takeElem (s : State) (core i : Nat) : State :=
  let q := s.q core i
  match rd (s.coreAt core).nbr q.ch [] with
  | [] => s.streamCheck core i
  | w :: r =>
    if q.closing || q.limit ≤ q.moved || 16 ≤ q.buf.length then s.streamCheck core i
    else
      let s := s.modCore core fun k => { k with nbr := wr k.nbr q.ch r }
      let s := match s.neighbour core q.ch with
        | some src =>
          let back := s.backChannel core q.ch src
          let s := s.modCore src fun k => { k with nbrOut := wr k.nbrOut back (rd k.nbrOut back 0 - 1) }
          (List.range 8).foldl (fun (s : State) j =>
            let p := s.q src j
            if p.bound && p.kind == 1 && p.outb && p.ch == back then s.streamGo src j s.cycle else s) s
        | none => s
      (s.setQ core i { q with buf := q.buf ++ [q.extend w.toNat], moved := q.moved + 1 }).streamGo core i s.cycle

/-- An element arrives on a channel of a core, 2 cycles after it was sent (R228). -/
def execNeighbourElementArrive (s : State) : Host.Outcome State Fault Refusal :=
  let core := s.arg.core
  let ch := s.arg.n
  let s := s.modCore core fun k => { k with nbr := wr k.nbr ch (rd k.nbr ch [] ++ [s.arg.v]) }
  let s := (s.modQ s.arg.die s.arg.id fun q => { q with inflight := q.inflight - 1 }).streamGo s.arg.die s.arg.id s.cycle
  .next ((List.range 8).foldl (fun s i =>
    let q := s.q core i
    if q.bound && q.kind == 1 && !q.outb && q.ch == ch then s.streamGo core i s.cycle else s) s)

/-! ## Slate rings (R228) -/

/-- Performs the next LDX or STX of a ring: one at a time, with the binding context's rights. -/
def State.ringElem (s : State) (core i : Nat) : State :=
  let q := s.q core i
  let start (s : State) (out : Bool) (w : Word) : State :=
    let (id, s) := s.newId
    let a := q.slotAddr q.moved
    s.route { id := id, run := q.run, who := q.who, kind := .ring core i out w, addr := a, issued := s.cycle, staff := q.staff }
  if q.inflight != 0 then s
  else if q.outb then
    match q.buf with
    | [] => s.streamCheck core i
    | w :: r => start (s.setQ core i { q with buf := r, inflight := 1 }) true w
  else if q.closing || q.limit ≤ q.moved then s.streamCheck core i
  else if 16 ≤ q.buf.length then s
  else start (s.setQ core i { q with inflight := 1 }) false 0

/-- A ring's operation is done. -/
def State.ringDone (s : State) (core i : Nat) (w : Word) : State :=
  let q := s.q core i
  let q := { q with inflight := 0, moved := q.moved + 1, buf := if q.outb then q.buf else q.buf ++ [q.extend w.toNat] }
  (s.setQ core i q).streamGo core i s.cycle

/-- One move of a stream's engine, by the kind of step: the next element (0), a ring's operation done (1), an element that
arrives in its register (2), a store acknowledged (3). -/
def execStreamElementMove (s : State) : Host.Outcome State Fault Refusal :=
  let core := s.arg.core
  let i := s.arg.n
  let q := s.q core i
  if !q.bound then .next s
  else
    match s.arg.id with
    | 1 => .next (s.ringDone core i s.arg.v)
    | 2 =>
      let q := { q with inflight := q.inflight - 1, buf := if q.closing then q.buf else q.buf ++ [s.arg.v] }
      .next ((s.setQ core i q).streamCheck core i)
    | 3 => .next ((s.setQ core i { q with inflight := q.inflight - 1 }).streamCheck core i)
    | _ =>
      if q.ending || s.cycle < q.start || (q.stalled.isSome && !(q.kind == 0 && q.outb)) then .next s
      else
        match q.kind, q.outb with
        | 0, true => .next (s.pushElem core i)
        | 0, false =>
          if q.closing || q.limit ≤ q.moved then .next (s.streamCheck core i)
          else if q.moved - q.done < 16 then .next (s.fetchElem core i)
          else .next s
        | 1, true => .next (s.sendElem core i)
        | 1, false => .next (s.takeElem core i)
        | _, _ => .next (s.ringElem core i)

/-! ## Claims and bindings (R231, R281) -/

/-- Whether the issuing context holds a stream's claim. -/
def State.claims (s : State) (r : Reg) : Bool := (s.stream s.who.core r).owner == some (s.ctx s.who).run

/-- The number of a stream register. -/
def qOf (r : Reg) : Nat := r.toNat - 56

/-- Starts the end of a binding (R231); a ring's parked operation of an inbound stream is withdrawn. -/
def State.closeStream (s : State) (core i : Nat) : State :=
  let q := s.q core i
  if q.closing then s
  else
    let mine (p : Parked) : Bool :=
      match p.acc.kind with
      | .ring k j out _ => k == core && j == i && !out
      | _ => false
    let withdrawn := s.parked.any mine
    let s := { s with parked := s.parked.filter fun p => !mine p }
    (s.setQ core i { q with closing := true, stalled := if q.outb then q.stalled else none,
                            inflight := if withdrawn then 0 else q.inflight }).streamGo core i s.cycle

/-- The wait of QFREE, STUNBIND and STBIND for the end of a binding: unbound is done, else the context waits for its count. -/
def State.unbinding (s : State) (r : Reg) (keep : Bool) (f : State → State) : State :=
  let core := s.who.core
  let i := qOf r
  let q := s.q core i
  if q.bound && !q.counted then (s.closeStream core i).block 0
  else f (s.setQ core i { owner := if keep then q.owner else none })

/-- QCLAIM (R231). -/
def execQclaim (d : Reg) (s : State) : Host.Outcome State Fault Refusal :=
  if !isStream d then .next (s.trapHere 0x05 0)
  else
    let run := (s.ctx s.who).run
    match (s.stream s.who.core d).owner with
    | some o => if o == run then .next s.finish else .next (s.block 0)
    | none => .next ((s.modQ s.who.core (qOf d) fun q => { q with owner := some run }).finish)

/-- QFREE (R231). -/
def execQfree (d : Reg) (s : State) : Host.Outcome State Fault Refusal :=
  if !isStream d then .next (s.trapHere 0x05 0)
  else if !s.claims d then .next (s.trapHere 0x0A 0)
  else .next (s.unbinding d false State.finish)

/-- STUNBIND (R281). -/
def execStunbind (d : Reg) (s : State) : Host.Outcome State Fault Refusal :=
  if !isStream d then .next (s.trapHere 0x05 0)
  else if !s.claims d then .next (s.trapHere 0x0A 0)
  else .next (s.unbinding d true State.finish)

/-- QCNT (R231): an unbound register traps with 0x0A, as any use of one does (R229). -/
def execQcnt (d : Reg) (a : Reg) (s : State) : Host.Outcome State Fault Refusal :=
  let u : Uses := { out := [d], codeOk := isStream a }
  match s.static u with
  | some k => .next (s.trapHere k 0)
  | none =>
    if !s.claims a || !(s.stream s.who.core a).bound then .next (s.trapHere 0x0A 0)
    else
      let k := s.coreAt s.who.core
      let q := s.stream s.who.core a
      let n := if q.outb then (if q.kind == 1 then 16 - rd k.nbrOut q.ch 0 else 16 - q.buf.length) else q.buf.length
      .next (s.compute u fun _ => BitVec.ofNat 64 (n + min q.leftOver (2 ^ 56 - 1) * 256))

/-- QSKIP (R231, R345): it pops what has arrived, and waits without an issue slot for the rest. -/
def execQskip (a : Reg) (b : Src) (s : State) : Host.Outcome State Fault Refusal :=
  let u : Uses := { b := some b, codeOk := isStream a }
  let core := s.who.core
  let x := s.ctx s.who
  match s.static u with
  | some k => .next (s.trapHere k 0)
  | none =>
    let q := s.stream core a
    if !s.claims a || !q.bound || q.outb then .next (s.trapHere 0x0A 0)
    else
      let go (s : State) (n : Nat) : State :=
        let q := s.stream core a
        let n := min n q.leftOver
        let k := min n q.buf.length
        let s := if k == 0 then s else (s.setQ core (qOf a) { q with buf := q.buf.drop k, done := q.done + k }).streamGo core (qOf a) s.cycle
        if k == n then (s.modCtx s.who fun x => { x with qskip := none }).finish
        else (s.modCtx s.who fun x => { x with qskip := some (n - k) }).block 1
      match x.qskip with
      | some n => .next (go s n)
      | none =>
        match s.peek u with
        | .stop t => .next t
        | .ok v => .next (go (s.commit u) v.b.toNat)

/-! ## STBIND (R227, R281, R346) -/

/-- The descriptor's fields of R227. -/
def streamOf (d : Nat → Nat) : Stream :=
  let st (w : Nat) : Word := (BitVec.ofNat 32 w).signExtend 64
  let slots := bits (d 6) 15 0
  { kind := bits (d 0) 63 62, outb := bitAt (d 0) 61, esz := bits (d 0) 60 59, sx := bitAt (d 0) 58, tsp := bitAt (d 0) 57,
    tt := bits (d 0) 56 55, ch := bits (d 0) 54 53, base := BitVec.ofNat 64 (d 1),
    ns := #v[bits (d 2) 15 0, bits (d 2) 31 16, bits (d 2) 47 32, bits (d 2) 63 48],
    sts := #v[st (bits (d 3) 31 0), st (bits (d 3) 63 32), st (bits (d 4) 31 0), st (bits (d 4) 63 32)],
    cw := BitVec.ofNat 64 (d 5), first := bits (d 6) 47 32, slots := if slots == 0 then 65536 else slots }

/-- Whether a descriptor is refused (R346). -/
def State.badStream (s : State) (core : Nat) (q : Stream) : Bool :=
  q.kind == 3 || (q.tsp && q.kind != 0) || (q.kind == 2 && q.esz != 3) || (q.kind == 1 && (s.neighbour core q.ch).isNone)

/-- The bytes that an affine stream's elements span. -/
def Stream.span (q : Stream) : Span :=
  let far (k : Nat) : Int := (((rd q.ns k 0 : Nat) : Int) - 1) * (rd q.sts k 0).toInt
  let lo := (List.range 4).foldl (fun a k => a + min 0 (far k)) 0
  let hi := (List.range 4).foldl (fun a k => a + max 0 (far k)) 0
  { addr := q.base + BitVec.ofInt 64 lo, len := (hi - lo).toNat + 2 ^ q.esz, write := q.outb }

/-- STBIND: its checks come first; then the old binding of its register ends (R281), and the descriptor is read as a plain access,
with the pc at the STBIND until the range is registered. -/
def execStbind (d : Reg) (a : Src) (s : State) : Host.Outcome State Fault Refusal :=
  let u : Uses := { a := some a, codeOk := isStream d }
  match s.static u with
  | some k => .next (s.trapHere k 0)
  | none =>
    if !s.claims d then .next (s.trapHere 0x0A 0)
    else
      .next (s.waiting u Ctx.quiet fun v s =>
        if v.a.toNat % 8 != 0 then s.trapHere 0x15 v.a
        else
          match s.ownFault v.a .load with
          | some k => s.trapHere k v.a
          | none => s.unbinding d true fun s =>
            let id := (s.commit u).seq
            let t := (s.commit u).startAccess (.bind (qOf d)) v.a false .none
            (t.endAt (t.ctx s.who).pc).modCtx s.who fun x => { x with wait := .reply id })

/-- What the descriptor's reply gives: the binding, a wait for a lock or a closed window, or the refusal of R346. -/
def State.bindArrive (s : State) (a : Access) (i : Nat) (v : VWord) : State :=
  let core := a.who.core
  let d (k : Nat) : Nat := lane v 64 k
  let q := streamOf d
  let again : State := s.post (s.cycle + 1) .memoryReply { acc := a, vec := v }
  let owner := (s.q core i).owner
  if s.badStream core q then s.postLate s.cycle .landingFaultReport { acc := a, cause := 0x0A }
  else
    let locks := q.kind == 0 && !q.tsp && q.limit != 0
    let sp := q.span
    if locks && (s.spanClosed core sp || s.lockConflict core sp || !s.lockRoom core [sp]) then again
    else
      let (id, s) := s.newId
      let q := { q with owner := owner, bound := true, who := a.who, run := a.run, staff := a.staff, bindId := id }
      let s := (s.modRun a.who a.run fun x => { (x.accDone a).doneAt a.id with engOut := x.engOut + 1 }).setQ core i q
      let s := if locks then s.addLocks core id [sp] else s
      let fault := if q.kind == 0 && !q.tsp then s.spanFault core a.staff sp
        else if q.kind == 2 && !inSlateSpace q.base then some 0x16
        else none
      match fault with
      | some k => (s.streamFail core i k q.base)
      | none => (s.streamGo core i s.cycle).streamCheck core i

/-! ## Mailboxes (R232) -/

/-- Whether a code names a mailbox. -/
def isMbox (r : Reg) : Bool := 48 ≤ r.toNat && r.toNat < 56

/-- MCLR (R232). -/
def execMclr (d : Reg) (s : State) : Host.Outcome State Fault Refusal :=
  if !isMbox d then .next (s.trapHere 0x05 0)
  else .next ((s.modCore s.who.core fun k => k.takeM (d.toNat - 48)).finish)

/-- MPOLL (R232): a full mailbox is read and emptied; an empty one gives 0. -/
def execMpoll (d : Reg) (a : Reg) (s : State) : Host.Outcome State Fault Refusal :=
  let u : Uses := { out := [d], codeOk := isMbox a }
  match s.peek u with
  | .stop t => .next t
  | .ok _ =>
    let i := a.toNat - 48
    let k := s.coreAt s.who.core
    if tb k.mFull i then .next (((s.modCore s.who.core fun k => k.takeM i).setReg d (rd k.m i 0)).finish)
    else .next ((s.setReg d 0).finish)

end Sys2Proof.Machine
end

