-- ==== Sys2Proof/Machine/Tile.lean ====
section
/-! DEFINITION. The command queue of the matrix unit, tile loads and stores, accumulator slots and drain programs
(R234 to R239, R245, R250 to R252, R261, R382). A tile store of a context's command lands as its accesses do (R238). -/

namespace Sys2Proof.Machine

/-! ## Shapes (R83, R84) -/

/-- The columns that a format's rows must be a multiple of (R83). -/
def colMult (f : Fmt) : Nat :=
  match f with
  | .e3m2 => 4
  | .e2m1 | .int4 => 2
  | .tn3 | .tn5 | .tn8 => 16
  | _ => 1

/-- A valid shape: its format, rows and columns, bytes of a row of elements and of scales, and the scale plane. -/
structure Shape where
  fmt : Fmt
  mx : Bool
  rows : Nat
  cols : Nat
  rb : Nat
  hb : Nat
  off : Nat
deriving DecidableEq, Repr, Inhabited

/-- The format of a code of R83; 12 to 15 are reserved. -/
def tileFmt (code : Nat) : Option Fmt := if 12 ≤ code then none else Fmt.ofCode code

/-- A sampled shape under the rules of R83 and R84. mx set beside a format other than codes 3 to 6 asks for en, as R84 says, and
means nothing else, as R83 says: no plane and no column rule (DEDUCED, assumption log 35). -/
def TShape.info (t : TShape) : Option Shape :=
  let h := t.shape.toNat
  (tileFmt (bits h 63 60)).bind fun f =>
    let set := bitAt h 59
    let mx := set && (f == .e4m3 || f == .e5m2 || f == .e3m2 || f == .e2m1)
    let rows := bits h 55 48 + 1
    let cols := bits h 47 40 + 1
    let rb := cols * f.width / 8
    let hb := if f.isTint then 2 * cols / 16 else if mx then cols / 32 else 0
    let off := bits t.scale.toNat 14 0
    let en := bitAt t.scale.toNat 63
    if cols % (if mx then 32 else colMult f) != 0 || 32768 < rows * rb || en != (f.isTint || set) || off % 2 != 0 then none
    else if 0 < hb && (off < rows * rb || 32768 < off + rows * hb) then none
    else some ⟨f, mx, rows, cols, rb, hb, off⟩

/-- The shape and scale registers of a tile, as an issue samples them. -/
def State.tshape (s : State) (core t : Nat) : TShape := ⟨rd (s.coreAt core).shape t 0, rd (s.coreAt core).scale t 0⟩

/-! ## Rows and pieces (R237, R238, R250) -/

/-- What a transfer moves: rows of `len` bytes. -/
structure Rows where
  n : Nat
  len : Nat
  base : Word
  pitch : Word
deriving DecidableEq, Repr, Inhabited

/-- The rows of a command that touches memory. -/
def Cmd.rows (c : Cmd) : Option Rows :=
  let plane (sc : Bool) (a p : Word) (sh : TShape) : Option Rows :=
    sh.info.map fun i => ⟨i.rows, if sc then i.hb else i.rb, a, p⟩
  match c with
  | .tld _ sc a p sh => plane sc a p sh
  | .tst _ sc a p sh => plane sc a p sh
  | .tldt _ a p sh => sh.info.map fun i => ⟨i.cols, i.rows * (i.fmt.width / 8), a, p⟩
  | .drainld _ a => some ⟨1, 128, a, 0⟩
  | .accld _ a p m n => some ⟨m, 8 * n, a, p⟩
  | .accst _ a p m n => some ⟨m, 8 * n, a, p⟩
  | _ => none

/-- Whether a command stores to memory. -/
def Cmd.stores (c : Cmd) : Bool :=
  match c with
  | .tst _ _ _ _ _ | .accst _ _ _ _ _ => true
  | _ => false

/-- The bytes of a transfer. -/
def Rows.total (r : Rows) : Nat := r.n * r.len

/-- The address of byte `pos` of a transfer. -/
def Rows.addr (r : Rows) (pos : Nat) : Word := r.base + BitVec.ofNat 64 (pos / r.len) * r.pitch + BitVec.ofNat 64 (pos % r.len)

/-- The length of the granule piece at `pos`. -/
def Rows.piece (r : Rows) (pos : Nat) : Nat := min (r.len - pos % r.len) (32 - (r.addr pos).toNat % 32)

/-- The tile byte that byte `pos` of a transfer moves. -/
def Cmd.tileOff (c : Cmd) (pos : Nat) : Nat :=
  match c with
  | .tld _ sc _ _ sh | .tst _ sc _ _ sh => (if sc then (sh.info.map (·.off)).getD 0 else 0) + pos
  | .tldt _ _ _ sh =>
    match sh.info with
    | some i =>
      let eb := i.fmt.width / 8
      let col := pos / (i.rows * eb)
      let o := pos % (i.rows * eb)
      o / eb * i.rb + col * eb + o % eb
    | none => pos
  | _ => pos

/-! ## Drain programs (R252) -/

def drainOp (w : Nat) : Nat := bits w 31 27

/-- The words of a program that a drain runs, with its first DEND. -/
def drainBody : List Nat → List Nat
  | [] => []
  | w :: r => if drainOp w == 0x15 then [w] else w :: drainBody r

/-- The words before DEND. -/
def drainLen (ws : List Nat) : Nat := (ws.filter fun w => drainOp w != 0x15).length

/-- Whether a program holds an operation. -/
def holds (ws : List Nat) (dop : Nat) : Bool := ws.any fun w => drainOp w == dop

/-- Whether a program is valid. -/
def drainValid (ws : List Nat) : Bool :=
  let b := drainBody ws
  b.all (fun w => (decodeDrain w).isSome) && [0x12, 0x13, 0x14].all fun k => (b.filter fun w => drainOp w == k).length ≤ 1

/-! ## The command queue (R234, R235, R245) -/

def Mxu.findCmd (m : Mxu) (id : Nat) : Option MxuCmd := m.cmds.find? (·.id == id)

/-- Changes a command of an octet. -/
def State.modCmd (s : State) (o id : Nat) (f : MxuCmd → MxuCmd) : State :=
  s.modMxu o fun m => { m with cmds := mapIf (·.id == id) f m.cmds }

/-- The MATX of a command. -/
def MxuCmd.matx (c : MxuCmd) : Option Matx :=
  match c.cmd with
  | .matx x => some x
  | _ => none

/-- A MATX of an octet. -/
def State.matx (s : State) (o id : Nat) : Option (MxuCmd × Matx) :=
  ((s.octet o).mxu.findCmd id).bind fun c => c.matx.map fun x => (c, x)

/-- Changes a MATX of an octet. -/
def State.modMatx (s : State) (o id : Nat) (f : Matx → Matx) : State :=
  s.modCmd o id fun c =>
    match c.cmd with
    | .matx x => { c with cmd := .matx (f x) }
    | _ => c

/-- Changes an accumulator slot. -/
def State.modSlot (s : State) (o i : Nat) (f : Slot → Slot) : State :=
  s.modMxu o fun m => { m with slots := wr m.slots i (f (rd m.slots i {})) }

/-- Lets an octet's queues go on in this cycle. -/
def State.kickTake (s : State) (o : Nat) : State := s.post s.cycle .mxuCommandTake { octet := o }

/-- The tile that a drain writes under tdst. -/
def Matx.tdst (x : Matx) : Option Nat := if bitAt x.ctl.toNat 20 then some (bits x.ctl.toNat 19 18) else none

/-- The tiles that a command has still to read (R235). -/
def MxuCmd.reads (c : MxuCmd) : List Nat :=
  match c.cmd with
  | .tst t _ _ _ _ => if c.cmd.rows.any fun r => r.total ≤ c.pos then [] else [t]
  | .tcopy _ ts => [ts]
  | .matx x =>
    if x.started || x.failed then []
    else [x.f.ta.toNat, x.f.tb.toNat] ++ if x.f.sparse == .dense then [] else [x.f.tm.toNat]
  | _ => []

/-- The tiles that a command has still to write (R235). -/
def MxuCmd.writes (c : MxuCmd) : List Nat :=
  match c.cmd with
  | .tld t _ _ _ _ | .tldt t _ _ _ | .tzero t | .tcopy t _ => [t]
  | .matx x => if x.failed then [] else x.tdst.toList
  | _ => []

/-- Whether two lists of tiles share one. -/
def meets (a b : List Nat) : Bool := a.any b.contains

/-- What the slots and programs say of a command's take (R245, R250, R251). -/
def State.unitReady (s : State) (o : Nat) (c : MxuCmd) : Bool :=
  let m := (s.octet o).mxu
  let slot (i : Nat) : SlotSt := (rd m.slots i {}).st
  let open' (i : Nat) : Bool :=
    match slot i with
    | .free => true
    | .kept k => k == c.who.core
    | .running _ => false
  match c.cmd with
  | .matx x => open' x.f.acc.toNat
  | .accld a _ _ _ _ => open' a
  | .accst a _ _ _ _ => open' a
  | .accrel a =>
    match slot a with
    | .running id => !(m.cmds.any fun d => d.id == id && d.seat == c.seat)
    | _ => true
  | .drainld n _ =>
    !(m.cmds.any fun d => d.taken && match d.cmd with
      | .matx x => x.f.drain.toNat == n && !x.failed
      | _ => false)
  | _ => true

/-- Whether the next command of a seat's queue can be taken. -/
def State.canTake (s : State) (o seat : Nat) : Option MxuCmd :=
  let l := (s.octet o).mxu.cmds.filter fun c => c.seat == seat
  (l.find? fun c => !c.taken).bind fun c =>
    let before := l.filter (·.taken)
    let r := before.flatMap (·.reads)
    let w := before.flatMap (·.writes)
    if !meets c.reads w && !meets c.writes w && !meets c.writes r && s.unitReady o c then some c else none

/-- Ends a command and lets the queues go on. -/
def State.dropCmd (s : State) (o id : Nat) : State :=
  (s.modMxu o fun m => { m with cmds := m.cmds.filter fun c => c.id != id }).kickTake o

/-! ## Slots as the commands of a core leave them (R241, R250) -/

/-- What the commands that a core has issued leave in a slot (R241, R250). -/
def State.setKept (s : State) (core acc : Nat) (k : Option (Nat × Nat)) : State :=
  s.modCore core fun c => { c with kept := wr c.kept acc k }

/-- What a command leaves in a slot, given what it finds there. -/
def MxuCmd.keeps (c : MxuCmd) (acc : Nat) (k : Option (Nat × Nat)) : Option (Nat × Nat) :=
  match c.cmd with
  | .accld a _ _ m n => if a == acc then some (m, n) else k
  | .accrel a => if a == acc then none else k
  | .matx x =>
    if x.f.acc.toNat != acc || x.failed then k
    else if !x.f.keep then none
    else
      match x.sa.info, x.sb.info with
      | some a, some b => some (a.rows, b.cols)
      | _, _ => none
  | _ => k

/-- What a core's slot holds once a command of it has been refused (R329): what stands in it, and what the core's other commands
will leave. -/
def State.resetKept (s : State) (o core acc : Nat) : State :=
  let m := (s.octet o).mxu
  let t := rd m.slots acc {}
  let now := if t.st == .kept core then some (t.m, t.n) else none
  s.setKept core acc ((m.cmds.filter fun c => c.who.core == core).foldl (fun k c => c.keeps acc k) now)

/-! ## Refusal of a MATX (R329) -/

/-- A MATX refused at take or start: no sums and no stores, its slot as it was, an ENGINE_ERR, and a completion with err. A pass
that its octet holds without use may go (R163). -/
def State.refuseMatx (s : State) (o : Nat) (c : MxuCmd) (x : Matx) (cause : Nat) : State :=
  let core := c.who.core
  let s := s.modSlot o x.f.acc.toNat fun t =>
    if t.st == .running c.id then { t with st := if x.wasKept then .kept core else .free } else t
  let s := (s.modMatx o c.id fun x => { x with failed := true, err := some (cause, 0) }).resetKept o core x.f.acc.toNat
  let s := (s.engineErr (dieOf core) c.who cause x.cw 0).post s.cycle .passRelease { octet := o }
  (s.kickTake o).carry (octetDie o) (s.farDie core x.cw) false false 16 (s.lat core x.cw) .matxCompletion
    { octet := o, id := c.id, count := { addr := x.cw, err := true, what := .matx o c.id, who := c.who, run := c.run } }

/-! ## Take (R234, R235, R239, R245, R251) -/

/-- The time from a command's take to its first piece (R238). -/
def State.tileLead (s : State) (o core : Nat) (a : Word) : Nat :=
  match s.form core a with
  | .window c _ _ => if octetOf c == o then 8 else s.lat core a
  | .handle p _ _ _ => if p == o then 8 else s.lat core a
  | _ => s.lat core a

/-- The bytes that an ACCST stores: one dword an element (R250); those of a slot that is spoiled or is not kept by the core
are free values (R384). -/
def State.accBytes (s : State) (o acc core m n : Nat) : List Byte :=
  let t := rd (s.octet o).mxu.slots acc {}
  let known := t.st == .kept core && !t.spoiled && t.m == m && t.n == n
  (List.range (m * n)).flatMap fun i => natBytes (if known then t.vals.getD i 0 else Config.spoiled (s.fresh + i)).toNat 8

/-- What follows a command's take. -/
def State.takeCmd (s : State) (o : Nat) (c : MxuCmd) : State :=
  let core := c.who.core
  let s := s.modCmd o c.id fun c => { c with taken := true }
  let go (s : State) (a : Word) : State := s.carry (octetDie o) (s.farDie core a) false false 80 (s.tileLead o core a) .tileTransferPiece { octet := o, id := c.id }
  match c.cmd with
  | .tld _ _ a _ _ | .tldt _ a _ _ | .tst _ _ a _ _ | .drainld _ a => go s a
  | .tzero _ | .tcopy _ _ => s.post (s.cycle + 512) .tileOpEnd { octet := o, id := c.id }
  | .accld acc a _ m n =>
    go (s.modSlot o acc fun t =>
      { t with st := .running c.id, m := m, n := n, vals := if t.st == .kept core then t.vals else [], spoiled := false }) a
  | .accst acc a _ m n =>
    let bs := s.accBytes o acc core m n
    go { s.modCmd o c.id fun c => { c with bytes := bs } with fresh := s.fresh + m * n } a
  | .accrel acc =>
    (s.modSlot o acc fun t => if t.st == .kept core then {} else t).dropCmd o c.id
  | .matx x =>
    let m := (s.octet o).mxu
    let p := rd m.progs x.f.drain.toNat {}
    let t := rd m.slots x.f.acc.toNat {}
    let body := drainBody p.words
    if !p.valid || (holds body 0x14 && bits x.ctl.toNat 23 21 == 7) then s.refuseMatx o c x 0x21
    else if t.spoiled then s.refuseMatx o c x 0x22
    else
      let kept := t.st == .kept core
      let s := s.modSlot o x.f.acc.toNat fun t => { t with st := .running c.id, vals := if kept then t.vals else [] }
      let s := s.modMatx o c.id fun x => { x with prog := body, wasKept := kept }
      let s := if x.f.cohort == .c1 then s else s.post (s.cycle + 2 ^ 20) .cohortTimeout { octet := o, id := c.id }
      s.post s.cycle .matxStart { octet := o, id := c.id }

/-- MXU_COMMAND_TAKE: the first seat whose next command can be taken; the others follow in the same cycle. -/
def execMxuCommandTake (s : State) : Host.Outcome State Fault Refusal :=
  let o := s.arg.octet
  match (List.range 8).findSome? fun seat => s.canTake o seat with
  | none => .next s
  | some c => .next ((s.kickTake o).takeCmd o c)

/-! ## Pieces (R237, R238) -/

/-- The access that a piece of a command is, as its report names it. -/
def MxuCmd.access (c : MxuCmd) (o : Nat) (a : Word) (n : Nat) (data : List Byte) : Access :=
  { id := c.id, run := c.run, who := c.who, kind := .tile o c.cmd.stores n data, addr := a, pc := c.pc, word := c.word,
    staff := c.staff }

/-- The slot of an ACCLD that ends, with the elements that have been read; the others keep their values, or are +0 (R250). -/
def accLoaded (old : List Aw40) (bs : List Byte) : Nat → List Aw40
  | 0 => []
  | k + 1 =>
    let v := if bs.length < 8 then old.headD 0 else aw40Load (BitVec.ofNat 40 (bytesNat (bs.take 5)))
    v :: accLoaded (old.drop 1) (bs.drop 8) k

/-- An ACCLD that ends leaves its slot kept by its core. -/
def State.endAccld (s : State) (o : Nat) (c : MxuCmd) : State :=
  match c.cmd with
  | .accld acc _ _ m n =>
    s.modSlot o acc fun t => { t with st := .kept c.who.core, vals := accLoaded t.vals c.bytes (m * n), spoiled := false }
  | _ => s

/-- A piece that faults ends its command; what has been performed stays (R329). A command that meets poison may be issued again
(R369). -/
def State.failPiece (s : State) (o : Nat) (c : MxuCmd) (a : Access) (cause : Nat) : State :=
  let s := if cause == 0x17 then s.modMxu o fun m => { m with lost := c :: m.lost.filter fun d => d.run != c.run } else s
  ((s.endAccld o c).dropCmd o c.id).refuse a cause

/-- The bytes that a store's piece takes from its tile or from what its take read. -/
def State.pieceBytes (s : State) (c : MxuCmd) (n : Nat) : List Byte :=
  match c.cmd with
  | .tst t _ _ _ _ => memReadL s.mem (tileKey c.who.core t (c.cmd.tileOff c.pos)) n
  | _ => (c.bytes.drop c.pos).take n

/-- Whether a store's piece reads a poisoned tile granule (R382). -/
def State.pieceBad (s : State) (c : MxuCmd) (n : Nat) : Bool :=
  match c.cmd with
  | .tst t _ _ _ _ => s.isPoisoned (tileKey c.who.core t (c.cmd.tileOff c.pos)) n
  | _ => false

/-- The errors that the read of a store's piece meets in its tile (R382). -/
def State.meetTile (s : State) (c : MxuCmd) (n : Nat) : State :=
  match c.cmd with
  | .tst t _ _ _ _ => (s.meetErrors (tileKey c.who.core t (c.cmd.tileOff c.pos)) n).1
  | _ => s

/-- Puts the bytes of a load's piece where they go. -/
def State.putPiece (s : State) (o : Nat) (c : MxuCmd) (bs : List Byte) : State :=
  match c.cmd with
  | .tld t _ _ _ _ => s.putL (tileKey c.who.core t (c.cmd.tileOff c.pos)) bs
  | .tldt t _ _ _ =>
    (bs.foldl (fun (s, i) b => (s.putL (tileKey c.who.core t (c.cmd.tileOff (c.pos + i))) [b], i + 1)) (s, 0)).1
  | _ => s.modCmd o c.id fun c => { c with bytes := c.bytes ++ bs }

/-- The next piece of a transfer, or its end: a load ends with its last byte, a store when its last piece is acknowledged. -/
def State.nextTile (s : State) (o : Nat) (c : MxuCmd) (r : Rows) (n : Nat) : State :=
  let pos := c.pos + n
  let s := s.modCmd o c.id fun c => { c with pos := pos }
  let s := if c.cmd.stores then s.kickTake o else s
  if r.total ≤ pos then
    if c.cmd.stores then
      s.carry (s.farDie c.who.core (r.addr c.pos)) (octetDie o) false false 16
        (s.lat c.who.core (r.addr c.pos) - s.oneWay c.who.core (r.addr c.pos)) .tileOpEnd { octet := o, id := c.id }
    else s.post s.cycle .tileOpEnd { octet := o, id := c.id }
  else
    let a := r.addr c.pos
    let b := r.addr pos
    let now := match c.cmd with
      | .drainld _ _ => true
      | _ => a.toNat / 64 == b.toNat / 64 && pos % r.len != 0
    s.post (if now then s.cycle else s.cycle + 1) .tileTransferPiece { octet := o, id := c.id }

/-- A piece at its place. -/
def State.performPiece (s : State) (o : Nat) (c : MxuCmd) (r : Rows) (a : Access) (k n : Nat) : State :=
  if c.cmd.stores then
    if !c.staff && !(s.watchHits k n).isEmpty then s.failPiece o c a 0x3F
    else
      let s := s.meetTile c n
      let bad := s.pieceBad c n
      let s := s.storeL k (s.pieceBytes c n)
      if bad then ((granulesOf k n).foldl State.addPoison s).failPiece o c a 0x17 else s.nextTile o c r n
  else
    let s := (s.meetErrors k n).1
    if s.isPoisoned k n then s.failPiece o c a 0x17
    else (s.putPiece o c (memReadL s.mem k n)).nextTile o c r n

/-- A piece whose page is not in the translation cache: a walk, then the piece again, or the piece is held and its context
drops (R91, R327). `n` = 1 says that the walk is over. -/
def State.missPiece (s : State) (o : Nat) (a : Access) (off : Nat) : State :=
  let die := dieOf a.who.core
  let part := s.partOf a.who.core
  match s.tlbFind die part off with
  | some _ => s.holdMiss a
  | none =>
    let (l, n) := s.walk part off
    if s.arg.n == 1 then
      match l with
      | some l => (s.tlbFill die part l).post s.cycle .tileTransferPiece { octet := o, id := a.id }
      | none => s.holdMiss a
    else s.post (s.cycle + 110 * n) .tileTransferPiece { octet := o, id := a.id, n := 1 }

/-- TILE_TRANSFER_PIECE (R237, R238): one granule piece. Another node's reply comes with `n` = 2. -/
def execTileTransferPiece (s : State) : Host.Outcome State Fault Refusal :=
  let o := s.arg.octet
  match (s.octet o).mxu.findCmd s.arg.id with
  | none => .next s
  | some c =>
    match c.cmd.rows with
    | none => .next s
    | some r =>
      let addr := r.addr c.pos
      let n := r.piece c.pos
      let a := c.access o addr n (if c.cmd.stores then s.pieceBytes c n else [])
      let need : Need := if c.cmd.stores then .store else .load
      match s.form c.who.core addr with
      | .remote _ =>
        if s.arg.n == 2 then
          if s.arg.cause != 0 then .next (s.failPiece o c a s.arg.cause)
          else if c.cmd.stores then .next (s.nextTile o c r n)
          else .next ((s.putPiece o c (natBytes s.arg.vec.toNat n)).nextTile o c r n)
        else .next (s.postIn 4 .seatRequest { acc := a, n := 1, die := dieOf c.who.core })
      | f =>
        if s.arg.slot then .next (s.performPiece o c r a s.arg.acc.key n)
        else if s.memLocked c.who.core a.kind addr then .next (s.failPiece o c a 0x13)
        else
          match s.land c.who.core c.staff true addr n need (b2n c.cmd.stores) with
          | .go k t => .next (t.inTurn .tileTransferPiece [k, k + n - 1] k fun t => t.performPiece o c r a k n)
          | .wait _ => .next (s.post (s.cycle + 1) .tileTransferPiece s.arg)
          | .miss =>
            match f with
            | .mem off => .next (s.missPiece o a off)
            | _ => .next s
          | .bad k => .next (s.failPiece o c a k)

/-! ## Ends (R238, R239, R250, R251, R382) -/

/-- A tile register set to zero. -/
def State.zeroTile (s : State) (core t : Nat) : State :=
  let lo := tileKey core t 0
  { s with mem := s.mem.filter (fun (p : Host.Cell) => !(lo ≤ p.1 && p.1 < lo + 32768)) }.markFull lo 32768

/-- A tile register copied into another, with its poisoned granules. -/
def State.copyTile (s : State) (core d t : Nat) : State :=
  if d == t then s
  else
    let s := (s.meetErrors (tileKey core t 0) 32768).1
    let s' := s.putL (tileKey core d 0) (memReadL s.mem (tileKey core t 0) 32768)
    (List.range 1024).foldl (fun s' g =>
      if memNat (tileKey core t 0 / 32 + g) s.poison then s'.addPoison (tileKey core d 0 / 32 + g) else s') s'

/-- The words of a drain program from its bytes. -/
def drainWords (bs : List Byte) : List Nat := (List.range 32).map fun i => bytesNat ((bs.drop (4 * i)).take 4)

/-- TILE_OP_END: what a command leaves, and the end of its access. -/
def execTileOpEnd (s : State) : Host.Outcome State Fault Refusal :=
  let o := s.arg.octet
  match (s.octet o).mxu.findCmd s.arg.id with
  | none => .next s
  | some c =>
    let core := c.who.core
    let ended (s : State) : State := (s.dropCmd o c.id).accEnd (c.access o 0 0 [])
    match c.cmd with
    | .tzero t => .next ((s.zeroTile core t).dropCmd o c.id)
    | .tcopy d t => .next ((s.copyTile core d t).dropCmd o c.id)
    | .drainld n _ =>
      let ws := drainWords c.bytes
      .next (ended (s.modMxu o fun m =>
        { m with progs := wr m.progs n (if drainValid ws then { valid := true, words := ws } else {}) }))
    | .tld t _ _ _ _ =>
      let n := (c.cmd.rows.map (·.total)).getD 0
      .next (ended (s.markFull (tileKey core t (c.cmd.tileOff 0)) n))
    | _ => .next (ended (s.endAccld o c))

/-! ## Issue (R234, R236 to R239, R250, R251, R261) -/

/-- A command's issue: it waits while its core's queue is full, is checked, and takes an entry. `plain` is the access that it
leaves outstanding (R238). -/
def State.mxuIssue (s : State) (u : Uses) (plain : Plain) (ok : Ctx → Bool)
    (f : Vals → State → Except (Nat × Word) (Cmd × State)) : State :=
  s.waiting u ok fun v s =>
    let core := s.who.core
    let o := octetOf core
    if 4 ≤ ((s.octet o).mxu.cmds.filter fun c => c.seat == seatOf core && !c.taken).length then s.block 0
    else
      match f v s with
      | .error (k, a) => s.trapHere k a
      | .ok (cmd, t) =>
        let (i, t) := (t.commit u).newId
        let c : MxuCmd :=
          { id := i, who := s.who, run := (s.ctx s.who).run, staff := s.priv s.who == 2, seat := seatOf core,
            pc := (s.ctx s.who).pc, word := s.word, cmd := cmd }
        let t := t.modMxu o fun m => { m with cmds := m.cmds ++ [c] }
        let t := if plain == .none then t else t.modCtx s.who fun x => { x with plain := plain }
        (t.kickTake o).finish

/-- The checks of an address at issue (R238, R342), then one of its own; the record of a broken shape has address 0 (R325). -/
def State.tileAddr (s : State) (a : Word) (n : Need) (bad : Option Nat) (c : Cmd) : Except (Nat × Word) (Cmd × State) :=
  match s.ownFault a n with
  | some k => .error (k, a)
  | none =>
    match bad with
    | some k => .error (k, if k == 0x20 then 0 else a)
    | none => .ok (c, s)

/-- The cause of a broken shape, or of .sc without a scale plane. -/
def shapeFault (sh : TShape) (sc : Bool) : Option Nat :=
  match sh.info with
  | none => some 0x20
  | some i => if sc && i.hb == 0 then some 0x20 else none

/-- TLD (R237). -/
def execTld (f : TileF) (s : State) : Host.Outcome State Fault Refusal :=
  .next (s.mxuIssue { a := some f.a, b := some f.b } .load Ctx.quiet fun v s =>
    let sh := s.tshape s.who.core f.t.toNat
    s.tileAddr v.a .load (shapeFault sh f.sc) (.tld f.t.toNat f.sc v.a v.b sh))

/-- TLDT (R237). -/
def execTldt (t : BitVec 2) (a b : Src) (s : State) : Host.Outcome State Fault Refusal :=
  .next (s.mxuIssue { a := some a, b := some b } .load Ctx.quiet fun v s =>
    let sh := s.tshape s.who.core t.toNat
    let bad := match sh.info with
      | some i => if (i.fmt.width == 8 || i.fmt.width == 16 || i.fmt.width == 32) && !i.mx && !i.fmt.isTint then none else some 0x20
      | none => some 0x20
    s.tileAddr v.a .load bad (.tldt t.toNat v.a v.b sh))

/-- TST (R237). -/
def execTst (f : TileF) (s : State) : Host.Outcome State Fault Refusal :=
  .next (s.mxuIssue { a := some f.a, b := some f.b } .store Ctx.quiet fun v s =>
    let sh := s.tshape s.who.core f.t.toNat
    s.tileAddr v.a .store (shapeFault sh f.sc) (.tst f.t.toNat f.sc v.a v.b sh))

/-- TZERO (R239). -/
def execTzero (t : BitVec 2) (s : State) : Host.Outcome State Fault Refusal :=
  .next (s.mxuIssue {} .none (fun _ => true) fun _ s => .ok (.tzero t.toNat, s))

/-- TCOPY (R239). -/
def execTcopy (td ts : BitVec 2) (s : State) : Host.Outcome State Fault Refusal :=
  .next (s.mxuIssue {} .none (fun _ => true) fun _ s => .ok (.tcopy td.toNat ts.toNat, s))

/-- DRAINLD (R251). -/
def execDrainld (n : BitVec 6) (a : Src) (s : State) : Host.Outcome State Fault Refusal :=
  .next (s.mxuIssue { a := some a } .load Ctx.quiet fun v s =>
    s.tileAddr v.a .load (if v.a.toNat % 4 != 0 then some 0x15 else none) (.drainld n.toNat v.a))

/-- ACCLD (R250). -/
def execAccld (f : AccF) (s : State) : Host.Outcome State Fault Refusal :=
  .next (s.mxuIssue { a := some f.a, b := some f.b } .load Ctx.quiet fun v s =>
    let m := f.m.toNat + 1
    let n := f.n.toNat + 1
    (s.tileAddr v.a .load none (.accld f.acc.toNat v.a v.b m n)).map fun p =>
      (p.1, p.2.setKept s.who.core f.acc.toNat (some (m, n))))

/-- ACCST (R250). -/
def execAccst (f : AccF) (s : State) : Host.Outcome State Fault Refusal :=
  .next (s.mxuIssue { a := some f.a, b := some f.b } .store Ctx.quiet fun v s =>
    let m := f.m.toNat + 1
    let n := f.n.toNat + 1
    let bad := if rd (s.coreAt s.who.core).kept f.acc.toNat none == some (m, n) then none else some 0x20
    s.tileAddr v.a .store bad (.accst f.acc.toNat v.a v.b m n))

/-- ACCREL (R250). -/
def execAccrel (acc : BitVec 2) (s : State) : Host.Outcome State Fault Refusal :=
  .next (s.mxuIssue {} .none (fun _ => true) fun _ s =>
    if (rd (s.coreAt s.who.core).kept acc.toNat none).isNone then .error (0x20, 0)
    else .ok (.accrel acc.toNat, s.setKept s.who.core acc.toNat none))

end Sys2Proof.Machine
end

