-- ==== Sys2Proof/Machine/Mxu.lean ====
section
/-! DEFINITION. MATX: its issue, passes, start, cohorts, the array and the sums, and its completion (R126 to R128, R163, R240
to R249, R258 to R261, R329, R382 to R385). -/

namespace Sys2Proof.Machine

/-! ## Operands (R117, R121 to R123, R243) -/

/-- The elements of one stored row, each with its scale. -/
def rowVals (i : Shape) (row sc : List Byte) : List Num :=
  let v := bytesNat row
  (List.range i.cols).map fun j =>
    let e := v / 2 ^ (i.fmt.width * j) % 2 ^ i.fmt.width
    if i.fmt.isTint then tintValue i.fmt (bytesNat ((sc.drop (2 * (j / 16))).take 2)) e (j % 16)
    else
      let x := fmtValue i.fmt e
      if i.mx then
        let k := (sc.getD (j / 32) 0).toNat
        if k == 255 then .nan else x.mul (.fin false 1 ((k : Int) - 127) 1)
      else x

/-- The rows of a tile from its element plane and its scale plane. -/
def tileVals (i : Shape) : Nat → List Byte → List Byte → List (List Num)
  | 0, _, _ => []
  | n + 1, es, sc => rowVals i (es.take i.rb) (sc.take i.hb) :: tileVals i n (es.drop i.rb) (sc.drop i.hb)

/-- The planes of a tile register that a shape names: elements, then scales. -/
def State.planes (s : State) (core t : Nat) (i : Shape) : List Byte :=
  memReadL s.mem (tileKey core t 0) (i.rows * i.rb) ++ memReadL s.mem (tileKey core t i.off) (i.rows * i.hb)

/-- The errors that the read of a tile register's planes meets (R382). -/
def State.meetPlanes (s : State) (core t : Nat) (i : Shape) : State :=
  ((s.meetErrors (tileKey core t 0) (i.rows * i.rb)).1.meetErrors (tileKey core t i.off) (i.rows * i.hb)).1

/-- Whether a plane of a tile register holds a poisoned granule (R382). -/
def State.planesBad (s : State) (core t : Nat) (i : Shape) : Bool :=
  s.isPoisoned (tileKey core t 0) (i.rows * i.rb) || (0 < i.hb && s.isPoisoned (tileKey core t i.off) (i.rows * i.hb))

/-- The rows of sampled planes. -/
def planeVals (t : TShape) (bs : List Byte) : List (List Num) :=
  match t.info with
  | some i => tileVals i i.rows bs (bs.drop (i.rows * i.rb))
  | none => []

/-- Stored elements of A to each element of K: 1, 2 or 4. -/
def sparseFactor : Sparse → Nat
  | .dense => 1 | .s816 => 2 | .s416 => 4

/-- The elements of a sparse row that stand at each k (R243). -/
def spread (sp : Sparse) (row : List Num) (tm : List Nat) (kdim : Nat) : List (List Num) :=
  match sp with
  | .dense => row.map fun x => [x]
  | _ =>
    let q := 16 / sparseFactor sp
    let placed := (row.zip tm).mapIdx fun j p => (16 * (j / q) + p.2, p.1)
    (List.range kdim).map fun k => placed.filterMap fun p => if p.1 == k then some p.2 else none

/-- The metadata values of tm: unsigned INT4, by row. -/
def metaRows (t : TShape) (bs : List Byte) : List (List Nat) :=
  match t.info with
  | some i =>
    (List.range i.rows).map fun r =>
      let v := bytesNat ((bs.drop (r * i.rb)).take i.rb)
      (List.range i.cols).map fun j => v / 16 ^ j % 16
  | none => []

/-! ## The sums (R126 to R128, R244) -/

/-- The products of A's elements at one k with B's; an omitted element is an exact +0 product. -/
def prods (a : List Num) (b : Num) : List Num := if a.isEmpty then [Num.zero] else a.map fun x => x.mul b

/-- An exact sum. -/
def sumAll : List Num → Num
  | [] => Num.zero
  | x :: r => r.foldl (fun a b => a.add b) x

/-- The loop of R126 over k-groups of `g`. -/
def sumLoop (g : Nat) : Nat → Aw40 → List (List Num) → List Num → Aw40
  | 0, acc, _, _ => acc
  | f + 1, acc, as, bs =>
    if as.isEmpty || bs.isEmpty then acc
    else
      let s := sumAll (((as.take g).zip (bs.take g)).flatMap fun p => prods p.1 p.2)
      sumLoop g f (roundAW40 ((aw40Val acc).add s)) (as.drop g) (bs.drop g)

/-- The group size (R127). -/
def groupSize (a b : Fmt) : Nat :=
  let wide (f : Fmt) : Bool := f == .fp32 || f == .fp16 || f == .bf16
  let mid (f : Fmt) : Bool := f == .e4m3 || f == .e5m2 || f == .e3m2 || f == .int8 || f == .tn5 || f == .tn8
  if wide a || wide b then 1 else if mid a || mid b then 2 else 4

/-- The pairs that MATX accepts (R242). -/
def pairOk (a b : Fmt) (sp : Sparse) : Bool :=
  let int (f : Fmt) : Bool := f == .int8 || f == .int4
  if a == .fp32 || b == .fp32 then a == b && sp == .dense else int a == int b

/-- The formats of a MATX's operands, and its K. -/
def Matx.dims (x : Matx) : Option (Fmt × Fmt × Nat) :=
  match x.ia.info, x.ib.info with
  | some a, some b => some (a.fmt, b.fmt, b.rows)
  | _, _ => none

/-- The cycles of one output block (R244). -/
def Matx.blockTime (x : Matx) : Nat :=
  match x.dims with
  | some (a, b, k) =>
    let kc := if x.sparse == .dense then k else k / 2
    let g := groupSize a b
    (kc + g - 1) / g * (if a == .fp32 then 4 else 1)
  | none => 0

/-- The output blocks (R244). -/
def Matx.blockCount (x : Matx) : Nat := (x.m + 63) / 64 * ((x.n + 47) / 48)

/-- The slot's values after a block: the block's elements run the loop from what they held. -/
def Matx.runBlock (x : Matx) (vals : List Aw40) (blk : Nat) : List Aw40 :=
  match x.dims with
  | none => vals
  | some (fa, fb, kdim) =>
    let cb := (x.n + 47) / 48
    let r0 := blk / cb * 64
    let c0 := blk % cb * 48
    let tm := metaRows x.im x.opM
    let rows := ((planeVals x.ia x.opA).mapIdx fun i row => (i, row)).filterMap fun p =>
      if r0 ≤ p.1 && p.1 < r0 + 64 then some (spread x.sparse p.2 (tm.getD p.1 []) kdim) else none
    let brows := planeVals x.ib x.opB
    let cols := (List.range (min 48 (x.n - c0))).map fun j => brows.map fun r => r.getD (c0 + j) Num.zero
    let g := groupSize fa fb
    let old := if vals.isEmpty then List.replicate (x.m * x.n) 0 else vals
    old.mapIdx fun idx v =>
      let i := idx / x.n
      let n := idx % x.n
      if r0 ≤ i && i < r0 + 64 && c0 ≤ n && n < c0 + 48 then
        sumLoop g (kdim + 1) v (rows.getD (i - r0) []) (cols.getD (n - c0) [])
      else v

/-! ## Passes (R163) -/

/-- Whether an octet has a taken MATX that has not started. -/
def Mxu.wantsPass (m : Mxu) : Bool := m.cmds.any fun c => c.taken && c.matx.any fun x => !x.started && !x.failed

/-- Whether a MATX of an octet still computes sums. -/
def Mxu.summing (m : Mxu) : Bool := m.cmds.any fun c => c.matx.any fun x => x.started && !x.sumsDone

/-- Where a free pass of a die's ring stands: passes are listed by the octet they stood at in cycle 0. -/
def State.passAt (s : State) (p : Nat) : Nat := (p + s.cycle) % 240

/-- The ring's listing of a pass that stands at an octet of its die now. -/
def State.passFrom (s : State) (i : Nat) : Nat := (i + 240 - s.cycle % 240) % 240

/-- An octet waits for the next free pass that reaches it; one that stands at it now has moved on before it can be taken. -/
def State.askPass (s : State) (o : Nat) : State :=
  let gaps := (s.die (octetDie o)).ring.map fun p => (o % 240 + 239 - s.passAt p) % 240 + 1
  match gaps with
  | [] => s
  | g :: r => s.post (s.cycle + r.foldl min g) .passArrive { octet := o }

/-- Lets the waiting octets of a die look at its ring. -/
def State.pollRing (s : State) (die : Nat) : State :=
  s.octets.foldl (fun s p => if octetDie p.1 == die && p.2.pass.isNone && p.2.mxu.wantsPass then s.askPass p.1 else s) s

/-- Lets the MATX of an octet that wait for a start try again. -/
def State.tryStarts (s : State) (o : Nat) : State :=
  (s.octet o).mxu.cmds.foldl (fun s c =>
    if c.taken && c.matx.any (fun x => !x.started && !x.failed) then s.post s.cycle .matxStart { octet := o, id := c.id } else s) s

/-- PASS_ARRIVE: a free pass that reaches an octet with a waiting MATX is taken; with a count of 0 every MATX waits (R164, R386). -/
def execPassArrive (s : State) : Host.Outcome State Fault Refusal :=
  let o := s.arg.octet
  let x := s.octet o
  let die := octetDie o
  if x.pass.isSome || !x.mxu.wantsPass || (s.die die).passCount == 0 then .next s
  else
    match pickFirst (fun p => s.passAt p == o % 240) (s.die die).ring with
    | none => .next (s.askPass o)
    | some (_, r) =>
      let s := (s.modDie die fun d => { d with ring := r }).modOctet o fun x => { x with pass := some s.cycle }
      .next ((s.tryStarts o).post (s.cycle + 4096) .passRelease { octet := o })

/-- PASS_RELEASE: the pass goes back to the ring once no MATX that started under it computes sums and none waits, or it has
been held for 4,096 cycles. -/
def execPassRelease (s : State) : Host.Outcome State Fault Refusal :=
  let o := s.arg.octet
  let x := s.octet o
  let die := octetDie o
  match x.pass with
  | none => .next s
  | some t =>
    if x.mxu.summing || (x.mxu.wantsPass && s.cycle < t + 4096) then .next s
    else
      let s := (s.modOctet o fun x => { x with pass := none }).modDie die fun d => { d with ring := d.ring ++ [s.passFrom (o % 240)] }
      .next (s.pollRing die)

/-- Whether a MATX may start under an octet's pass now (R163, R164). -/
def State.mayStart (s : State) (o : Nat) : Bool :=
  (s.die (octetDie o)).passCount != 0 && (s.octet o).pass.any fun t => s.cycle < t + 4096

/-! ## Start (R246, R248, R249, R382) -/

/-- The octet rows and columns of a cohort (R248). -/
def cohortDims : Cohort → Nat × Nat
  | .c1 => (1, 1) | .c2 => (1, 2) | .c4 => (2, 2) | .c8 => (2, 4) | .c16 => (4, 4)

/-- Starts a MATX with its operands: A, tm and sparsity from one core's MATX, B from another's (R248). -/
def State.startMatx (s : State) (o : Nat) (c : MxuCmd) (ca : Nat) (xa : Matx) (cb : Nat) (xb : Matx) : State :=
  match xa.sa.info, xb.sb.info with
  | some ia, some ib =>
    let im := xa.sm.info.getD ia
    let sparse := xa.f.sparse
    let s := (s.meetPlanes ca xa.f.ta.toNat ia).meetPlanes cb xb.f.tb.toNat ib
    let s := if sparse == .dense then s else s.meetPlanes ca xa.f.tm.toNat im
    let bad := s.planesBad ca xa.f.ta.toNat ia || s.planesBad cb xb.f.tb.toNat ib ||
      (sparse != .dense && s.planesBad ca xa.f.tm.toNat im)
    match c.matx with
    | none => s
    | some x =>
      if bad then s.refuseMatx o c x 0x17
      else
        let opM := if sparse == .dense then [] else s.planes ca xa.f.tm.toNat im
        let s := s.modMatx o c.id fun y =>
          { y with started := true, ia := xa.sa, ib := xb.sb, im := xa.sm, sparse := sparse,
                   opA := s.planes ca xa.f.ta.toNat ia, opB := s.planes cb xb.f.tb.toNat ib, opM := opM, m := ia.rows,
                   n := ib.cols }
        let s := s.modSlot o x.f.acc.toNat fun t => { t with m := ia.rows, n := ib.cols }
        s.kickTake o
  | _, _ => s

/-- MATX_START (R246): a taken MATX asks for a pass, and, where its octet holds one, for the array, with whose grant it starts; one
of a cohort looks at its members. -/
def execMatxStart (s : State) : Host.Outcome State Fault Refusal :=
  let o := s.arg.octet
  match s.matx o s.arg.id with
  | none => .next s
  | some (c, x) =>
    if !c.taken || x.started || x.failed then .next s
    else
      let s := if (s.octet o).pass.isNone then s.askPass o else s
      if x.f.cohort != .c1 then .next (s.post s.cycle .cohortStart { octet := o, id := c.id })
      else if s.mayStart o then .next (s.post s.cycle .arrayGrant { octet := o })
      else .next s

/-- The octet of a member of a cohort (R248). -/
def memberOctet (t : LaunchTag) (i j : Nat) : Nat := octetOf (coreAtDev (t.row + 2 * i) (t.col + 4 * j))

/-- The MATX with which a member takes part: the first of its core that is taken and has not started. -/
def State.memberMatx (s : State) (x : Matx) (seat i j : Nat) : Option (Nat × MxuCmd × Matx) :=
  x.launch.bind fun t =>
    let o := memberOctet t i j
    ((s.octet o).mxu.cmds.find? fun c =>
      c.taken && c.seat == seat && c.matx.any fun y => y.f.cohort == x.f.cohort && !y.started && !y.failed && y.launch == x.launch).bind
      fun c => c.matx.map fun y => (o, c, y)

/-- The members of a cohort, row by row; `none` where one is missing. -/
def State.members (s : State) (x : Matx) (seat : Nat) : List (Nat × Nat × Option (Nat × MxuCmd × Matx)) :=
  let (r, c) := cohortDims x.f.cohort
  (List.range (r * c)).map fun k => (k / c, k % c, s.memberMatx x seat (k / c) (k % c))

/-- Refuses the members of a cohort that have been taken (R385). -/
def State.refuseCohort (s : State) (x : Matx) (seat cause : Nat) : State :=
  (s.members x seat).foldl (fun s m =>
    match m.2.2 with
    | some (o, c, y) => s.refuseMatx o c y cause
    | none => s) s

/-- Whether an ISOL fences an octet of a cohort (R385). -/
def State.cohortFenced (s : State) (x : Matx) (seat : Nat) : Bool :=
  let (r, k) := cohortDims x.f.cohort
  x.launch.any fun t => (List.range (r * k)).any fun i =>
    s.fences.any fun f => f.has (coreOfSeat (memberOctet t (i / k) (i % k)) seat)

/-- Refuses, at once, the waiting members of the cohorts that a fence meets (R385). -/
def State.fenceCohorts (s : State) : State :=
  s.octets.foldl (fun s p =>
    p.2.mxu.cmds.foldl (fun s c =>
      match s.matx p.1 c.id with
      | some (d, x) =>
        if d.taken && x.f.cohort != .c1 && !x.started && !x.failed && s.cohortFenced x d.seat then s.refuseCohort x d.seat 0x23 else s
      | none => s) s) s

/-- COHORT_START (R248, R385): a fenced member refuses those that are taken; once all are taken, operands whose K differ refuse every
member, as do operands that no MATX accepts; and the members start in one cycle, once every octet holds a pass (DEDUCED, assumption
log 36). -/
def execCohortStart (s : State) : Host.Outcome State Fault Refusal :=
  match s.matx s.arg.octet s.arg.id with
  | none => .next s
  | some (c, x) =>
    if x.started || x.failed then .next s
    else
      let ms := s.members x c.seat
      if s.cohortFenced x c.seat then .next (s.refuseCohort x c.seat 0x23)
      else if ms.any fun m => m.2.2.isNone then .next s
      else
        let find (i j : Nat) : Option (MxuCmd × Matx) :=
          (ms.find? fun m => m.1 == i && m.2.1 == j).bind fun m => m.2.2.map fun q => q.2
        let pairs := ms.filterMap fun m =>
          match m.2.2, find m.1 0, find 0 m.2.1 with
          | some (o, d, y), some a, some b => some (o, d, y, a, b)
          | _, _, _ => none
        let bad := pairs.any fun (o, _, y, a, b) =>
          match a.2.sa.info, b.2.sb.info with
          | some ia, some ib =>
            ia.cols * sparseFactor a.2.f.sparse != ib.rows || !pairOk ia.fmt ib.fmt a.2.f.sparse ||
              (y.wasKept && (let t := rd (s.octet o).mxu.slots y.f.acc.toNat {}; t.m != ia.rows || t.n != ib.cols))
          | _, _ => true
        if bad then .next (s.refuseCohort x c.seat 0x20)
        else if pairs.any fun p => !s.mayStart p.1 then .next s
        else
          .next (pairs.foldl (fun s p =>
            (s.startMatx p.1 p.2.1 p.2.2.2.1.1.who.core p.2.2.2.1.2 p.2.2.2.2.1.who.core p.2.2.2.2.2).post s.cycle .arrayGrant
              { octet := p.1 }) s)

/-- COHORT_TIMEOUT (R385): 2^20 cycles after the first member's take, those taken are refused where a member is missing. -/
def execCohortTimeout (s : State) : Host.Outcome State Fault Refusal :=
  match s.matx s.arg.octet s.arg.id with
  | none => .next s
  | some (c, x) =>
    if x.started || x.failed || (s.members x c.seat).all fun m => m.2.2.isSome then .next s
    else .next (s.refuseCohort x c.seat 0x23)

/-! ## Completion (R245, R258, R259) -/

/-- Posts the completion increment of a MATX whose condition holds now: it is performed as long after it as R91 gives for an
access of the issuing core. -/
def State.postCompletion (s : State) (o : Nat) (c : MxuCmd) (x : Matx) : State :=
  let s := match x.err with
    | some (k, a) => s.engineErr (dieOf c.who.core) c.who k x.cw a
    | none => s
  s.carry (octetDie o) (s.farDie c.who.core x.cw) false false 16 (s.lat c.who.core x.cw) .matxCompletion
    { octet := o, id := c.id, count := { addr := x.cw, err := x.err.isSome, what := .matx o c.id, who := c.who, run := c.run } }

/-- The dword of a mailbox whose MATX ran no DMBX (R258). -/
def noResult (m : Nat) : Word := BitVec.ofNat 64 (m * 2 ^ 48 + 0xFFFF * 2 ^ 32 + 0x7FC00000)

/-- Fills a MATX's mailbox. -/
def State.fillMailbox (s : State) (c : MxuCmd) (x : Matx) (w : Word) : State :=
  let i := bits x.ctl.toNat 23 21
  s.modCore c.who.core fun k => k.setM i w

/-- What a MATX leaves at its increment: its slot, a mailbox that no DMBX filled, and the count of FENCE.d (R107). -/
def State.endMatx (s : State) (o : Nat) (c : MxuCmd) (x : Matx) : State :=
  let s :=
    if x.failed then s
    else s.modSlot o x.f.acc.toNat fun t =>
      if x.f.keep then { t with st := .kept c.who.core, spoiled := x.spoils, rst := 0 } else {}
  let rows := if x.m == 0 then (x.sa.info.map (·.rows)).getD 0 else x.m
  let s := if x.mbxGone && (x.failed || x.spoils || !holds x.prog 0x14) then s.fillMailbox c x (noResult rows) else s
  (s.modRun c.who c.run fun y => { y with matxOut := y.matxOut - 1 }).dropCmd o c.id

/-- What follows a MATX's increment. -/
def State.matxCounted (s : State) (o id : Nat) : State :=
  match s.matx o id with
  | none => s
  | some (c, x) => s.endMatx o c x

/-- MATX_COMPLETION (R259): the increment ends the drain. -/
def execMatxCompletion (s : State) : Host.Outcome State Fault Refusal :=
  .next ((if s.arg.n == 0 then s.cutLog s.arg.count.who.core 7 4 s.arg.count.addr [] else s).countStep .matxCompletion fun s =>
    s.matxCounted s.arg.octet s.arg.id)

/-! ## The array (R244, R247, R383, R384) -/

/-- Runs a MATX's next block: 112 cycles of fill unless the array served a block of the same MATX in the cycle before. -/
def State.startBlock (s : State) (o : Nat) (c : MxuCmd) (x : Matx) : State :=
  let fill := if (s.octet o).mxu.lastBlock == some (c.id, s.cycle) then 0 else 112
  s.post (s.cycle + x.blockTime + fill) .blockEnd { octet := o, id := c.id }

/-- The first MATX of a seat that waits for the array: one whose blocks wait, or one that the grant would start (R246). -/
def State.blocksOf (s : State) (o seat : Nat) : Option (MxuCmd × Matx) :=
  ((s.octet o).mxu.cmds.find? fun c => c.seat == seat && c.matx.any fun x =>
    if x.started then !x.sumsDone && x.blocks < x.blockCount
    else c.taken && !x.failed && x.f.cohort == .c1 && s.mayStart o).bind fun c => c.matx.map fun x => (c, x)

/-- ARRAY_GRANT (R246, R247): the next seat from the pointer whose MATX waits for the array receives up to its weight of blocks; the
grant starts a MATX that its pass lets start, and one that is refused there leaves the array to the next. -/
def execArrayGrant (s : State) : Host.Outcome State Fault Refusal :=
  let o := s.arg.octet
  let m := (s.octet o).mxu
  if m.grant.isSome then .next s
  else
    match (List.range 8).findSome? fun i => s.blocksOf o ((m.ptr + i) % 8) with
    | none => .next s
    | some (c, x) =>
      let t := if x.started then s else s.startMatx o c c.who.core x c.who.core x
      match t.matx o c.id with
      | none => .next t
      | some (c, x) =>
        if x.started then
          let w := (t.coreAt c.who.core).weight.toNat
          .next ((t.modMxu o fun m => { m with grant := some (c.seat, w - 1) }).startBlock o c x)
        else .next (if x.failed then t.post s.cycle .arrayGrant { octet := o } else t)

/-- Gives the array to the next seat. -/
def State.nextGrant (s : State) (o seat : Nat) : State :=
  (s.modMxu o fun m => { m with grant := none, ptr := (seat + 1) % 8 }).post s.cycle .arrayGrant { octet := o }

/-- A mismatch that the outside has put into an octet's next block (DESIGN CHOICE, assumption log 9), and the errors that are left. -/
def takeMismatch (o : Nat) (l : List Latent) : Option (List Latent) :=
  (pickFirst (fun e => match e with
    | .block p n => p == o && 0 < n
    | _ => false) l).map fun q =>
    match q.1 with
    | .block p (n + 2) => .block p (n + 1) :: q.2
    | _ => q.2

/-- BLOCK_END (R247, R383, R384): a mismatched block is replayed from the slot's values before it, up to replay.limit. -/
def execBlockEnd (s : State) : Host.Outcome State Fault Refusal :=
  let o := s.arg.octet
  match s.matx o s.arg.id with
  | none => .next s
  | some (c, x) =>
    if x.failed then .next s
    else match takeMismatch o s.latent with
    | some l =>
      let s := { s with latent := l }
      if x.replays < (s.octet o).replayLimit.toNat then
        .next (((s.prefectLog (octetDie o) 1).modMatx o c.id fun x => { x with replays := x.replays + 1 }).post
          (s.cycle + x.blockTime + 112) .blockEnd s.arg)
      else
        let s := s.modMatx o c.id fun x => { x with sumsDone := true, spoils := true, ended := true, err := some (0x22, 0) }
        let s := s.modMxu o fun m => { m with lastBlock := some (c.id, s.cycle) }
        .next (((s.postCompletion o c { x with err := some (0x22, 0) }).post s.cycle .passRelease { octet := o }).nextGrant o c.seat)
    | none =>
      let s := s.modSlot o x.f.acc.toNat fun t => { t with vals := x.runBlock t.vals x.blocks }
      let s := s.modMatx o c.id fun x => { x with blocks := x.blocks + 1, replays := 0 }
      let s := s.modMxu o fun m => { m with lastBlock := some (c.id, s.cycle) }
      let (r, k) := cohortDims x.f.cohort
      let last := x.blockCount ≤ x.blocks + 1
      let s := if last then s.post (s.cycle + 4 * (r + k - 2)) .sumsEnd { octet := o, id := c.id } else s
      match (s.octet o).mxu.grant with
      | some (seat, n + 1) =>
        if last then .next (s.nextGrant o seat)
        else .next ((s.modMxu o fun m => { m with grant := some (seat, n) }).startBlock o c x)
      | _ => .next (s.nextGrant o c.seat)

/-- Lets an octet's drain pipe admit segments. -/
def State.drainGo (s : State) (o at' : Nat) : State :=
  if s.agenda.any fun p => p.ev == .drainSegment && p.arg.octet == o then s else s.post at' .drainSegment { octet := o }

/-- SUMS_END (R246, R253): the pass may go, and the drain begins; a program that moves no element has its drain end here. -/
def execSumsEnd (s : State) : Host.Outcome State Fault Refusal :=
  let o := s.arg.octet
  match s.matx o s.arg.id with
  | none => .next s
  | some (c, x) =>
    let s := (s.modMatx o c.id fun x => { x with sumsDone := true }).post s.cycle .passRelease { octet := o }
    if x.failed then .next s
    else if !holds x.prog 0x13 && !holds x.prog 0x14 then .next ((s.modMatx o c.id fun x => { x with ended := true }).postCompletion o c x)
    else .next ((s.modMxu o fun m => { m with drains := m.drains ++ [c.id] }).drainGo o s.cycle)

/-! ## Issue (R241, R242, R248, R261) -/

/-- The operand rules of R241, R242 and R250, the output rules of R261, as far as a core sees them. -/
def State.matxShapeOk (s : State) (f : MatxF) (x : Matx) : Bool :=
  match x.sa.info, x.sb.info, tileFmt (bits x.ctl.toNat 31 28) with
  | some a, some b, some o =>
    let spOk :=
      if f.sparse == .dense then true
      else
        match x.sm.info with
        | some m => b.rows % 16 == 0 && m.fmt == .int4 && m.rows == a.rows && m.cols == a.cols && f.tm != f.ta && f.tm != f.tb
        | none => false
    let kept := match rd (s.coreAt s.who.core).kept f.acc.toNat none with
      | some (m, n) => m == a.rows && n == b.cols
      | none => true
    let pitch := bits x.ctl.toNat 63 32
    let rowEnd := x.out.toNat + (a.rows - 1) * pitch + b.cols * o.width / 8
    let hdrEnd := if o.isTint then x.out.toNat + a.rows * pitch + 2 * (a.rows * b.cols / 16) else 0
    a.rows ≤ 128 && b.cols ≤ 192 && a.cols * sparseFactor f.sparse == b.rows && pairOk a.fmt b.fmt f.sparse && spOk && kept &&
      b.cols % colMult o == 0 && (x.tdst.isNone || (rowEnd ≤ 32768 && hdrEnd ≤ 32768))
  | _, _, _ => false

/-- The cohort rule of R248. -/
def cohortOk (f : MatxF) (l : Option LaunchTag) : Bool :=
  match f.cohort, l with
  | .c1, _ => true
  | _, none => false
  | c, some t =>
    let (r, k) := cohortDims c
    t.coh && t.rst && t.cohort == c.code && t.ncols == 4 * k && t.nrows == 2 * r && t.col % 4 == 0 && t.row % 2 == 0 &&
      t.col / 48 == (t.col + t.ncols - 1) / 48 && t.row / 40 == (t.row + t.nrows - 1) / 40

/-- MATX (R240, R241). -/
def execMatx (f : MatxF) (s : State) : Host.Outcome State Fault Refusal :=
  let r := f.cr.r.toNat
  .next (s.mxuIssue { c := some f.cr, codeOk := r < 55 } .none Ctx.quiet fun v s =>
    let core := s.who.core
    let o := octetOf core
    let k := s.coreAt core
    let p := rd (s.octet o).mxu.progs f.drain.toNat {}
    let dmbx := p.valid && holds (drainBody p.words) 0x14
    let mbx := bits k.dctl.toNat 23 21
    let sr := bits k.dctl.toNat 27 25 == 4
    let x : Matx :=
      { f := f, sa := s.tshape core f.ta.toNat, sb := s.tshape core f.tb.toNat,
        sm := if f.sparse == .dense then {} else s.tshape core f.tm.toNat, ctl := k.dctl, out := k.dout, rowp := k.drowp,
        colp := k.dcolp, rng := if sr then k.rng else 0, cw := v.c, mbxGone := dmbx, launch := (s.ctx s.who).launch }
    if !s.matxShapeOk f x then .error (0x20, 0)
    else if dmbx && mbx == 7 then .error (0x21, 0)
    else if !cohortOk f x.launch then .error (0x23, 0)
    else
      let t := s.modCore core fun k =>
        let k := if sr then { k with rng := nextRandom k.rng } else k
        if dmbx then k.clearM mbx else k
      let shape := match x.sa.info, x.sb.info with
        | some a, some b => some (a.rows, b.cols)
        | _, _ => none
      let t := t.setKept core f.acc.toNat (if f.keep then shape else none)
      .ok (.matx x, t.modCtx s.who fun y => { y with matxOut := y.matxOut + 1 }))

end Sys2Proof.Machine
end

