-- ==== Sys2Proof/Machine/Drain.lean ====
section
/-! DEFINITION. The drain pipe: the drain words, segments, stores, stops and resumptions (R253 to R257, R378 to R381, R403,
R404). A drain word acts on the segment in the pipe of the octet that `State.pipe` names. -/

namespace Sys2Proof.Machine

/-! ## Drain words (R254, R255) -/

/-- Runs a word that writes dd of each element. -/
def State.drainPut (s : State) (dd : BitVec 3) (f : Pipe → List Aw40) : State :=
  match s.pipe with
  | none => s
  | some o =>
    s.modMxu o fun m => { m with pipe := { m.pipe with d := wr m.pipe.d dd.toNat (f m.pipe), pos := m.pipe.pos + 1 } }

/-- d-register `i` of the segment's elements. -/
def Pipe.reg (p : Pipe) (i : BitVec 3) : List Aw40 := rd p.d i.toNat []

/-- A word of one operand, rounded once (R254). -/
def State.drain1 (s : State) (dd da : BitVec 3) (f : Num → Num) : State :=
  s.drainPut dd fun p => (p.reg da).map fun a => roundAW40 (f (aw40Val a))

/-- A word of two operands. -/
def State.drain2 (s : State) (dd da db : BitVec 3) (f : Num → Num → Num) : State :=
  s.drainPut dd fun p => ((p.reg da).zip (p.reg db)).map fun q => roundAW40 (f (aw40Val q.1) (aw40Val q.2))

/-- A word of three operands. -/
def State.drain3 (s : State) (dd da db dc : BitVec 3) (f : Num → Num → Num → Num) : State :=
  s.drainPut dd fun p => (((p.reg da).zip (p.reg db)).zip (p.reg dc)).map fun q =>
    roundAW40 (f (aw40Val q.1.1) (aw40Val q.1.2) (aw40Val q.2))

def execDmov (dd da : BitVec 3) (s : State) : Host.Outcome State Fault Refusal := .next (s.drainPut dd fun p => p.reg da)
def execDadd (dd da db : BitVec 3) (s : State) : Host.Outcome State Fault Refusal := .next (s.drain2 dd da db fun a b => a.add b)
def execDsub (dd da db : BitVec 3) (s : State) : Host.Outcome State Fault Refusal := .next (s.drain2 dd da db fun a b => a.add b.opp)
def execDmul (dd da db : BitVec 3) (s : State) : Host.Outcome State Fault Refusal := .next (s.drain2 dd da db Num.mul)
def execDfma (dd da db dc : BitVec 3) (s : State) : Host.Outcome State Fault Refusal :=
  .next (s.drain3 dd da db dc fun a b c => (a.mul b).add c)
def execDmin (dd da db : BitVec 3) (s : State) : Host.Outcome State Fault Refusal := .next (s.drain2 dd da db Num.min)
def execDmax (dd da db : BitVec 3) (s : State) : Host.Outcome State Fault Refusal := .next (s.drain2 dd da db Num.max)
def execDabs (dd da : BitVec 3) (s : State) : Host.Outcome State Fault Refusal := .next (s.drain1 dd da Num.abs)
def execDneg (dd da : BitVec 3) (s : State) : Host.Outcome State Fault Refusal := .next (s.drain1 dd da Num.opp)
def execDclmp (dd da db dc : BitVec 3) (s : State) : Host.Outcome State Fault Refusal :=
  .next (s.drain3 dd da db dc fun a b c => (a.max b).min c)

/-- A condition of DSEL against 0; a NaN makes only .ne true. -/
def dcond (cc : DCond) (c : Num) : Bool :=
  match cc with
  | .gt => !c.isNan && Num.zero.lt c
  | .ge => !c.isNan && !c.lt Num.zero
  | .lt => !c.isNan && c.lt Num.zero
  | .le => !c.isNan && !Num.zero.lt c
  | .eq => c.isZero
  | .ne => !c.isZero

def execDsel (cc : DCond) (dd da db dc : BitVec 3) (s : State) : Host.Outcome State Fault Refusal :=
  .next (s.drainPut dd fun p => (((p.reg da).zip (p.reg db)).zip (p.reg dc)).map fun q =>
    if dcond cc (aw40Val q.2) then q.1.1 else q.1.2)

/-- DEXP2, DRCP and DRSQ give the special results of R212. -/
def execDexp2 (dd da : BitVec 3) (s : State) : Host.Outcome State Fault Refusal :=
  .next (s.drain1 dd da fun a => (floatOp .exp2 a a a false).1)
def execDrcp (dd da : BitVec 3) (s : State) : Host.Outcome State Fault Refusal :=
  .next (s.drain1 dd da fun a => (floatOp .rcp a a a false).1)
def execDrsq (dd da : BitVec 3) (s : State) : Host.Outcome State Fault Refusal :=
  .next (s.drain1 dd da fun a => (floatOp .rsq a a a false).1)

/-! ## Going back in a drain (R379) -/

/-- Takes a drain back to a segment: later segments in the pipe are discarded, and the values at its start return. -/
def State.rewind (s : State) (o id : Nat) (x : Matx) (r : Nat) : State :=
  let snap := (x.snaps.find? fun p => p.1 == r).getD (r, x.z, x.rng)
  let old (p : Pending) : Bool :=
    p.ev == .drainStorePiece && p.arg.piece.octet == o && p.arg.piece.matx == id && p.arg.n == 0 && r ≤ p.arg.piece.seg
  let s := { s with agenda := s.agenda.filter fun p => !old p }
  let s := s.modMatx o id fun x =>
    { x with seg := r, z := snap.2.1, rng := snap.2.2, snaps := x.snaps.filter fun p => p.1 < r }
  s.modMxu o fun m =>
    { m with drains := m.drains.filter fun d => d != id,
             pipe := if m.pipe.id == id && r ≤ m.pipe.seg then { m.pipe with live := false } else m.pipe }

/-- The segment in the pipe runs again from its start in the next cycle: an operand of it waits at a closed window or at a lock. -/
def State.holdSegment (s : State) (o id : Nat) (x : Matx) (seg : Nat) : State :=
  let s := s.rewind o id x seg
  (s.modMxu o fun m => { m with drains := id :: m.drains }).post (s.cycle + 1) .drainSegment { octet := o }

/-! ## Row and column operands (R254, R378) -/

/-- What a read of an operand gives. -/
inductive DrainRead where
  | val (v : Aw40) (err : Option Nat) (s : State)
  | wait
  | miss

/-- Reads the FP32 value at an address of a drain, an access as any other (R90, R92, R97 to R101) that takes a turn at its bank. A
fault or poison gives the NaN, with its cause. -/
def State.drainRead (s : State) (core : Nat) (staff : Bool) (a : Word) : DrainRead :=
  if s.isAway core a then .val aw40Nan (some 0x16) s
  else
    match s.enter core staff 0 a 4 .load 0 with
    | .bad k => .val aw40Nan (some k) s
    | .wait _ => .wait
    | .miss => .miss
    | .go k t =>
      let t := (((t.bankTake k).2).meetErrors k 4).1
      if t.isPoisoned k 4 then .val aw40Nan (some 0x17) t
      else .val (roundAW40 (fmtValue .fp32 (memReadN t.mem k 4))) none t

/-- The page of an address. -/
def pageAt (a : Word) : Word := BitVec.ofNat 64 (a.toNat / 65536 * 65536)

/-- Begins the walk of a page that a drain needs, once (R91). -/
def State.drainWalk (s : State) (o id : Nat) (core : Nat) (a : Word) : State :=
  match s.matx o id with
  | none => s
  | some (_, x) =>
    if x.walks.contains (pageAt a) then s
    else
      let n := (s.walk (s.partOf core) (bits a.toNat 47 0)).2
      (s.modMatx o id fun x => { x with walks := x.walks ++ [pageAt a] }).post (s.cycle + 110 * n) .drainStop
        { octet := o, id := id, v := pageAt a }

/-- One operand of a drain, which is read at most once: row `i` of `row` or column `i`. The value is `none` where its page is
missing: the segment then waits on the walk, as a store that misses does. -/
def State.drainOperand (s : State) (o : Nat) (row : Bool) (i seg : Nat) : State × Option Aw40 :=
  let id := (s.octet o).mxu.pipe.id
  match s.matx o id with
  | none => (s, some 0)
  | some (c, x) =>
    let seen := if row then x.rowv else x.colv
    match seen.find? fun p => p.1 == i with
    | some p => (s, some p.2)
    | none =>
      let a := (if row then x.rowp else x.colp) + BitVec.ofNat 64 (4 * i)
      match s.drainRead c.who.core c.staff a with
      | .wait => (s.holdSegment o id x seg, none)
      | .miss =>
        ((s.modMatx o id fun x => { x with waitP := x.waitP ++ [{ octet := o, matx := id, seg := seg, addr := a }] }).drainWalk o id
          c.who.core a, none)
      | .val v err s =>
        (s.modMatx o id fun x =>
          { x with rowv := if row then x.rowv ++ [(i, v)] else x.rowv, colv := if row then x.colv else x.colv ++ [(i, v)],
                   err := x.err.or (err.map fun k => (k, a)) }, some v)

/-- The operands of a list of rows or columns, or `none` at the first that is missing. -/
def State.drainOperands (o : Nat) (row : Bool) (seg : Nat) : List Nat → State → State × Option (List Aw40)
  | [], s => (s, some [])
  | i :: r, s =>
    match s.drainOperand o row i seg with
    | (t, none) => (t, none)
    | (t, some v) =>
      match State.drainOperands o row seg r t with
      | (u, none) => (u, none)
      | (u, some vs) => (u, some (v :: vs))

/-- Segments of a row. -/
def Matx.segsOf (x : Matx) : Nat := (x.n + 15) / 16
/-- Segments of a drain (R253). -/
def Matx.segCount (x : Matx) : Nat := x.m * x.segsOf
/-- The row of a segment. -/
def Matx.rowOf (x : Matx) (seg : Nat) : Nat := seg / max 1 x.segsOf
/-- The first column of a segment. -/
def Matx.colOf (x : Matx) (seg : Nat) : Nat := seg % max 1 x.segsOf * 16
/-- The elements of a segment; columns beyond N take no part. -/
def Matx.width (x : Matx) (seg : Nat) : Nat := min 16 (x.n - x.colOf seg)

/-- Ends the program of the segment in the pipe without its stores: it waits on a missing operand (R378). -/
def State.leavePipe (s : State) (o : Nat) : State := { s.modMxu o fun m => { m with pipe := { m.pipe with live := false } } with pipe := none }

/-- DLDR and DLDC. -/
def State.drainLoad (s : State) (dd : BitVec 3) (row : Bool) : State :=
  match s.pipe with
  | none => s
  | some o =>
    let p := (s.octet o).mxu.pipe
    match s.matx o p.id with
    | none => s
    | some (_, x) =>
      let n := x.width p.seg
      let idx := if row then [x.rowOf p.seg] else (List.range n).map fun j => x.colOf p.seg + j
      match State.drainOperands o row p.seg idx s with
      | (t, none) => t.leavePipe o
      | (t, some vs) => { t with pipe := some o }.drainPut dd fun _ => if row then List.replicate n (vs.headD 0) else vs

def execDldr (dd : BitVec 3) (s : State) : Host.Outcome State Fault Refusal := .next (s.drainLoad dd true)
def execDldc (dd : BitVec 3) (s : State) : Host.Outcome State Fault Refusal := .next (s.drainLoad dd false)

/-! ## Conversion, blocks, stores and reductions (R255 to R257) -/

/-- The output format of a drain (R85). -/
def Matx.ofmt (x : Matx) : Fmt := (tileFmt (bits x.ctl.toNat 31 28)).getD .fp32
/-- Its rounding mode. -/
def Matx.mode (x : Matx) : Mode := Mode.ofCode (bits x.ctl.toNat 27 25)
/-- The nf of R132. -/
def Matx.nf (x : Matx) : Bool := bitAt x.ctl.toNat 24

/-- RoundNarrow over a list, stepping the generator in ascending column. -/
def narrowList (f : Fmt) (mode : Mode) (nf : Bool) : List Aw40 → BitVec 32 → List Nat × BitVec 32
  | [], r => ([], r)
  | a :: as, r =>
    let o := roundNarrow f (aw40Val a) mode nf r
    let (l, r) := narrowList f mode nf as o.rng
    (o.enc :: l, r)

/-- Runs a word that also acts on the drain's MATX. -/
def State.withPipe (s : State) (f : Nat → Pipe → Matx → State → State) : State :=
  match s.pipe with
  | none => s
  | some o =>
    let p := (s.octet o).mxu.pipe
    match s.matx o p.id with
    | none => s
    | some (_, x) => f o p x s

/-- DCVT (R255). -/
def execDcvt (dd da : BitVec 3) (s : State) : Host.Outcome State Fault Refusal :=
  .next (s.withPipe fun o p x s =>
    if x.ofmt.isTint then s.drainPut dd fun p => p.reg da
    else
      let (es, r) := narrowList x.ofmt x.mode x.nf (p.reg da) x.rng
      (s.modMatx o p.id fun x => { x with rng := r }).drainPut dd fun _ => es.map fun e => roundAW40 (fmtValue x.ofmt e))

/-- DBLK (R255). -/
def execDblk (dd da : BitVec 3) (s : State) : Host.Outcome State Fault Refusal :=
  .next (s.withPipe fun o p x s =>
    if !x.ofmt.isTint then s.drainPut dd fun p => p.reg da
    else
      let b := tintBlock x.ofmt ((p.reg da).map aw40Val) x.mode x.nf x.rng
      let s := s.modMatx o p.id fun x => { x with rng := b.rng }
      let s := s.modMxu o fun m => { m with pipe := { m.pipe with blk := some (b.header, b.elems) } }
      s.drainPut dd fun _ => b.elems.mapIdx fun j e => roundAW40 (tintValue x.ofmt b.header e j))

/-- DST (R256): the values leave when the segment's program ends. -/
def execDst (da : BitVec 3) (s : State) : Host.Outcome State Fault Refusal :=
  .next (s.withPipe fun o _ _ s =>
    s.modMxu o fun m => { m with pipe := { m.pipe with dst := some (m.pipe.reg da), pos := m.pipe.pos + 1 } })

/-- The reduction of R257 over a segment's values: the value and its row. -/
def reduce (sum : Bool) (row : Nat) (z : Option (Aw40 × Nat)) (vs : List Aw40) : Option (Aw40 × Nat) :=
  vs.foldl (fun z v =>
    if sum then some (roundAW40 ((aw40Val ((z.map (·.1)).getD 0)).add (aw40Val v)), 0)
    else
      match z with
      | none => some (if (aw40Val v).isNan then aw40Nan else v, row)
      | some (y, r) =>
        if (aw40Val y).isNan then some (y, r)
        else if (aw40Val v).isNan then some (aw40Nan, row)
        else if (aw40Val y).below (aw40Val v) then some (v, row)
        else some (y, r)) z

/-- DMBX (R257). -/
def execDmbx (sum : Bool) (da : BitVec 3) (s : State) : Host.Outcome State Fault Refusal :=
  .next (s.withPipe fun o p x s =>
    (s.modMatx o p.id fun y => { y with z := reduce sum (x.rowOf p.seg) x.z (p.reg da) }).modMxu o fun m =>
      { m with pipe := { m.pipe with pos := m.pipe.pos + 1 } })

/-- DEND: the program ends. -/
def execDend (s : State) : Host.Outcome State Fault Refusal :=
  match s.pipe with
  | none => .next s
  | some o => .next (s.modMxu o fun m => { m with pipe := { m.pipe with pos := 32 } })

/-! ## Segments (R253, R256) -/

/-- Cuts bytes at an address into pieces that end at a granule. -/
def granulePieces : Nat → Word → List Byte → List (Word × List Byte)
  | 0, _, _ => []
  | f + 1, a, bs =>
    if bs.isEmpty then []
    else
      let n := min bs.length (32 - a.toNat % 32)
      (a, bs.take n) :: granulePieces f (a + BitVec.ofNat 64 n) (bs.drop n)

/-- The store pieces of a segment's DST (R256): its elements, and its block's header. -/
def Matx.pieces (x : Matx) (o id seg : Nat) (vs : List Aw40) (blk : Option (Nat × List Nat)) : List StorePiece :=
  let f := x.ofmt
  let pitch := bits x.ctl.toNat 63 32
  let i := x.rowOf seg
  let b := seg % max 1 x.segsOf
  let base := x.out + BitVec.ofNat 64 (i * pitch + 2 * b * f.width)
  let cut (a : Word) (bs : List Byte) : List StorePiece :=
    (granulePieces 40 a bs).map fun p => { octet := o, matx := id, seg := seg, tile := x.tdst.isSome, addr := p.1, bytes := p.2 }
  if f.isTint then
    let (h, es) := blk.getD (let t := tintBlock f (vs.map aw40Val) .rne x.nf 0; (t.header, t.elems))
    cut base (natBytes (tintPack f es) (2 * f.width)) ++
      cut (x.out + BitVec.ofNat 64 (x.m * pitch + 2 * (i * x.n / 16 + b))) (natBytes h 2)
  else
    let es := (narrowList f .rne x.nf vs 0).1
    cut base (natBytes (tintPack f es) (vs.length * f.width / 8))

/-- Sends the stores of the segment whose program has ended on their way: it entered in this cycle, and it stores in cycle
e + L. After the last segment, the drain leaves the pipe. -/
def State.endSegment (s : State) (o : Nat) : State :=
  let p := (s.octet o).mxu.pipe
  let s := s.modMxu o fun m => { m with pipe := { m.pipe with live := false } }
  match s.matx o p.id with
  | none => s
  | some (_, x) =>
    if !p.live then s
    else
      let t := s.cycle + drainLen x.prog
      match p.dst with
      | some vs => (x.pieces o p.id p.seg vs p.blk).foldl (fun s q => s.post t .drainStorePiece { piece := q }) s
      | none => s

/-- Puts the next segment of a drain into the pipe. -/
def State.enterSegment (s : State) (o : Nat) (c : MxuCmd) (x : Matx) : State :=
  let vals := (rd (s.octet o).mxu.slots x.f.acc.toNat {}).vals
  let at' := x.rowOf x.seg * x.n + x.colOf x.seg
  let w := x.width x.seg
  let d0 := (vals.drop at').take w
  let s := s.modMatx o c.id fun x =>
    { x with seg := x.seg + 1, snaps := x.snaps ++ [(x.seg, x.z, x.rng)], endAt := s.cycle + drainLen x.prog }
  let s := s.modMxu o fun m =>
    { m with pipe := { live := true, id := c.id, seg := x.seg, d := wr (Vector.replicate 8 (List.replicate w 0)) 0 d0 } }
  { s with pipe := some o }

/-- DRAIN_SEGMENT (R253): four segments enter a cycle, in order, from the first drain that the pipe serves. -/
def execDrainSegment (s : State) : Host.Outcome State Fault Refusal :=
  let o := s.arg.octet
  let n := s.arg.n
  let s := s.endSegment o
  match (s.octet o).mxu.drains with
  | [] => .next s
  | id :: r =>
    match s.matx o id with
    | none => .next ((s.modMxu o fun m => { m with drains := r }).post s.cycle .drainSegment { octet := o, n := n })
    | some (c, x) =>
      if x.segCount ≤ x.seg then
        let s := s.modMxu o fun m => { m with drains := r }
        let s := s.post x.endAt .dmbxFill { octet := o, id := id }
        .next (if r.isEmpty then s else s.post (s.cycle + 1) .drainSegment { octet := o })
      else if 4 ≤ n then .next (s.post (s.cycle + 1) .drainSegment { octet := o })
      else .next ((s.enterSegment o c x).post s.cycle .drainSegment { octet := o, n := n + 1 })

/-! ## Stores (R101, R256, R378) -/

/-- Notes the first fault of a drain (R328). -/
def State.drainErr (s : State) (o id cause : Nat) (a : Word) : State :=
  s.modMatx o id fun x => { x with err := x.err.or (some (cause, a)) }

/-- Whether an access to another node is a store piece of a drain. -/
def Access.drains (a : Access) (o id : Nat) : Bool :=
  match a.kind with
  | .drain p => p.octet == o && p.matx == id
  | _ => false

/-- Whether a store piece of a drain is on its way or waits. -/
def State.piecesOut (s : State) (o id : Nat) (x : Matx) : Bool :=
  !x.waitP.isEmpty || !x.walks.isEmpty ||
    s.underWay.any (fun p => (p.ev == .drainStorePiece && p.arg.piece.octet == o && p.arg.piece.matx == id) ||
      (p.ev == .seatRequest && p.arg.acc.drains o id)) ||
    s.dies.any fun d => d.2.remote.any fun r => r.acc.drains o id

/-- A drain looks whether it is over. -/
def State.drainCheck (s : State) (o id : Nat) : State := s.post s.cycle .dmbxFill { octet := o, id := id }

/-- A piece leaves the pipe: into a tile register, or towards its bank; a page that is being walked keeps it. -/
def State.leavePiece (s : State) (p : StorePiece) (c : MxuCmd) (x : Matx) : State :=
  let core := c.who.core
  let out (s : State) : State :=
    s.carry (octetDie p.octet) (s.farDie core p.addr) false false (16 + p.bytes.length) (s.oneWay core p.addr) .drainStorePiece
      { piece := p, n := 1 }
  match x.tdst with
  | some t => (s.putL (tileKey core t p.addr.toNat) p.bytes).drainCheck p.octet p.matx
  | none =>
    match s.form core p.addr with
    | .bad => (s.drainErr p.octet p.matx 0x10 p.addr).drainCheck p.octet p.matx
    | .remote _ =>
      s.postIn 4 .seatRequest
        { acc := { kind := .drain p, addr := p.addr, who := c.who, run := c.run, pc := c.pc, word := c.word, staff := c.staff },
          n := 1, die := dieOf core }
    | .mem off =>
      if (s.tlbFind (dieOf core) (s.partOf core) off).isNone || x.walks.contains (pageAt p.addr) then
        (s.modMatx p.octet p.matx fun x => { x with waitP := x.waitP ++ [p] }).drainWalk p.octet p.matx core p.addr
      else out s
    | _ => out s

/-- A piece at its bank: it waits at a closed window and at a lock on its slate, and a fault leaves it unwritten. -/
def State.landPiece (s : State) (p : StorePiece) (c : MxuCmd) (x : Matx) : State :=
  let core := c.who.core
  let back (s : State) : State :=
    s.carry (s.farDie core p.addr) (octetDie p.octet) false false 16 (s.lat core p.addr - s.oneWay core p.addr) .drainStorePiece
      { piece := p, n := 2 }
  let again (s : State) : State := s.post (s.cycle + 1) .drainStorePiece { piece := p, n := 1 }
  let store (k : Nat) (t : State) : State :=
    let (t, seen) :=
      if c.staff then (t, x.watched) else t.postWatch k (t.watchHits k p.bytes.length) x.watched p.addr 0xFFF
    let t := t.modMatx p.octet p.matx fun x => { x with watched := seen }
    back (t.storeL k p.bytes)
  if s.arg.slot then store s.arg.acc.key s
  else
    match s.enter core c.staff 0 p.addr p.bytes.length .store 1 with
    | .wait _ => again s
    | .miss =>
      (s.modMatx p.octet p.matx fun x => { x with waitP := x.waitP ++ [p] }).drainWalk p.octet p.matx core p.addr
    | .bad k => back (s.drainErr p.octet p.matx k p.addr)
    | .go k t => t.inTurn .drainStorePiece [k, k + p.bytes.length - 1] k (store k)

/-- DRAIN_STORE_PIECE: `n` = 0 leaves the pipe, 3 leaves after a walk, 1 lands, 2 is acknowledged. -/
def execDrainStorePiece (s : State) : Host.Outcome State Fault Refusal :=
  let p := s.arg.piece
  match s.matx p.octet p.matx with
  | none => .next s
  | some (c, x) =>
    if s.arg.n == 1 then .next (s.landPiece p c x)
    else if s.arg.n == 2 then
      let s := if s.arg.cause != 0 then s.drainErr p.octet p.matx s.arg.cause p.addr else s
      .next (s.drainCheck p.octet p.matx)
    else .next (s.leavePiece p c x)

/-! ## Stops and resumptions (R379 to R381, R403, R404) -/

/-- The restart word of a stopped drain (R380). -/
def Matx.rstWord (x : Matx) (seat seg : Nat) (rng : BitVec 32) : Word :=
  BitVec.ofNat 64 (2 ^ 63 + x.rowOf seg * 2 ^ 56 + seg % max 1 x.segsOf * 2 ^ 52 + seat * 2 ^ 49 + 0x40 * 2 ^ 32 +
    if bits x.ctl.toNat 27 25 == 4 then rng.toNat else 0)

/-- A drain's stop drops its issuing context, if it is in rotation (R327, R403). -/
def State.dropFor (s : State) (c : MxuCmd) (a : Word) : State :=
  match s.place c.who c.run with
  | .at d =>
    s.modCtx d fun x =>
      if x.life == .active then { x with drops := a :: x.drops, dropAt := if x.drops.isEmpty then s.cycle else x.dropAt } else x
  | _ => s

/-- Whether the walk of a page finds a leaf now, and no retire mark keeps it from the core (R367). -/
def State.mapped (s : State) (core : Nat) (page : Word) : Bool :=
  let off := bits page.toNat 47 0
  (s.walk (s.partOf core) off).1.any fun l =>
    s.isStaffCore core || !s.isRetired (TlbEnt.phys { base := l.base, size := l.size, leaf := l.leaf } off)

/-- The first piece of those that wait on a page. -/
def firstOn (l : List StorePiece) (page : Word) : Option StorePiece :=
  (l.filter fun p => pageAt p.addr == page).foldl (fun r p => match r with
    | none => some p
    | some q => if p.seg < q.seg then some p else some q) none

/-- Stops a drain whose missing pages are known: a MISS for each, and the restart point at the lowest segment among those
that wait on them; what waits on them is cancelled. A drain that is stopped already keeps a restart point that is lower. -/
def State.stopDrain (s : State) (o : Nat) (c : MxuCmd) (x : Matx) (pages : List Word) : State :=
  let core := c.who.core
  let firsts := pages.filterMap fun g => firstOn x.waitP g
  match firsts.foldl (fun (r : Option StorePiece) p => match r with
    | none => some p
    | some q => if p.seg < q.seg then some p else some q) none with
  | none => s.modMatx o c.id fun x => { x with walks := x.walks.filter fun g => !pages.contains g }
  | some p =>
    let s := firsts.foldl (fun s q => s.missNotice (s.missDie core q.addr) c.who (s.partOf core) q.addr x.cw) s
    let s := s.modMatx o c.id fun x =>
      { x with walks := x.walks.filter fun g => !pages.contains g, waitP := x.waitP.filter fun q => !pages.contains (pageAt q.addr) }
    if x.stopped.isSome && x.seg ≤ p.seg then s
    else
      let s := (s.rewind o c.id x p.seg).modMatx o c.id fun x => { x with stopped := some p.addr }
      let rng := ((s.matx o c.id).map fun q => q.2.rng).getD 0
      (s.modSlot o x.f.acc.toNat fun t => { t with rst := x.rstWord c.seat p.seg rng }).dropFor c p.addr

/-- A drain that is stopped on a missing page restarts at a segment below its restart point, where an operand of that segment has
come meanwhile; it stays stopped (R379, R381). -/
def State.restartAt (s : State) (o : Nat) (c : MxuCmd) (x : Matx) (seg : Nat) : State :=
  if x.seg ≤ seg then s
  else
    let s := s.rewind o c.id x seg
    let rng := ((s.matx o c.id).map fun q => q.2.rng).getD 0
    s.modSlot o x.f.acc.toNat fun t => { t with rst := x.rstWord c.seat seg rng }

/-- Held pieces leave after a walk, four segments a cycle in segment order. -/
def State.freePieces (s : State) (l : List StorePiece) : State :=
  let segs := (l.map (·.seg)).foldl (fun r g => insNat g r) []
  l.foldl (fun s p => s.post (s.cycle + (segs.findIdx fun g => g == p.seg) / 4) .drainStorePiece { piece := p, n := 3 }) s

/-- DRAIN_STOP (R379): the walk of a page is over. With a leaf, its pieces leave; a segment that waited for an operand there
runs again from its start. Without one, the drain stops. -/
def execDrainStop (s : State) : Host.Outcome State Fault Refusal :=
  let o := s.arg.octet
  let id := s.arg.id
  let page := s.arg.v
  match s.matx o id with
  | none => .next s
  | some (c, x) =>
    let core := c.who.core
    if !x.walks.contains page then .next s
    else if s.mapped core page then
      let s := s.fillFor (dieOf core) (s.partOf core) (bits page.toNat 47 0)
      let mine := x.waitP.filter fun p => pageAt p.addr == page
      let s := s.modMatx o id fun x =>
        { x with walks := x.walks.filter fun g => g != page, waitP := x.waitP.filter fun p => pageAt p.addr != page }
      let s := s.freePieces (mine.filter fun p => !p.bytes.isEmpty)
      match firstOn (mine.filter fun p => p.bytes.isEmpty) page with
      | none => .next s
      | some p =>
        if x.stopped.isSome then .next (s.restartAt o c x p.seg)
        else
          .next (((s.rewind o id x p.seg).modMatx o id fun x => { x with stopped := some p.addr }).post s.cycle .drainResume
            { octet := o, id := id })
    else .next (s.stopDrain o c x (x.walks.filter fun g => g == page || !s.mapped core g))

/-- DRAIN_RESUME (R381): from the next cycle, or once the pipe ends the drain it serves. -/
def execDrainResume (s : State) : Host.Outcome State Fault Refusal :=
  let o := s.arg.octet
  let id := s.arg.id
  match s.matx o id with
  | none => .next s
  | some (_, x) =>
    if x.stopped.isNone then .next s
    else
      let s := s.modMatx o id fun x => { x with stopped := none }
      let s := s.modSlot o x.f.acc.toNat fun t => { t with rst := 0 }
      .next ((s.modMxu o fun m => { m with drains := m.drains ++ [id] }).drainGo o (s.cycle + 1))

/-- DMBX_FILL (R257, R259): once every segment has ended its program and every store is acknowledged, the mailbox of DMBX
fills, and the completion follows. -/
def execDmbxFill (s : State) : Host.Outcome State Fault Refusal :=
  let o := s.arg.octet
  let id := s.arg.id
  match s.matx o id with
  | none => .next s
  | some (c, x) =>
    if !x.sumsDone || x.ended || x.failed || x.stopped.isSome || x.seg < x.segCount || s.cycle < x.endAt || s.piecesOut o id x then .next s
    else
      let s := s.modMatx o id fun x => { x with ended := true }
      let s :=
        if holds x.prog 0x14 then
          let (z, row) := x.z.getD (0, 0)
          s.fillMailbox c x (BitVec.ofNat 64 (x.m * 2 ^ 48 + row * 2 ^ 32 + (roundNarrow .fp32 (aw40Val z) .rne true 0).enc))
        else s
      .next (s.postCompletion o c x)

end Sys2Proof.Machine
end

