-- ==== Sys2Proof/Machine/Rollcall.lean ====
section
/-! DEFINITION. Roll call: route tags, ARRIVE, WAIT, RCGEN, RCPOLL, the release and the forced flip (R64 to R66, R115, R278,
R349, R391, R411). A device-span group is kept on die 0. -/

namespace Sys2Proof.Machine

/-! ## Groups (R64) -/

def tagSpan (cfg : Word) : Nat := bits cfg.toNat 63 62

/-- The die whose tag a context of a die acts on (R278). -/
def State.tagDie (s : State) (die n : Nat) : Nat := if tagSpan (rd (s.die die).tags n {}).cfg == 2 then 0 else die

/-- A tag as a die's contexts see it. -/
def State.tagOn (s : State) (die n : Nat) : Tag := rd (s.die (s.tagDie die n)).tags n {}

/-- Replaces a tag of a die. -/
def State.modTag (s : State) (die n : Nat) (f : Tag → Tag) : State :=
  s.modDie die fun d => { d with tags := wr d.tags n (f (rd d.tags n {})) }

/-- Whether a group of a tag that stands on a die holds a core. Span 3 is reserved and holds none. -/
def tagHas (cfg : Word) (die core : Nat) : Bool :=
  let v := cfg.toNat
  match tagSpan cfg with
  | 0 =>
    dieOf core == die && bits v 61 56 ≤ colOf core && colOf core < bits v 61 56 + bits v 49 44 && bits v 55 50 ≤ rowOf core &&
      rowOf core < bits v 55 50 + bits v 43 38
  | 1 => dieOf core == die
  | 2 => core < 7680
  | _ => false

/-- Whether a context is a member. -/
def tagMember (cfg : Word) (die : Nat) (c : CtxId) : Bool := tagHas cfg die c.core && bitAt cfg.toNat (22 + c.ctx)

/-- Whether every member context on a core has counted. -/
def Tag.coreDone (t : Tag) (core : Nat) : Bool :=
  (List.range 16).all fun i => !bitAt t.cfg.toNat (22 + i) || memNat (core * 16 + i) t.arrived

/-- The cores of a group. -/
def tagCores (cfg : Word) (die : Nat) : List Nat :=
  let v := cfg.toNat
  match tagSpan cfg with
  | 0 => (List.range (bits v 43 38)).flatMap fun r => (List.range (bits v 49 44)).map fun c =>
      coreAt die (bits v 55 50 + r) (bits v 61 56 + c)
  | 1 => (List.range 1920).map fun i => die * 1920 + i
  | 2 => List.range 7680
  | _ => []

/-- Cycles from the last arrival to the release (R65). -/
def releaseTime (cfg : Word) : Nat :=
  match tagSpan cfg with
  | 0 => 6 + bits cfg.toNat 43 38 + bits cfg.toNat 49 44
  | 1 => 94
  | _ => 134

/-! ## The instructions (R278) -/

/-- ARRIVE (R65): a second ARRIVE before the release waits; a context outside the group counts nothing. -/
def execArrive (t : BitVec 3) (s : State) : Host.Outcome State Fault Refusal :=
  .next (s.waiting {} Ctx.storesDone fun _ s =>
    let c := s.who
    let n := t.toNat
    let die := s.tagDie (dieOf c.core) n
    let g := rd (s.die die).tags n {}
    let key := c.core * 16 + c.ctx
    if !tagMember g.cfg die c then s.finish
    else if memNat key g.arrived then s.block 0
    else
      let g' : Tag := { g with arrived := insNat key g.arrived }
      let s := (s.modTag die n fun _ => g').modCtx c fun x => { x with arr := wr x.arr n (some g.gen) }
      let s :=
        if g'.coreDone c.core && (tagCores g'.cfg die).all g'.coreDone then
          s.post (s.cycle + releaseTime g'.cfg) .rollcallRelease { die := die, n := n }
        else s
      s.finish)

/-- Whether a WAIT on a tag would complete now: gen differs from the generation of the context's last ARRIVE. -/
def State.waitOver (s : State) (c : CtxId) (n : Nat) : Bool :=
  match rd (s.ctx c).arr n none with
  | some g => g != (s.tagOn (dieOf c.core) n).gen
  | none => false

/-- WAIT (R65, R278): the pc stays at it until the release; `left` is the limit that a restored WAIT has left (R61). -/
def execWait (t : BitVec 3) (a : Src) (s : State) : Host.Outcome State Fault Refusal :=
  let u : Uses := { a := some a }
  match s.peek u with
  | .stop t => .next t
  | .ok v =>
    let n := t.toNat
    let x := s.ctx s.who
    let s := s.commit u
    if s.waitOver s.who n then .next ((s.modCtx s.who fun x => { x with left := 0 }).finish)
    else
      let limit := if x.left != 0 then x.left else v.a.toNat
      let dl := if limit == 0 then 0 else s.cycle + limit
      let s := (s.endAt x.pc).modCtx s.who fun x => { x with wait := .roll n dl, left := 0 }
      .next (if limit == 0 then s else s.post dl .waitLimitExpire { c := s.who, run := x.run, n := n, w := s.word })

/-- RCGEN. -/
def execRcgen (t : BitVec 3) (d : Reg) (s : State) : Host.Outcome State Fault Refusal :=
  .next (s.compute { out := [d] } fun _ =>
    let g := (s.tagOn (dieOf s.who.core) t.toNat).gen
    match rd (s.ctx s.who).arr t.toNat none with
    | some k => BitVec.ofNat 64 (b2n g + 2 * b2n k + 4)
    | none => BitVec.ofNat 64 (b2n g))

/-- RCPOLL. -/
def execRcpoll (t : BitVec 3) (d : Reg) (s : State) : Host.Outcome State Fault Refusal :=
  .next (s.compute { out := [d] } fun _ => if s.waitOver s.who t.toNat then 1 else 0)

/-! ## The flip (R64, R65, R391) -/

/-- Whether a waiting context's WAIT is on a tag that stands on a die. -/
def State.rollsOn (s : State) (die n : Nat) (core : Nat) (w : Wait) : Bool :=
  match w with
  | .roll m _ => m == n && s.tagDie (dieOf core) n == die
  | _ => false

/-- A tag after a flip: the next generation begins empty, and a pending cfg takes effect. -/
def Tag.flipped (g : Tag) (gen forced : Bool) : Tag :=
  { g with gen := gen, forced := forced, arrived := [], cfg := g.pend.getD g.cfg, pend := none }

/-- A flip of gen: the next generation begins empty under a pending cfg, and every WAIT of the old one completes; a saved
context whose WAIT it was becomes ready (R61). The flip of a device-span group is a flip on each die whose tag belongs to it, so
that a cfg written there takes effect with it. -/
def State.flipTag (s : State) (die n : Nat) (forced : Bool) : State :=
  let s := { s with ctxs := s.ctxs.map fun (p : Nat × Ctx) =>
      (p.1, if s.rollsOn die n (p.1 / 16) p.2.wait then
        (if p.2.drops.isEmpty then { p.2 with wait := .none, pc := p.2.pc + 8 } else { p.2 with wait := .released })
      else p.2) }
  let s := s.readyWhere fun x => x.kind == 5 && x.tag == n && s.tagDie (dieOf x.core) n == die
  let s := { s with agenda := s.agenda.filter fun (p : Pending) =>
      !(p.ev == Instr.rollcallRelease && p.arg.die == die && p.arg.n == n) }
  let gen := !(rd (s.die die).tags n {}).gen
  ((List.range 4).filter fun d => d == die || s.tagDie d n == die).foldl (fun s d => s.modTag d n fun g => g.flipped gen forced) s

/-- ROLLCALL_RELEASE (R65). -/
def execRollcallRelease (s : State) : Host.Outcome State Fault Refusal := .next (s.flipTag s.arg.die s.arg.n false)

/-- ROLLCALL_KICK (R391): a forced flip. -/
def execRollcallKick (s : State) : Host.Outcome State Fault Refusal :=
  .next (if bitAt s.arg.v.toNat 0 then s.flipTag (s.tagDie s.arg.die s.arg.n) s.arg.n true else s)

/-- ROLLCALL_CFG_WRITE (R64): the defined fields, from the next flip on. -/
def execRollcallCfgWrite (s : State) : Host.Outcome State Fault Refusal :=
  .next (s.modTag s.arg.die s.arg.n fun g => { g with pend := some (s.arg.v &&& 0xFFFFFFFFFFC00000) })

/-- WAIT_LIMIT_EXPIRE (R278, R391, R403): the WAIT traps with 0x19; its limit does not run while its context is dropped. -/
def execWaitLimitExpire (s : State) : Host.Outcome State Fault Refusal :=
  match s.place s.arg.c s.arg.run with
  | .at c =>
    let x := s.ctx c
    match x.wait with
    | .roll m dl =>
      if m != s.arg.n || dl == 0 then .next s
      else if !x.drops.isEmpty then .next (s.post (s.cycle + 1) .waitLimitExpire s.arg)
      else if s.cycle < dl then .next (s.post dl .waitLimitExpire s.arg)
      else .next (s.trap c { cause := 0x19, pc := x.pc, word := s.arg.w })
    | _ => .next s
  | _ => .next s

end Sys2Proof.Machine
end

