-- ==== Sys2Proof/Machine/Thread.lean ====
section
/-! DEFINITION. Threads: starts, saves to the cloakroom, restores, PARK, WAKE, YIELD, MIGR, CTXRD and CTXWR (R49, R50, R53, R59
to R63, R78, R79, R275, R277, R336, R377, R408, R414). -/

namespace Sys2Proof.Machine

/-! ## Starts (R50, R53, R275) -/

/-- The bank of a start at a pc. -/
def startBank (run prio at' : Nat) (pc s1 : Word) : Ctx := (Ctx.fresh run prio pc at').setS 1 s1

/-- Starts a context at a pc: its first issue is due 2 cycles later. -/
def State.startAtPc (s : State) (c : CtxId) (pc s1 : Word) (prio : Nat) : State :=
  let (run, s) := s.newId
  s.setCtx c (startBank run prio (s.cycle + 2) pc s1)

/-- The bank of a sweep's start as its start finds it: the odd context of a buddy pair gets the answers that its partner has
kept for it (R399). -/
def State.withAnswers (s : State) (x : Ctx) : Ctx :=
  match x.buddy with
  | some b =>
    if b.even then x
    else
      let l := ((s.runCtx b.partner b.prun).bind fun y => y.buddy.map fun e => e.replies).getD []
      x.modBuddy fun b => { b with replies := l }
  | none => x

/-- Starts a sweep's context (R53): its first issue is due 2 cycles later. -/
def State.startSweep (s : State) (c : CtxId) (x : Ctx) : State := s.setCtx c { s.withAnswers x with readyAt := s.cycle + 2 }

/-- Takes the next 21 cycles of an octet's cloakroom port (R60): the cycle in which they end. -/
def State.takePort (s : State) (octet : Nat) : Nat × State :=
  let t := max s.cycle (s.octet octet).portAt + 21
  (t, s.modOctet octet fun o => { o with portAt := t })

/-- Writes a START's status, when its context's first issue is due (R275). -/
def State.startStatus (s : State) (l : Late) (status at' : Nat) : State :=
  s.post at' .homeroomLateResult { late := { l with val := BitVec.ofNat 1024 status } }

/-- Starts a notice's handler (R332). -/
def State.startNotice (s : State) (c : CtxId) (die slot : Nat) : State :=
  let d := s.die die
  let s := s.startAtPc c d.staffNotice (BitVec.ofNat 64 (d.slotAddr slot)) 255
  s.modCtx c fun x => { x with notice := some (die, slot) }

/-- A saved entry of a core. -/
def State.savedAt (s : State) (octet id : Nat) : Option Saved := (s.octet octet).cloak.find? fun (x : Saved) => x.id == id

/-- Starts a taken item in a gated context (R275). A pair has the priority that its entry has aged to, where R58 speaks of the
pair's effective priority and R35 does not age it (DESIGN CHOICE, assumption log 64). A restore keeps its context from now
until its port cycles end: the context counts as running with its entry's priority, and its bank reads as zeros until the
layout stands in it (DESIGN CHOICE, assumption log 65). -/
def State.startItem (s : State) (c : CtxId) (i : TItem) (reply : Late) : State :=
  match i with
  | .pair q => (s.startPair c q.a q.b q.prio (s.cycle + 2)).startStatus reply 0 (s.cycle + 2)
  | .notice die slot => (s.startNotice c die slot).startStatus reply 0 (s.cycle + 2)
  | .saved id =>
    let prio := ((s.savedAt (octetOf c.core) id).map (·.prio)).getD 0
    let (run, s) := s.newId
    let (t, s) := s.takePort (octetOf c.core)
    ((s.setCtx c { run := run, life := .active, prio := prio, starting := true, wait := .hold id }).post t .contextRestoreEnd
      { c := c, run := run, id := id }).startStatus reply 0 t

/-- Puts a taken item back (R274): a pair at the deque's near end, a save into the cloakroom, a notice into its ring. -/
def State.putBack (s : State) (core : Nat) (i : TItem) : State :=
  match i with
  | .pair q => s.nearEnd core [q]
  | .saved id =>
    s.modOctet (octetOf core) fun o => { o with cloak := mapIf (fun (x : Saved) => x.id == id) (fun x => { x with taken := false }) o.cloak }
  | .notice die slot => s.modDie die fun d => { d with staffTaken := d.staffTaken.filter fun x => x != slot }

/-- A sweep's start as a ready cloakroom entry of its core (R53). -/
def State.sweepEntry (s : State) (core : Nat) (x : Ctx) : State :=
  let (id, s) := s.newId
  s.cloakPut (octetOf core) { id := id, core := core, c := { s.withAnswers x with starting := false }, prio := x.prio }

/-! ## Saves (R59 to R61, R408) -/

/-- The save of a context, if one is in progress. -/
def State.saveOf (s : State) (c : CtxId) : Option Save :=
  (s.octet (octetOf c.core)).saves.find? fun (x : Save) => x.core == c.core && x.ctx == c.ctx

/-- Replaces a save. -/
def State.setSave (s : State) (c : CtxId) (f : Save → Save) : State :=
  s.modOctet (octetOf c.core) fun o => { o with saves := mapIf (fun (x : Save) => x.core == c.core && x.ctx == c.ctx) f o.saves }

/-- Ends a save's entry. -/
def State.dropSave (s : State) (c : CtxId) : State :=
  s.modOctet (octetOf c.core) fun o => { o with saves := o.saves.filter fun (x : Save) => !(x.core == c.core && x.ctx == c.ctx) }

/-- Begins a save: the context issues nothing from now on (R408). -/
def State.beginSave (s : State) (c : CtxId) (after : After) : State :=
  let run := (s.ctx c).run
  (s.modOctet (octetOf c.core) fun o => { o with saves := o.saves ++ [{ core := c.core, ctx := c.ctx, run := run, after := after }] }).post
    s.cycle .contextSaveEnd { c := c, run := run }

/-- What follows a save that has ended. -/
def State.afterSave (s : State) (c : CtxId) (a : After) : State :=
  match a with
  | .nothing => s
  | .startItem i l => s.startItem c i l
  | .startPc pc s1 prio l => (s.startAtPc c pc s1 prio).startStatus l 0 (s.cycle + 2)
  | .sweep x => s.startSweep c x

/-- What follows a save whose context stopped instead (R336): START answers 2 and keeps its item, and a sweep's start becomes
a cloakroom entry. -/
def State.afterStop (s : State) (c : CtxId) (a : After) : State :=
  match a with
  | .nothing => s
  | .startItem i l =>
    let k := s.coreAt c.core
    (if k.takeReg.isNone then s.setCore c.core { k with takeReg := some i } else s.putBack c.core i).startStatus l 2 (s.cycle + 2)
  | .startPc _ _ _ l => s.startStatus l 2 (s.cycle + 2)
  | .sweep x => s.sweepEntry c.core x

/-- An access that is outstanding, wherever it is. -/
def State.findAccess (s : State) (id : Nat) : Option Access :=
  ((s.sleepers.find? fun (z : Sleeper) => z.acc.id == id).map (·.acc)).orElse fun _ =>
  ((s.underWay.find? fun (p : Pending) => p.arg.acc.id == id).map (·.arg.acc)).orElse fun _ =>
  ((s.octets.findSome? fun p => p.2.waiting.find? fun (a : Access) => a.id == id)).orElse fun _ =>
  ((s.dies.findSome? fun p => p.2.remote.find? fun (r : RemoteReq) => r.acc.id == id).map (·.acc))

/-- Takes an access away, wherever it is. -/
def State.cancelAccess (s : State) (id : Nat) : State :=
  let s := { s with sleepers := s.sleepers.filter fun (z : Sleeper) => z.acc.id != id }
  let s := { s with agenda := s.agenda.filter fun (p : Pending) => p.arg.acc.id != id,
                    packets := s.packets.filter fun (q : Packet) => q.step.arg.acc.id != id }
  let s := { s with octets := s.octets.map fun (p : Nat × Octet) => (p.1, { p.2 with waiting := p.2.waiting.filter fun a => a.id != id }) }
  { s with dies := s.dies.map fun (p : Nat × Die) => (p.1, { p.2 with remote := p.2.remote.filter fun r => r.acc.id != id }) }

/-- The cycles that a CWAIT's limit has left, at least 1; 0 where it has none (R61). -/
def State.cwaitLeft (s : State) (c : CtxId) (id : Nat) : Nat :=
  let x := s.ctx c
  match s.agenda.find? fun (p : Pending) => p.ev == Instr.cwaitLimitExpire && p.arg.id == id with
  | some p => max 1 (p.arg.n + x.left + (if x.drops.isEmpty then 0 else s.cycle - x.dropAt) - s.cycle)
  | none => 0

/-- A save takes its context out of CWAIT: the CWAIT issues again at the restore, with the limit it has left (R61). -/
def State.leaveCwait (s : State) (c : CtxId) (id : Nat) : State :=
  let left := s.cwaitLeft c id
  let run := (s.ctx c).run
  let t := match s.findAccess id with
    | some a => s.undoDest c run a.dest a.was
    | none => s
  let t := t.cancelAccess id
  let t := { t with agenda := t.agenda.filter fun (p : Pending) => !(p.ev == Instr.cwaitLimitExpire && p.arg.id == id) }
  t.modCtx c fun x => { x with wait := .blocked 6, left := left }

/-- Whether R61 lets a context be saved now: no access and no late result outstanding, and no wait for the end of its
instruction (DEDUCED, assumption log 16); the run of a built-in rule is saved between two of its pieces. -/
def Ctx.savable (x : Ctx) : Bool :=
  x.quiet && x.lateOut == 0 && x.relFault.isNone &&
    match x.wait with
    | .reply _ => false
    | .cwait _ => false
    | .hold _ => x.builtin.isSome
    | _ => true

/-- The wait kind of a save (R62), and a roll-call WAIT's tag and remaining limit. -/
def State.saveKind (s : State) (x : Ctx) : Nat × Nat × Nat :=
  if !x.drops.isEmpty then (3, 0, x.left)
  else
    match x.wait with
    | .fetchDrop => (3, 0, x.left)
    | .blocked k => (k, 0, x.left)
    | .roll t dl => (5, t, if dl == 0 then 0 else max 1 (dl - s.cycle))
    | _ => (0, 0, x.left)

/-- Ends a save: the layout stands in the cloakroom, and the bank is gated (R60, R78). -/
def State.saveNow (s : State) (c : CtxId) (after : After) : State :=
  let x := s.ctx c
  let (kind, tag, left) := s.saveKind x
  let (id, s) := s.newId
  let s := (s.setCtx c {}).dropSave c
  (s.cloakPut (octetOf c.core)
    { id := id, core := c.core, c := { x with wait := .none, left := left, starting := false }, prio := x.prio, kind := kind,
      ready := kind != 3 && kind != 5, tag := tag }).afterSave c after

/-- Sends the withdraw of a parked operation (R61); its answer comes back in the time of a reply. -/
def State.sendWithdraw (s : State) (c : CtxId) (a : Access) : State :=
  (s.setSave c fun x => { x with withdrawn := true }).postIn (a.lat / 2) .saveWithdrawReply { c := c, run := a.run, id := a.id }

/-- CONTEXT_SAVE_END: what a save waits for, cycle by cycle (R61), then its 21 cycles of port, and its end. A context that
traps meanwhile is not saved (R336). -/
def execContextSaveEnd (s : State) : Host.Outcome State Fault Refusal :=
  let c := s.arg.c
  let x := s.ctx c
  let again (s : State) : Host.Outcome State Fault Refusal := .next (s.post (s.cycle + 1) .contextSaveEnd s.arg)
  match s.saveOf c with
  | none => .next s
  | some v =>
    if v.run != s.arg.run then .next s
    else if x.run != v.run || x.life != .active then .next ((s.dropSave c).afterStop c v.after)
    else if v.ends != 0 then
      if s.cycle < v.ends then .next (s.post v.ends .contextSaveEnd s.arg) else .next (s.saveNow c v.after)
    else
      match x.wait with
      | .cwait id => .next ((s.leaveCwait c id).post s.cycle .contextSaveEnd s.arg)
      | w =>
        let parked := match w with
          | .reply id => if v.withdrawn then none else s.parked.find? fun (p : Parked) => p.acc.id == id
          | _ => none
        match parked with
        | some p => again (s.sendWithdraw c p.acc)
        | none =>
          if x.savable then
            let (t, s) := s.takePort (octetOf c.core)
            .next ((s.setSave c fun v => { v with ends := t }).post t .contextSaveEnd s.arg)
          else again s

/-- SAVE_WITHDRAW_REPLY (R61): the withdraw at the bank (0), and its answer at the core (1). An operation that the bank has
completed or refused is answered by its own reply. -/
def execSaveWithdrawReply (s : State) : Host.Outcome State Fault Refusal :=
  let c := s.arg.c
  if s.arg.n == 0 then
    match s.parked.find? fun (p : Parked) => p.acc.id == s.arg.id with
    | none => .next (s.setSave c fun x => { x with withdrawn := false })
    | some p =>
      .next ({ s with parked := s.parked.filter fun (q : Parked) => q.acc.id != p.acc.id }.postIn (p.acc.lat - p.acc.lat / 2)
        .saveWithdrawReply { s.arg with n := 1, acc := p.acc })
  else
    let a := s.arg.acc
    let s := s.undoDest c a.run a.dest a.was
    .next ((s.modRun c a.run fun x => { x.accDone a with wait := .blocked 4, tries := a.tries }).setSave c fun x =>
      { x with withdrawn := false })

/-! ## Restores (R60, R61) -/

/-- A saved context as its restore starts it: a kind-5 entry that is ready has completed its WAIT (R61). It has the priority
that its entry has aged to (R58; DESIGN CHOICE, assumption log 64). -/
def Saved.restored (x : Saved) (at' : Nat) : Ctx :=
  { x.c.modBuddy (fun b => { b with waits := false }) with
             life := .active, wait := if x.c.builtin.isSome then .hold x.c.run else .none, readyAt := max x.c.readyAt at', prio := x.prio, starting := true,
             drops := if x.kind == 3 then [] else x.c.drops,
             pc := if x.kind == 5 && x.ready then x.c.pc + 8 else x.c.pc,
             left := if x.kind == 5 && x.ready then 0 else x.c.left }

/-- Takes an entry out of a cloakroom. -/
def State.dropSaved (s : State) (octet id : Nat) : State :=
  s.modOctet octet fun o => { o with cloak := o.cloak.filter fun (x : Saved) => x.id != id }

/-- Lets the run of a built-in rule go on. -/
def State.kickBuiltin (s : State) (c : CtxId) : State :=
  let x := s.ctx c
  if x.builtin.isNone || s.agenda.any fun (p : Pending) => p.ev == Instr.builtinRuleRun && p.arg.run == x.run && p.arg.c == c then s
  else s.post s.cycle .builtinRuleRun { c := c, run := x.run }

/-- Puts a saved context into a context of its core. -/
def State.putSaved (s : State) (octet : Nat) (x : Saved) (c : CtxId) : State :=
  (((s.dropSaved octet x.id).setCtx c (x.restored s.cycle)).kickBuiltin c).settle c

/-- CONTEXT_RESTORE_END: the layout stands in its context; a report kept with the entry stops it first (R336). -/
def execContextRestoreEnd (s : State) : Host.Outcome State Fault Refusal :=
  let c := s.arg.c
  let octet := octetOf c.core
  if (s.ctx c).run != s.arg.run then .next s
  else
    match (s.octet octet).cloak.find? fun (x : Saved) => x.id == s.arg.id with
    | none => .next (s.setCtx c {})
    | some x => .next (s.putSaved octet x c)

/-! ## PARK, WAKE, YIELD (R277) -/

/-- Parks a context that is in rotation. -/
def State.parkCtx (s : State) (c : CtxId) : State :=
  let x := s.ctx c
  if c.ctx == 0 || x.life != .active || s.isSaving c then s else s.modCtx c fun x => { x with life := .parked }

/-- Whether an instruction that names a context may act on it: context 0 on every one, and a context on itself where
`self` says so (R48, R264). -/
def State.mayName (s : State) (k : Nat) (self : Bool) : Bool := s.who.ctx == 0 || (self && k == s.who.ctx)

/-- PARK. -/
def execPark (a : Option Src) (s : State) : Host.Outcome State Fault Refusal :=
  match a with
  | none =>
    if s.who.ctx == 0 then .next (s.trapHere 0x01 0) else .next (s.finish.parkCtx s.who)
  | some r =>
    match s.peek { a := some r } with
    | .stop t => .next t
    | .ok v =>
      let k := v.a.toNat % 16
      if !s.mayName k true then .next (s.trapHere 0x04 0)
      else .next (((s.commit { a := some r }).finish).parkCtx ⟨s.who.core, k⟩)

/-- WAKE: a context that is not parked is left as it is. -/
def execWake (a : Src) (s : State) : Host.Outcome State Fault Refusal :=
  match s.peek { a := some a } with
  | .stop t => .next t
  | .ok v =>
    let k := v.a.toNat % 16
    let c : CtxId := ⟨s.who.core, k⟩
    if !s.mayName k true then .next (s.trapHere 0x04 0)
    else
      let s := (s.commit { a := some a }).finish
      let x := s.ctx c
      if x.life != .parked then .next s
      else
        .next (((s.modCtx c fun x => { x with life := .active }).kickBuiltin c).settle c)

/-- YIELD: the issuer saves itself, with the pc of the next instruction. -/
def execYield (s : State) : Host.Outcome State Fault Refusal :=
  if s.who.ctx == 0 then .next (s.trapHere 0x01 0) else .next (s.finish.beginSave s.who .nothing)

/-! ## MIGR (R63, R377, R414) -/

/-- The context leaves its core: what it is stands in the cloakroom of the target's octet until it arrives, and the old core
forwards what is still to come. -/
def State.leaveFor (s : State) (c : CtxId) (dst : Nat) : State :=
  let x := s.ctx c
  let octet := octetOf dst
  let (id, s) := s.newId
  let s := s.setCtx c {}
  let s := s.modOctet octet fun o =>
    { o with cloak := o.cloak ++ [{ id := id, core := dst, c := { x with wait := .none, starting := false }, prio := x.prio, kind := 7,
                                    ready := false }] }
  if dst == c.core then
    let (_, s) := s.takePort octet
    let (t, s) := s.takePort octet
    s.post t .migrArrive { octet := octet, id := id }
  else
    let s := s.modCore c.core fun k => { k with fwd := { run := x.run, dest := ⟨dst, 0⟩, till := s.cycle + 4096 } :: k.fwd }
    let s := s.post (s.cycle + 4096) .forwardingEntryLapse { core := c.core, run := x.run }
    s.sendN c.core (dieOf dst) (16 + 1344) (70 + 60 * crossings (dieOf c.core) (dieOf dst)) .migrArrive { octet := octet, id := id }

/-- MIGR. -/
def execMigr (a : Src) (s : State) : Host.Outcome State Fault Refusal :=
  let u : Uses := { a := some a }
  if s.who.ctx == 0 then .next (s.trapHere 0x01 0)
  else
    .next (s.waiting u Ctx.acked fun v s =>
      let dst := v.a.toNat % 7680
      let run := (s.ctx s.who).run
      if s.isStaffCore dst && s.priv s.who < 2 then s.trapHere 0x04 0
      else if (List.range 8).any fun i => (s.q s.who.core i).owner == some run then s.trapHere 0x0A 0
      else ((s.commit u).finish).leaveFor s.who dst)

/-- MIGR_ARRIVE (R63): the lowest-numbered free context, or a ready cloakroom entry. -/
def execMigrArrive (s : State) : Host.Outcome State Fault Refusal :=
  let octet := s.arg.octet
  match (s.octet octet).cloak.find? fun (x : Saved) => x.id == s.arg.id with
  | none => .next s
  | some x =>
    let s := s.modCore x.core fun k => { k with fwd := k.fwd.filter fun (f : Forward) => f.run != x.c.run }
    match s.freeCtxs x.core with
    | k :: _ => .next (s.putSaved octet x ⟨x.core, k⟩)
    | [] => .next ((s.dropSaved octet x.id).cloakPut octet { x with kind := 0, ready := true })

/-- FORWARDING_ENTRY_LAPSE (R377): an entry stays while a reply that it must forward is outstanding. -/
def execForwardingEntryLapse (s : State) : Host.Outcome State Fault Refusal :=
  let core := s.arg.core
  match (s.coreAt core).fwd.find? fun (f : Forward) => f.run == s.arg.run with
  | none => .next s
  | some f =>
    let open' := match s.runCtx ⟨core, 0⟩ f.run with
      | some x => !x.quiet || x.lateOut != 0
      | none => false
    if s.cycle < f.till then .next (s.post f.till .forwardingEntryLapse s.arg)
    else if open' then .next (s.post (s.cycle + 1) .forwardingEntryLapse s.arg)
    else .next (s.modCore core fun k => { k with fwd := k.fwd.filter fun (g : Forward) => g.run != f.run })

/-! ## CTXRD and CTXWR (R79, R277) -/

/-- The status word of a context (R81). -/
def State.statusOf (s : State) (c : CtxId) : Word :=
  let x := s.ctx c
  BitVec.ofNat 64 (s.priv c * 2 ^ 62 + x.prio * 2 ^ 54 + x.rm.toNat * 2 ^ 51 + b2n x.ctxz * 2 ^ 50 + x.flags.toNat * 2 ^ 45 + c.ctx * 2 ^ 32 +
    x.net.toNat * 2 ^ 16)

/-- A write of status: rm unless it is reserved, and the flags that are written 1 (R81). -/
def Ctx.writeStatus (x : Ctx) (v : Word) : Ctx :=
  let rm := bits v.toNat 53 51
  { x with rm := if 4 < rm then x.rm else BitVec.ofNat 3 rm, flags := x.flags &&& ~~~BitVec.ofNat 5 (bits v.toNat 49 45) }

/-- The full bits of a context and the stream registers that it has claimed (offset 0x528 of R62). -/
def State.fullBits (s : State) (c : CtxId) : Nat :=
  let x := s.ctx c
  let claims := ((List.range 8).filter fun i => (s.q c.core i).owner == some x.run).foldl (fun a i => a + 2 ^ i) 0
  (x.sFull.toNat ||| 1) + x.vFull.toNat * 2 ^ 32 + claims * 2 ^ 40

/-- A register of a context by its selector; a gated bank reads zero. -/
def State.ctxSel (s : State) (c : CtxId) (sel : Nat) : Word :=
  let x := s.ctx c
  if x.life == .gated then 0
  else if sel < 32 then (if sel == 0 then 0 else rd x.s sel 0)
  else if 0x100 ≤ sel && sel < 0x180 then BitVec.ofNat 64 (lane (rd x.v (bits sel 6 4) 0) 64 (sel % 16))
  else if 0x200 ≤ sel && sel < 0x204 then (rd x.p (sel % 4) 0).setWidth 64
  else if sel == 0x300 then x.pc
  else if sel == 0x301 then s.statusOf c
  else if sel == 0x302 then x.wid
  else if sel == 0x303 then x.waitLimit.setWidth 64
  else if sel == 0x304 then BitVec.ofNat 64 (s.fullBits c)
  else 0

/-- CTXRD. -/
def execCtxrd (d : Reg) (a b : Src) (s : State) : Host.Outcome State Fault Refusal :=
  let u : Uses := { a := some a, b := some b, out := [d], need := 1 }
  match s.peek u with
  | .stop t => .next t
  | .ok v =>
    let c : CtxId := ⟨s.who.core, v.a.toNat % 16⟩
    let w := s.ctxSel c (v.b.toNat % 65536)
    let z := (s.ctx c).life == .gated
    .next ((((s.commit u).modCtx s.who fun x => { x with ctxz := z }).setReg d w).finish)

/-- Dword `j` of a vector register replaced. -/
def putDwordV (v : VWord) (j : Nat) (w : Word) : VWord :=
  (v &&& ~~~BitVec.ofNat 1024 (0xFFFFFFFFFFFFFFFF * 2 ^ (64 * j))) ||| BitVec.ofNat 1024 (w.toNat * 2 ^ (64 * j))

/-- A register of a retained bank replaced by its selector. -/
def Ctx.putSel (x : Ctx) (sel : Nat) (w : Word) : Ctx :=
  if sel < 32 then x.setS sel w
  else if 0x100 ≤ sel && sel < 0x180 then
    let r := bits sel 6 4
    x.setV r (putDwordV (rd x.v r 0) (sel % 16) w)
  else if 0x200 ≤ sel && sel < 0x204 then { x with p := wr x.p (sel % 4) (w.setWidth 32) }
  else if sel == 0x300 then { x with pc := w, qskip := none }
  else if sel == 0x301 then x.writeStatus w
  else if sel == 0x303 then { x with waitLimit := w.setWidth 32 }
  else x

/-- CTXWR. -/
def execCtxwr (a b c : Src) (s : State) : Host.Outcome State Fault Refusal :=
  let u : Uses := { a := some a, b := some b, c := some c, need := 1 }
  match s.peek u with
  | .stop t => .next t
  | .ok v =>
    let k : CtxId := ⟨s.who.core, v.a.toNat % 16⟩
    let s := (s.commit u).finish
    let life := (s.ctx k).life
    .next (if life == .parked || life == .trapped then s.modCtx k fun x => x.putSel (v.b.toNat % 65536) v.c else s)

end Sys2Proof.Machine
end

