-- ==== Sys2Proof/Machine/Layout.lean ====
section
/-! DEFINITION. The 1,344-byte save layout (R62), written and read. -/

namespace Sys2Proof.Machine

/-- The wait kind, generation and low field of offset 0x530 of a context (R62): a trapped one has kind 2 and its cause. -/
def State.layoutKind (s : State) (c : CtxId) : Nat :=
  let x := s.ctx c
  if x.life == .trapped then 2 * 2 ^ 61 + x.prio * 2 ^ 48 + x.frec.cause
  else
    let (kind, tag, left) := match x.wait with
      | .reply _ => (4, 0, 0)
      | .cwait id => (6, 0, s.cwaitLeft c id)
      | _ => s.saveKind x
    let gen := if kind == 5 then b2n ((rd x.arr tag none).getD false) else 0
    kind * 2 ^ 61 + gen * 2 ^ 60 + x.prio * 2 ^ 48 + left % 2 ^ 48

/-- The retries that a context has used (R62): those of its parked operation while that waits. -/
def State.layoutTries (s : State) (c : CtxId) : Nat :=
  let x := s.ctx c
  match x.wait with
  | .reply id => ((s.parked.find? fun (p : Parked) => p.acc.id == id).map (·.acc.tries)).getD x.tries
  | _ => x.tries

/-- The save layout of a context (R62). -/
def State.layout (s : State) (c : CtxId) : List Byte :=
  let x := s.ctx c
  ((List.range 32).flatMap fun i => natBytes (if i == 0 then 0 else (rd x.s i 0).toNat) 8) ++
    ((List.range 8).flatMap fun i => natBytes (rd x.v i 0).toNat 128) ++
    ((List.range 4).flatMap fun i => natBytes (rd x.p i 0).toNat 4) ++
    natBytes x.pc.toNat 8 ++ natBytes (s.statusOf c).toNat 8 ++ natBytes x.wid.toNat 8 ++ natBytes (s.fullBits c) 8 ++
    natBytes (s.layoutKind c) 8 ++ natBytes (s.layoutTries c % 2 ^ 32 * 2 ^ 32 + x.waitLimit.toNat) 8

/-- A context with the registers that a save layout holds (R62): nothing is outstanding into it, and stream claims stay with
its core. -/
def Ctx.ofLayout (x : Ctx) (l : List Byte) : Ctx :=
  let at' (off n : Nat) : Nat := bytesNat ((l.drop off).take n)
  let status := at' 0x518 8
  let full := at' 0x528 8
  { x with
    s := Vector.ofFn fun (i : Fin 32) => if i.val == 0 then 0 else BitVec.ofNat 64 (at' (8 * i.val) 8)
    sFull := BitVec.ofNat 32 full ||| 1
    sPend := 0
    v := Vector.ofFn fun (i : Fin 8) => BitVec.ofNat 1024 (at' (0x100 + 128 * i.val) 128)
    vFull := BitVec.ofNat 8 (full / 2 ^ 32)
    vPend := 0
    p := Vector.ofFn fun (i : Fin 4) => BitVec.ofNat 32 (at' (0x500 + 4 * i.val) 4)
    pc := BitVec.ofNat 64 (at' 0x510 8)
    prio := bits status 61 54
    rm := BitVec.ofNat 3 (bits status 53 51)
    ctxz := bitAt status 50
    flags := BitVec.ofNat 5 (bits status 49 45)
    net := BitVec.ofNat 16 (bits status 31 16)
    wid := BitVec.ofNat 64 (at' 0x520 8)
    left := bits (at' 0x530 8) 47 0
    tries := at' 0x538 8 / 2 ^ 32
    waitLimit := BitVec.ofNat 32 (at' 0x538 8)
    plain := .none
    relaxed := 0
    relStores := 0
    relFault := none
    wait := .none }

end Sys2Proof.Machine
end

