-- ==== Sys2Proof/Machine/Buddy.lean ====
section
/-! DEFINITION. The comparison of a buddy pair, its agreement and its rollback (R399, R400). -/

namespace Sys2Proof.Machine

/-- The bytes that a write-back adds to the fingerprint: the register, and its value; a vector register has 128 bytes, a
predicate 4 and a scalar register 8. A late result that has not come adds the register alone (DESIGN CHOICE, assumption log 46). -/
def writeBytes (w : Nat × Option VWord) : List Byte :=
  let n := if w.1 < 64 then 8 else if w.1 < 72 then 128 else 4
  natBytes w.1 1 ++ (w.2.map fun v => natBytes v.toNat n).getD []

/-- The CRC-32C of bytes (R187). -/
def crc32cBytes (l : List Byte) : Nat :=
  l.foldl (fun x b => (List.range 8).foldl (fun x j => crc32cStep x (tb b j)) x) 0xFFFFFFFF

/-- The fingerprint of a context's retired write-backs since the last agreement (R399). -/
def Buddy.fingerprint (b : Buddy) : Nat := crc32cBytes (b.writes.flatMap writeBytes)

/-- Where a context's checkpoint lies in its core's w7 (R399). -/
def checkpointOff (c : CtxId) : Nat := c.ctx * 0x540

/-- The storage of a context's checkpoint, or the cause of a fault there. -/
def State.checkpoint (s : State) (c : CtxId) (n : Need) : Except Nat Nat :=
  s.protect c.core false (.window c.core 7 (checkpointOff c)) n

/-- Stops a context of a pair with a cause (R399, R400); the record has the instruction word at its pc (R325). -/
def State.buddyTrap (s : State) (c : CtxId) (cause : Nat) (a : Word) : State :=
  let pc := (s.ctx c).pc
  s.trap c { cause := cause, pc := pc, addr := a, word := BitVec.ofNat 64 (s.dword c.core pc) }

/-- Both contexts stop for a fault at a checkpoint. -/
def State.checkpointFault (s : State) (c d : CtxId) (e : CtxId) (cause : Nat) : State :=
  let a := localAddr (BitVec.ofNat 64 (7 * 65536 + checkpointOff e))
  (s.buddyTrap c cause a).buddyTrap d cause a

/-- A buffered store leaves at an agreement: it is outstanding until it is acknowledged. -/
def State.leaveBuffer (s : State) (c : CtxId) (a : Access) : State :=
  let (i, s) := s.newId
  (s.modCtx c fun x => { x with relaxed := x.relaxed + 1, relStores := x.relStores + 1 }).route
    { a with id := i, who := c, rx := true, issued := s.cycle }

/-- A context goes on from a comparison. -/
def Buddy.anew (b : Buddy) (bad : Nat) : Buddy :=
  { even := b.even, partner := b.partner, prun := b.prun, bad := bad, passed := true }

/-- An agreement: both write their checkpoints, and the even core's stores leave (R399). -/
def State.agree (s : State) (c d : CtxId) (buf : List Access) : State :=
  match s.checkpoint c .store, s.checkpoint d .store with
  | .error k, _ => s.checkpointFault c d c k
  | _, .error k => s.checkpointFault c d d k
  | .ok p, .ok q =>
    let lc := s.layout c
    let ld := s.layout d
    let s := (s.storeL p lc).storeL q ld
    let s := (s.modCtx c fun x => { x.modBuddy (·.anew 0) with readyAt := max x.readyAt (s.cycle + 1) }).modCtx d fun x =>
      { x.modBuddy (·.anew 0) with readyAt := max x.readyAt (s.cycle + 1) }
    buf.foldl (fun s a => s.leaveBuffer c a) s

/-- A context restored from its checkpoint. -/
def State.rollOne (s : State) (c : CtxId) (p : Nat) : State :=
  let l := memReadL s.mem p 0x540
  s.modCtx c fun x => { (x.ofLayout l).modBuddy (fun b => b.anew (b.bad + 1)) with readyAt := max x.readyAt (s.cycle + 1) }

/-- A disagreement: both restore, and the third without an agreement stops both with 0x38 (R400). -/
def State.rollback (s : State) (c d : CtxId) : State :=
  match s.checkpoint c .load, s.checkpoint d .load with
  | .error k, _ => s.checkpointFault c d c k
  | _, .error k => s.checkpointFault c d d k
  | .ok p, .ok q =>
    let s := (s.rollOne c p).rollOne d q
    if (s.ctx c).buddy.any fun b => 3 ≤ b.bad then (s.buddyTrap c 0x38 0).buddyTrap d 0x38 0 else s

/-- Whether nothing is outstanding into a context of a pair, but for accesses that the odd core waits for in vain. -/
def Ctx.still (x : Ctx) : Bool := x.lateOut == 0 && (x.quiet || x.buddy.any fun b => !b.even && !b.opened.isEmpty)

/-- BUDDY_COMPARE: both contexts have reached a comparison, and it is made once nothing is outstanding into them. -/
def execBuddyCompare (s : State) : Host.Outcome State Fault Refusal :=
  let c := s.arg.c
  match (s.ctx c).buddy with
  | none => .next s
  | some b =>
    match s.place b.partner b.prun with
    | .at d =>
      match (s.ctx d).buddy with
      | none => .next s
      | some e =>
        if !b.waits || !e.waits then .next s
        else if !((s.ctx c).still && (s.ctx d).still) then .next (s.post (s.cycle + 1) .buddyCompare s.arg)
        else if b.fingerprint == e.fingerprint then .next (s.agree c d b.buf)
        else .next (s.rollback c d)
    | _ => .next s

end Sys2Proof.Machine
end

