-- ==== Sys2Proof/Machine/Cycle.lean ====
section
/-! DEFINITION. What a step runs (DESIGN CHOICE, assumption log 1): the drain word in the pipe, the earliest due step of the device, or
the next instruction of the core whose turn it is, under the rotation of R45 and R46; and instruction fetch (R188,
R338). -/

namespace Sys2Proof.Machine

/-! ## Fetch (R188, R338) -/

/-- What a fetch gives: a word, a drop, or a cause. -/
inductive Fetched where
  | word (w : Word) (s : State)
  | drop (s : State)
  | fault (cause : Nat) (s : State)

/-- Reads the instruction word at a key. -/
def State.fetchKey (s : State) (c : CtxId) (pc : Word) (k : Nat) : Fetched :=
  let s := (s.meetErrors k 8).1
  if s.isPoisoned k 8 then
    .fault 0x17 (s.notice (dieOf c.core) { kind := 0x0B, cause := 0x17, core := c.core, ctx := c.ctx, value := pc })
  else .word (BitVec.ofNat 64 (s.rd8 k)) s

/-- Drops a context on a fetch that misses: no access is held (R327, R338). -/
def State.fetchDrop (s : State) (c : CtxId) (pc : Word) : State :=
  (s.modCtx c fun x => { x with wait := .fetchDrop, drops := [pc] }).missNotice (dieOf c.core) c (s.partOf c.core) pc 0

/-- The fetch of a context's next instruction. A translation-cache miss whose walk finds a leaf fills the cache, and the
context fetches again when the walk's time is over. -/
def State.fetch (s : State) (c : CtxId) : Fetched :=
  let pc := (s.ctx c).pc
  if pc.toNat % 8 != 0 then .fault 0x15 s
  else
    match s.form c.core pc with
    | .bad => .fault 0x10 s
    | .remote _ => .fault 0x16 s
    | .mem off =>
      let die := dieOf c.core
      let part := s.partOf c.core
      match s.tlbFind die part off with
      | none =>
        match s.walk part off with
        | (none, _) => .drop (s.fetchDrop c pc)
        | (some l, n) => .drop ((s.tlbFill die part l).modCtx c fun x => { x with readyAt := s.cycle + 110 * n })
      | some e =>
        match s.checkEnt e pc off 8 2 with
        | .bad k => .fault k s
        | .miss => .drop (s.fetchDrop c pc)
        | .ok p e =>
          if s.priv c < 2 && s.isRetired p then .drop (s.fetchDrop c pc)
          else (s.touch die e false).fetchKey c pc p
    | f =>
      match s.protect c.core (s.priv c == 2) f .load with
      | .error k => .fault k s
      | .ok k => s.fetchKey c pc k

/-! ## The rotation of a core (R45, R46) -/

/-- Whether a context may be chosen: in rotation, not waiting, spaced from its last issue, not stopped or dropped. An
instruction that waits for a register is out of the ready set until that register lets it go on (R73); one that waits on another
issue condition is tried again (DEDUCED, assumption log 7). -/
def State.isReady (s : State) (c : CtxId) : Bool :=
  let x := s.ctx c
  let free := match x.wait with
    | .none => true
    | .blocked _ =>
      match x.blockedOn with
      | some b => s.unblocked c b
      | none => true
    | _ => false
  let waits := match x.buddy with
    | some b => b.waits
    | none => false
  x.life == .active && free && x.drops.isEmpty && x.relFault.isNone && x.readyAt ≤ s.cycle && !waits && !s.isSaving c

/-- The next ready context of a core, from place `k` after its rotation pointer; a context with skipped turns is passed
over, and one turn is removed (R46). -/
def State.scanCore (core : Nat) : Nat → Nat → State → State × Option (Nat × Nat)
  | 0, _, s => (s, none)
  | f + 1, k, s =>
    let i := ((s.coreAt core).rot + 1 + k) % 16
    let c : CtxId := ⟨core, i⟩
    if s.isReady c then
      if 0 < (s.ctx c).skips then
        State.scanCore core f (k + 1) (s.modCtx c fun x => { x with skips := x.skips - 1 })
      else (s, some (i, k))
    else State.scanCore core f (k + 1) s

/-- The next core from `core` on that has a ready context. -/
def State.scanCores : Nat → Nat → Nat → State → State × Option (CtxId × Nat)
  | 0, _, _, s => (s, none)
  | f + 1, core, k, s =>
    match State.scanCore core (16 - k) k s with
    | (t, some (i, j)) => (t, some (⟨core, i⟩, j))
    | (t, none) => State.scanCores f (core + 1) 0 t

/-! ## Due steps -/

/-- Whether one step comes before another. -/
def Pending.before (p q : Pending) : Bool := p.due < q.due || (p.due == q.due && p.seq ≤ q.seq)

/-- The earliest step that is due at a cycle, early or late, and the agenda without it. -/
def takeDue (now : Nat) (late : Bool) : List Pending → Option (Pending × List Pending)
  | [] => none
  | p :: r =>
    let mine := p.due ≤ now && p.late == late
    match takeDue now late r with
    | none => if mine then some (p, r) else none
    | some (q, r') => if mine && p.before q then some (p, r) else some (q, p :: r')

/-! ## What a step runs -/

/-- What a step does: run an instruction, drain word or step of the device, or move on by itself. `issue` says that it
is the issue of a core. -/
inductive Plan where
  | run (i : Instr) (s : State) (issue : Bool)
  | move (s : State)

/-- The MATX whose segment is in an octet's drain pipe. -/
def Mxu.inPipe (m : Mxu) : Option Matx :=
  (m.cmds.find? (·.id == m.pipe.id)).bind fun c =>
    match c.cmd with
    | .matx x => some x
    | _ => none

/-- The drain word that an octet's pipe runs next. -/
def State.pipeWord (s : State) (o : Nat) : Option Instr :=
  let m := (s.octet o).mxu
  m.inPipe.bind fun x => (x.prog[m.pipe.pos]?).bind decodeDrain

/-- Ends the turn of a core: the next core follows. -/
def State.nextCore (s : State) (c : CtxId) : State := { s with turn := c.core + 1, scan := 0 }

/-- The context at place `k` after the pointer turns out not to be ready, because its fetch misses or it waits for its partner:
it takes no issue slot, and the contexts after it in the rotation follow (R46, R47). -/
def State.passOver (s : State) (c : CtxId) (k : Nat) : State := { s with turn := c.core, scan := k + 1 }

/-- The context has taken its core's issue slot: the rotation pointer stands at it, and the next core follows (R46). -/
def State.tookSlot (s : State) (c : CtxId) : State := (s.modCore c.core fun k => { k with rot := c.ctx }).nextCore c

/-- After an issue: an instruction that did not issue leaves the slot to the contexts after it in the rotation;
otherwise the rotation pointer stands at the context, and the next core follows. -/
def State.closeIssue (s : State) (c : CtxId) : State :=
  match (s.ctx c).wait with
  | .blocked _ => { s with scan := s.scan + 1 }
  | _ => s.tookSlot c

/-- Whether a word is END, YIELD, MIGR or PARK.self, which context 0 does not have (R193, R264). -/
def neverInHome (w : Word) : Bool :=
  let op := bits w.toNat 56 48
  op == 0x009 || op == 0x1C4 || op == 0x1C5 || (op == 0x1C2 && bitAt w.toNat 0)

/-- Whether a buddy context compares before an instruction word (R399): after 1,024 instructions, with a full store buffer, and
before an instruction whose effect cannot be held. -/
def Buddy.compares (b : Buddy) (w : Word) : Bool :=
  let op := bits w.toNat 56 48
  !b.passed && (1024 ≤ b.count || 64 ≤ b.buf.length || op == 0x009 || (0x082 ≤ op && op ≤ 0x084) || (0x090 ≤ op && op ≤ 0x098) ||
    (0x0C2 ≤ op && op ≤ 0x0C4) || (0x0D0 ≤ op && op ≤ 0x0D8) || op == 0x161 || (0x180 ≤ op && op ≤ 0x1E7))

/-- A buddy context waits for its partner to compare. -/
def State.buddyWait (s : State) (c : CtxId) (b : Buddy) : State :=
  let s := s.modCtx c fun x => x.modBuddy fun b => { b with waits := true }
  match s.place b.partner b.prun with
  | .at d =>
    if (s.ctx d).buddy.any (·.waits) then s.post s.cycle .buddyCompare { c := if b.even then c else d } else s
  | _ => s

/-- The issue of a context: fetch, decode (R170 steps 1 to 3), and the instruction. -/
def State.planIssue (s : State) (c : CtxId) (k : Nat) : Plan :=
  let s := { s with turn := c.core, scan := k, who := c }
  match s.fetch c with
  | .drop t => .move (t.passOver c k)
  | .fault cause t => .move ((t.trap c { cause := cause, pc := (t.ctx c).pc, addr := (t.ctx c).pc, word := 0 }).tookSlot c)
  | .word w t =>
    let t := { t with word := w }
    match decode w with
    | .ok i =>
      match (t.ctx c).buddy with
      | some b => if b.compares w then .move ((t.buddyWait c b).passOver c k) else .run i t true
      | none => .run i t true
    | .error r =>
      let cause := if c.ctx == 0 && r != .badSv && neverInHome w then 0x01 else r.cause.toNat
      .run .unassignedEncoding { t with arg := { cause := cause } } true

/-- The plan of the next step. -/
def State.plan (s : State) : Plan :=
  match s.pipe with
  | some o =>
    match s.pipeWord o with
    | some i => .run i s false
    | none => .move { s with pipe := none }
  | none =>
    match takeDue s.cycle false s.agenda with
    | some (p, r) => .run p.ev { s with agenda := r, arg := p.arg } false
    | none =>
      let (t, found) := if s.prefect.held != 0 then (s, none) else State.scanCores (7680 - s.turn) s.turn s.scan s
      match found with
      | some (c, k) => t.planIssue c k
      | none =>
        match takeDue t.cycle true t.agenda with
        | some (p, r) => .run p.ev { t with agenda := r, arg := p.arg, turn := 7680, scan := 0 } false
        | none => .move { t with cycle := t.cycle + 1, turn := 0, scan := 0 }

/-- The state after what a step ran. -/
def State.close (s : State) (issue : Bool) : State := if issue then s.closeIssue s.who else s

/-! ## An encoding that is no instruction (R170, R337) -/

/-- A word that the decoder rejects traps with the cause of the failing check. -/
def execUnassignedEncoding (s : State) : Host.Outcome State Fault Refusal := .next (s.trapHere s.arg.cause 0)

end Sys2Proof.Machine
end

