-- ==== Sys2Proof/Machine/Fabric.lean ====
section
/-! DEFINITION. The coded crossings: the code of R142, fragments, their headers and their paths (R17, R21, R143 to R145), seats
(R146, R394), decode slots and the delivered window (R147 to R149), message loss (R392, R393), and what delivery performs
(R113, R150, R151, R354, R373). -/

namespace Sys2Proof.Machine

/-! ## The erasure code (R142) -/

/-- A byte times x in GF(2^8) under x^8 + x^4 + x^3 + x^2 + 1. -/
def gfStep (a : Nat) : Nat := if 128 ≤ a then a * 2 ^^^ 0x11D else a * 2

/-- The product of two bytes, over the low `n` bits of the second. -/
def gfMulN : Nat → Nat → Nat → Nat
  | 0, _, _ => 0
  | n + 1, a, b => (if b % 2 == 1 then a else 0) ^^^ gfMulN n (gfStep a) (b / 2)

def gfMul (a b : Nat) : Nat := gfMulN 8 a b

/-- The inverse of a byte other than 0. -/
def gfInv (a : Nat) : Nat := ((List.range 256).find? fun b => gfMul a b == 1).getD 0

/-- The coefficient c(j, d). -/
def codeCoef (j d : Nat) : Nat := gfInv ((0x10 + j) ^^^ d)

/-- A list of bytes times a byte. -/
def gfScale (c : Nat) (l : List Nat) : List Nat := l.map fun x => gfMul c x

/-- The sum of two lists of bytes. -/
def gfAdd (a b : List Nat) : List Nat := List.zipWith (fun x y => x ^^^ y) a b

/-- Code fragment `j` of a stripe's data fragments. -/
def codeFrag (j : Nat) (ds : List (List Nat)) : List Nat :=
  (ds.foldl (fun (r : List Nat × Nat) d => (gfAdd r.1 (gfScale (codeCoef j r.2) d), r.2 + 1)) (List.replicate 128 0, 0)).1

/-- Solves linear equations over GF(2^8) for `n` unknown fragments: each row has its coefficients and its right side. -/
def gfSolve : Nat → List (List Nat × List Nat) → List (List Nat)
  | 0, _ => []
  | n + 1, rows =>
    match pickFirst (fun (r : List Nat × List Nat) => r.1.headD 0 != 0) rows with
    | none => []
    | some (p, rest) =>
      let inv := gfInv (p.1.headD 0)
      let tail := gfScale inv (p.1.drop 1)
      let rhs := gfScale inv p.2
      let rest := rest.map fun (r : List Nat × List Nat) =>
        (gfAdd (r.1.drop 1) (gfScale (r.1.headD 0) tail), gfAdd r.2 (gfScale (r.1.headD 0) rhs))
      let xs := gfSolve n rest
      (List.zip tail xs).foldl (fun v (c : Nat × List Nat) => gfAdd v (gfScale c.1 c.2)) rhs :: xs

/-- The data fragments of a stripe from any k′ of its fragments. -/
def decodeStripe (k : Nat) (fs : List (Nat × List Nat)) : List (List Nat) :=
  let known (d : Nat) : Option (List Nat) := (fs.find? fun (f : Nat × List Nat) => f.1 == d).map (·.2)
  let missing := (List.range k).filter fun d => (known d).isNone
  let rows := (fs.filter fun (f : Nat × List Nat) => k ≤ f.1).map fun f =>
    (missing.map fun d => codeCoef (f.1 - k) d,
     (List.range k).foldl (fun v d => match known d with
       | some x => gfAdd v (gfScale (codeCoef (f.1 - k) d) x)
       | none => v) f.2)
  let xs := gfSolve missing.length rows
  (List.range k).map fun d => (known d).getD (xs.getD (missing.findIdx fun m => m == d) [])

/-! ## Rates, stripes and fragments (R142 to R145) -/

/-- The largest message at a rate. -/
def maxMessage (k : Nat) : Nat := 64 * k * 128

/-- The stripes of a message. -/
def Env.stripes (e : Env) : Nat := (e.len + e.k * 128 - 1) / (e.k * 128)

/-- The first header dword (R143). -/
def Env.d0 (e : Env) (stripe frag : Nat) : Nat :=
  e.snode % 4096 * 2 ^ 52 + e.sdie % 4 * 2 ^ 50 + e.ddie % 4 * 2 ^ 48 + e.dnode % 4096 * 2 ^ 36 + e.seat % 4096 * 2 ^ 24 +
    frag % 16 * 2 ^ 20 + e.k % 16 * 2 ^ 16 + e.m % 8 * 2 ^ 13 + e.cls % 4 * 2 ^ 11 + b2n e.fol * 2 ^ 10 + stripe % 64 * 2 ^ 4

/-- The header check of a header. -/
def headerCrc (d0 d1 : Nat) : Nat :=
  (crcVal 16 0x1021 (crcVal 16 0x1021 0xFFFF (BitVec.ofNat 64 d0) 64) (BitVec.ofNat 64 (d1 / 65536)) 48).toNat

/-- A fragment of a message. -/
def Env.fragment (e : Env) (stripe i : Nat) (data : List Byte) : Frag :=
  let d0 := e.d0 stripe i
  let d1 := e.seq % 2 ^ 32 * 2 ^ 32 + (e.len - 1) % 65536 * 65536
  { env := e, stripe := stripe, frag := i, d0 := BitVec.ofNat 64 d0, d1 := BitVec.ofNat 64 (d1 + headerCrc d0 d1), data := data }

/-- A list of bytes filled up with zeros. -/
def padTo (n : Nat) (l : List Byte) : List Byte := l ++ List.replicate (n - l.length) 0

/-- The fragments of a message in the order in which they are sent (R145). -/
def Env.fragments (e : Env) (bytes : List Byte) : List Frag :=
  (List.range e.stripes).flatMap fun st =>
    let ds := (List.range e.k).map fun i => padTo 128 ((bytes.drop ((st * e.k + i) * 128)).take 128)
    let ns := ds.map fun l => l.map (·.toNat)
    ((List.range e.k).map fun i => e.fragment st i (ds.getD i [])) ++
      (List.range e.m).map fun j => e.fragment st (e.k + j) ((codeFrag j ns).map (BitVec.ofNat 8))

/-! ## Seats (R146, R147, R394) -/

/-- A die's sending side towards a destination interface. -/
def State.sendSide (s : State) (die dnode ddie : Nat) : SendSide :=
  ((s.die die).sends.find? fun (x : SendSide) => !x.host && x.dnode == dnode && x.ddie == ddie).getD { dnode := dnode, ddie := ddie }

/-- The host link's sending side towards a die of this device (R146, R152). -/
def State.hostSide (s : State) (dnode ddie : Nat) : SendSide :=
  ((s.die 0).sends.find? fun (x : SendSide) => x.host && x.dnode == dnode && x.ddie == ddie).getD
    { host := true, dnode := dnode, ddie := ddie }

/-- The sending side that a message leaves by. -/
def State.sideOf (s : State) (die : Nat) (e : Env) : SendSide :=
  if e.host then s.hostSide e.dnode e.ddie else s.sendSide die e.dnode e.ddie

/-- Replaces a sending side. -/
def State.setSend (s : State) (die : Nat) (x : SendSide) : State :=
  s.modDie die fun d =>
    { d with sends := x :: d.sends.filter fun (y : SendSide) => !(y.host == x.host && y.dnode == x.dnode && y.ddie == x.ddie) }

/-- This device's node number. R154 has the partition manager write one value on all four dies; while they differ, die 0's
counts for every die, in the headers of their fragments too, as die 0's ni.inbox does (DESIGN CHOICE, assumption log 66). -/
def State.node (s : State) : Nat := (s.die 0).node.toNat % 4096

/-- A node number as interfaces name it: this device's own for 0xFFF. -/
def State.nodeOf (s : State) (n : Nat) : Nat := if s.isHere n then s.node else n

/-- Requests a block of seats, unless a request is out already or 64 seats are held. -/
def State.askSeats (s : State) (r : SeatReq) : State :=
  let x := s.sendSide r.die r.dnode r.ddie
  if x.asked || 64 ≤ x.idle.length + x.busy.length then s
  else
    (s.setSend r.die { x with asked := true }).postIn (12 * crossings r.die r.ddie) .seatRequest
      { seat := r, n := 2, die := r.ddie, env := { snode := s.node, sdie := r.die, dnode := r.dnode, ddie := r.ddie } }

/-- The source interface of a message or lease. -/
def Lease.from' (l : Lease) (e : Env) : Bool := l.snode == e.snode && l.sdie == e.sdie && l.host == e.host
def RecvWin.from' (l : RecvWin) (e : Env) : Bool := l.snode == e.snode && l.sdie == e.sdie && l.host == e.host
def DSlot.from' (x : DSlot) (e : Env) : Bool := x.env.snode == e.snode && x.env.sdie == e.sdie && x.env.host == e.host

/-- The lowest block of 8 decode slots that is not leased. -/
def Die.freeBlock (d : Die) : Option Nat :=
  (List.range 512).find? fun b => !(d.leases.any fun (l : Lease) => l.seats.contains (8 * b))

/-- The destination's answer to a request: a block of 8 from its free slots, or a decline; a reset sender's requests are
declined until its blocks expire. -/
def State.grantSeats (s : State) (die : Nat) (e : Env) : State × List Nat :=
  let d := s.die die
  let mine := d.leases.filter fun (l : Lease) => l.from' e
  if mine.any (·.void) || 8 ≤ mine.length then (s, [])
  else
    match d.freeBlock with
    | none => (s, [])
    | some b =>
      let seats := (List.range 8).map fun i => 8 * b + i
      ((s.setDie die
        { d with leases := { snode := e.snode, sdie := e.sdie, host := e.host, seats := seats, last := s.cycle } :: d.leases }).post
          (s.cycle + 2 ^ 20) .seatLeaseExpire { die := die, id := 8 * b }, seats)

/-- A sender of this device with no free seat at a die gets a block at once, where the die has one: no time is given for the lease of
a packet, and R91 and R414 give the time of its whole way (DEDUCED, assumption log 27). -/
def State.leaseNow (s : State) (die : Nat) (e : Env) : State :=
  let x := s.sideOf die e
  if !x.idle.isEmpty || 64 ≤ x.busy.length then s
  else
    let (t, seats) := s.grantSeats e.ddie { e with snode := s.node, sdie := die }
    if seats.isEmpty then s else t.setSend die { x with idle := seats }

/-- Decode slots of a die that are not leased (ni.free, R154). -/
def Die.freeSlots (d : Die) : Nat := 4096 - 8 * d.leases.length

/-! ## Sending (R142 to R147) -/

/-- The die that shares a row of dies with a die, and the one that shares its column (R17). -/
def rowMate (die : Nat) : Nat := die / 2 * 2 + (1 - die % 2)
def colMate (die : Nat) : Nat := (die + 2) % 4

/-- The connected Emram ports, in ascending order (R21, R145). -/
def State.ports (s : State) : List Nat := (List.range 36).filter fun p => tb (s.die (p / 9)).ports (p % 9)

/-- The fragments of a message leave, one per cycle (R145): to another die of the device they take `lat` cycles, to the diagonal
die by way of the die in the source's row or column (R17); to another node they go to their port's die. -/
def State.spray (s : State) (die lat : Nat) (e : Env) (fs : List Frag) : State :=
  let ps := s.ports
  (fs.foldl (fun (q : State × Nat) f =>
    (if e.dnode != s.node then
        match ps[(e.seq % ps.length + f.frag) % ps.length]? with
        | some p => q.1.postIn (12 * crossings die (p / 9) + q.2) .fragmentArrive { die := p / 9, n := 1, frag := { f with port := some p } }
        | none => q.1
      else if crossings die e.ddie == 2 then
        q.1.postIn (lat - 12 + q.2) .fragmentArrive
          { die := if f.frag % 2 == 0 then rowMate die else colMate die, n := 3, frag := f }
      else q.1.postIn (lat + q.2) .fragmentArrive { die := e.ddie, frag := f }, q.2 + 1)) (s, 0)).1

/-- A message that is accepted takes its seat and its sequence, and its fragments leave. -/
def State.sendMessage (s : State) (die : Nat) (e : Env) (r : Nat × Nat) (bytes : List Byte) (lat : Nat) : Option State :=
  let x := s.sideOf die e
  match x.idle with
  | [] => none
  | seat :: rest =>
    let e := { e with snode := s.node, sdie := die, seq := x.seq, seat := seat, k := kOf r.1 bytes.length, m := r.2, len := bytes.length }
    let fs := e.fragments bytes
    let tag := match e.body with
      | .request t => some t
      | _ => none
    let s := s.setSend die
      { x with idle := rest, seq := (x.seq + 1) % 2 ^ 32,
               busy := x.busy ++ [{ seat := seat, seq := x.seq, first := (fs.head?.map (·.d0)).getD 0, tag := tag,
                                    fol := e.cls == 2 && e.fol }] }
    some (s.spray die lat e fs)

/-- A packet enters its crossing (R142): it is a message of class 3 under the rate of its kind, and its step follows at delivery.
Without a seat it waits. -/
def State.sendPacket (s : State) (id : Nat) : State :=
  match s.packets.find? fun (q : Packet) => q.step.seq == id with
  | none => s
  | some q =>
    let host := q.step.ev == Instr.hostBar2Access && q.src == 0
    let e : Env := { dnode := s.node, ddie := q.dst, cls := 3, host := host, body := .packet id }
    let bytes := (List.range q.len).map (Config.packetByte id)
    match (s.leaseNow q.src e).sendMessage q.src e (s.rate q.src (if q.cn then .dn else .dm)) bytes (12 * crossings q.src q.dst) with
    | some t => t
    | none => s.post (s.cycle + 1) .seatRequest s.arg

/-- A packet that waits for its core's other flits enters the network once fewer than 8 are there (R139). -/
def State.admitPacket (s : State) (id core : Nat) : State :=
  match s.packets.find? fun (q : Packet) => q.step.seq == id with
  | none => s
  | some q =>
    if s.nflits core < 8 then
      { s with packets := s.packets.filter fun (p : Packet) => p.step.seq != id }.carry q.src q.dst q.cn q.step.late q.len q.lat
        q.step.ev q.step.arg
    else s.post (s.cycle + 1) .seatRequest s.arg

/-- A packet's step follows, at its delivery. -/
def State.landPacket (s : State) (id : Nat) : State :=
  match s.packets.find? fun (q : Packet) => q.step.seq == id with
  | none => s
  | some q =>
    { s with packets := s.packets.filter fun (p : Packet) => p.step.seq != id, agenda := { q.step with due := s.cycle } :: s.agenda }

/-- A message that does not leave its die: its bytes are decoded at once, in a slot of its own (DEDUCED, assumption log 27). -/
def State.sendOwn (s : State) (die : Nat) (e : Env) (bytes : List Byte) (lat : Nat) : State :=
  let (i, s) := s.newId
  let e := { e with snode := s.node, sdie := die, len := bytes.length, seat := 4096 + i, seq := i }
  (s.modDie die fun d => { d with slots := d.slots ++ [{ seat := 4096 + i, env := e, order := i, decoded := true, data := bytes }] }).postIn
    lat .deliver { die := die, id := 4096 + i }

/-- The node and die that an access to another node goes to (R97). Host space has no offsets of its own in R96 and R97: those from
2^46 to 2^47 are taken as host-space, since R96 has host memory there as physical addresses (DESIGN CHOICE, assumption log 67). -/
def State.remoteDie (core : Nat) (a : Word) : Nat :=
  let v := a.toNat
  if bits v 47 40 != 0x0F then if isHostKey (bits v 47 0) then 0 else dieOf core
  else if bits v 39 38 == 0 then dieOf core
  else if bits v 39 38 == 1 then dieOf (bits v 31 19)
  else octetDie (bits v 30 21)

/-! ## What delivery performs -/

/-- The physical place of an inbox's directory entry (R150). -/
def State.inboxKey (s : State) (i : Nat) : Nat := bits (s.die 0).inbox.toNat 47 5 * 32 + 32 * i

/-- Whether a message comes from another node. -/
def State.isForeign (s : State) (e : Env) : Bool := !e.host && e.snode != s.node

/-- Writes a landing record, links it with the agent that waits, clears armed, and pushes the pair (R151 steps 1 to 4). -/
def State.landRecord (s : State) (i : Nat) (data : List Byte) : State :=
  let k := s.inboxKey i
  let d0 := s.rd8 k
  let d3 := s.rd8 (k + 24)
  let home := bits d0 12 0
  let wait := BitVec.ofNat 64 (s.rd8 (k + 8))
  let next := bits d3 31 16
  let size := if bits d3 15 0 == 0 then 65536 else bits d3 15 0
  let rec' := BitVec.ofNat 64 (s.rd8 (k + 16)) + BitVec.ofNat 64 (64 * next)
  let word (j : Nat) : Nat := bytesNat ((data.drop (8 * j)).take 8)
  let s := (List.range 8).foldl (fun s j =>
    s.putDword home (rec' + BitVec.ofNat 64 (8 * j)) (if j == 0 then word 0 / 65536 * 65536 + bits d0 47 32 else word j)) s
  let s := s.storeN (k + 24) 8 (d3 - next * 65536 + (next + 1) % size * 65536)
  let s := s.storeN k 8 (d0 - bits d0 62 62 * 2 ^ 62)
  let s := s.cutLog home 4 3 rec' ((List.range 8).map fun j => BitVec.ofNat 64 (word j))
  let a := rec' + 8
  let b := wait + 8
  if cellSt (s.dword home a) != 0 || cellSt (s.dword home b) != 0 then s.netFault ⟨home, 0⟩ b
  else
    let (x, y) := if s.cellLt (s.norm home b) (s.norm home a) then (b, a) else (a, b)
    let (t, s) := s.newTag home x
    let s := (s.setLive home x t y).setLive home y t x
    let (s, p) := s.pairPrio home rec' wait
    s.post s.cycle .pairPushArrive { core := home, n := 1, item := pairItem 0 p (s.norm home rec') (s.norm home wait) 0 }

/-- Whether an inbox's landing record is free: its header dword is zero. -/
def State.landingFree (s : State) (i : Nat) : Bool :=
  let k := s.inboxKey i
  s.dword (bits (s.rd8 k) 12 0) (BitVec.ofNat 64 (s.rd8 (k + 16)) + BitVec.ofNat 64 (64 * bits (s.rd8 (k + 24)) 31 16)) == 0

/-- The lines of a range: an address, a length and an offset each. -/
def linesOf (a : Word) : Nat → Nat → Nat → List (Word × Nat × Nat)
  | 0, _, _ => []
  | f + 1, n, at' =>
    if n == 0 then []
    else
      let k := min n (64 - a.toNat % 64)
      (a, k, at') :: linesOf (a + BitVec.ofNat 64 k) f (n - k) (at' + k)

/-- Lines of a message's destination. -/
def messageLines (a : Word) (n : Nat) : List (Word × Nat × Nat) := linesOf a (n / 64 + 2) n 0

/-- The context whose rights and tables the bytes of a message use: its sender on this device, else the interface itself with
partition 0 (R97). -/
def State.writerOf (s : State) (die : Nat) (e : Env) : CtxId := if s.isForeign e then ⟨ifaceCore die, 0⟩ else e.acc.who

/-- The lines of a message at their storage: the key of each that is let on, `none` for one that is refused; or what stops it. -/
inductive Lines where
  | keys (l : List (Option Nat)) (s : State)
  | stop (x : Stop)

/-- Takes the lines of a message through the switch and the walker (R92, R97 to R101). -/
def State.enterLines (s : State) (core : Nat) (staff : Bool) : List (Word × Nat × Nat) → Lines
  | [] => .keys [] s
  | l :: r =>
    let rest (k : Option Nat) (t : State) : Lines :=
      match t.enterLines core staff r with
      | .keys ks u => .keys (k :: ks) u
      | x => x
    match s.enter core staff 0 l.1 l.2.1 .store 1 with
    | .go k t => rest (some k) t
    | .bad _ => rest none s
    | .wait _ => .stop .wait
    | .miss => .stop (.miss l.1)

/-- Performs the bytes of a message at the keys of its lines (R113, R373). -/
def State.writeLines (s : State) (staff : Bool) (word : Word) (data : List Byte) (l : List ((Word × Nat × Nat) × Option Nat)) :
    State :=
  (l.foldl (fun (q : State × List Nat) (x : (Word × Nat × Nat) × Option Nat) =>
    match x.2 with
    | some k =>
      let (t, seen) := if staff then q else q.1.postWatch k (q.1.watchHits k x.1.2.1) q.2 x.1.1 word
      (t.storeL k ((data.drop x.1.2.2).take x.1.2.1), seen)
    | none => q) (s, [])).1

/-- Ends a message at its destination (R147, R148): its window moves, its slot is free, and its seat goes back to its
sender; what waited behind it is tried again (R149). -/
def State.closeSlot (s : State) (die : Nat) (x : DSlot) : State :=
  let e := x.env
  let s := s.modDie die fun d => { d with slots := d.slots.filter fun (y : DSlot) => y.order != x.order }
  let s :=
    if 4096 ≤ x.seat then s
    else
      let d := s.die die
      let w := (d.wins.find? fun (y : RecvWin) => y.from' e).getD { snode := e.snode, sdie := e.sdie, host := e.host }
      let i := (e.seq + 2 ^ 32 - w.b) % 2 ^ 32
      let m := sb w.w i true
      let n := ((List.range 64).find? fun j => !tb m j).getD 64
      let w := { w with b := (w.b + n) % 2 ^ 32, w := m >>> n }
      let s := s.setDie die
        { d with wins := w :: d.wins.filter fun (y : RecvWin) => !y.from' e,
                 leases := mapIf (fun (l : Lease) => l.from' e && l.seats.contains e.seat) (fun l => { l with last := s.cycle }) d.leases }
      if e.snode == s.node then
        let q := s.sideOf e.sdie e
        s.setSend e.sdie
          { q with idle := if q.busy.any (fun (z : BusySeat) => z.seat == e.seat) then q.idle ++ [e.seat] else q.idle,
                   busy := q.busy.filter fun (z : BusySeat) => z.seat != e.seat }
      else s
  ((s.die die).slots.filter fun (y : DSlot) => y.decoded && y.from' e).foldl (fun s y =>
    s.post s.cycle .deliver { die := die, id := y.seat }) s

/-- Holds a message in its slot until a PAGE_MAPPED (R354): the die's walker posts a MISS with core 0. -/
def State.holdMessage (s : State) (die : Nat) (x : DSlot) (a : Word) (core : Nat) : State :=
  (s.modDie die fun d =>
    { d with slots := mapIf (fun (y : DSlot) => y.order == x.order) (fun y => { y with missed := some a }) d.slots }).missNotice
      (s.missDie core a) ⟨0, 0⟩ (s.partOf core) a 0

/-- What stops the bytes of a message for now: a closed window or a lock, or a page that is being walked or is missing. -/
def State.stopMessage (s : State) (die : Nat) (x : DSlot) (core : Nat) (why : Stop) : State :=
  match why with
  | .miss a => s.walkStep core a .deliver fun s => s.holdMessage die x a core
  | _ => s.post (s.cycle + 1) .deliver { die := die, id := x.seat }

/-- A record takes its place among the records of its inbox in the order of their delivery (R151). -/
def State.queueRecord (s : State) (die : Nat) (x : DSlot) : State × DSlot :=
  match x.stay with
  | some _ => (s, x)
  | none =>
    let (i, s) := s.newId
    let y := { x with stay := some i }
    (s.modDie die fun d => { d with slots := mapIf (fun (z : DSlot) => z.order == x.order) (fun z => { z with stay := some i }) d.slots }, y)

/-- Whether a record of the same inbox has been delivered before and is still held. -/
def State.behindRecord (s : State) (die : Nat) (x : DSlot) : Bool :=
  (s.die die).slots.any fun (y : DSlot) => y.env.body == x.env.body && y.stay.any fun i => x.stay.any fun j => i < j

/-- The landing of a record as one sequence of bank steps (R151), in its turn at its banks (R94); writes of another node's
record match watchpoints (R373). A landing record whose page is missing holds it in its slot (R354), and a refused write ends
it with a NET_FAULT. -/
def State.tryLand (s : State) (die : Nat) (x : DSlot) (i : Nat) : State :=
  let home := bits (s.rd8 (s.inboxKey i)) 12 0
  let t := State.landRecord { s with txn := {} } i x.data
  match t.txn.stop with
  | some (.bad k a) => (s.netFaultOf ⟨home, 0⟩ k a).closeSlot die x
  | some why => s.stopMessage die x home why
  | none =>
    let keys := t.txn.keys
    let (n, b) := s.bankTakes (s.inboxKey i :: keys)
    if !s.arg.slot && s.cycle < n then b.post n .deliver { die := die, id := x.seat, slot := true }
    else
      let word := if s.isForeign x.env then BitVec.ofNat 64 x.env.snode else 0xFFF
      let u : State := { t with txn := {}, banks := if s.arg.slot then s.banks else b.banks }
      ((keys.foldl (fun (q : State × List Nat) k => q.1.postWatch k (q.1.watchHits k 8) q.2 (BitVec.ofNat 64 k) word) (u, [])).1).closeSlot
        die x

/-- A decoded record at its inbox (R150, R151): inbox 0 gives it to the launch unit; another inbox takes it when it is armed
and its landing record is zero, and no record delivered before it is still held. -/
def State.deliverRecord (s : State) (die : Nat) (x : DSlot) (i : Nat) : State :=
  let d0 := s.rd8 (s.inboxKey i)
  let foreign := s.isForeign x.env
  if foreign && !(bitAt d0 63 && bitAt d0 60) then s.closeSlot die x
  else if i == 0 then
    (s.closeSlot die x).post s.cycle .launchHeaderAccept
      { words := (List.range 8).map fun j => BitVec.ofNat 64 (bytesNat ((x.data.drop (8 * j)).take 8))
        sender := if x.env.host then .host else if foreign then .node x.env.snode else .ctx x.env.acc.who }
  else
    let (s, x) := s.queueRecord die x
    if bitAt d0 63 && bitAt d0 62 && s.landingFree i && !s.behindRecord die x then s.tryLand die x i
    else s.post (s.cycle + 1) .deliver { die := die, id := x.seat }

/-- The bytes of a message at their address (R113, R283), in their turn at their banks (R94). -/
def State.deliverWrite (s : State) (die : Nat) (x : DSlot) (a : Word) : State :=
  let c := s.writerOf die x.env
  let foreign := s.isForeign x.env
  let staff := x.env.acc.staff && !foreign
  let ls := messageLines a x.data.length
  if (s.spanFault c.core staff ⟨a, x.data.length, true⟩).isSome then s.closeSlot die x
  else
    match s.enterLines c.core staff ls with
    | .stop why => s.stopMessage die x c.core why
    | .keys ks t =>
      let (n, b) := s.bankTakes ((List.zip ls ks).flatMap fun q => q.2.elim [] fun k => [k, k + q.1.2.1 - 1])
      if !s.arg.slot && s.cycle < n then
        b.post n .deliver { die := die, id := x.seat, slot := true, acc := { key := ((ks.filterMap id).find? isSlateKey).getD 0 } }
      else
        State.closeSlot (State.writeLines { t with banks := if s.arg.slot then s.banks else b.banks } staff
          (if foreign then BitVec.ofNat 64 x.env.snode else 0xFFF) x.data (List.zip ls ks)) die x

/-- A core's access from another node goes to its bank, and is answered by a message (R97). Its sender keeps R106's order: an
access to a granule of this node leaves only once the context's earlier ones there are answered. -/
def State.deliverRequest (s : State) (die : Nat) (x : DSlot) : State :=
  let core := ifaceCore die
  let a := x.env.acc
  match s.enter core false 0 a.addr (max 1 a.kind.size) a.kind.need (b2n a.kind.writes) with
  | .miss => s.stopMessage die x core (.miss a.addr)
  | _ =>
    let (i, s) := s.newId
    let lat := s.lat core a.addr
    let b : Access := { a with id := i, run := i, who := ⟨core, 0⟩, staff := false, rx := false, lat := lat, key := 0, tries := 0, miss := none }
    (((s.modDie die fun d => { d with asked := (i, x.env) :: d.asked }).closeSlot die x).postIn (lat / 2) .bankAccess { acc := b })

/-- A step of the wire protocol on a cell of this node, from another node (R41, R97): REPOINT, DECIDE, a cell that becomes LIVE,
or one that is freed. -/
def State.deliverWire (s : State) (die : Nat) (x : DSlot) (what : Nat) : State :=
  let r := x.env.wire
  let r := { r with acc := { r.acc with who := ⟨ifaceCore die, 0⟩ } }
  let s := s.closeSlot die x
  match what with
  | 0 => s.post s.cycle .repoint { wire := r }
  | 1 => s.post s.cycle .decide { wire := r }
  | 2 => s.post s.cycle .freeLMessage { v := r.old, wire := r, n := 1 }
  | _ => s.post s.cycle .freeLMessage { v := r.old, wire := r }

/-- Ends an access of this device to another node with its reply: data, or a cause (R97, R357). -/
def State.remoteEnd (s : State) (die tag cause : Nat) (val : Nat) : State :=
  match (s.die die).remote.find? fun (r : RemoteReq) => r.tag == tag with
  | none => s
  | some r =>
    let a := r.acc
    let s := s.modDie die fun d => { d with remote := d.remote.filter fun (q : RemoteReq) => q.tag != tag }
    match a.kind with
    | .tile o _ _ _ => s.post s.cycle .tileTransferPiece { octet := o, id := a.id, n := 2, cause := cause, vec := BitVec.ofNat 1024 val }
    | .drain p => s.post s.cycle .drainStorePiece { piece := p, n := 2, cause := cause }
    | k =>
      if cause != 0 then s.postLate s.cycle .landingFaultReport { acc := a, cause := cause }
      else if k.acked then s.post s.cycle .storeAck { acc := a }
      else s.post s.cycle .memoryReply { acc := a, vec := BitVec.ofNat 1024 val }

/-- Whether the order of R149 lets a decoded message be delivered now. -/
def State.inOrder (s : State) (die : Nat) (x : DSlot) : Bool :=
  let d := s.die die
  let e := x.env
  if e.cls != 0 then true
  else
    let before (y : DSlot) : Bool := (y.env.cls == 0 && y.env.body == e.body) || (y.env.cls == 2 && y.env.fol)
    if 4096 ≤ x.seat then !(d.slots.any fun (y : DSlot) => 4096 ≤ y.seat && y.order < x.order && y.from' e && before y)
    else
      let w := (d.wins.find? fun (y : RecvWin) => y.from' e).getD {}
      (List.range ((e.seq + 2 ^ 32 - w.b) % 2 ^ 32)).all fun i =>
        tb w.w i ||
          match d.slots.find? fun (y : DSlot) => y.from' e && y.seat < 4096 && y.env.seq == (w.b + i) % 2 ^ 32 with
          | some y => !before y
          | none => false

/-- DELIVER (R147, R149): a decoded message is performed and delivered once. With `n` = 1 another node's interface says that
it has delivered the message of a seat. -/
def execDeliver (s : State) : Host.Outcome State Fault Refusal :=
  let die := s.arg.die
  if s.arg.n == 1 then
    let e := s.arg.env
    let q := s.sendSide die e.dnode e.ddie
    if q.busy.any fun (z : BusySeat) => z.seat == s.arg.id then
      .next (s.setSend die { q with idle := q.idle ++ [s.arg.id], busy := q.busy.filter fun (z : BusySeat) => z.seat != s.arg.id })
    else .next s
  else
    match (s.die die).slots.find? fun (y : DSlot) => y.seat == s.arg.id with
    | none => .next s
    | some x =>
      if !x.decoded || x.missed.isSome || !s.inOrder die x then .next s
      else
        match x.env.body with
        | .record i => .next (s.deliverRecord die x i)
        | .write a => .next (s.deliverWrite die x a)
        | .request _ => .next (s.deliverRequest die x)
        | .wire what => .next (s.deliverWire die x what)
        | .packet i => .next ((s.landPacket i).closeSlot die x)
        | .reply tag cause => .next ((s.remoteEnd die tag cause (bytesNat x.data)).closeSlot die x)

/-! ## Arrival (R143, R147, R148) -/

/-- What the window says of a sequence: true for a fragment to dispose of. -/
def RecvWin.disposes (w : RecvWin) (seq : Nat) : Bool :=
  let i := (seq + 2 ^ 32 - w.b) % 2 ^ 32
  2 ^ 31 ≤ i || tb w.w i

/-- The distinct fragments of a stripe that a slot holds. -/
def DSlot.stripe (x : DSlot) (st : Nat) : List (Nat × List Byte) :=
  (x.frags.filter fun (f : Nat × Nat × List Byte) => f.1 == st).map (·.2)

/-- Whether k′ distinct fragments of every stripe have arrived. -/
def DSlot.whole (x : DSlot) : Bool := (List.range x.env.stripes).all fun st => x.env.k ≤ (x.stripe st).length

/-- Whether a slot decodes with a code fragment. -/
def DSlot.usesCode (x : DSlot) : Bool :=
  (List.range x.env.stripes).any fun st => (List.range x.env.k).any fun i => !((x.stripe st).any fun (f : Nat × List Byte) => f.1 == i)

/-- The bytes of a message from its fragments. -/
def DSlot.bytes (x : DSlot) : List Byte :=
  ((List.range x.env.stripes).flatMap fun st =>
    ((decodeStripe x.env.k ((x.stripe st).map fun (f : Nat × List Byte) => (f.1, f.2.map (·.toNat)))).flatMap fun l =>
      l.map (BitVec.ofNat 8))).take x.env.len

/-- A fragment at its Emram port (R21, R145): the port serialises it in 2 cycles, and the plane takes 500. -/
def State.leavePort (s : State) (p : Nat) (f : Frag) : State :=
  let d := s.die (p / 9)
  let t := max s.cycle (rd d.portFree (p % 9) 0) + 2
  let s := s.setDie (p / 9) { d with portFree := wr d.portFree (p % 9) t }
  { s with outbox := s.outbox ++ [{ f with there := t + 500 }] }

/-- A fragment at a place of its way (R17, R145): it leaves by its Emram port (1), it has come from a plane to the port of its
number and crosses to its die (2), or it passes a die on a diagonal way (3). -/
def State.passFragment (s : State) (n : Nat) (f : Frag) : State :=
  let e := f.env
  let die := s.arg.die
  if n == 1 then s.leavePort (f.port.getD (die * 9)) f
  else s.postIn (12 * crossings die e.ddie) .fragmentArrive { die := e.ddie, frag := f }

/-- FRAGMENT_ARRIVE: a fragment passes on, or is at its destination's interface. There a fragment whose checks hold and that the window takes goes into the slot of its seat, one per cycle;
the last that is needed lets the slot decode, in 2 cycles, or in 8 with a code fragment (R145). -/
def execFragmentArrive (s : State) : Host.Outcome State Fault Refusal :=
  let die := s.arg.die
  let f := s.arg.frag
  let e := f.env
  let d := s.die die
  let w := (d.wins.find? fun (y : RecvWin) => y.from' e).getD {}
  let okHeader := headerCrc f.d0.toNat f.d1.toNat == f.d1.toNat % 65536
  if s.arg.n != 0 then .next (s.passFragment s.arg.n f)
  else if !f.linkOk || !okHeader || w.disposes e.seq then .next s
  else
    let (x, s) := match d.slots.find? fun (y : DSlot) => y.seat == e.seat && y.from' e && y.env.seq == e.seq with
      | some x => (x, s)
      | none => let (i, t) := s.newId; (({ seat := e.seat, env := e, order := i } : DSlot), t)
    let now := if x.frags.isEmpty then s.cycle else max s.cycle (x.last + 1)
    let dup := x.frags.any fun (g : Nat × Nat × List Byte) => g.1 == f.stripe && g.2.1 == f.frag
    let x := { x with last := now, frags := if dup || x.decoded then x.frags else x.frags ++ [(f.stripe, f.frag, f.data)] }
    let done := !x.decoded && x.whole
    let x := if done then { x with decoded := true, data := x.bytes } else x
    let s := s.modDie die fun d => { d with slots := x :: d.slots.filter fun (y : DSlot) => y.order != x.order }
    if done then .next (s.post (now + (if x.usesCode then 8 else 2)) .deliver { die := die, id := e.seat })
    else if x.decoded then .next s
    else .next (s.post (now + 2 ^ 16) .messageLoss { die := die, id := e.seat, n := now })

/-! ## Loss (R392, R393) -/

/-- The LOSS notice of an interface (R334). -/
def State.lossNotice (s : State) (die node seq : Nat) (word : Word) : State :=
  s.notice die { kind := 0x0D, cause := 0x30, value := BitVec.ofNat 64 (node * 2 ^ 32 + seq % 2 ^ 32), word := word }

/-- Ends with 0x30 an access on its way to or from another die (R393, R395). -/
def State.loseAccess (s : State) (a : Access) : State := s.postLate s.cycle .landingFaultReport { acc := a, cause := 0x30 }

/-- The access of the host that follows the one that has been performed (R114). -/
def State.hostNext (s : State) : State :=
  match s.hostQueue with
  | [] => s
  | p :: _ => s.post s.cycle p.ev { p.arg with n := 4 }

/-- An access of the host has been performed. -/
def State.hostDone (s : State) : State := { s with hostQueue := s.hostQueue.drop 1 }.hostNext

/-- The answer to a host's read that a loss has taken: bytes that the spec does not state, hence free values. -/
def State.hostLost (s : State) (a : StepArg) : State :=
  let out (s : State) (n : Nat) : State :=
    { s with hostOut := s.hostOut ++ [(a.id, (List.range n).map fun i => Config.hostByte (s.fresh + i))], fresh := s.fresh + n }
  match a.n, a.host with
  | 2, .write _ bytes => out s bytes.length
  | _, .read _ n => (out s n).hostDone
  | _, _ => s.hostDone

/-- The loss of a packet (R393): an access, or the first step of a splice, ends with 0x30, a later step of a wire is reported, a
drain's piece is an err, an increment is reported and its operation is done, and a search goes on without its answer. What else a
packet brings is lost. -/
def State.losePending (s : State) (p : Pending) : State :=
  let a := p.arg
  if [Instr.bankAccess, .memoryReply, .storeAck, .landingFaultReport].contains p.ev then s.loseAccess a.acc
  else if p.ev == Instr.forwardedReply && a.n != 2 then s.loseAccess a.acc
  else if p.ev == Instr.firstStep then s.spliceDone a.wire 0x30
  else if [Instr.decide, .repoint, .freeLMessage].contains p.ev then
    let c := a.wire.acc.who
    s.notice (dieOf c.core) { kind := 0x0C, cause := 0x30, core := c.core, ctx := c.ctx, value := a.wire.old }
  else if p.ev == Instr.stealRequest || p.ev == Instr.dieAsk || p.ev == Instr.stealReply then
    s.post (s.cycle + 1) .stealReply { core := a.core }
  else if p.ev == Instr.drainStorePiece then s.post s.cycle .drainStorePiece { a with n := 2, cause := 0x30 }
  else if p.ev == Instr.tileTransferPiece then s.post s.cycle .tileTransferPiece { a with n := 2, cause := 0x30 }
  else if p.ev == Instr.completionIncrement then (s.engineErr (dieOf a.count.who.core) a.count.who 0x30 a.count.addr 0).counted a.count
  else if p.ev == Instr.matxCompletion then
    (s.engineErr (dieOf a.count.who.core) a.count.who 0x30 a.count.addr 0).matxCounted a.octet a.id
  else if p.ev == Instr.hostBar2Access then s.hostLost a
  else s

/-- The packet that a lost message was (R392, R393). -/
def State.losePacket (s : State) (e : Env) : State :=
  match e.body with
  | .packet id =>
    match s.packets.find? fun (q : Packet) => q.step.seq == id with
    | some q => { s with packets := s.packets.filter fun (r : Packet) => r.step.seq != id }.losePending q.step
    | none => s
  | _ => s

/-- MESSAGE_LOSS: a slot that stays short is freed, its sequence is done, LOSS is posted, and its sender is told. -/
def execMessageLoss (s : State) : Host.Outcome State Fault Refusal :=
  let die := s.arg.die
  match (s.die die).slots.find? fun (y : DSlot) => y.seat == s.arg.id with
  | none => .next s
  | some x =>
    if x.decoded || x.last != s.arg.n then .next s
    else
      let e := x.env
      let mine := e.snode == s.node && !e.host
      let first := if mine then
          (((s.sendSide e.sdie e.dnode e.ddie).busy.find? fun (z : BusySeat) => z.seat == e.seat).map (·.first)).getD 0
        else 0
      let s := ((s.closeSlot die x).lossNotice die e.snode e.seq (BitVec.ofNat 64 e.cls)).losePacket e
      if mine then .next (s.postIn (12 * crossings die e.sdie) .lossReport { die := e.sdie, env := e, v := first })
      else .next s

/-- LOSS_REPORT: the sending interface posts LOSS with the first dword of the message, and an access whose request or reply
is lost ends with 0x30. A report from another node names the seat in `id` (`n` = 1). -/
def execLossReport (s : State) : Host.Outcome State Fault Refusal :=
  let die := s.arg.die
  let e := s.arg.env
  if s.arg.n == 0 then .next (s.lossNotice die e.snode e.seq s.arg.v)
  else
    let q := s.sendSide die e.dnode e.ddie
    match q.busy.find? fun (z : BusySeat) => z.seat == s.arg.id with
    | none => .next s
    | some z =>
      let s := s.setSend die { q with idle := q.idle ++ [z.seat], busy := q.busy.filter fun (y : BusySeat) => y.seat != z.seat }
      let s := s.lossNotice die s.node z.seq z.first
      match z.tag with
      | some t => .next (s.remoteEnd die t 0x30 0)
      | none => .next s

/-! ## Leases (R146, R394) -/

/-- The end of a reset sender's blocks (R394): its partly decoded slots are discarded with a LOSS each, its window moves past
the highest sequence held or delivered, and DIE_RESET is posted. -/
def State.voidSender (s : State) (die : Nat) (e : Env) : State :=
  let d := s.die die
  let w := (d.wins.find? fun (y : RecvWin) => y.from' e).getD { snode := e.snode, sdie := e.sdie, host := e.host }
  let gone := d.slots.filter fun (y : DSlot) => y.from' e && y.seat < 4096 && !y.decoded
  let held := (d.slots.filter fun (y : DSlot) => y.from' e && y.seat < 4096).map fun y => (y.env.seq + 2 ^ 32 - w.b) % 2 ^ 32 + 1
  let top := (held ++ (List.range 64).map fun i => if tb w.w i then i + 1 else 0).foldl max 0
  let w := { w with b := (w.b + top) % 2 ^ 32, w := w.w >>> top }
  let s := s.setDie die
    { d with slots := d.slots.filter fun (y : DSlot) => !(y.from' e && y.seat < 4096 && !y.decoded)
             wins := w :: d.wins.filter fun (y : RecvWin) => !y.from' e }
  let s := gone.foldl (fun s y => (s.lossNotice die e.snode y.env.seq (BitVec.ofNat 64 y.env.cls)).losePacket y.env) s
  s.notice die { kind := 0x08, value := BitVec.ofNat 64 (e.snode * 2 ^ 32 + e.sdie) }

/-- SEAT_LEASE_EXPIRE: a block that has carried no message for 2^20 cycles goes back to the destination. With `n` = 1, another
node's interface takes the seats in `words` back. -/
def execSeatLeaseExpire (s : State) : Host.Outcome State Fault Refusal :=
  let die := s.arg.die
  if s.arg.n == 1 then
    let q := s.sendSide die s.arg.env.dnode s.arg.env.ddie
    .next (s.setSend die { q with idle := q.idle.filter fun i => !(s.arg.words.any fun w => w.toNat == i) })
  else
    let d := s.die die
    match d.leases.find? fun (l : Lease) => l.seats.contains s.arg.id with
    | none => .next s
    | some l =>
      let e : Env := { snode := l.snode, sdie := l.sdie, host := l.host, dnode := s.node, ddie := die }
      let mine := l.snode == s.node
      let q := s.sideOf l.sdie { e with dnode := s.node }
      let used := !l.void && ((d.slots.any fun (y : DSlot) => l.seats.contains y.seat) || (mine && q.busy.any fun (z : BusySeat) => l.seats.contains z.seat))
      if s.cycle < l.last + 2 ^ 20 then .next (s.post (l.last + 2 ^ 20) .seatLeaseExpire s.arg)
      else if used then .next (s.post (s.cycle + 2 ^ 20) .seatLeaseExpire s.arg)
      else
        let s := s.setDie die { d with leases := d.leases.filter fun (m : Lease) => !m.seats.contains s.arg.id }
        if l.void then
          .next (if (s.die die).leases.any fun (m : Lease) => m.from' e && m.void then s else s.voidSender die e)
        else if mine then .next (s.setSend l.sdie { q with idle := q.idle.filter fun i => !l.seats.contains i })
        else .next s

end Sys2Proof.Machine
end

