-- ==== Sys2Proof/Machine/Message.lean ====
section
/-! DEFINITION. Messaging instructions: ENQR, INBOX, MSEND, MBULK and MSEAT (R146, R151, R273, R283, R284, R415), the reading
and acceptance of what they send, and a core's accesses to other nodes as they leave (R97). -/

namespace Sys2Proof.Machine

/-! ## Reading what is sent -/

/-- What the reading of a send's bytes gives. -/
inductive SendRead where
  | ok (bs : List Byte) (s : State) (late : Nat)
  | wait (octet : Nat)
  | miss (a : Word)
  | bad (cause : Nat)

/-- Reads the lines of a send. -/
def State.readLines (s : State) (a : Access) : List (Word × Nat × Nat) → SendRead
  | [] => .ok [] s 0
  | l :: r =>
    match s.land a.who.core a.staff true l.1 l.2.1 .load 0 with
    | .bad k => .bad k
    | .wait o => .wait o
    | .miss => .miss l.1
    | .go k t =>
      let (t, e) := t.meetErrors k l.2.1
      if t.isPoisoned k l.2.1 then .bad 0x17
      else
        match t.readLines a r with
        | .ok bs u f => .ok (memReadL t.mem k l.2.1 ++ bs) u (max e f)
        | x => x

/-- Sends the bytes read on to the interface: a record in an own window is accepted 8 cycles after issue, and one that lies
elsewhere adds its load time to them (R415). An ENQR's is a class N flit of its core until it is there (R137, R139). -/
def State.sendRead (s : State) (a : Access) (bs : List Byte) (late : Nat) : State :=
  let lat := a.lat - a.lat / 2 + late + (if a.lat ≤ 4 then 4 else 8)
  let die := dieOf a.who.core
  let arg : StepArg := { acc := a, die := die, frag := { data := bs } }
  match a.kind with
  | .send _ _ _ (.record _) _ _ => s.sendN a.who.core die 80 lat .seatRequest arg
  | _ => s.postIn lat .seatRequest arg

/-! ## Acceptance (R144 to R147, R265, R273, R283) -/

/-- The traffic of a message, which gives its code rate. -/
def trafficOf (here : Bool) (cls : Nat) (body : MsgBody) : Rate :=
  if here then (match body with
    | .record _ => .dn
    | _ => .dm)
  else if cls == 0 then .fo
  else if cls == 1 then .fu
  else .fb

/-- Whether a send needs a seat: it leaves its die (R151, R283). -/
def State.needsSeat (s : State) (die dnode ddie : Nat) : Bool := !(s.isHere dnode && ddie == die)

/-- The sender continues: its bytes are read and its messages accepted. -/
def State.sendDone (s : State) (a : Access) : State :=
  (s.modRun a.who a.run fun x => if x.wait == .hold a.id then { x with wait := .none } else x).accEnd a

/-- Whether a class O message waits before its acceptance: for a class B message with the follow bit that this die has sent to
another interface of the node, and that is not delivered yet. Its own interface keeps the order of those that it gets itself, and
cannot see the others (R113, R149; DEDUCED, assumption log 68). -/
def State.mustTrail (s : State) (die cls dnode ddie : Nat) : Bool :=
  let d := s.die die
  cls == 0 &&
    ((d.sends.any fun (x : SendSide) => !x.host && x.dnode == dnode && x.ddie != ddie && x.busy.any (·.fol)) ||
     (dnode == s.node && ddie != die && d.slots.any fun (y : DSlot) => 4096 ≤ y.seat && y.env.cls == 2 && y.env.fol))

/-- The interface accepts a send, a message at a time, each with a seat; without a seat it requests a block and waits. The
messages of MSEND and MBULK to another die of this device have their own class in their headers, and the rate dm of the class M
stores that R283 likens them to (DESIGN CHOICE, assumption log 69). -/
def State.acceptSend (s : State) (a : Access) (bs : List Byte) (fol : Bool) (cls : Nat) (body : MsgBody) (dnode ddie : Nat) : State :=
  let die := dieOf a.who.core
  let node := s.nodeOf dnode
  let here := s.isHere dnode
  let e : Env := { dnode := node, ddie := ddie, cls := cls, fol := fol, body := body, sender := .ctx a.who, acc := a }
  let s := s.setEb a.who a.run
  if s.mustTrail die cls node ddie then s.post (s.cycle + 1) .seatRequest s.arg
  else if !s.needsSeat die dnode ddie then
    let lat := match body with
      | .write x => s.oneWay a.who.core x
      | _ => 28
    (s.sendOwn die e bs lat).sendDone a
  else
    let r := s.rate die (trafficOf here cls body)
    let lat := match body with
      | .record _ => 26 + 30 * crossings die ddie
      | _ => 12 * crossings die ddie
    match s.sendMessage die e r (bs.take (maxMessage r.1)) lat with
    | none => (s.askSeats { die := die, dnode := node, ddie := ddie }).post (s.cycle + 1) .seatRequest s.arg
    | some t =>
      let rest := bs.drop (maxMessage r.1)
      if rest.isEmpty then t.sendDone a
      else
        let next := match body with
          | .write x => .write (x + BitVec.ofNat 64 (maxMessage r.1))
          | b => b
        t.post s.cycle .seatRequest
          { s.arg with acc := { a with kind := .send rest.length fol cls next dnode ddie }, frag := { data := rest } }

/-- The bytes that an access to another node carries (DESIGN CHOICE, assumption log 21). -/
def AccKind.payload (k : AccKind) : List Byte :=
  match k with
  | .store n d => natBytes d.toNat n
  | .atomic _ n v c => natBytes v.toNat n ++ natBytes c.toNat n
  | .stx d => natBytes d.toNat 8
  | .ring _ _ _ d => natBytes d.toNat 8
  | .vstore _ d => natBytes d.toNat 128
  | .tile _ _ _ d => d
  | .drain p => p.bytes
  | .count err _ => natBytes (b2n err) 1
  | _ => []

/-- Whether an earlier relaxed access of the same context to one of an access's granules on another node has not been answered
yet, or has yet to leave (R106). -/
def State.mustWait (s : State) (a : Access) : Bool :=
  let g (b : Access) : Nat × Nat := (b.addr.toNat / 32, (b.addr.toNat + max 1 b.kind.size - 1) / 32)
  let before (b : Access) : Bool :=
    b.rx && b.run == a.run && b.id < a.id && (g b).1 ≤ (g a).2 && (g a).1 ≤ (g b).2
  a.rx && ((s.die (dieOf a.who.core)).remote.any (fun (r : RemoteReq) => before r.acc) ||
    s.agenda.any fun (p : Pending) => p.ev == Instr.seatRequest && p.arg.n == 1 && before p.arg.acc)

/-- A core's access to another node leaves as a message at the class O code rate (R97, R200); its reply finds it by its tag. -/
def State.sendRemote (s : State) (a : Access) : State :=
  if s.mustWait a then s.post (s.cycle + 1) .seatRequest s.arg
  else
  let die := dieOf a.who.core
  let node := bits a.addr.toNat 59 48
  let ddie := State.remoteDie a.who.core a.addr
  let atomic := match a.kind with
    | .atomic _ _ _ _ => !inSlateSpace a.addr
    | _ => false
  let s := if atomic then s.setEb a.who a.run else s
  let (t, s) := s.newId
  let e : Env := { dnode := node, ddie := ddie, cls := 1, body := .request t, sender := .ctx a.who, acc := a }
  match s.sendMessage die e (s.rate die .fo) (natBytes a.addr.toNat 8 ++ a.kind.payload) 0 with
  | none => (s.askSeats { die := die, dnode := node, ddie := ddie }).post (s.cycle + 1) .seatRequest s.arg
  | some u => u.modDie die fun d => { d with remote := d.remote ++ [{ tag := t, acc := a }] }

/-- A step of the wire protocol on a cell of another node leaves as a message (R41, R97). -/
def State.sendWire (s : State) (core what : Nat) (r : WireReq) : State :=
  let die := dieOf core
  let cell := if what == 0 || what == 1 then r.peer else r.old
  let node := bits cell.toNat 59 48
  let ddie := State.remoteDie core cell
  let e : Env := { dnode := node, ddie := ddie, cls := 1, body := .wire what, sender := .ctx r.acc.who, wire := r }
  let bytes := [r.old, r.new, r.peer, BitVec.ofNat 64 r.tag].flatMap fun w => natBytes w.toNat 8
  match s.sendMessage die e (s.rate die .fo) bytes 0 with
  | none => (s.askSeats { die := die, dnode := node, ddie := ddie }).post (s.cycle + 1) .seatRequest s.arg
  | some u => u

/-- The answer to an access of another node leaves as a message (R97): its data, or its cause (R357). -/
def State.answerRemote (s : State) (a : Access) (cause : Nat) (val : VWord) : State :=
  let die := dieOf a.who.core
  match (s.die die).asked.find? fun (p : Nat × Env) => p.1 == a.id with
  | none => s
  | some (_, e) =>
    let tag := match e.body with
      | .request t => t
      | _ => 0
    let out : Env := { dnode := e.snode, ddie := e.sdie, cls := 1, body := .reply tag cause }
    match s.sendMessage die out (s.rate die .fo) (natBytes val.toNat (max 1 a.kind.size)) 0 with
    | none =>
      let s := s.askSeats { die := die, dnode := e.snode, ddie := e.sdie }
      if cause == 0 then s.post (s.cycle + 1) .memoryReply { acc := a, vec := val }
      else s.postLate (s.cycle + 1) .landingFaultReport { acc := a, cause := cause }
    | some t => t.modDie die fun d => { d with asked := d.asked.filter fun (p : Nat × Env) => p.1 != a.id }

/-! ## Status of seats (R284) -/

/-- The issuing context waits, without an issue slot, for the answer to its request; its MSEAT issues then (R262, R284). -/
def State.seatWait (s : State) (r : SeatReq) : State :=
  let (i, s) := s.newId
  let l : Late := { who := s.who, run := (s.ctx s.who).run }
  let s := s.modCtx s.who fun x => { x with wait := .hold i }
  s.postIn (12 * crossings r.die r.ddie) .seatRequest
    { seat := { r with waiter := some l }, n := 2, die := r.ddie,
      env := { snode := s.node, sdie := r.die, dnode := r.dnode, ddie := r.ddie } }

/-- The answer to its request lets an MSEAT issue. -/
def State.seatAnswer (s : State) (l : Late) : State :=
  s.modRun l.who l.run fun x => match x.wait with
    | .hold _ => { x with wait := .none, seated := true }
    | _ => x

/-- A record of the host takes a seat at die 0's interface and a sequence of its own, and needs no code (R146, R152). -/
def State.hostRecord (s : State) (e : Env) (bytes : List Byte) : State :=
  let s := s.leaseNow 0 e
  let x := s.sideOf 0 e
  match x.idle with
  | [] => s.post (s.cycle + 1) .seatRequest s.arg
  | seat :: rest =>
    let (i, s) := s.newId
    let e := { e with snode := s.node, sdie := 0, seq := x.seq, seat := seat, len := bytes.length }
    let s := s.setSend 0 { x with idle := rest, seq := (x.seq + 1) % 2 ^ 32, busy := x.busy ++ [{ seat := seat, seq := x.seq }] }
    (s.modDie 0 fun d => { d with slots := d.slots ++ [{ seat := seat, env := e, order := i, decoded := true, data := bytes }] }).postIn
      0 .deliver { die := 0, id := seat }

/-- SEAT_REQUEST: a send at its interface (0), an access that leaves for another node (1), a request for a block at its
destination (2), and the answer at the sender (3); a step of the wire protocol that leaves for another node (4), a packet that
crosses to another die (5) or has yet to enter the mesh (6), and a record of the host (7). Between nodes the answer comes from outside (DESIGN CHOICE, assumption log 18). -/
def execSeatRequest (s : State) : Host.Outcome State Fault Refusal :=
  match s.arg.n with
  | 0 =>
    match s.arg.acc.kind with
    | .send _ fol cls body dnode ddie => .next (s.acceptSend s.arg.acc s.arg.frag.data fol cls body dnode ddie)
    | _ => .next s
  | 1 => .next (s.sendRemote s.arg.acc)
  | 4 => .next (s.sendWire s.arg.core s.arg.id s.arg.wire)
  | 5 => .next (s.sendPacket s.arg.id)
  | 6 => .next (s.admitPacket s.arg.id s.arg.core)
  | 7 => .next (s.hostRecord s.arg.env s.arg.frag.data)
  | 2 =>
    let e := s.arg.env
    if e.dnode != s.node then .next s
    else
      let (t, seats) := s.grantSeats s.arg.die e
      if e.snode != s.node || e.host then .next t
      else
        .next (t.postIn (12 * crossings s.arg.die e.sdie) .seatRequest
          { seat := s.arg.seat, n := 3, die := e.sdie, env := e, words := seats.map fun i => BitVec.ofNat 64 i })
  | _ =>
    let r := s.arg.seat
    let x := s.sendSide r.die r.dnode r.ddie
    let s := s.setSend r.die { x with idle := x.idle ++ s.arg.words.map (·.toNat), asked := false }
    match r.waiter with
    | none => .next s
    | some l => .next (s.seatAnswer l)

/-- MSEAT (R284). -/
def execMseat (d : Reg) (a : Src) (req : Bool) (s : State) : Host.Outcome State Fault Refusal :=
  let die := dieOf s.who.core
  let at' (v : Vals) : Nat × Nat := (s.nodeOf (v.a.toNat % 4096), bits v.a.toNat 13 12)
  let u : Uses := { a := some a, out := [d] }
  if req && !(s.ctx s.who).seated then
    match s.peek u with
    | .stop t => .next t
    | .ok v =>
      let q := at' v
      .next (s.seatWait { die := die, dnode := q.1, ddie := q.2 })
  else
    .next (s.compute u fun v =>
      let q := at' v
      BitVec.ofNat 64 (s.sendSide die q.1 q.2).idle.length)

/-! ## ENQR, MSEND and MBULK (R273, R283) -/

/-- The issue-cycle checks of a send's source. -/
def State.sourceFault (s : State) (a : Word) (n : Nat) : Option Nat :=
  match s.form s.who.core a with
  | .bad => some 0x10
  | .remote _ => some 0x16
  | _ => if s.leavesSlate s.who.core ⟨a, n, false⟩ then some 0x15 else s.ownFault a .load

/-- Starts a send: its sender waits until its bytes are read and its messages accepted. -/
def State.startSend (s : State) (k : AccKind) (a : Word) : State :=
  let id := s.seq
  (s.startAccess k a false .none).finish.modCtx s.who fun x => { x with wait := .hold id }

/-- Whether a non-blocking send finds no seat (R273). -/
def State.noSeat (s : State) (dnode ddie : Nat) : Bool :=
  let die := dieOf s.who.core
  s.needsSeat die dnode ddie && (s.sendSide die (s.nodeOf dnode) ddie).idle.isEmpty

/-- ENQR (R273). -/
def execEnqr (a b : Src) (nb : Bool) (s : State) : Host.Outcome State Fault Refusal :=
  let u : Uses := { a := some a, b := some b }
  .next (s.waiting u Ctx.quiet fun v s =>
    let node := bits v.b.toNat 23 12
    if v.a.toNat % 64 != 0 then s.trapHere 0x15 v.a
    else
      match s.sourceFault v.a 64 with
      | some k => s.trapHere k v.a
      | none =>
        if nb && s.noSeat node 0 then s.trapHere 0x31 0
        else (s.commit u).startSend (.send 64 false 0 (.record (bits v.b.toNat 11 0)) node 0) v.a)

/-- The node and die of a message's destination address (R97, R283). -/
def State.destOf (s : State) (b : Word) : Nat × Nat :=
  let core := s.who.core
  match s.form core b with
  | .remote n => (n, State.remoteDie core b)
  | .window c _ _ => (s.node, dieOf c)
  | .handle o _ _ _ => (s.node, octetDie o)
  | _ =>
    match s.cellKey core b with
    | some k => (s.node, if isDevKey k then physDie k else 0)
    | none => (s.node, dieOf core)

/-- MSEND and MBULK: the checks, and the send. -/
def State.messageIssue (s : State) (a b c : Src) (fol nb : Bool) (cls : Nat) : State :=
  let u : Uses := { a := some a, b := some b, c := some c }
  s.waiting u Ctx.quiet fun v s =>
    let n := min v.c.toNat 65536
    if n == 0 then (s.commit u).finish
    else
      match s.sourceFault v.a n with
      | some k => s.trapHere k v.a
      | none =>
        if s.form s.who.core v.b == .bad then s.trapHere 0x10 v.b
        else if s.leavesSlate s.who.core ⟨v.b, n, true⟩ then s.trapHere 0x15 v.b
        else
          match s.ownFault v.b .store with
          | some k => s.trapHere k v.b
          | none =>
            let q := s.destOf v.b
            if nb && s.noSeat q.1 q.2 then s.trapHere 0x31 0
            else (s.commit u).startSend (.send n fol cls (.write (s.homed s.who.core v.b)) q.1 q.2) v.a

/-- MSEND: class U. -/
def execMsend (a b c : Src) (nb : Bool) (s : State) : Host.Outcome State Fault Refusal := .next (s.messageIssue a b c false nb 1)

/-- MBULK: class B. -/
def execMbulk (a b c : Src) (fol nb : Bool) (s : State) : Host.Outcome State Fault Refusal := .next (s.messageIssue a b c fol nb 2)

/-- INBOX (R273): arms an inbox with a waiting agent; inbox 0 is left as it is. -/
def execInbox (a b : Src) (s : State) : Host.Outcome State Fault Refusal :=
  let u : Uses := { a := some a, b := some b }
  match s.peek u with
  | .stop t => .next t
  | .ok v =>
    let i := v.a.toNat % 4096
    let k := s.inboxKey i
    let d0 := s.rd8 k
    if i == 0 then .next (s.commit u).finish
    else if s.priv s.who < 2 && (s.ctx s.who).net.toNat != bits d0 47 32 then .next (s.trapHere 0x04 0)
    else
      let s := (s.commit u).storeN (k + 8) 8 (s.homed s.who.core v.b).toNat
      .next (s.storeN k 8 (if bitAt d0 62 then d0 else d0 + 2 ^ 62)).finish

end Sys2Proof.Machine
end

