-- ==== Sys2Proof/Machine/Sched.lean ====
section
/-! DEFINITION. The homeroom's instructions: TAKE with its search and steals, START and REAP; and the gold identifier of each
die (R48, R49, R56, R57, R59, R140, R274 to R276, R332, R396). They issue from context 0 alone. -/

namespace Sys2Proof.Machine

/-! ## The choice of TAKE (R59, R274) -/

/-- What a search finds on the core: whether a context is free, and the lowest priority and the victim among those that run. -/
structure Outlook where
  free : Bool := false
  low : Option Nat := none
  victim : Nat := 0
deriving DecidableEq, Repr

/-- The lowest priority of a core's running contexts, and its highest-numbered holder (R59). -/
def State.outlook (s : State) (core : Nat) : Outlook :=
  let run := s.running core
  let prio (k : Nat) : Nat := (s.ctx ⟨core, k⟩).prio
  let low := run.foldl (fun (a : Option Nat) k => some (match a with
    | some p => min p (prio k)
    | none => prio k)) none
  { free := !(s.freeCtxs core).isEmpty, low := low,
    victim := run.foldl (fun a k => if some (prio k) == low then k else a) 0 }

/-- Whether an item of a priority may be taken. -/
def Outlook.admits (o : Outlook) (prio : Nat) : Bool := o.free || o.low.any fun p => p < prio

/-- Where an item that a search may take lies. -/
inductive From where
  | notice (die slot : Nat)
  | deque (q : QItem)
  | octet (q : QItem)
  | die (q : QItem)
deriving DecidableEq, Repr

def From.prio : From → Nat
  | .notice _ _ => 255
  | .deque q => q.prio
  | .octet q => q.prio
  | .die q => q.prio

/-- Whether a core takes a pair: not one of a net whose cut waits for the core's record (R67). -/
def State.takes (s : State) (core : Nat) (q : QItem) : Bool :=
  !((s.coreAt core).cuts.any fun (p : CutPart) =>
    p.taken.isNone && s.cuts.any fun (c : Cut) => c.id == p.id && s.dword core q.a % 65536 == c.net)

/-- The sources of a search, in their order (R274). -/
def State.sources (s : State) (core : Nat) : List From :=
  let die := dieOf core
  let d := s.die die
  let notice := if s.isStaffCore core && d.staffNotice != 0 then d.firstNotice else none
  (notice.map fun i => From.notice die i).toList ++ (((s.coreAt core).deque.find? (s.takes core)).map From.deque).toList ++
    (((s.octet (octetOf core)).queue.find? (s.takes core)).map From.octet).toList ++ ((d.queue.find? (s.takes core)).map From.die).toList

/-- Whether one saved entry goes before another: priority, then the least recently saved. -/
def Saved.better (x y : Saved) : Bool := y.prio < x.prio || (x.prio == y.prio && x.id ≤ y.id)

/-- The best ready cloakroom entry of a core that may be taken. -/
def State.bestSaved (s : State) (core : Nat) (o : Outlook) : Option Saved :=
  ((s.octet (octetOf core)).cloak.filter fun (x : Saved) => x.core == core && x.ready && !x.taken && o.admits x.prio).foldl
    (fun (a : Option Saved) x => match a with
      | some y => if x.better y then some x else some y
      | none => some x) none

/-- Moves an item to the take register. -/
def State.moveItem (s : State) (core : Nat) (f : From) : State :=
  match f with
  | .notice die slot =>
    (s.modDie die fun d => { d with staffTaken := d.staffTaken ++ [slot] }).modCore core fun k => { k with takeReg := some (.notice die slot) }
  | .deque q => (s.setDeque core ((s.coreAt core).deque.filter fun p => p.id != q.id)).modCore core fun k => { k with takeReg := some (.pair q) }
  | .octet q => (s.modOctet (octetOf core) fun o => { o with queue := o.queue.filter fun p => p.id != q.id }).modCore core fun k => { k with takeReg := some (.pair q) }
  | .die q => (s.modDie (dieOf core) fun d => { d with queue := d.queue.filter fun p => p.id != q.id }).modCore core fun k => { k with takeReg := some (.pair q) }

/-- The take word (R274). -/
def takeWord (kind : Nat) (o : Outlook) (prio : Nat) : Word :=
  if kind == 1 || kind == 2 then BitVec.ofNat 64 (kind * 2 ^ 62 + (if o.free then 0 else o.victim) * 2 ^ 58 + prio * 2 ^ 48)
  else BitVec.ofNat 64 (kind * 2 ^ 62)

/-- Chooses between the first source that may be taken and the best saved context, which wins a tie: the take word. -/
def State.chooseItem (s : State) (core : Nat) : State × Word :=
  let o := s.outlook core
  let p := (s.sources core).find? fun f => o.admits f.prio
  let c := s.bestSaved core o
  match c with
  | some x =>
    if p.all fun f => f.prio ≤ x.prio then
      ((s.modOctet (octetOf core) fun k =>
        { k with cloak := mapIf (fun (y : Saved) => y.id == x.id) (fun y => { y with taken := true }) k.cloak }).modCore core fun k =>
          { k with takeReg := some (.saved x.id) }, takeWord 2 o x.prio)
    else
      match p with
      | some f => (s.moveItem core f, takeWord 1 o f.prio)
      | none => (s, takeWord 0 o 0)
  | none =>
    match p with
    | some f => (s.moveItem core f, takeWord 1 o f.prio)
    | none => (s, takeWord (if o.free then 0 else 3) o 0)

/-! ## The search (R57, R274) -/

/-- Ends the wait that an instruction of a number put its context in. -/
def State.release (s : State) (c : CtxId) (run id : Nat) : State :=
  s.modRun c run fun x => if x.wait == .hold id then { x with wait := .none } else x

/-- The end of a search: TAKE.w waits on when it found nothing and no context has stopped; else the take word is written 2 cycles
later. -/
def State.endSearch (s : State) (core : Nat) (t : Taking) : State :=
  let (s, w) := s.chooseItem core
  let none' := w.toNat / 2 ^ 62 == 0 || w.toNat / 2 ^ 62 == 3
  if t.w && none' && !t.stopped then s.modCore core fun k => { k with taking := some { t with busy := false } }
  else
    let s := s.modCore core fun k => { k with taking := none }
    (s.release t.reply.who t.reply.run t.id).post (s.cycle + 2) .homeroomLateResult { late := { t.reply with val := w.setWidth 1024 } }

/-- The next core of a die after a place whose occupancy bit is set, wrapping, but for one core (R57). -/
def State.nextOccupied (s : State) (die after but : Nat) : Option Nat :=
  let l := (s.cores.filter fun p => dieOf p.1 == die && p.1 != but && 2 ≤ p.2.deque.length).map (·.1)
  (l.find? fun k => after < k).orElse fun _ => l.head?

/-- The time of a steal's message to a core, or to another die. -/
def stealTime (a b : Nat) : Nat := forwardTime a b

/-- The next request of a steal: to the next victim in the die, then to the dies after it; after the last the search ends
(R57, R69). -/
def State.stealNext (s : State) (core : Nat) (t : Taking) : State :=
  let die := dieOf core
  let t := { t with busy := true }
  match if t.probes == 0 then none else s.nextOccupied die (s.coreAt core).victim core with
  | some v =>
    let s := s.modCore core fun k => { k with victim := v, taking := some { t with probes := t.probes - 1 } }
    s.sendN core (dieOf v) 16 (stealTime core v) .stealRequest { core := core, n := v }
  | none =>
    if t.asked < 3 then
      let d := (die + t.asked + 1) % 4
      let s := s.modCore core fun k => { k with taking := some { t with asked := t.asked + 1, probes := 0 } }
      s.sendN core d 16 (14 * crossings die d) .dieAsk { core := core, die := d }
    else s.endSearch core t

/-- A search from its start: the held item goes back, queues refill, and a steal follows where no source gives an item and a
context is free. -/
def State.search (s : State) (core : Nat) (t : Taking) : State :=
  let k := s.coreAt core
  let s := match k.takeReg with
    | some i => (s.modCore core fun k => { k with takeReg := none }).putBack core i
    | none => s
  let s :=
    if !(s.coreAt core).deque.isEmpty then s
    else
      let s := if (s.octet (octetOf core)).queue.isEmpty then s.refillOctet (octetOf core) else s
      s.refillDeque core
  let o := s.outlook core
  if o.free && (s.sources core).isEmpty then
    let n := (s.cores.filter fun p => dieOf p.1 == dieOf core && p.1 != core && 2 ≤ p.2.deque.length).length
    s.stealNext core { t with probes := n, asked := 0 }
  else s.endSearch core t

/-- TAKE_WAKE_EVENT (R48, R274): a TAKE searches; with `n` = 1 a context of the core has stopped. -/
def execTakeWakeEvent (s : State) : Host.Outcome State Fault Refusal :=
  let core := s.arg.core
  match (s.coreAt core).taking with
  | none => .next s
  | some t =>
    let t := { t with stopped := t.stopped || s.arg.n == 1 }
    if t.busy then .next (s.modCore core fun k => { k with taking := some t }) else .next (s.search core t)

/-- TAKE (R274): one search of a core goes on at a time. -/
def execTake (d : Reg) (w : Bool) (s : State) : Host.Outcome State Fault Refusal :=
  if s.who.ctx != 0 then .next (s.trapHere 0x04 0)
  else
    match s.peek { late := [d] } with
    | .stop t => .next t
    | .ok _ =>
      let core := s.who.core
      if (s.coreAt core).taking.isSome then .next (s.block 1)
      else
        let run := (s.ctx s.who).run
        let (i, s) := s.newId
        let s := (s.emptyDest s.who (.reg d)).finish
        let s := s.modCtx s.who fun x => { x with lateOut := x.lateOut + 1, wait := if w then .hold i else x.wait }
        let s := s.modCore core fun k =>
          { k with taking := some { reply := { who := s.who, run := run, dest := .reg d }, w := w, id := i } }
        .next (s.post s.cycle .takeWakeEvent { core := core })

/-! ## Steals (R57) -/

/-- Takes min(8, n ÷ 2) entries from the far end of a core's deque. -/
def State.stealFrom (s : State) (victim : Nat) : State × List QItem :=
  let l := (s.coreAt victim).deque
  let n := min 8 (l.length / 2)
  (s.setDeque victim (l.take (l.length - n)), l.drop (l.length - n))

/-- STEAL_REQUEST: it is decided in the victim deque's arrival order; a victim in a fenced rectangle is a miss (R396). -/
def execStealRequest (s : State) : Host.Outcome State Fault Refusal :=
  let v := s.arg.n
  let (t, l) := if s.fenced s.arg.core v then (s, []) else s.stealFrom v
  .next (t.sendN v (dieOf s.arg.core) (16 + 16 * l.length) (stealTime s.arg.core v) .stealReply { core := s.arg.core, items := l })

/-- DIE_ASK: the head of the die queue, up to 8 entries, or a steal from the next core after the die's own victim pointer. -/
def execDieAsk (s : State) : Host.Outcome State Fault Refusal :=
  let core := s.arg.core
  let d := s.arg.die
  let x := s.die d
  let back (s : State) (l : List QItem) : State :=
    s.carry d (dieOf core) true false (16 + 16 * l.length) (14 * crossings d (dieOf core)) .stealReply { core := core, items := l }
  if !x.queue.isEmpty then .next (back (s.setDie d { x with queue := x.queue.drop 8 }) (byAge (x.queue.take 8)))
  else
    match s.nextOccupied d x.victim core with
    | none => .next (back s [])
    | some v =>
      let s := s.setDie d { x with victim := v }
      if s.fenced core v then .next (back s [])
      else
        let (t, l) := s.stealFrom v
        .next (back t l)

/-- STEAL_REPLY: entries go to the near end of the asker's deque, and the choice is made; without any the steal goes on. -/
def execStealReply (s : State) : Host.Outcome State Fault Refusal :=
  let core := s.arg.core
  let l := s.arg.items
  let s := (List.range ((l.length + 3) / 4)).foldl (fun s i =>
    s.cutLog core 5 2 0 (((l.drop (4 * i)).take 4).flatMap QItem.words)) s
  let s := if l.isEmpty then s else s.blockToDeque core l
  match (s.coreAt core).taking with
  | none => .next s
  | some t => if !t.busy then .next s else if l.isEmpty then .next (s.stealNext core t) else .next (s.endSearch core t)

/-! ## START (R275) -/

/-- Whether START answers 2 for a context of its core. -/
def State.startBusy (s : State) (c : CtxId) : Bool :=
  let x := s.ctx c
  x.life == .parked || x.life == .trapped || x.life == .finished || x.starting || s.isSaving c ||
    (s.coreAt c.core).reaping.any fun r => r.victim == some c.ctx

/-- START. A refused START writes its status 2 cycles after its issue. -/
def execStart (d : Reg) (a b c : Src) (prio : Option (BitVec 8)) (s : State) : Host.Outcome State Fault Refusal :=
  if s.who.ctx != 0 then .next (s.trapHere 0x04 0)
  else
    let take := prio.isNone
    let u : Uses := if take then { a := some a, late := [d] } else { a := some a, b := some b, c := some c, late := [d] }
    match s.peek u with
    | .stop t => .next t
    | .ok v =>
      let core := s.who.core
      let k := v.a.toNat % 16
      let x : CtxId := ⟨core, k⟩
      let reply : Late := { who := s.who, run := (s.ctx s.who).run, dest := .reg d }
      let s := ((s.commit u).emptyDest s.who (.reg d)).finish
      let s := s.modCtx s.who fun y => { y with lateOut := y.lateOut + 1 }
      let item := if take then (s.coreAt core).takeReg else none
      if k == 0 then .next (s.startStatus reply 1 (s.cycle + 2))
      else if s.startBusy x then .next (s.startStatus reply 2 (s.cycle + 2))
      else
        let running := (s.ctx x).life == .active
        match prio, item with
        | some p, _ =>
          if running then .next (s.beginSave x (.startPc v.b v.c p.toNat reply))
          else .next ((s.startAtPc x v.b v.c p.toNat).startStatus reply 0 (s.cycle + 2))
        | none, some i =>
          let s := s.modCore core fun k => { k with takeReg := none }
          if running then .next (s.beginSave x (.startItem i reply)) else .next (s.startItem x i reply)
        | none, none => .next (s.startStatus reply 3 (s.cycle + 2))

/-! ## REAP (R276) -/

/-- The reap word of a context, and the value for b. -/
def State.reapWord (s : State) (c : CtxId) : Word × Word :=
  let x := s.ctx c
  if x.life == .trapped then (BitVec.ofNat 64 (x.frec.cause * 256 + 32 + c.ctx), x.frec.pc)
  else (BitVec.ofNat 64 (16 + c.ctx), x.exitVal)

/-- The first context of a core that a REAP reports. -/
def State.firstStopped (s : State) (core : Nat) (look : Bool) : Option Nat :=
  (s.coreAt core).reaping.bind (·.victim) |>.orElse fun _ =>
  ((List.range 15).map (· + 1)).find? fun k =>
    let x := s.ctx ⟨core, k⟩
    (x.life == .finished || x.life == .trapped) && !(look && x.reported)

/-- Writes a REAP's two destinations 2 cycles later, and ends its wait. -/
def State.reapDone (s : State) (r : Reaping) (w b : Word) : State :=
  let s := s.modCore r.reply.who.core fun k => { k with reaping := none }
  (s.release r.reply.who r.reply.run r.id).post (s.cycle + 2) .homeroomLateResult
    { late := { r.reply with val := w.setWidth 1024 }, late2 := { r.second with val := b.setWidth 1024 }, ok := false }

/-- Ends the stitching of a launch whose last started context has been reaped (R141). -/
def State.unstitch (s : State) (t : Option LaunchTag) : State :=
  match t with
  | none => s
  | some g =>
    let live (x : Ctx) : Bool := x.life != .gated && x.launch.any fun h => h.id == g.id
    if !g.rst || s.ctxs.any (fun (p : Nat × Ctx) => live p.2) ||
        (s.agenda.any fun (p : Pending) => p.ev == Instr.launchWake && p.arg.id == g.id) ||
        (s.octets.any fun (p : Nat × Octet) => p.2.saves.any fun (v : Save) => match v.after with
          | .sweep x => x.launch.any fun h => h.id == g.id
          | _ => false) ||
        s.octets.any fun (p : Nat × Octet) => p.2.cloak.any fun (x : Saved) => x.c.launch.any fun h => h.id == g.id then s
    else
      { s with cores := s.cores.map fun (p : Nat × Core) =>
          (p.1, if p.2.stitch.launch == g.id then { p.2 with stitch := {} } else p.2) }

/-- Collects a stopped context: its fault record goes to its core, and its bank is gated (R49, R325). -/
def State.collect (s : State) (c : CtxId) : State :=
  let x := s.ctx c
  let s := if x.life == .trapped then s.modCore c.core fun k => { k with frec := x.frec } else s
  (s.setCtx c {}).unstitch x.launch

/-- What a REAP does now: it reports, waits for the late results into its context, waits for one to stop, or reports none. -/
def State.tryReap (s : State) (core : Nat) (r : Reaping) (w : Bool) : State :=
  match s.firstStopped core r.look with
  | none =>
    if w then s.modCore core fun k => { k with reaping := some { r with victim := none } } else s.reapDone r 0 0
  | some k =>
    let c : CtxId := ⟨core, k⟩
    let x := s.ctx c
    let q := s.reapWord c
    if r.look then (s.modCtx c fun x => { x with reported := true }).reapDone r q.1 q.2
    else if x.sPend != 0 || x.vPend != 0 then
      (s.modCore core fun k' => { k' with reaping := some { r with victim := some k } }).post (s.cycle + 1) .homeroomLateResult
        { core := core, n := 1 }
    else (s.collect c).reapDone r q.1 q.2

/-- REAP: it waits, without an issue slot, for a context (.w) and for the late results into it. -/
def execReap (d b : Reg) (w look : Bool) (s : State) : Host.Outcome State Fault Refusal :=
  if s.who.ctx != 0 then .next (s.trapHere 0x04 0)
  else
    match s.peek { late := [d, b] } with
    | .stop t => .next t
    | .ok _ =>
      let core := s.who.core
      let run := (s.ctx s.who).run
      let (i, s) := s.newId
      let s := (s.emptyDest s.who (.reg2 d b)).finish
      let s := s.modCtx s.who fun x => { x with lateOut := x.lateOut + 1, wait := .hold i }
      .next (s.tryReap core
        { reply := { who := s.who, run := run, dest := .reg d }, second := { who := s.who, run := run, dest := .reg b }, id := i, look := look } w)

/-- HOMEROOM_LATE_RESULT: a take word, a START's status or a reap word with its second value is written; with `n` = 1 a REAP that
waits looks again. -/
def execHomeroomLateResult (s : State) : Host.Outcome State Fault Refusal :=
  if s.arg.n == 1 then
    match (s.coreAt s.arg.core).reaping with
    | none => .next s
    | some r => .next (s.tryReap s.arg.core r true)
  else
    let l := s.arg.late
    let s := s.lateDone l
    if s.arg.ok then .next s else .next (s.fill s.arg.late2.who s.arg.late2.run s.arg.late2.dest s.arg.late2.val)

/-! ## The gold identifier (R140) -/

/-- GOLD_ADVANCE: the gold packet's identifier steps every 1,024 cycles. -/
def execGoldAdvance (s : State) : Host.Outcome State Fault Refusal :=
  let d := s.arg.die
  .next ((s.modDie d fun x => { x with gold := d * 1920 + (x.gold + 1) % 1920 }).post (s.cycle + 1024) .goldAdvance s.arg)

end Sys2Proof.Machine
end

