-- ==== Sys2Proof/Machine/Landing.lean ====
section
/-! DEFINITION. What accesses do where they land and how they end: the bank's step (R94, R95, R103, R104), translation misses
and their wakes (R97, R327, R354), replies, acknowledgements and refusals (R72, R322, R323), and forwarded replies (R63,
R377). -/

namespace Sys2Proof.Machine

/-! ## Order of relaxed accesses (R106) -/

/-- The granules that an access touches, by storage, or by address where the page is missing. -/
def State.accGranules (s : State) (a : Access) : Nat × Nat :=
  let k := (s.cellKey a.who.core a.addr).getD a.addr.toNat
  (k / 32, (k + max 1 a.kind.size - 1) / 32)

/-- Whether an earlier relaxed access of the same run to one of an access's granules has still to be performed. -/
def State.mustFollow (s : State) (a : Access) : Bool :=
  let g := s.accGranules a
  let before (b : Access) : Bool :=
    b.rx && b.run == a.run && b.id < a.id && (let h := s.accGranules b; h.1 ≤ g.2 && g.1 ≤ h.2)
  a.rx &&
    (s.underWay.any (fun (p : Pending) =>
      (p.ev == Instr.bankAccess || p.ev == Instr.walkDone || p.ev == Instr.translationMiss) && before p.arg.acc) ||
     s.held.any before || (s.octet (octetOf a.who.core)).waiting.any before)

/-! ## The bank's step -/

/-- A full/empty operation at its word: it is performed, or parks (R95). -/
def State.bankFe (s : State) (a : Access) (k : Nat) : State :=
  match s.tryFe k a with
  | some (t, ch) => if ch then t.afterWrite k 8 else t
  | none =>
    let tries := ((s.runCtx a.who a.run).map fun (x : Ctx) => x.tries).getD 0
    let p : Parked := { acc := { a with key := k, tries := tries }, last := s.cycle }
    let s : State := { s with parked := s.parked ++ [p] }
    match a.kind with
    | .ring _ _ _ _ => s
    | _ => s.post (s.cycle + 256) .parkedOpTimerRetry { id := a.id }

/-- A CWAIT at its word: it completes at the first step that satisfies it, or sleeps (R103). -/
def State.bankCwait (s : State) (a : Access) (k threshold : Nat) : State :=
  let w := s.rd8 (k / 8 * 8)
  if cwaitDone w threshold then s.replyTo { a with lat := 0 } (BitVec.ofNat 1024 w)
  else { s with sleepers := s.sleepers ++ [{ acc := { a with key := k / 8 * 8 } }] }

/-- The granules of an access that a watchpoint compares; a masked vector store touches those of its active lanes (R373). -/
def State.watched (s : State) (a : Access) (k : Nat) : Bool :=
  match a.kind with
  | .vstore mask _ =>
    (List.range 4).any fun g => mask.toNat / 2 ^ (8 * g) % 256 != 0 && !(s.watchHits (k + 32 * g) 32).isEmpty
  | kind => kind.writes && !(s.watchHits k kind.size).isEmpty

/-- Whether an access reads its granules, and so meets their errors and their poison (R366). -/
def AccKind.meets (k : AccKind) : Bool :=
  match k with
  | .store _ _ | .vstore _ _ => false
  | _ => true

/-- What an access does once its place lets it on (R104): one step of its bank. -/
def State.perform (s : State) (a : Access) (k : Nat) : State :=
  match a.kind with
  | .load n sx => s.replyTo a ((loadVal n (memReadN s.mem k n) sx).setWidth 1024)
  | .store n d => (s.storeN k n d.toNat).replyTo a 0
  | .atomic op n v c =>
    let s := if isDevKey k then s.setEb a.who a.run else s
    let old := memReadN s.mem k n
    (s.storeN k n (atomNew op n old v.toNat c.toNat)).replyTo a (BitVec.ofNat 1024 old)
  | .ldx | .stx _ | .ldf | .ring _ _ _ _ => s.bankFe a k
  | .vload => s.replyTo a (BitVec.ofNat 1024 (memReadN s.mem k 128))
  | .vstore mask d => (s.storeMasked k mask d).replyTo a 0
  | .hsift fin e => (s.hsiftStep k fin e).replyTo a 0
  | .cwait t _ => s.bankCwait a k t
  | .bind _ => s.replyTo a (BitVec.ofNat 1024 (memReadN s.mem k 64))
  | .agent h pl net => s.bankAgent a h pl net
  | .free _ => (s.markRec a.who.core a.addr).replyTo a 0
  | .link b => s.bankLink a b
  | .splice n => s.bankSplice a n (s.bridges.any fun (b : Bridge) => b.acc.id == a.id)
  | .join o1 o2 net => s.bankJoin a o1 o2 net
  | .pref => s.bankPref a k
  | .unref net => s.bankUnref a k net
  | .pmut net => s.bankPmut a k net
  | .palloc d0 d1 _ => s.bankPalloc a d0 d1
  | .cellrd => s.replyTo a (BitVec.ofNat 1024 (s.rd8 k))
  | .count err _ => (s.storeN (k / 8 * 8) 8 (countNext (s.rd8 (k / 8 * 8)) err)).replyTo a 0
  | .send _ _ _ _ _ _ | .tile _ _ _ _ | .drain _ => s

/-- The refusal of an access where it lands: a JOIN's splice and an element of a stream end in their own ways (R43, R359). -/
def State.refuseAt (s : State) (a : Access) (cause : Nat) : State :=
  match a.kind with
  | .ring core q _ _ => s.postLate s.cycle .landingFaultReport { acc := { a with kind := .ring core q false 0 }, cause := cause }
  | .splice n =>
    if s.bridges.any fun (b : Bridge) => b.acc.id == a.id then
      s.spliceDone { old := a.addr, new := n, acc := a, join := true } cause
    else s.refuse a cause
  | _ => s.refuse a cause

/-- A translation-cache miss of an access (R91): its walk, or, for a frame that carries a retire mark, the miss itself. -/
def State.walkFor (s : State) (a : Access) (addr : Word) : State :=
  let die := dieOf a.who.core
  let part := s.partOf a.who.core
  let off := bits addr.toNat 47 0
  match s.tlbFind die part off with
  | some _ => s.postLate s.cycle .translationMiss { acc := { a with miss := some addr } }
  | none => s.postIn (110 * (s.walk part off).2) .walkDone { acc := { a with miss := some addr } }

/-- What stops a LINK or a SPLICE at its other cell (R39, R40): the cell is checked as the one at its address is. -/
def State.secondStop (s : State) (a : Access) : Option Stop :=
  (a.kind.others.filter fun b => !s.isAway a.who.core b).findSome? fun b =>
    match s.land a.who.core a.staff true b 8 .fullEmpty 1 with
    | .bad k => some (.bad k b)
    | .miss => some (.miss b)
    | .wait _ => some .wait
    | .go _ _ => none

/-- A send's bytes at their place. -/
def State.landSend (s : State) (a : Access) (n : Nat) : State :=
  match s.readLines a (messageLines a.addr n) with
  | .ok bs t late => t.sendRead a bs late
  | .wait o => s.modOctet o fun x => { x with waiting := x.waiting ++ [a] }
  | .miss m => s.walkFor a m
  | .bad k => s.refuse a k

/-- Whether an access is a step of the net protocol, which takes effect as a whole (R94). -/
def AccKind.isNet (k : AccKind) : Bool :=
  match k with
  | .agent _ _ _ | .free _ | .link _ | .join _ _ _ | .pref | .unref _ | .pmut _ | .palloc _ _ _ => true
  | _ => false

/-- An access takes its turn at its banks: what it reads meets its errors and its poison (R366), and its bank's step follows. A step
of the net protocol that meets a missing page, a closed window or a refusal on the way has no effect. -/
def State.takeTurn (s : State) (a : Access) (k : Nat) : State :=
  let (t, e) := if a.kind.meets then s.meetErrors k a.kind.size else (s, 0)
  let a := { a with lat := a.lat + 2 * e, key := 0 }
  if a.kind.meets && t.isPoisoned k a.kind.size then t.refuseAt a 0x17
  else
    let t := if a.who.core < 7680 then t
      else (t.postWatch k (if a.kind.writes then t.watchHits k a.kind.size else []) [] a.addr
        (((t.die (dieOf a.who.core)).asked.find? fun (p : Nat × Env) => p.1 == a.id).elim 0 fun p => BitVec.ofNat 64 p.2.snode)).1
    if !a.kind.isNet then t.perform a k
    else
      t.atomically a.who.core (fun s => s.perform a k) fun x s =>
        match x with
        | .wait => s.post (s.cycle + 1) .bankAccess { acc := a }
        | .miss m => s.walkFor a m
        | .bad c m => s.refuseAt { a with addr := m, ea := none } c

/-- The keys whose banks an access takes a turn at (R94). -/
def State.turnKeys (s : State) (a : Access) (k : Nat) : List Nat :=
  (a.kind.parts.flatMap fun p => (granulesOf (k + p.1) p.2).map fun g => max k (32 * g)) ++
    if a.kind.isNet then (State.perform { s with txn := {} } a k).txn.keys else []

/-- An access at its place: the checks of R199's second list, once, and its turn at its banks (R94, R360). -/
def State.landAccess (s : State) (a : Access) : State :=
  let kind := a.kind
  if s.arg.slot then s.takeTurn a a.key
  else
    match s.landParts a.who.core a.staff true a.addr kind.parts kind.need kind.use with
    | .wait o => s.modOctet o fun x => { x with waiting := x.waiting ++ [a] }
    | .miss => s.walkFor a a.addr
    | .bad k =>
      let ring := match kind with
        | .ring _ _ _ _ => true
        | _ => false
      if ring && k == 0x13 then s.post (s.cycle + 1) .bankAccess { acc := a } else s.refuseAt a k
    | .go k t =>
      if kind.bankOnly && isHostKey k then s.refuseAt a 0x16
      else if !a.staff && a.who.core < 7680 && s.watched a k then s.refuseAt a 0x3F
      else
        match s.secondStop a with
        | some .wait => s.post (s.cycle + 1) .bankAccess { acc := a }
        | some (.miss b) => s.walkFor a b
        | some (.bad c b) => s.refuseAt { a with addr := b, ea := none } c
        | none =>
          let (n, b) := s.bankTakes (s.turnKeys a k)
          let t := { t with banks := b.banks }
          if s.cycle < n then t.post n .bankAccess { acc := { a with key := k }, slot := true } else t.takeTurn a k

/-- BANK_ACCESS (R104). -/
def execBankAccess (s : State) : Host.Outcome State Fault Refusal :=
  let a := s.arg.acc
  if s.mustFollow a then .next (s.post (s.cycle + 1) .bankAccess s.arg)
  else
    match a.kind with
    | .send n _ _ _ _ _ => .next (s.landSend a n)
    | .tile o _ _ _ => .next (s.post s.cycle .tileTransferPiece { octet := o, id := a.id })
    | .drain p => .next (s.post s.cycle .drainStorePiece { piece := p, n := 1 })
    | _ => .next (s.landAccess a)

/-- PARKED_OP_TIMER_RETRY (R364): 256 cycles after its last try, an operation whose word has not changed is tried again. -/
def execParkedOpTimerRetry (s : State) : Host.Outcome State Fault Refusal :=
  match s.parked.find? fun (p : Parked) => p.acc.id == s.arg.id with
  | none => .next s
  | some p =>
    if s.cycle < p.last + 256 then .next (s.post (p.last + 256) .parkedOpTimerRetry s.arg)
    else
      let (t, failed, ch) := s.retry p.acc.key p.acc.id 0
      let t := if ch then t.afterWrite p.acc.key 8 else t
      .next (if failed then t.post (s.cycle + 256) .parkedOpTimerRetry s.arg else t)

/-! ## Translation (R97, R327, R354) -/

/-- WALK_DONE: the walk found a leaf, which fills the translation cache, and the access goes on to its bank; or it found
none. -/
def execWalkDone (s : State) : Host.Outcome State Fault Refusal :=
  let a := s.arg.acc
  let core := a.who.core
  let die := dieOf core
  let part := s.partOf core
  let off := bits (a.miss.getD a.addr).toNat 47 0
  let go (s : State) (p : Nat) : State :=
    let a := { a with miss := none, lat := if a.miss.all fun m => m == a.addr then physLat core p else a.lat }
    s.carryFor a true false (a.lat / 2) .bankAccess { acc := a }
  match s.tlbFind die part off with
  | some e => .next (go s (e.phys off))
  | none =>
    match s.walk part off with
    | (some l, _) =>
      let t := s.tlbFill die part l
      match t.tlbFind die part off with
      | some e => .next (go t (e.phys off))
      | none => .next (s.postLate s.cycle .translationMiss s.arg)
    | (none, _) => .next (s.postLate s.cycle .translationMiss s.arg)

/-- TRANSLATION_MISS (R327): the access is held, its context drops, and MISS is posted. -/
def execTranslationMiss (s : State) : Host.Outcome State Fault Refusal := .next (s.holdMiss s.arg.acc)

/-! ### The wake of a PAGE_MAPPED (R327, R354 to R356, R381, R403) -/

/-- The bytes that a page size code covers (R354). -/
def pageBytes (code : Nat) : Nat :=
  match code with
  | 0 => 2 ^ 16 | 1 => 2 ^ 21 | 2 => 2 ^ 30 | _ => 0

/-- Whether a mapped page covers an address. -/
def pageCovers (page : Word) (code : Nat) (a : Word) : Bool :=
  let n := pageBytes code
  n != 0 && bits page.toNat 47 0 / n == bits a.toNat 47 0 / n

/-- A dropped context returns to the ready set once no page of its is missing, to the wait that it was in (R403). -/
def Ctx.woken (x : Ctx) (now : Nat) (covers : Word → Bool) : Ctx :=
  let rest := x.drops.filter fun a => !covers a
  if rest.length == x.drops.length then x
  else if !rest.isEmpty then { x with drops := rest }
  else
    let lost := now - x.dropAt
    let x := { x with drops := [] }
    match x.wait with
    | .fetchDrop => { x with wait := .none }
    | .released => { x with wait := .none, pc := x.pc + 8 }
    | .cwait _ => { x with left := x.left + lost }
    | .roll t dl => { x with wait := .roll t (if dl == 0 then 0 else dl + lost) }
    | _ => x

/-- Wakes the dropped contexts of a die, in their banks and in the cloakrooms. -/
def State.wakeDropped (s : State) (die part : Nat) (covers : Word → Bool) : State :=
  let mine (core : Nat) : Bool := dieOf core == die && s.partOf core == part
  let s := { s with ctxs := s.ctxs.map fun (p : Nat × Ctx) =>
      (p.1, if mine (p.1 / 16) && !p.2.drops.isEmpty then p.2.woken s.cycle covers else p.2) }
  let s := s.readyWhere fun x => x.kind == 3 && mine x.core && x.c.drops.any covers
  { s with octets := s.octets.map fun (p : Nat × Octet) =>
      (p.1, { p.2 with cloak := p.2.cloak.map fun (x : Saved) =>
        if x.kind != 3 && mine x.core && !x.c.drops.isEmpty then { x with c := x.c.woken s.cycle covers } else x }) }

/-- The walker translates a held access again (R91, R327). -/
def State.walkAgain (s : State) (a : Access) : State :=
  let off := bits (a.miss.getD a.addr).toNat 47 0
  let part := s.partOf a.who.core
  match s.tlbFind (dieOf a.who.core) part off with
  | some _ => s.post s.cycle .walkDone { acc := a }
  | none => s.postIn (110 * (s.walk part off).2) .walkDone { acc := a }

/-- Translates the held accesses of a die again (R327). -/
def State.freeHeld (s : State) (die part : Nat) (covers : Word → Bool) : State :=
  let hit (a : Access) : Bool := dieOf a.who.core == die && s.partOf a.who.core == part && covers (a.miss.getD a.addr)
  (s.held.filter hit).foldl (fun s a =>
    match a.kind with
    | .tile o _ _ _ => s.post s.cycle .tileTransferPiece { octet := o, id := a.id }
    | .drain p => s.post s.cycle .drainStorePiece { piece := p, n := 1 }
    | _ => s.walkAgain a) { s with held := s.held.filter fun a => !hit a }

/-- Lets the steps of a die that wait for a page go on (R354). -/
def State.freeSteps (s : State) (die part : Nat) (covers : Word → Bool) : State :=
  let hit (h : HeldStep) : Bool := dieOf h.core == die && s.partOf h.core == part && covers h.addr
  (s.heldSteps.filter hit).foldl (fun s h => s.post s.cycle h.ev h.arg) { s with heldSteps := s.heldSteps.filter fun h => !hit h }

/-- Lets the held completion counts of a die go on (R343). -/
def State.freeCounts (s : State) (die part : Nat) (covers : Word → Bool) : State :=
  let hit (c : Count) : Bool := dieOf c.who.core == die && s.partOf c.who.core == part && covers c.addr
  (s.heldCounts.filter hit).foldl (fun s c =>
    match c.what with
    | .matx o id => s.post s.cycle .matxCompletion { octet := o, id := id, n := 1, count := c }
    | _ => s.post s.cycle .completionIncrement { n := 1, count := c }) { s with heldCounts := s.heldCounts.filter fun c => !hit c }

/-- Lets the copy engines of a die go on (R355, R356): entries of the page are ready, and stopped operations move. -/
def State.freeEngines (s : State) (die part : Nat) (covers : Word → Bool) : State :=
  let mine (c : CtxId) : Bool := s.partOf c.core == part
  s.octets.foldl (fun s p =>
    let o := p.1
    if octetDie o != die then s
    else
      let owner (f : Fixup) : Bool :=
        (p.2.ops.any fun (op : EngOp) => op.id == f.op && mine op.who) || !(p.2.ops.any fun (op : EngOp) => op.id == f.op)
      let x := { p.2 with
        fixups := mapIf (fun (f : Fixup) => covers f.page && owner f) (fun f => { f with ready := true }) p.2.fixups
        ops := mapIf (fun (op : EngOp) => mine op.who && op.stalled.any covers) (fun op => { op with stalled := none }) p.2.ops }
      if x == p.2 then s else (s.setOctet o x).engTick o s.cycle) s

/-- Lets the streams of a die go on (R354). -/
def State.freeStreams (s : State) (die part : Nat) (covers : Word → Bool) : State :=
  s.cores.foldl (fun s p =>
    if dieOf p.1 != die || s.partOf p.1 != part then s
    else (List.range 8).foldl (fun s i =>
      let q := s.q p.1 i
      if q.bound && (q.stalled.any covers || !q.skipped.isEmpty) then
        (s.setQ p.1 i { q with stalled := if q.stalled.any covers then none else q.stalled }).streamGo p.1 i s.cycle
      else s) s) s

/-- Resumes the stopped drains whose restart page is mapped (R381). -/
def State.freeDrains (s : State) (die part : Nat) (covers : Word → Bool) : State :=
  s.octets.foldl (fun s p =>
    if octetDie p.1 != die then s
    else p.2.mxu.cmds.foldl (fun s (c : MxuCmd) =>
      match c.matx with
      | some x => if s.partOf c.who.core == part && x.stopped.any covers then s.post s.cycle .drainResume { octet := p.1, id := c.id } else s
      | none => s) s) s

/-- Lets the messages that wait in the decode slots of a die be delivered (R354): those of other nodes use partition 0. -/
def State.freeSlots (s : State) (die part : Nat) (covers : Word → Bool) : State :=
  let hit (x : DSlot) : Bool := x.missed.any covers && s.partOf (s.writerOf die x.env).core == part
  ((s.die die).slots.filter hit).foldl (fun s x => s.post s.cycle .deliver { die := die, id := x.seat })
    (s.modDie die fun d => { d with slots := mapIf hit (fun x => { x with missed := none }) d.slots })

/-- PAGE_MAPPED_WAKE at one die: `v` lies in the page, `n` is its size code, and `w` its partition. -/
def execPageMappedWake (s : State) : Host.Outcome State Fault Refusal :=
  let die := s.arg.die
  let part := s.arg.w.toNat % 16
  let covers := pageCovers s.arg.v s.arg.n
  let s := s.freeHeld die part covers
  let s := s.freeSteps die part covers
  let s := s.freeCounts die part covers
  let s := s.freeEngines die part covers
  let s := s.freeStreams die part covers
  let s := s.freeDrains die part covers
  let s := s.freeSlots die part covers
  .next (s.wakeDropped die part covers)

/-! ## Replies and acknowledgements (R72, R104) -/

/-- Whether a reply waits for the wake of its context: a wait of R403 ends at the wake. -/
def State.waitsForWake (s : State) (a : Access) : Bool :=
  let kind := match a.kind with
    | .ldx | .stx _ | .ldf | .cwait _ _ => true
    | _ => false
  kind && s.isDropped a

/-! ### Buddy pairs (R399) -/

/-- The byte that a buffered store keeps for a place. -/
def State.bufByte (s : State) (core : Nat) (st : Access) (a : Word) : Option Byte :=
  let off := match s.cellKey core st.addr, s.cellKey core a with
    | some k, some l => if k ≤ l then some (l - k) else none
    | _, _ => if st.addr ≤ a then some (a - st.addr).toNat else none
  off.bind fun j =>
    match st.kind with
    | .store n d => if j < n then some (BitVec.ofNat 8 (d.toNat / 256 ^ j)) else none
    | .vstore mask d => if j < 128 && tb mask (j / 4) then some (BitVec.ofNat 8 (d.toNat / 256 ^ j)) else none
    | _ => none

/-- A loaded value with the bytes that the store buffer of its context keeps, the latest of each. -/
def State.served (s : State) (core : Nat) (buf : List Access) (a : Access) (val : VWord) : VWord :=
  let byte (j : Nat) : Byte :=
    buf.foldl (fun b st => (s.bufByte core st (a.addr + BitVec.ofNat 64 j)).getD b) (BitVec.ofNat 8 (val.toNat / 256 ^ j))
  let val' (n : Nat) : Nat := bytesNat ((List.range n).map byte)
  match a.kind with
  | .load n sx => ((if sx then (BitVec.ofNat (8 * n) (val' n)).signExtend 64 else BitVec.ofNat 64 (val' n)) : Word).setWidth 1024
  | .vload => BitVec.ofNat 1024 (val' 128)
  | _ => val

/-- The answer of the even core's access: its value with what the buffer serves; and the odd core's access of the same number
gets it too, or finds it at its issue; it is kept here for an odd core that has yet to start. -/
def State.mirror (s : State) (a : Access) (cause : Nat) (val : VWord) : VWord × State :=
  match s.place a.who a.run with
  | .at c =>
    match (s.ctx c).buddy with
    | none => (val, s)
    | some b =>
      let val := s.served c.core b.buf a val
      match if b.even then b.sent.find? fun p => p.1 == a.id else none with
      | none => (val, s)
      | some p =>
        let s := s.modCtx c fun x => x.modBuddy fun b => { b with sent := b.sent.filter fun q => q.1 != a.id }
        match s.place b.partner b.prun with
        | .at d =>
          match ((s.ctx d).buddy.bind fun o => o.opened.find? fun q => q.1 == p.2) with
          | some q =>
            let s := s.modCtx d fun x => x.modBuddy fun o => { o with opened := o.opened.filter fun r => r.1 != p.2 }
            if cause != 0 then (val, s.postLate s.cycle .landingFaultReport { acc := q.2, cause := cause })
            else if q.2.kind.acked then (val, s.post s.cycle .storeAck { acc := q.2 })
            else (val, s.post s.cycle .memoryReply { acc := q.2, vec := val })
          | none => (val, s.modCtx d fun x => x.modBuddy fun o => { o with replies := o.replies ++ [(p.2, cause, val)] })
        | .saved _ _ =>
          (val, s.modRun b.partner b.prun fun x => x.modBuddy fun o => { o with replies := o.replies ++ [(p.2, cause, val)] })
        | .gone => (val, s.modCtx c fun x => x.modBuddy fun b => { b with replies := b.replies ++ [(p.2, cause, val)] })
  | _ => (val, s)

/-- Writes a reply, ends its access, and lets its instruction end. -/
def State.replyDone (s : State) (a : Access) (val : VWord) : State :=
  match a.kind with
  | .bind q => s.bindArrive a q val
  | .ring core q out _ => s.post s.cycle .streamElementMove { core := core, n := q, id := 1, v := if out then 0 else val.setWidth 64 }
  | _ =>
    let (val, s) := s.mirror a 0 val
    let s := (s.fill a.who a.run a.dest val).accEnd a
    (s.modRun a.who a.run fun x => x.doneAt a.id).wakeReap a.who

/-- What follows an increment of a word on another node (R97, R103, R343): its operation is counted; a refused one is
reported. -/
def State.awayCounted (s : State) (a : Access) (what : Counted) (cause : Nat) : State :=
  let s := if cause == 0 then s else s.engineErr (dieOf a.who.core) a.who cause a.addr a.addr
  match what with
  | .matx o id => s.matxCounted o id
  | w => s.counted { addr := a.addr, what := w, who := a.who, run := a.run }

/-- Ends an acknowledged access; a splice that has waited on a FREE cell lets its context go on (R263). -/
def State.ackDone (s : State) (a : Access) : State :=
  (((s.mirror a 0 0).2).accEnd a).modRun a.who a.run fun x =>
    let x := x.doneAt a.id
    if x.wait == .hold a.id then { x with wait := .none } else x

/-- Where a core sends on what comes for a run that has left it (R63). -/
def State.sendOn (s : State) (core : Nat) (run : Nat) (arg : StepArg) : Option State :=
  (s.forwardOf core run).map fun d => s.sendN core (dieOf d) 80 (forwardTime core d) .forwardedReply { arg with core := d }

/-- MEMORY_REPLY. -/
def execMemoryReply (s : State) : Host.Outcome State Fault Refusal :=
  let a := s.arg.acc
  if 7680 ≤ a.who.core then .next (s.answerRemote a 0 s.arg.vec)
  else
    match s.sendOn a.who.core a.run { acc := a, vec := s.arg.vec, n := 0 } with
    | some t => .next t
    | none =>
      if s.waitsForWake a then .next (s.post (s.cycle + 1) .memoryReply s.arg) else .next (s.replyDone a s.arg.vec)

/-- STORE_ACK. -/
def execStoreAck (s : State) : Host.Outcome State Fault Refusal :=
  let a := s.arg.acc
  match a.kind with
  | .count _ what => .next (if 7680 ≤ a.who.core then s.answerRemote a 0 0 else s.awayCounted a what 0)
  | _ =>
    if 7680 ≤ a.who.core then .next (s.answerRemote a 0 0)
    else
      match s.sendOn a.who.core a.run { acc := a, n := 0 } with
      | some t => .next t
      | none => if s.waitsForWake a then .next (s.post (s.cycle + 1) .storeAck s.arg) else .next (s.ackDone a)

/-! ## Refusals (R322, R323, R325, R369) -/

/-- The record of a refused access: a local form's has its effective address (R196, R325). -/
def Access.frec (a : Access) (cause : Nat) : Frec := { cause := cause, pc := a.pc, addr := a.ea.getD a.addr, word := a.word }

/-- Whether an access is a splice, whose wait on a FREE cell ends at the instruction itself (R263, R322). -/
def AccKind.holdsCtx (k : AccKind) : Bool :=
  match k with
  | .splice _ | .join _ _ _ => true
  | _ => false

/-- An access kept for the re-issue of R369, in issue order. -/
def insertAcc (a : Access) : List Access → List Access
  | [] => [a]
  | b :: r => if a.id < b.id then a :: b :: r else b :: insertAcc a r

/-- Notes what a stop holds for a later tret.rp (R369). -/
def Ctx.notePoison (x : Ctx) (a : Access) (cause : Nat) : Ctx :=
  if cause == 0x17 then { x with poisoned := (insertAcc a x.poisoned).take 8 } else { x with mixed := true }

/-- The earliest-issued faulting relaxed access of a stop (R322). -/
def Ctx.noteFault (x : Ctx) (a : Access) (f : Frec) : Ctx :=
  match x.relFault with
  | some (i, _) => if a.id < i then { x with relFault := some (a.id, f) } else x
  | none => { x with relFault := some (a.id, f) }

/-- Takes back the HOME_TRAP of a homeroom whose trap of this cycle does not stand (R323). -/
def State.dropHomeTrap (s : State) (c : CtxId) : State :=
  if c.ctx != 0 then s
  else
    { s with agenda := s.agenda.filter fun (p : Pending) =>
        !(p.ev == Instr.noticeArrive && p.arg.notice.kind == 0x09 && p.arg.notice.core == c.core) }

/-- A refusal reaches its context where it is. A trap that the context took by its own issue in this cycle gives way to it
(R323); a context that has ended stops all the same (R78). -/
def State.takeFault (s : State) (c : CtxId) (a : Access) (f : Frec) : State :=
  let x := s.ctx c
  let fe := x.wait == .reply a.id || x.wait == .cwait a.id
  let late := x.life == .trapped && x.stopAt == s.cycle && x.frec.pc == x.pc &&
    !([0x18, 0x19, 0x1A, 0x80].contains x.frec.cause)
  let s := if late then (s.dropHomeTrap c).modCtx c fun x => { x with life := .active } else s
  if a.rx then (s.modCtx c fun x => x.noteFault a f).settle c
  else if fe || (s.ctx c).live then s.trap c f
  else if x.life == .finished then s.modCtx c fun x => { x with life := .trapped, frec := { f with ctx := c.ctx }, reported := false }
  else s

/-- A refusal that reaches the core of its context: nothing is written, and the context stops (R321, R322). -/
def State.faultDone (s : State) (a : Access) (cause : Nat) : State :=
  let f := a.frec cause
  let s := (s.mirror a cause 0).2
  let fe := match a.kind with
    | .ldx | .stx _ | .ldf | .cwait _ _ => true
    | _ => false
  let s := if fe then s.undoDest a.who a.run a.dest a.was else s.unfill a.who a.run a.dest
  let s := s.modRun a.who a.run fun x =>
    let x := (x.accDone a).notePoison a cause
    if a.kind.holdsCtx && x.wait == .hold a.id then { x with wait := .none, pc := if cause == 0x18 then a.pc else x.pc } else x
  let s := match s.place a.who a.run with
    | .at c => s.takeFault c a f
    | .saved _ _ => s.modRun a.who a.run fun x => x.noteFault a f
    | .gone => s
  s.wakeReap a.who

/-- LANDING_FAULT_REPORT: the report of a refused access. -/
def execLandingFaultReport (s : State) : Host.Outcome State Fault Refusal :=
  let a := s.arg.acc
  match a.kind with
  | .ring core q _ _ => .next (s.streamFail core q s.arg.cause a.addr)
  | .count _ what =>
    .next (if 7680 ≤ a.who.core then s.answerRemote a s.arg.cause 0 else s.awayCounted a what s.arg.cause)
  | _ =>
    if 7680 ≤ a.who.core then .next (s.answerRemote a s.arg.cause 0)
    else
      match s.sendOn a.who.core a.run { acc := a, cause := s.arg.cause, n := 1 } with
      | some t => .next t
      | none => .next (s.faultDone a s.arg.cause)

/-- FORWARDED_REPLY (R63, R377): what came for a context that migrated, at its new core: a reply or acknowledgement (0), a
refusal (1), or another late result (2); it goes on where the context has left that core too. -/
def execForwardedReply (s : State) : Host.Outcome State Fault Refusal :=
  let core := s.arg.core
  let a := s.arg.acc
  let run := if s.arg.n == 2 then s.arg.late.run else a.run
  match s.sendOn core run s.arg with
  | some t => .next t
  | none =>
    match s.arg.n with
    | 0 => .next (if a.kind.acked then s.ackDone a else s.replyDone a s.arg.vec)
    | 1 => .next (s.faultDone a s.arg.cause)
    | _ => .next (s.lateDone s.arg.late)

end Sys2Proof.Machine
end

