-- ==== Sys2Proof/Machine/Launch.lean ====
section
/-! DEFINITION. Launches: the check of a header, the settings it applies, and the wake at each selected core (R51 to R54, R64,
R141, R150, R398, R399). -/

namespace Sys2Proof.Machine

/-! ## The header (R51) -/

/-- A field of dword `i` of a header. -/
def hf (w : List Word) (i hi lo : Nat) : Nat := bits (w.getD i 0).toNat hi lo

def hdrCol (w : List Word) : Nat := hf w 1 63 57
def hdrRow (w : List Word) : Nat := hf w 1 56 50
def hdrCols (w : List Word) : Nat := hf w 1 49 43
def hdrRows (w : List Word) : Nat := hf w 1 42 36
def hdrMask (w : List Word) : Nat := hf w 0 47 32
def hdrWidth (w : List Word) (i : Nat) : Nat := hf w 2 (29 + 6 * i) (24 + 6 * i)

/-- The extent of a field; 0 stands for 4,096. -/
def hdrExtent (w : List Word) (i : Nat) : Nat :=
  let e := hf w 3 (11 + 12 * i) (12 * i)
  if e == 0 then 4096 else e

/-- Whether a core lies in the rectangle. -/
def hdrHas (w : List Word) (core : Nat) : Bool :=
  hdrCol w ≤ devCol core && devCol core < hdrCol w + hdrCols w && hdrRow w ≤ devRow core && devRow core < hdrRow w + hdrRows w

/-- The selected cores, in increasing order. -/
def hdrCores (w : List Word) : List Nat := (List.range 7680).filter (hdrHas w)

/-- Whether the rectangle lies on one die. -/
def hdrOneDie (w : List Word) : Bool :=
  hdrCol w / 48 == (hdrCol w + hdrCols w - 1) / 48 && hdrRow w / 40 == (hdrRow w + hdrRows w - 1) / 40

/-- The die of the rectangle's upper-left core. -/
def hdrDie (w : List Word) : Nat := hdrRow w / 40 * 2 + hdrCol w / 48

/-- The bits of R51 that are reserved, in each dword. -/
def hdrReserved : List Word :=
  [0x00030000FFFF0000, 0x0000000FFFFFFFFF, 0x1000000000FFFFFF, 0xF000000000000000, 0, 0, 0x00001FFFFFFFFFFF, 0x07FFFFFFFFFFFFFF]

/-- A dword of what a header names, as the launch unit reads it: in the launch's partition (R293), that of the rectangle's
upper-left core, where the object is loaded. -/
def State.launchDword (s : State) (w : List Word) (a : Word) : Nat := s.dword (coreAtDev (hdrRow w) (hdrCol w)) a

/-- Whether the work-identifier fields fail R398's row 3. -/
def hdrFieldsBad (w : List Word) : Bool :=
  let nf := hf w 2 63 61
  nf == 0 || nf == 7 || (List.range nf).any (fun i => hdrWidth w i == 0) ||
    64 < (List.range nf).foldl (fun a i => a + hdrWidth w i) 0 || (List.range (nf - 1)).any fun i => 2 ^ hdrWidth w i < hdrExtent w i

/-- Whether the net descriptor fails R398's row 9. -/
def State.hdrNetBad (s : State) (w : List Word) : Bool :=
  let d := w.getD 4 0
  let k := bits (s.launchDword w d) 39 35
  k < 4 || 16 < k || s.launchDword w (d + 8) % (16 * 2 ^ k) != 0 || bits (s.launchDword w d) 63 48 != hf w 0 15 0

/-- The lowest reason for which a header is refused; 0 where it is accepted (R398). -/
def State.launchReason (s : State) (w : List Word) : Nat :=
  if 2 ≤ hf w 0 63 62 then 1
  else if hdrMask w == 0 || bitAt (hdrMask w) 0 then 2
  else if hdrFieldsBad w then 3
  else if hdrCols w == 0 || hdrRows w == 0 || 96 < hdrCol w + hdrCols w || 80 < hdrRow w + hdrRows w then 4
  else if (hdrCores w).any s.isStaffCore then 5
  else if hf w 0 50 50 == 1 && (!hdrOneDie w || hf w 7 60 59 == 3) then 6
  else if hf w 0 51 51 == 1 && (5 ≤ hf w 7 63 61 || hf w 0 50 50 == 0) then 7
  else if (List.range 8).any fun i => w.getD i 0 &&& hdrReserved.getD i 0 != 0 then 8
  else if hf w 0 63 62 == 1 && s.hdrNetBad w then 9
  else if hf w 0 52 52 == 1 && !hdrOneDie w then 10
  else 0

/-- Posts LAUNCH_REFUSED on die 0 (R334, R398). -/
def State.refuseLaunch (s : State) (w : List Word) (reason : Nat) : State :=
  let (c, away, node) := match s.arg.sender with
    | .ctx c => (c, 0, s.node)
    | .host => (⟨0, 0⟩, 1, s.node)
    | .node n => (⟨0, 0⟩, 1, n)
  s.notice 0 { kind := 0x0F, core := c.core, ctx := c.ctx, value := w.getD 0 0,
               word := BitVec.ofNat 64 (reason + away * 2 ^ 8 + node % 4096 * 2 ^ 12) }

/-! ## The settings (R64, R141, R150, R266) -/

/-- Re-stitches the rectangle's cores. -/
def State.restitch (s : State) (w : List Word) (id : Nat) : State :=
  let t : Stitch := { shape := hf w 7 60 59, col := hdrCol w % 48, row := hdrRow w % 40, ncols := hdrCols w, nrows := hdrRows w,
                      launch := id }
  (hdrCores w).foldl (fun s k => s.modCore k fun x => { x with stitch := t }) s

/-- Sets a route tag's group from the rectangle and rcmask, at once (R64; DEDUCED, assumption log 41). -/
def State.launchTagSet (s : State) (w : List Word) : State :=
  let cfg := hdrCol w % 48 * 2 ^ 56 + hdrRow w % 40 * 2 ^ 50 + hdrCols w * 2 ^ 44 + hdrRows w * 2 ^ 38 + hf w 6 60 45 * 2 ^ 22
  s.modTag (hdrDie w) (hf w 6 63 61) fun g => { g with cfg := BitVec.ofNat 64 cfg, pend := none }

/-- One entry of a net's inbox table goes to its directory slot (R150). Where its d1 is 0 its armed bit is cleared, whatever the
table holds (DESIGN CHOICE, assumption log 70). -/
def State.copyInbox (s : State) (w : List Word) (table : Word) (i : Nat) : State :=
  let e (j : Nat) : Nat := s.launchDword w (table + BitVec.ofNat 64 (32 + 32 * i + 8 * j))
  let n := bits (e 0) 59 48
  let k := s.inboxKey n
  let d0 := e 0 % 2 ^ 48 + bits (e 0) 61 60 * 2 ^ 60 + 2 ^ 63 + (if e 1 == 0 then 0 else 2 ^ 62)
  let (e1, e2, e3) := (e 1, e 2, e 3)
  (((s.storeN k 8 d0).storeN (k + 8) 8 e1).storeN (k + 16) 8 e2).storeN (k + 24) 8 e3

/-- What a net launch writes: the net table's entry and the inbox table (R54, R150, R266). -/
def State.openNet (s : State) (w : List Word) : State :=
  let d := w.getD 4 0
  let base := bits s.netTable.toNat 47 19 * 2 ^ 19
  let s := if base == 0 then s else s.storeN (base + 8 * hf w 0 15 0) 8 d.toNat
  let table := BitVec.ofNat 64 (s.launchDword w (d + 56))
  if table == 0 then s else (List.range (s.launchDword w table)).foldl (fun s i => s.copyInbox w table i) s

/-- The run of a context that a sweep starts: the launch keeps a number for every context of the device, so that the two
contexts of a buddy pair name each other whichever starts first. -/
def launchRun (id core k : Nat) : Nat := id + 1 + core * 16 + k

/-- LAUNCH_HEADER_ACCEPT (R52 steps 1 to 3): a header is refused, or its settings are applied and the wake goes out. -/
def execLaunchHeaderAccept (s : State) : Host.Outcome State Fault Refusal :=
  let w := s.arg.words
  let reason := s.launchReason w
  if reason != 0 then .next (s.refuseLaunch w reason)
  else
    let (id, s) := s.newId
    let s := { s with seq := launchRun id 7680 0 }
    let s := if hf w 0 50 50 == 1 then s.restitch w id else s
    let s := if hf w 0 52 52 == 1 then s.launchTagSet w else s
    let s := if hf w 0 63 62 == 1 then s.openNet w else s
    .next ((hdrCores w).foldl (fun s k =>
      let d := dieOf k
      s.post (s.cycle + 8 + devCol k + devRow k + 12 * (d % 2 + d / 2)) .launchWake { core := k, id := id, words := w }) s)

/-! ## The wake (R53, R54) -/

/-- The work identifier of a rank (R53). -/
def widOf (w : List Word) : Nat → Nat → Nat → Nat → Nat
  | 0, _, _, _ => 0
  | f + 1, i, base, j =>
    let nf := hf w 2 63 61
    let wd := hdrWidth w i
    let digit := if i + 1 == nf then j else j % hdrExtent w i
    digit % 2 ^ wd * 2 ^ base + widOf w f (i + 1) (base + wd) (j / hdrExtent w i)

/-- The core whose share a core runs: in buddy mode a right-hand core has its even-column partner's (R53). -/
def shareCore (w : List Word) (core : Nat) : Nat :=
  if hf w 0 53 53 == 1 && devCol core % 2 == 1 && hdrHas w (core - 1) then core - 1 else core

/-- The rank of a context among the selected set. -/
def rankOf (w : List Word) (core k : Nat) : Nat :=
  let m := hdrMask w
  let per := ((List.range 16).filter fun i => bitAt m i).length
  (((List.range core).filter (hdrHas w)).length) * per + ((List.range k).filter fun i => bitAt m i).length

/-- The work identifier of a context of a core. -/
def hdrWid (w : List Word) (core k : Nat) : Word := BitVec.ofNat 64 (widOf w (hf w 2 63 61) 0 0 (rankOf w (shareCore w core) k))

/-- What the contexts of a launch keep of it. -/
def hdrTag (w : List Word) (id : Nat) : LaunchTag :=
  { id := id, coh := hf w 0 51 51 == 1, rst := hf w 0 50 50 == 1, cohort := hf w 7 63 61, col := hdrCol w, row := hdrRow w,
    ncols := hdrCols w, nrows := hdrRows w }

/-- The buddy pair of a context of a launch, as each of its two contexts holds it (R51, R399). -/
def hdrBuddy (w : List Word) (id core k : Nat) : Option Buddy :=
  let even := devCol core % 2 == 0
  let mate := if even then core + 1 else core - 1
  if hf w 0 53 53 == 1 && hdrHas w mate then some { even := even, partner := ⟨mate, k⟩, prun := launchRun id mate k } else none

/-- The bank that a sweep gives a context of a core (R53). -/
def sweepBank (w : List Word) (id core k : Nat) : Ctx :=
  { startBank (launchRun id core k) (hf w 0 61 54) 0 (w.getD 4 0) (w.getD 5 0) with
    wid := hdrWid w core k, launch := some (hdrTag w id), buddy := hdrBuddy w id core k }

/-- Whether a context waits for its restore to end: it is in rotation from then on (R45). -/
def Ctx.restoring (x : Ctx) : Bool :=
  x.starting && match x.wait with
    | .hold _ => x.builtin.isNone
    | _ => false

/-- The start of a sweep in one selected context (R53). -/
def State.sweepCtx (s : State) (w : List Word) (id core k : Nat) : State :=
  let c : CtxId := ⟨core, k⟩
  let x := s.ctx c
  let bank := sweepBank w id core k
  if x.life == .gated then s.startSweep c bank
  else if x.life == .active && !s.isSaving c && !x.restoring && x.prio < bank.prio then s.beginSave c (.sweep bank)
  else s.sweepEntry core bank

/-- A queue entry's record address (R55). -/
def entryAddr (d : Nat) : Word := BitVec.ofNat 64 (bits d 50 39 * 2 ^ 48 + bits d 38 0 * 32)

/-- Pushes an initial pair of a net (R54). -/
def State.pushInitial (s : State) (core : Nat) (a : Word) : State :=
  let d0 := s.dword core a
  let d1 := s.dword core (a + 8)
  let (i, s) := s.newId
  s.pushDeque core (pairItem i (bits d0 63 56) (entryAddr d0) (entryAddr d1) s.cycle)

/-- The initial pairs of a core (R54): h, h + H, and so on, in that order. -/
def State.pushShare (s : State) (w : List Word) (core : Nat) : State :=
  let d := w.getD 4 0
  let list := BitVec.ofNat 64 (s.dword core (d + 32))
  let n := s.dword core (d + 40) % 2 ^ 32
  let h := ((List.range core).filter (hdrHas w)).length
  let H := (hdrCores w).length
  (List.range ((n + H - 1 - h) / H)).foldl (fun s i => s.pushInitial core (list + BitVec.ofNat 64 (16 * (h + H * i)))) s

/-- LAUNCH_WAKE at a core: a sweep's contexts start, in ascending number; a net's pairs are pushed. -/
def execLaunchWake (s : State) : Host.Outcome State Fault Refusal :=
  let w := s.arg.words
  let core := s.arg.core
  let id := s.arg.id
  if hf w 0 63 62 == 1 then .next (s.pushShare w core)
  else .next ((List.range 16).foldl (fun s k => if bitAt (hdrMask w) k then s.sweepCtx w id core k else s) s)

end Sys2Proof.Machine
end

