-- ==== Sys2Proof/Machine/Mem.lean ====
section
/-! DEFINITION. Scalar and vector loads and stores, full/empty operations and atomics as they issue (R196 to R204, R218);
what they do at their banks stands in Landing. -/

namespace Sys2Proof.Machine

/-! ## Widths and addresses (R196, R197) -/

/-- The bytes of a width, and whether a load sign-extends. -/
def widthOf (x : Width) : Nat × Bool :=
  match x with
  | .b => (1, false) | .h => (2, false) | .w => (4, false) | .d => (8, false)
  | .bs => (1, true) | .hs => (2, true) | .ws => (4, true)

def stWidthOf (x : StWidth) : Nat :=
  match x with
  | .b => 1 | .h => 2 | .w => 4 | .d => 8

/-- The offset field, sign-extended. -/
def offOf (o : BitVec 25) : Word := o.signExtend 64

/-- The effective address of loads, stores and full/empty operations. -/
def eaOf (v : Vals) (off : BitVec 25) : Word := v.a + v.b + offOf off

/-- The low bytes of a register value. -/
def lowBytes (n : Nat) (w : Word) : Word := BitVec.ofNat 64 (w.toNat % 2 ^ (8 * n))

/-- A load (R200). -/
def State.load (s : State) (f : LdF) (glob : Bool) : State :=
  let (n, sx) := widthOf f.w
  s.memIssue { a := some f.a, b := some f.b, late := [f.d] } f.rx glob fun v =>
    { kind := .load n sx, ea := eaOf v f.off, align := n, dest := .reg f.d }

/-- A store; its data is read through d (R200). -/
def State.store (s : State) (f : StF) (glob : Bool) : State :=
  let n := stWidthOf f.w
  s.memIssue { dr := some f.d, a := some f.a, b := some f.b } f.rx glob fun v =>
    { kind := .store n (lowBytes n v.d), ea := eaOf v f.off, align := n }

/-- Whether the d field of an atomic is read alone: a stream register in an ACAS gives its compare value, and takes no late
result (R344; that the old value is discarded is DEDUCED, assumption log 14). -/
def casPops (op : AtomOp) (d : Reg) : Bool := op == .cas && isStream d

/-- An atomic; ACAS reads its compare value through d (R203, R344). -/
def State.atomic (s : State) (op : AtomOp) (f : AtF) (glob : Bool) : State :=
  let n := if f.dw then 8 else 4
  s.memIssue { dr := if op == .cas then some f.d else none, a := some f.a, b := some f.b,
               late := if casPops op f.d then [] else [f.d] } f.rx glob fun v =>
    { kind := .atomic op n (lowBytes n v.b) (lowBytes n v.d), ea := v.a + offOf f.off, align := n,
      dest := if casPops op f.d then .none else .reg f.d }

/-- LDX and LDF (R202). -/
def State.feLoad (s : State) (k : AccKind) (f : FeF) (glob : Bool) : State :=
  s.feIssue { a := some f.a, b := some f.b, late := [f.d] } glob fun v =>
    { kind := k, ea := eaOf v f.off, align := 8, dest := .reg f.d }

/-- STX (R202). -/
def State.feStore (s : State) (f : FeF) (glob : Bool) : State :=
  s.feIssue { dr := some f.d, a := some f.a, b := some f.b } glob fun v =>
    { kind := .stx v.d, ea := eaOf v f.off, align := 8 }

/-- A vector load: active lanes take the bytes, inactive lanes follow zm (R218). -/
def State.vload (s : State) (f : VLdF) (glob : Bool) : State :=
  let mask := ((s.ctx s.who).pred f.p).getD 0xFFFFFFFF
  s.memIssue { a := some f.s, vdr := if keeps f.p f.zm then some f.vd else none, vout := some f.vd } f.rx glob fun v =>
    { kind := .vload, ea := v.a, align := 128, dest := .vec f.vd mask (keeps f.p f.zm) }

/-- A vector store: the predicate masks 32-bit lanes, and vd is its data (R218). -/
def State.vstore (s : State) (f : VStF) (glob : Bool) : State :=
  let mask := ((s.ctx s.who).pred f.p).getD 0xFFFFFFFF
  s.memIssue { a := some f.s, vdr := some f.vd } f.rx glob fun v =>
    { kind := .vstore mask v.vd, ea := v.a, align := 128 }

/-! ## The instructions -/

def execLd (f : LdF) (s : State) : Host.Outcome State Fault Refusal := .next (s.load f false)
def execSt (f : StF) (s : State) : Host.Outcome State Fault Refusal := .next (s.store f false)
def execLdx (f : FeF) (s : State) : Host.Outcome State Fault Refusal := .next (s.feLoad .ldx f false)
def execStx (f : FeF) (s : State) : Host.Outcome State Fault Refusal := .next (s.feStore f false)
def execLdf (f : FeF) (s : State) : Host.Outcome State Fault Refusal := .next (s.feLoad .ldf f false)
def execAadd (f : AtF) (s : State) : Host.Outcome State Fault Refusal := .next (s.atomic .add f false)
def execAand (f : AtF) (s : State) : Host.Outcome State Fault Refusal := .next (s.atomic .and f false)
def execAor (f : AtF) (s : State) : Host.Outcome State Fault Refusal := .next (s.atomic .or f false)
def execAxor (f : AtF) (s : State) : Host.Outcome State Fault Refusal := .next (s.atomic .xor f false)
def execAmin (f : AtF) (s : State) : Host.Outcome State Fault Refusal := .next (s.atomic .min f false)
def execAmax (f : AtF) (s : State) : Host.Outcome State Fault Refusal := .next (s.atomic .max f false)
def execAswp (f : AtF) (s : State) : Host.Outcome State Fault Refusal := .next (s.atomic .swp f false)
def execAcas (f : AtF) (s : State) : Host.Outcome State Fault Refusal := .next (s.atomic .cas f false)
def execAincb (f : AtF) (s : State) : Host.Outcome State Fault Refusal := .next (s.atomic .incb f false)
def execGld (f : LdF) (s : State) : Host.Outcome State Fault Refusal := .next (s.load f true)
def execGst (f : StF) (s : State) : Host.Outcome State Fault Refusal := .next (s.store f true)
def execGldx (f : FeF) (s : State) : Host.Outcome State Fault Refusal := .next (s.feLoad .ldx f true)
def execGstx (f : FeF) (s : State) : Host.Outcome State Fault Refusal := .next (s.feStore f true)
def execGldf (f : FeF) (s : State) : Host.Outcome State Fault Refusal := .next (s.feLoad .ldf f true)
def execGaadd (f : AtF) (s : State) : Host.Outcome State Fault Refusal := .next (s.atomic .add f true)
def execGaand (f : AtF) (s : State) : Host.Outcome State Fault Refusal := .next (s.atomic .and f true)
def execGaor (f : AtF) (s : State) : Host.Outcome State Fault Refusal := .next (s.atomic .or f true)
def execGaxor (f : AtF) (s : State) : Host.Outcome State Fault Refusal := .next (s.atomic .xor f true)
def execGamin (f : AtF) (s : State) : Host.Outcome State Fault Refusal := .next (s.atomic .min f true)
def execGamax (f : AtF) (s : State) : Host.Outcome State Fault Refusal := .next (s.atomic .max f true)
def execGaswp (f : AtF) (s : State) : Host.Outcome State Fault Refusal := .next (s.atomic .swp f true)
def execGacas (f : AtF) (s : State) : Host.Outcome State Fault Refusal := .next (s.atomic .cas f true)
def execGaincb (f : AtF) (s : State) : Host.Outcome State Fault Refusal := .next (s.atomic .incb f true)
def execVld (f : VLdF) (s : State) : Host.Outcome State Fault Refusal := .next (s.vload f false)
def execVst (f : VStF) (s : State) : Host.Outcome State Fault Refusal := .next (s.vstore f false)
def execVldg (f : VLdF) (s : State) : Host.Outcome State Fault Refusal := .next (s.vload f true)
def execVstg (f : VStF) (s : State) : Host.Outcome State Fault Refusal := .next (s.vstore f true)

/-- HSIFT (R226): a plain local access of the heap's 72 bytes, which must lie within the window; with .fin va is not read.
-/
def execHsift (fin : Bool) (va : VSrc) (r : Src) (s : State) : Host.Outcome State Fault Refusal :=
  let u : Uses := { a := some r, vs := if fin then [] else [va] }
  .next (s.waiting u Ctx.quiet fun v s =>
    let addr := localAddr v.a
    if v.a.toNat % 8 != 0 || 65536 < v.a.toNat % 65536 + 72 then s.trapHere 0x15 v.a
    else
      match s.ownFault addr .store with
      | some k => s.trapHere k v.a
      | none => ((s.commit u).startAccess (.hsift fin ((v.vs.getD 0 0).setWidth 64)) addr false .none (some v.a)).finish)

end Sys2Proof.Machine
end

