-- ==== Sys2Proof/Machine/System.lean ====
section
/-! DEFINITION. Control registers (R80 to R86, R153, R154, R158, R266, R332, R372, R380, R391), traps and returns (R286, R369),
consistent cuts (R67, R68), isolation (R287, R396, R397), invalidation, and notices that software posts (R287, R334). -/

namespace Sys2Proof.Machine

/-! ## Reading a control register (R80) -/

/-- A number from the bits that meet `p`. -/
def bitsWhere (l : List Nat) (p : Nat → Bool) : Nat := (l.filter p).foldl (fun a i => a + 2 ^ i) 0

/-- rollcall.tagN.rows or .cols of a die (R66): the rows or columns of the group in which every member core has arrived. -/
def State.tagLines (s : State) (die n : Nat) (rows : Bool) : Word :=
  let t := s.tagOn die n
  let cores := (tagCores t.cfg (s.tagDie die n)).filter fun k => dieOf k == die
  let line (k : Nat) : Nat := if rows then rowOf k else colOf k
  BitVec.ofNat 64 (bitsWhere (List.range 48) fun i =>
    cores.any (fun k => line k == i) && cores.all fun k => line k != i || t.coreDone k)

/-- rollcall.tagN.here of a core (R66). -/
def State.tagHere (s : State) (core n : Nat) : Word :=
  let t := s.tagOn (dieOf core) n
  BitVec.ofNat 64 (bitsWhere (List.range 16) fun i => memNat (core * 16 + i) t.arrived)

/-- pass.held of an octet (R158). -/
def State.passHeld (s : State) (o : Nat) : Word :=
  match (s.octet o).pass with
  | some t => BitVec.ofNat 64 (2 ^ 13 + min 8191 (s.cycle - t))
  | none => 0

/-- A control register as a context reads it; `none` for a number that is absent (R80). -/
def State.csrRead (s : State) (c : CtxId) (n : Nat) : Option Word :=
  let x := s.ctx c
  let k := s.coreAt c.core
  let die := dieOf c.core
  let d := s.die die
  let o := s.octet (octetOf c.core)
  if n == 0x000 then some (s.statusOf c)
  else if n == 0x001 then some x.wid
  else if n == 0x002 then some (x.waitLimit.setWidth 64)
  else if 0x010 ≤ n && n < 0x014 then some (rd k.shape (n - 0x010) 0)
  else if 0x014 ≤ n && n < 0x018 then some (rd k.scale (n - 0x014) 0)
  else if n == 0x020 then some k.dctl
  else if n == 0x021 then some k.dout
  else if n == 0x022 then some k.drowp
  else if n == 0x023 then some k.dcolp
  else if n == 0x028 then some (k.rng.setWidth 64)
  else if n == 0x029 then some (k.weight.setWidth 64)
  else if 0x030 ≤ n && n < 0x034 then some (rd k.dead (n - 0x030) 0)
  else if n == 0x040 then some (o.replayLimit.setWidth 64)
  else if 0x044 ≤ n && n < 0x048 then some (rd o.mxu.slots (n - 0x044) {}).rst
  else if 0x100 ≤ n && n < 0x108 then
    let t := rd d.tags (n - 0x100) {}
    some ((t.pend.getD t.cfg &&& 0xFFFFFFFFFFC00000) ||| BitVec.ofNat 64 (b2n (s.tagOn die (n - 0x100)).gen * 2 ^ 21))
  else if 0x108 ≤ n && n < 0x110 then some (s.tagLines die (n - 0x108) true)
  else if 0x110 ≤ n && n < 0x118 then some (s.tagLines die (n - 0x110) false)
  else if 0x118 ≤ n && n < 0x120 then some (s.tagHere c.core (n - 0x118))
  else if n == 0x120 then some d.rate
  else if n == 0x121 then some d.node
  else if n == 0x122 then some d.inbox
  else if n == 0x123 then some (BitVec.ofNat 64 d.freeSlots)
  else if n == 0x130 then some (BitVec.ofNat 64 d.passCount)
  else if n == 0x131 then some (s.passHeld (octetOf c.core))
  else if n == 0x132 then some (BitVec.ofNat 64 d.staffPlace)
  else if n == 0x133 then some d.staffNotice
  else if n == 0x134 then some d.staffRing
  else if n == 0x135 then some (BitVec.ofNat 64 d.staffDrop)
  else if 0x140 ≤ n && n < 0x150 then some (rd s.partRect (n - 0x140) 0)
  else if 0x150 ≤ n && n < 0x160 then some (rd s.partPtb (n - 0x150) 0)
  else if n == 0x160 then some s.netTable
  else if 0x170 ≤ n && n < 0x178 then some (rd d.watchLo (n - 0x170) 0)
  else if 0x178 ≤ n && n < 0x180 then some (rd d.watchHi (n - 0x178) 0)
  else if 0x188 ≤ n && n < 0x190 then some (BitVec.ofNat 64 (b2n (s.tagOn die (n - 0x188)).forced * 2 ^ 8))
  else none

/-- The privilege that a write of a control register needs: 3 for one that no context may write (R80, R153, R158, R266, R332,
R372, R391). A write of ni.free, which the table of R153 ignores and its text gives cause 0x04, is ignored for every context (DESIGN
CHOICE, assumption log 71). -/
def csrNeed (n : Nat) : Nat :=
  if n == 0x029 then 1
  else if n == 0x040 || (0x100 ≤ n && n < 0x108) || (0x120 ≤ n && n < 0x123) || n == 0x133 || n == 0x134 ||
      (0x150 ≤ n && n < 0x161) || 0x170 ≤ n then 2
  else if (0x130 ≤ n && n < 0x133) || (0x140 ≤ n && n < 0x150) then 3
  else 0

/-- CSRR (R285). -/
def execCsrr (d : Reg) (a : Src) (s : State) : Host.Outcome State Fault Refusal :=
  let u : Uses := { a := some a, out := [d] }
  match s.peek u with
  | .stop t => .next t
  | .ok v =>
    match s.csrRead s.who (v.a.toNat % 4096) with
    | none => .next (s.trapHere 0x01 0)
    | some w => .next (((s.commit u).setReg d w).finish)

/-! ## Writing a control register -/

/-- A write of drain.ctl (R85): rm codes 5 to 7 leave rm. -/
def drainCtl (old v : Word) : Word :=
  let w := v &&& 0xFFFFFFFFFFFC0000
  if 4 < bits v.toNat 27 25 then (w &&& ~~~0x0E000000) ||| (old &&& 0x0E000000) else w

/-- A write of ni.rate (R144, R154): codes 6 and 7 leave their field. -/
def niRate (old v : Word) : Word :=
  (List.range 5).foldl (fun w i =>
    let m : Word := BitVec.ofNat 64 (7 * 2 ^ (3 * i))
    if 5 < bits v.toNat (3 * i + 2) (3 * i) then w else (w &&& ~~~m) ||| (v &&& m)) (old &&& 0x7FFF)

/-- A write by a context that may make it: reserved bits are stored as zero (R350), and read-only registers ignore it. -/
def State.csrWrite (s : State) (n : Nat) (v : Word) : State :=
  let c := s.who
  let core := c.core
  let die := dieOf core
  if n == 0x000 then s.post s.cycle .statusWrite { c := c, run := (s.ctx c).run, v := v }
  else if n == 0x002 then s.modCtx c fun x => { x with waitLimit := v.setWidth 32 }
  else if 0x010 ≤ n && n < 0x014 then s.modCore core fun k => { k with shape := wr k.shape (n - 0x010) (v &&& 0xF8FFFF0000000000) }
  else if 0x014 ≤ n && n < 0x018 then s.modCore core fun k => { k with scale := wr k.scale (n - 0x014) (v &&& 0x8000000000007FFF) }
  else if n == 0x020 then s.modCore core fun k => { k with dctl := drainCtl k.dctl v }
  else if n == 0x021 then s.modCore core fun k => { k with dout := v }
  else if n == 0x022 then s.modCore core fun k => { k with drowp := v }
  else if n == 0x023 then s.modCore core fun k => { k with dcolp := v }
  else if n == 0x028 then s.post s.cycle .rngSeedWrite { core := core, v := v }
  else if n == 0x029 then
    s.modCore core fun k => { k with weight := if v.toNat % 16 == 0 then 1 else v.setWidth 4 }
  else if 0x030 ≤ n && n < 0x034 then s.modCore core fun k => { k with dead := wr k.dead (n - 0x030) v }
  else if n == 0x040 then s.modOctet (octetOf core) fun o => { o with replayLimit := v.setWidth 4 }
  else if 0x100 ≤ n && n < 0x108 then s.post s.cycle .rollcallCfgWrite { die := die, n := n - 0x100, v := v }
  else if n == 0x120 then s.modDie die fun d => { d with rate := niRate d.rate v }
  else if n == 0x121 then s.modDie die fun d => { d with node := v &&& 0xFFF }
  else if n == 0x122 then s.modDie die fun d => { d with inbox := v &&& 0xFFFFFFFFFFE0 }
  else if n == 0x133 then s.modDie die fun d => { d with staffNotice := v }
  else if n == 0x134 then (s.modDie die fun d => { d with staffRing := v &&& 0xFFFFFFFFFFFFFFC0 }).flushRing die
  else if 0x150 ≤ n && n < 0x160 then { s with partPtb := wr s.partPtb (n - 0x150) (v &&& 0x0000FFFFFFFFF000) }
  else if n == 0x160 then { s with netTable := v &&& 0x0000FFFFFFF80000 }
  else if 0x170 ≤ n && n < 0x178 then
    s.modDie die fun d => { d with watchLo := wr d.watchLo (n - 0x170) (v &&& 0x8000FFFFFFFFFFE0) }
  else if 0x178 ≤ n && n < 0x180 then
    s.modDie die fun d => { d with watchHi := wr d.watchHi (n - 0x178) (v &&& 0x0000FFFFFFFFFFE0) }
  else if 0x188 ≤ n && n < 0x190 then s.post s.cycle .rollcallKick { die := die, n := n - 0x188, v := v }
  else s

/-- CSRW (R285): an absent number traps with 0x01, and a write without its privilege with 0x04. -/
def execCsrw (a b : Src) (s : State) : Host.Outcome State Fault Refusal :=
  let u : Uses := { a := some a, b := some b }
  match s.peek u with
  | .stop t => .next t
  | .ok v =>
    let n := v.a.toNat % 4096
    if (s.csrRead s.who n).isNone then .next (s.trapHere 0x01 0)
    else if s.priv s.who < csrNeed n then .next (s.trapHere 0x04 0)
    else .next (((s.commit u).csrWrite n v.b).finish)

/-- STATUS_WRITE (R81): rm and the flags. -/
def execStatusWrite (s : State) : Host.Outcome State Fault Refusal :=
  .next (s.modRun s.arg.c s.arg.run fun x => x.writeStatus s.arg.v)

/-- RNG_SEED_WRITE (R86): a write of 0 stores 1. -/
def execRngSeedWrite (s : State) : Host.Outcome State Fault Refusal :=
  let w : BitVec 32 := s.arg.v.setWidth 32
  .next (s.modCore s.arg.core fun k => { k with rng := if w == 0 then 1 else w })

/-- The passes of a die that circulate: the free ones and those that its octets hold (R163). -/
def State.circulating (s : State) (die : Nat) : Nat :=
  (s.die die).ring.length + (s.octets.filter fun (p : Nat × Octet) => octetDie p.1 == die && p.2.pass.isSome).length

/-- PASS_COUNT_WRITE (R158, R164, R386): the new count, under which the MATX that wait may start; and then in each cycle one pass
inserted at the die's first octet, or a free pass removed there, until the number circulating equals it. -/
def execPassCountWrite (s : State) : Host.Outcome State Fault Refusal :=
  let die := s.arg.die
  if s.arg.n == 0 then
    let s := (s.modDie die fun d => { d with passCount := min 240 (s.arg.v.toNat % 256) }).post s.cycle .passCountWrite { die := die, n := 1 }
    .next (s.octets.foldl (fun s p => if octetDie p.1 == die then s.tryStarts p.1 else s) s)
  else
    let d := s.die die
    let n := s.circulating die
    let again (s : State) : State := s.post (s.cycle + 1) .passCountWrite s.arg
    if (s.agenda.any fun (p : Pending) => p.ev == Instr.passCountWrite && p.arg.die == die && p.arg.n == 1) then .next s
    else if n < d.passCount then .next (again ((s.modDie die fun d => { d with ring := d.ring ++ [s.passFrom 0] }).pollRing die))
    else if d.passCount < n then
      match pickFirst (fun p => s.passAt p == 0) d.ring with
      | some (_, r) => .next (again (s.modDie die fun d => { d with ring := r }))
      | none => .next (again s)
    else .next s

/-! ## Traps and returns (R286, R369) -/

/-- TRAP: the record has cause 0x80 and the address Reg(a). -/
def execTrap (a : Src) (s : State) : Host.Outcome State Fault Refusal :=
  let u : Uses := { a := some a }
  match s.peek u with
  | .stop t => .next t
  | .ok v => .next ((s.commit u).trapHere 0x80 v.a)

/-- The registers of a TRET, which names context 0 of core Reg(b) from staff under .rc. -/
def tretUses (d : Reg) (a b : Src) (rc : Bool) : Uses :=
  { a := some a, b := if rc then some b else none, out := [d], need := if rc then 2 else 1 }

/-- The context that a TRET names. -/
def State.tretNames (s : State) (v : Vals) (rc : Bool) : CtxId :=
  if rc then ⟨v.b.toNat % 7680, 0⟩ else ⟨s.who.core, v.a.toNat % 16⟩

/-- TRET: the trapped context returns to rotation, at pc + 8 with .next; d is 1 for a context that is not trapped. -/
def execTret (d : Reg) (a b : Src) (next rc : Bool) (s : State) : Host.Outcome State Fault Refusal :=
  let u := tretUses d a b rc
  match s.peek u with
  | .stop t => .next t
  | .ok v =>
    let c := s.tretNames v rc
    if (s.ctx c).life == .trapped && !(s.coreAt c.core).reaping.any (fun r => r.victim == some c.ctx) then
      .next ((((s.commit u).setReg d 0).finish).resume c next)
    else .next (((s.commit u).setReg d 1).finish)

/-- Issues the tile command of a stop afresh (R369): it stands last in its core's queue, from its first piece on. -/
def State.reissueTile (s : State) (c : CtxId) (a : Access) (o : Nat) : State :=
  match (s.octet o).mxu.lost.find? fun m => m.id == a.id with
  | none => s
  | some m =>
    let (i, s) := s.newId
    let s := s.modMxu o fun x =>
      { x with cmds := x.cmds ++ [{ m with id := i, who := c, taken := false, pos := 0, bytes := [] }]
               lost := x.lost.filter fun m => m.id != a.id }
    (s.modCtx c fun x => { x with plain := if m.cmd.stores then .store else .load }).kickTake o

/-- Issues an access of a stop afresh (R369): a full/empty operation, and the read of a STBIND, issue again with their
instruction, at which the pc stands. -/
def State.reissue (s : State) (c : CtxId) (a : Access) : State :=
  match a.kind with
  | .ldx | .stx _ | .ldf | .cwait _ _ | .bind _ => s
  | .tile o _ _ _ => s.reissueTile c a o
  | _ =>
    let (i, s) := s.newId
    let a := { a with id := i, who := c, issued := s.cycle, tries := 0, miss := none, was := s.destFull c a.dest }
    let s := (s.emptyDest c a.dest).modCtx c fun x =>
      if a.rx then { x with relaxed := x.relaxed + 1, relStores := if a.kind.acked then x.relStores + 1 else x.relStores }
      else { x with plain := if a.kind.acked then .store else .load }
    s.route a

/-- TRET.rp (R369): the accesses of the stop that were refused for poison issue afresh, and the context resumes. -/
def execTretRp (d : Reg) (a b : Src) (rc : Bool) (s : State) : Host.Outcome State Fault Refusal :=
  let u := tretUses d a b rc
  match s.peek u with
  | .stop t => .next t
  | .ok v =>
    let c := s.tretNames v rc
    let x := s.ctx c
    if x.life == .trapped && x.frec.cause == 0x17 && !x.mixed && !(s.coreAt c.core).reaping.any (fun r => r.victim == some c.ctx) then
      let t := (((s.commit u).setReg d 0).finish).resume c false
      .next (x.poisoned.foldl (fun t a => t.reissue c a) t)
    else .next (((s.commit u).setReg d 1).finish)

/-- A dword of a core's last fault record (R286, R325). -/
def Frec.dword (f : Frec) (i : Nat) : Word :=
  match i with
  | 0 => BitVec.ofNat 64 (f.cause % 256 + f.ctx % 16 * 256)
  | 1 => f.pc
  | 2 => f.addr
  | _ => f.word

/-- FREC. -/
def execFrec (d : Reg) (a : Src) (s : State) : Host.Outcome State Fault Refusal :=
  .next (s.compute { a := some a, out := [d] } fun v => (s.coreAt s.who.core).frec.dword (v.a.toNat % 4))

/-! ## Invalidation and notices (R98, R287, R334) -/

/-- TINV: the context waits, without an issue slot, until every die has dropped the translations. -/
def execTinv (k : TinvScope) (a b : Src) (s : State) : Host.Outcome State Fault Refusal :=
  let u : Uses := { a := some a, b := some b, need := 2 }
  match s.peek u with
  | .stop t => .next t
  | .ok v =>
    let run := (s.ctx s.who).run
    let (i, s) := ((s.commit u).finish).newId
    let s := s.modCtx s.who fun x => { x with wait := .hold i }
    .next (s.postIn 64 .tinvComplete { c := s.who, run := run, id := i, scope := k, v := v.a, w := v.b })

/-- Whether an invalidation drops a translation. -/
def TlbEnt.dropsFor (e : TlbEnt) (k : TinvScope) (a b : Word) : Bool :=
  let off := bits a.toNat 47 0
  match k with
  | .all => true
  | .part => e.part == b.toNat % 16
  | .page => e.part == b.toNat % 16 && e.base ≤ off && off < e.base + e.size

/-- TINV_COMPLETE: every die drops the translations and writes their counts back (R98, R100), and the context goes on. -/
def execTinvComplete (s : State) : Host.Outcome State Fault Refusal :=
  let a := s.arg
  let s := (List.range 4).foldl (fun s d =>
    let l := (s.die d).tlb
    let gone (e : TlbEnt) : Bool := e.dropsFor a.scope a.v a.w
    let s := (l.filter gone).foldl (fun s e => s.tlbEvict e) s
    s.modDie d fun x => { x with tlb := l.filter fun e => !gone e }) s
  .next (s.release a.c a.run a.id)

/-- Whether POST may post a kind (R334). -/
def postable (k : Nat) : Bool := k != 0x00 && !(0x10 ≤ k && k < 0x80) && k != 0xFF

/-- POST: a notice on the die's own staff queue; a PAGE_MAPPED wakes what waits for the page on every die (R327, R418), of the
partition in bits [3:0] and the size in bits [5:4] of its notice's word (R334, R354). What POST puts into pc, address and word is a
free value (DESIGN CHOICE, assumption log 72). -/
def execPost (a b : Src) (s : State) : Host.Outcome State Fault Refusal :=
  let u : Uses := { a := some a, b := some b, need := 2 }
  match s.peek u with
  | .stop t => .next t
  | .ok v =>
    let kind := v.a.toNat % 256
    if !postable kind then .next (s.trapHere 0x01 0)
    else
      let die := dieOf s.who.core
      let c := s.who
      let s := (s.commit u).finish
      let f (i : Nat) : Word := Config.postField i v.a v.b
      let s := s.notice die { kind := kind, core := c.core, ctx := c.ctx, value := v.b, pc := f 0, addr := f 1, word := f 2 }
      .next (if kind == 0x02 then
        (List.range 4).foldl (fun s d =>
          s.postIn (20 + 24 * crossings die d) .pageMappedWake { die := d, v := v.b, n := bits (f 2).toNat 5 4, w := f 2 }) s
      else s)

/-! ## Consistent cuts (R67, R68, R336) -/

/-- The mesh neighbour of a core: east, south, west or north. A core at an edge of its die has none across that edge (R13). -/
def meshNext (core ch : Nat) : Option Nat :=
  match ch with
  | 0 => if colOf core < 47 then some (core + 1) else none
  | 1 => if rowOf core < 39 then some (core + 48) else none
  | 2 => if 0 < colOf core then some (core - 1) else none
  | _ => if 0 < rowOf core then some (core - 48) else none

/-- The mesh neighbours of a core that exchange markers with it; none lies across a fence (R396). -/
def State.cutSides (s : State) (core : Nat) : List Nat :=
  (List.range 4).filter fun ch => (meshNext core ch).any fun k => !s.fenced k core && !s.fenced core k

/-- The contexts of a core that run a net and are recorded, in ascending number (R67, R68). -/
def State.cutCtxs (s : State) (core net : Nat) : List Nat :=
  ((List.range 15).map (· + 1)).filter fun k =>
    let x := s.ctx ⟨core, k⟩
    (x.life == .active || x.life == .parked || x.life == .trapped) && x.net.toNat == net

/-- Whether a context can be recorded now (R61, R336): one that is dropped, once nothing of it is outstanding. -/
def State.recordable (s : State) (c : CtxId) : Bool :=
  let x := s.ctx c
  x.life == .trapped ||
    (x.lateOut == 0 && x.relFault.isNone &&
      match x.wait with
      | .fetchDrop => x.quiet
      | .reply id => x.relaxed == 0 && s.parked.any fun (p : Parked) => p.acc.id == id
      | .cwait _ => x.quiet
      | .hold _ => x.quiet && x.builtin.isSome
      | _ => x.quiet)

/-- The deque entries of a net on a core, near end first. -/
def State.cutPairs (s : State) (core net : Nat) : List QItem :=
  (s.coreAt core).deque.filter fun q => s.dword core q.a % 65536 == net

/-- A fault record as four dwords (R325). -/
def Frec.bytes (f : Frec) : List Byte := (List.range 4).flatMap fun i => natBytes (f.dword i).toNat 8

/-- A core's recorded state: its numbers of pairs and saves, and their bytes (R68). -/
def State.cutState (s : State) (core net : Nat) : Nat × Nat × List Byte :=
  let ps := s.cutPairs core net
  let cs := s.cutCtxs core net
  (ps.length, cs.length,
    (ps.flatMap fun q => q.words.flatMap fun w => natBytes w.toNat 8) ++
      cs.flatMap fun k =>
        let c : CtxId := ⟨core, k⟩
        s.layout c ++ (if (s.ctx c).life == .trapped then (s.ctx c).frec else {}).bytes)

/-- A log entry's bytes (R68). -/
def CutLog.bytes (l : CutLog) : List Byte :=
  natBytes (l.ch * 2 ^ 60 + l.what * 2 ^ 56 + 8 * l.data.length) 8 ++ natBytes l.addr.toNat 8 ++ l.data.flatMap fun w => natBytes w.toNat 8

/-- A core's section of a cut record, zero up to a multiple of 64 bytes. -/
def cutSection (core : Nat) (st : Nat × Nat × List Byte) (log : List CutLog) : List Byte :=
  let lb := log.flatMap CutLog.bytes
  let n := (64 + st.2.2.length + lb.length + 63) / 64 * 64
  let b := natBytes (core * 2 ^ 32 + st.2.1 * 2 ^ 16 + st.1) 8 ++ natBytes lb.length 8 ++ natBytes n 8 ++ List.replicate 40 0 ++ st.2.2 ++ lb
  b ++ List.replicate (n - b.length) 0

/-- A dword of a cut record's header. -/
def Cut.word (c : Cut) (i : Nat) : Word := c.addr + BitVec.ofNat 64 (8 * i)

/-- Whether a cut record has room for a section of `n` bytes (R68). -/
def State.cutRoom (s : State) (c : Cut) (n : Nat) : Bool := s.dword c.who.core (c.word 1) + n ≤ s.dword c.who.core (c.word 2)

/-- Claims space in the cut record and writes a core's section; without room it counts the core in full (R68). -/
def State.writeSection (s : State) (c : Cut) (bytes : List Byte) : State :=
  let core := c.who.core
  let d0 := s.dword core (c.word 0)
  let next := s.dword core (c.word 1)
  if s.cutRoom c bytes.length then
    let s := s.putDword core (c.word 0) (c.net * 2 ^ 48 + bits d0 47 32 * 2 ^ 32 + (d0 + 1) % 2 ^ 32)
    let s := s.putDword core (c.word 1) (next + bytes.length)
    (List.range (bytes.length / 8)).foldl (fun s i =>
      s.putDword core (c.addr + BitVec.ofNat 64 (next + 8 * i)) (bytesNat ((bytes.drop (8 * i)).take 8))) s
  else s.putDword core (c.word 3) (s.dword core (c.word 3) + 1)

/-- Sends a core's markers to its mesh neighbours (R67). -/
def State.sendMarkers (s : State) (core id : Nat) : State :=
  (s.cutSides core).foldl (fun s ch =>
    match meshNext core ch with
    | some k => s.postIn (forwardTime core k) .cutMarkerArrive { core := k, id := id, n := (ch + 2) % 4 }
    | none => s) s

/-- Begins a core's part in a cut: the markers of its inboxes, its steal replies and its octet's engines are on their way. -/
def State.joinCut (s : State) (core id : Nat) (first : Bool) : State :=
  let p : CutPart := { id := id, first := first, toCome := s.cutSides core ++ [4, 5, 6, 7], stamp := s.seq }
  let s := s.modCore core fun k => { k with cuts := k.cuts ++ [p] }
  [4, 5, 6, 7, 8].foldl (fun s ch => s.post (s.cycle + 1) .cutMarkerArrive { core := core, id := id, n := ch }) s

/-- Whether an own channel of a core has nothing left ahead of its marker (R67). -/
def State.channelClear (s : State) (core stamp ch : Nat) : Bool :=
  match ch with
  | 4 => (List.range 4).all fun d => (s.die d).slots.all fun (x : DSlot) =>
      stamp ≤ x.order || match x.env.body with
        | .record i => bits (s.rd8 (s.inboxKey i)) 12 0 != core
        | _ => true
  | 5 => (s.coreAt core).taking.all fun t => !t.busy
  | 6 => (s.octet (octetOf core)).ops.all fun (op : EngOp) => stamp ≤ op.id
  | _ => (s.octet (octetOf core)).mxu.cmds.all fun (c : MxuCmd) => stamp ≤ c.id || c.matx.isNone

/-- Changes a core's part in a cut. -/
def State.modPart (s : State) (core id : Nat) (f : CutPart → CutPart) : State :=
  s.modCore core fun k => { k with cuts := mapIf (fun (p : CutPart) => p.id == id) f k.cuts }

/-- Ends a cut in which no core has a part and no marker is on its way. -/
def State.endCut (s : State) (id : Nat) : State :=
  if s.cores.any (fun (p : Nat × Core) => p.2.cuts.any fun (q : CutPart) => q.id == id) ||
      s.agenda.any (fun (p : Pending) => p.ev == Instr.cutMarkerArrive && p.arg.id == id) then s
  else { s with cuts := s.cuts.filter fun (c : Cut) => c.id != id }

/-- Ends a core's part in a cut (R67): its count on the completion word, with err where its section found no room (R68), and its
markers. -/
def State.cutEnd (s : State) (core : Nat) (c : Cut) (p : CutPart) (ok : Bool) : State :=
  let s := s.modCore core fun k => { k with cuts := k.cuts.filter fun (q : CutPart) => q.id != c.id }
  let s := if p.first then s else s.sendMarkers core c.id
  let s := s.post s.cycle .completionIncrement
    { count := { addr := c.cw, err := !ok, what := .cut c.id, who := c.who, run := c.run } }
  s.endCut c.id

/-- Records what a core has reached: its state, at once where it started the cut and else when every marker is in, and then its
section, which the record takes whole: on a missing page it waits (R354), and a refusal counts with err. -/
def State.cutGo (s : State) (core : Nat) (c : Cut) (p : CutPart) : State :=
  let again (s : State) : State := s.post (s.cycle + 1) .cutMarkerArrive { core := core, id := c.id, n := 8 }
  match p.taken with
  | none =>
    if (p.first || p.toCome.isEmpty) && (s.cutCtxs core c.net).all fun k => s.recordable ⟨core, k⟩ then
      let s := s.modPart core c.id fun p => { p with taken := some (s.cutState core c.net) }
      again (if p.first then s.sendMarkers core c.id else s)
    else again s
  | some st =>
    if !p.toCome.isEmpty then again s
    else
      let b := cutSection core st p.log
      s.atomically c.who.core (fun s => (s.writeSection c b).cutEnd core c p (s.cutRoom c b.length)) fun x s =>
        match x with
        | .miss a => s.walkStep c.who.core a .cutMarkerArrive fun s => s.holdStep c.who.core c.who a c.cw .cutMarkerArrive
        | .wait => again s
        | .bad _ _ => s.cutEnd core c p false

/-- CUT_MARKER_ARRIVE: a marker on channel `n` of a core, or with `n` = 8 a look at what the core waits for. -/
def execCutMarkerArrive (s : State) : Host.Outcome State Fault Refusal :=
  let core := s.arg.core
  let id := s.arg.id
  let ch := s.arg.n
  match s.cuts.find? fun (c : Cut) => c.id == id with
  | none => .next s
  | some c =>
    match (s.coreAt core).cuts.find? fun (p : CutPart) => p.id == id with
    | none =>
      if ch < 4 then .next ((s.joinCut core id false).modPart core id fun p => { p with toCome := p.toCome.filter fun x => x != ch })
      else .next s
    | some p =>
      if ch == 8 then .next (s.cutGo core c p)
      else if 4 ≤ ch && !s.channelClear core p.stamp ch then .next (s.post (s.cycle + 1) .cutMarkerArrive s.arg)
      else .next (s.modPart core id fun p => { p with toCome := p.toCome.filter fun x => x != ch })

/-- CUT (R287): it waits as ARRIVE does; the record must be aligned to 64 bytes (R68, R288). -/
def execCut (a b c : Src) (s : State) : Host.Outcome State Fault Refusal :=
  let u : Uses := { a := some a, b := some b, c := some c, need := 2 }
  .next (s.waiting u Ctx.storesDone fun v s =>
    if v.b.toNat % 64 != 0 then s.trapHere 0x15 v.b
    else
      let run := (s.ctx s.who).run
      let core := s.who.core
      let (id, s) := ((s.commit u).finish).newId
      let cut : Cut := { id := id, net := v.a.toNat % 65536, addr := s.homed core v.b, cw := s.homed core v.c, who := s.who, run := run }
      { s with cuts := s.cuts ++ [cut] }.joinCut core id true)

/-! ## Isolation (R287, R396, R397) -/

/-- A rectangle of ISOL in part.N.rect's layout. -/
def isolRect (v : Word) (id : Nat) (cw : Word) : Fence :=
  let n := v.toNat
  { id := id, bits := bits n 62 35, col := bits n 62 56, row := bits n 55 49, ncols := bits n 48 42, nrows := bits n 41 35, cw := cw }

/-- Whether a rectangle is of whole octets on one die (R396). -/
def Fence.whole (f : Fence) : Bool :=
  f.col % 4 == 0 && f.ncols % 4 == 0 && f.row % 2 == 0 && f.nrows % 2 == 0 && 0 < f.ncols && 0 < f.nrows &&
    f.col + f.ncols ≤ 96 && f.row + f.nrows ≤ 80 && f.col / 48 == (f.col + f.ncols - 1) / 48 && f.row / 40 == (f.row + f.nrows - 1) / 40

/-- The cores of a rectangle. -/
def Fence.cores (f : Fence) : List Nat := (List.range 7680).filter f.has

/-- The octets of a rectangle of whole octets. -/
def Fence.octets (f : Fence) : List Nat := (List.range 960).filter fun o => f.has (coreOfSeat o 0)

/-- What becomes of the pair of a run that stops inside the fence (R397). -/
def State.isolPair (s : State) (core : Nat) (x : Ctx) : State :=
  if x.agentRec == 0 then s
  else if x.ebDone || x.wired then
    s.notice (dieOf core) { kind := 0x06, core := core, value := x.agentRec, word := if x.ebDone then 0 else 1 }
  else
    let a := x.agentRec + 8
    let b := x.mate + 8
    let (lo, hi) := if s.cellLt (s.norm core b) (s.norm core a) then (b, a) else (a, b)
    let (t, s) := s.newTag core lo
    let s := s.apart core fun s => (s.setLive core lo t hi).setLive core hi t lo
    let (s, p) := s.pairPrio core x.agentRec x.mate
    let (i, s) := s.newId
    s.pushDie (dieOf core) (pairItem i p (s.norm core x.agentRec) (s.norm core x.mate) s.cycle)

/-- Ends an operation of an octet's copy engine with a cause. -/
def State.failOp (s : State) (o : Nat) (op : EngOp) (cause : Nat) : State :=
  if op.counting then s
  else
    let op := { op.fail cause op.src with pos := op.len, stalled := none }
    ((s.modOctet o fun x => { x with fixups := x.fixups.filter fun f => f.op != op.id }).setOp o op).endOp o op

/-- Ends the MXU commands and engine operations of an octet with a cause, and frees its slots and its array (R397 step 2). -/
def State.failOctet (s : State) (o cause : Nat) : State :=
  let x := s.octet o
  let s := x.mxu.cmds.foldl (fun s (c : MxuCmd) =>
    match c.matx with
    | some y => if y.failed || y.ended then s else s.refuseMatx o c y cause
    | none => s.dropCmd o c.id) s
  let s := x.ops.foldl (fun s op => s.failOp o op cause) s
  let s := (List.range 8).foldl (fun s i =>
    let core := coreOfSeat o i
    (List.range 8).foldl (fun s j => if (s.q core j).bound then s.streamFail core j cause (s.q core j).base else s) s) s
  s.modMxu o fun m =>
    { m with slots := Vector.replicate 4 {}, lost := [], grant := none, lastBlock := none, pipe := {}, drains := [] }

/-- The entry that a core's homeroom starts at, from its die's boot record (R156, R157). -/
def State.bootPc (s : State) (core : Nat) : Word :=
  BitVec.ofNat 64 (s.rd8 (dieOf core * 2 ^ 38 + if s.isStaffCore core then 0 else 8))

/-- A core as it leaves reset (R156 steps 5 and 6). -/
def State.bootCore (s : State) (core : Nat) : State :=
  let (run, s) := s.newId
  let s := s.setCore core (Core.initial core)
  let s := (List.range 15).foldl (fun s k => if (s.ctx ⟨core, k + 1⟩).life == .gated then s else s.setCtx ⟨core, k + 1⟩ {}) s
  s.setCtx ⟨core, 0⟩ { run := run, life := .active, pc := s.bootPc core, readyAt := s.cycle + 1 }

/-- Takes away what runs of some cores wait for in banks and at walkers. -/
def State.forgetCores (s : State) (p : Nat → Bool) : State :=
  { s with
    parked := s.parked.filter fun (x : Parked) => !p x.acc.who.core
    sleepers := s.sleepers.filter fun (x : Sleeper) => !p x.acc.who.core
    held := s.held.filter fun (a : Access) => !p a.who.core
    heldCounts := s.heldCounts.filter fun (c : Count) => !p c.who.core
    cellWaits := s.cellWaits.filter fun (z : CellWait) => !p z.req.acc.who.core }

/-- The pairs that a core holds outside its context banks: in its deque, in its take register, and in starts that wait for a save. -/
def State.heldPairs (s : State) (core : Nat) : List QItem :=
  let k := s.coreAt core
  let pair (t : TItem) : Option QItem := match t with
    | .pair q => some q
    | _ => none
  k.deque ++ (k.takeReg.bind pair).toList ++ (s.octet (octetOf core)).saves.filterMap fun x =>
    if x.core != core then none
    else match x.after with
      | .startItem t _ => pair t
      | _ => none

/-- Stops an isolation rectangle: contexts, commands and pairs, and the reset of its cores (R397 steps 1 to 3); the cohorts of which
an octet is fenced are refused at once (R385). -/
def State.isolate (s : State) (f : Fence) : State :=
  let s := (f.octets.foldl (fun s o => s.failOctet o 0x32) s).fenceCohorts
  let s := f.cores.foldl (fun s k =>
    let l := s.heldPairs k
    let s := s.modCore k fun x => { x with deque := [] }
    let s := l.foldl (fun s q => s.pushDie (dieOf k) q) s
    (List.range 15).foldl (fun s i =>
      let x := s.ctx ⟨k, i + 1⟩
      if x.live || x.life == .trapped then s.isolPair k x else s) s) s
  let s := f.octets.foldl (fun s o =>
    let x := s.octet o
    let s := s.setOctet o { x with queue := [], cloak := [], saves := [], gives := [], waiting := [] }
    let s := x.queue.foldl (fun s q => s.pushDie (octetDie o) q) s
    x.cloak.foldl (fun s e => s.isolPair e.core e.c) s) s
  f.cores.foldl (fun s k => s.bootCore k) (s.forgetCores f.has)

/-- ISOL: the fence stands, what is inside stops, and the completion word counts once the slates are rebuilt, a word a cycle in
each slate (R371, R397; DEDUCED, assumption log 45). -/
def execIsol (a b : Src) (s : State) : Host.Outcome State Fault Refusal :=
  let u : Uses := { a := some a, b := some b, need := 2 }
  match s.peek u with
  | .stop t => .next t
  | .ok v =>
    let f := isolRect v.a s.seq (s.homed s.who.core v.b)
    if !f.whole then .next (s.trapHere 0x01 0)
    else if f.has s.who.core || f.cores.any s.isStaffCore then .next (s.trapHere 0x04 0)
    else
      let c := s.who
      let run := (s.ctx c).run
      let (_, s) := ((s.commit u).finish).newId
      let s := { s with fences := f :: s.fences.filter fun g => g.bits != f.bits }
      .next ((s.isolate f).post (s.cycle + 8192) .isolationDone { c := c, run := run, id := f.id })

/-- ISOLATION_DONE (R397 steps 4 and 5): every slate word inside has been read and corrected or rebuilt. -/
def execIsolationDone (s : State) : Host.Outcome State Fault Refusal :=
  match s.fences.find? fun f => f.id == s.arg.id with
  | none => .next s
  | some f =>
    let mine (w : Nat) : Bool := isSlateKey (w * 8) && f.has (coreOfSeat (keyOctet (w * 8)) 0)
    let s := (s.latent.filterMap fun e => match e with
      | .slateWord w b => if mine w && 1 < b then some w else none
      | _ => none).foldl (fun s w => s.rebuildWord w) s
    let s := { s with latent := s.latent.filter fun e => match e with
                | .slateWord w _ => !mine w
                | _ => true }
    .next (s.post s.cycle .completionIncrement
      { count := { addr := f.cw, what := .isol f.id, who := s.arg.c, run := s.arg.run } })

/-- UNISOL: a rectangle that is not fenced has no effect. -/
def execUnisol (a : Src) (s : State) : Host.Outcome State Fault Refusal :=
  let u : Uses := { a := some a, need := 2 }
  match s.peek u with
  | .stop t => .next t
  | .ok v =>
    let s := (s.commit u).finish
    .next { s with fences := s.fences.filter fun f => f.bits != bits v.a.toNat 62 35 }

end Sys2Proof.Machine
end

