-- ==== Sys2Proof/Machine/Platform.lean ====
section
/-! DEFINITION. The host, the Prefect and the three resets (R114, R152, R155 to R164, R334, R386, R394, R395, R401, R402). The
steps of a boot follow each other in one step of the model (DEDUCED, assumption log 47). -/

namespace Sys2Proof.Machine

/-! ## The host (R114, R152) -/

/-- A dword of a doorbell with the bytes of a write that fall into it. -/
def mergeDword (old : Word) (base : Nat) (off : Nat) (data : List Byte) : Word :=
  BitVec.ofNat 64 (bytesNat ((List.range 8).map fun j =>
    let a := base + j
    if off ≤ a && a < off + data.length then data.getD (a - off) 0 else BitVec.ofNat 8 (old.toNat / 256 ^ j)))

/-- Dword `i` of what has accumulated at a doorbell. -/
def dbDword (l : List (Nat × Word)) (i : Nat) : Word := ((l.find? fun p => p.1 == i).map (·.2)).getD 0

/-- Writes of the host to one doorbell: they accumulate until dword 7 is written, and the record is then accepted as a message of
the host's own source, or dropped and counted. -/
def State.doorbell (s : State) (i off : Nat) (data : List Byte) : State :=
  let old := s.doorbells.get i []
  let hit (j : Nat) : Bool := off < 64 * i + 8 * j + 8 && 64 * i + 8 * j < off + data.length
  let new := (List.range 8).filterMap fun j =>
    if hit j then some (j, mergeDword (dbDword old j) (64 * i + 8 * j) off data) else old.find? fun p => p.1 == j
  if !hit 7 then { s with doorbells := s.doorbells.set i new }
  else
    let s := { s with doorbells := s.doorbells.set i [] }
    let d0 := s.rd8 (s.inboxKey i)
    if !(bitAt d0 63 && bitAt d0 61) then { s with prefect := { s.prefect with dropped := s.prefect.dropped + 1 } }
    else
      let bytes := (List.range 8).flatMap fun j => natBytes (dbDword new j).toNat 8
      let e : Env := { dnode := s.node, host := true, cls := 0, body := .record i, sender := .host }
      s.post s.cycle .seatRequest { n := 7, env := e, frag := { data := bytes } }

/-- An access of the host waits for those that it has posted before (R114). -/
def State.hostWaits (s : State) (ev : Instr) : State := { s with hostQueue := s.hostQueue ++ [{ ev := ev, arg := s.arg }] }

/-- What a write to BAR 0 does at the doorbells that it covers. -/
def State.hostBar0 (s : State) (off : Nat) (data : List Byte) : State :=
  if data.isEmpty then s
  else
    let first := off / 64
    let n := (off + data.length - 1) / 64 + 1 - first
    (List.range n).foldl (fun s i => if first + i < 4096 then s.doorbell (first + i) off data else s) s

/-- HOST_DOORBELL_WRITE: a write to BAR 0 reaches the doorbells that it covers; the rest of BAR 0 is reserved, and reads of BAR
0 return zero. It follows what the host has posted before (R114); `n` = 4 says that its turn has come. -/
def execHostDoorbellWrite (s : State) : Host.Outcome State Fault Refusal :=
  if s.arg.n != 4 && !s.hostQueue.isEmpty then .next (s.hostWaits .hostDoorbellWrite)
  else
    let done (s : State) : State := if s.arg.n == 4 then s.hostDone else s
    match s.arg.host with
    | .read _ n => .next (done { s with hostOut := s.hostOut ++ [(s.arg.id, List.replicate n 0)] })
    | .write off data => .next (done (s.hostBar0 off data))

/-- The first byte and the length of a host's access in BAR 2. -/
def HostOp.span (h : HostOp) : Nat × Nat :=
  match h with
  | .read p n => (p, min n (2 ^ 40 - p))
  | .write p data => (p, min data.length (2 ^ 40 - p))

/-- The unloaded time of a packet of `n` bytes of a host's access between die 0 and another die (R91, R142; DEDUCED, assumption
log 27). -/
def State.hostLat (s : State) (src dst n : Nat) : Nat := max (24 * crossings src dst) (s.crossTime src dst (16 + n) false)

/-- The answer to a host's read leaves, from the die of its bank. -/
def State.hostAnswer (s : State) (die p : Nat) (bytes : List Byte) : State :=
  if die == 0 then { s with hostOut := s.hostOut ++ [(s.arg.id, bytes)] }
  else
    s.carry die 0 false false (16 + bytes.length) (s.hostLat die 0 bytes.length) .hostBar2Access
      { id := s.arg.id, n := 2, host := .write p bytes }

/-- A host's access at its bank (R152): its writes match watchpoints (R373), and a poisoned granule that it reads is reported
(R366). -/
def State.hostPerform (s : State) : State :=
  let (p, n) := s.arg.host.span
  let die := physDie p % 4
  match s.arg.host with
  | .read _ _ =>
    let s := (s.meetErrors p n).1
    if s.isPoisoned p n then
      let bytes := (List.range n).map fun i => if s.isPoisoned (p + i) 1 then Config.hostByte (s.fresh + i) else memRead s.mem (p + i)
      ({ s with fresh := s.fresh + n }.hostAnswer die p bytes).notice die { kind := 0x0B, cause := 0x17, value := BitVec.ofNat 64 p }
    else s.hostAnswer die p (memReadL s.mem p n)
  | .write _ data => (s.postWatch p (s.watchHits p n) [] (BitVec.ofNat 64 p) 0x1000).1.storeL p (data.take n)

/-- A host's access in its turn at the banks of its bytes (R94), and then the next of the host. -/
def State.hostTurn (s : State) : State :=
  let (p, n) := s.arg.host.span
  let (c, b) := s.bankTakes ((List.range ((n + 255) / 256)).map (fun i => p + 256 * i) ++ if n == 0 then [] else [p + n - 1])
  if !s.arg.slot && s.cycle < c then b.post c .hostBar2Access { s.arg with n := 1, slot := true }
  else (State.hostPerform { s with banks := if s.arg.slot then s.banks else b.banks }).hostDone

/-- HOST_BAR2_ACCESS: a plain access of the host (R152): it follows what the host has posted before (R114), crosses to the die of its
bank (R21, R142), and is performed there (1); the answer to a read of another die's bank comes back to the link (2). -/
def execHostBar2Access (s : State) : Host.Outcome State Fault Refusal :=
  let h := s.arg.host
  match s.arg.n with
  | 1 => .next s.hostTurn
  | 2 =>
    match h with
    | .write _ bytes => .next { s with hostOut := s.hostOut ++ [(s.arg.id, bytes)] }
    | .read _ _ => .next s
  | n =>
    if n != 4 && !s.hostQueue.isEmpty then .next (s.hostWaits .hostBar2Access)
    else
      let s := if n == 4 then s else s.hostWaits .hostBar2Access
      let (p, len) := h.span
      let die := physDie p % 4
      let size := match h with
        | .read _ _ => 0
        | .write _ _ => len
      if die == 0 then .next s.hostTurn
      else .next (s.carry 0 die false false (16 + size) (s.hostLat 0 die size) .hostBar2Access { s.arg with n := 1 })

/-- LINK_RETRAINED: a die boundary or an Emram port, numbered `n`, has retrained (R334). -/
def execLinkRetrained (s : State) : Host.Outcome State Fault Refusal :=
  .next (s.notice s.arg.die { kind := 0x07, value := BitVec.ofNat 64 s.arg.n })

/-! ## Registers that the Prefect writes (R158, R159, R162) -/

/-- Whether no core that a change of a rectangle moves between partitions runs a context other than its homeroom (R159). -/
def State.rectFree (s : State) (n : Nat) (v : Word) : Bool :=
  let t := { s with partRect := wr s.partRect n v }
  (List.range 7680).all fun k => s.partOf k == t.partOf k ||
    ((List.range 15).all fun i => (s.ctx ⟨k, i + 1⟩).life != .active)

/-- PREFECT_REGISTER_WRITE: register `n` of a die; a change of a rectangle that is not allowed is logged and refused, and
staff.place takes its new value at the die's next reset (R22, R159), where the configuration record says it; a number that is no
octet of the die is logged and refused (DESIGN CHOICE, assumption log 74). -/
def execPrefectRegisterWrite (s : State) : Host.Outcome State Fault Refusal :=
  let n := s.arg.n
  if n == 0x130 then .next (s.post s.cycle .passCountWrite { die := s.arg.die, v := s.arg.v })
  else if 0x140 ≤ n && n < 0x150 then
    let v := s.arg.v &&& 0xFFFFFFF800000000
    .next (if s.rectFree (n - 0x140) v then { s with partRect := wr s.partRect (n - 0x140) v } else s.prefectLog s.arg.die n)
  else if n == 0x132 then
    let o := s.arg.v.toNat % 256
    .next (if o < 240 then { s with prefect := { s.prefect with cfgPlace := s.prefect.cfgPlace.set s.arg.die o } }
      else s.prefectLog s.arg.die n)
  else .next s

/-- The change of a die's pass count that a sample asks for (R162): 8 down at a time, not below 24, and 8 up once the readings
have been 5% below their limits for 100 samples. -/
def State.sampleDie (s : State) (x : Sample) (d : Nat) : State :=
  let count := (s.die d).passCount
  let tooHigh := 3600 < x.power || x.hot.getD d false
  let under := x.power ≤ 3420 && x.cool.getD d false
  let good := if under then s.prefect.good.getD d 0 + 1 else 0
  let goal := s.prefect.cfgPass.getD d 216
  let s := { s with prefect := { s.prefect with good := s.prefect.good.set d good } }
  let new := if tooHigh then (if count ≤ 24 then count else max 24 (count - 8)) else if 100 ≤ good && count < goal then min goal (count + 8) else count
  if new == count then s else (s.prefectLog d new).post s.cycle .passCountWrite { die := d, v := BitVec.ofNat 64 new }

/-- SENSOR_SAMPLE: one sample of 1 ms. -/
def execSensorSample (s : State) : Host.Outcome State Fault Refusal :=
  .next ((List.range 4).foldl (fun s d => s.sampleDie s.arg.sample d) s)

/-! ## Updates and measurement (R160, R161, R401, R402) -/

/-- The slot of an image. -/
def fwIndex (k : FwKind) : Nat :=
  match k with
  | .prefect => 0 | .stack => 1 | .runtime => 2

/-- FIRMWARE_UPDATE_WRITE: the staged slot takes the image with its last write, and is empty until then. -/
def execFirmwareUpdateWrite (s : State) : Host.Outcome State Fault Refusal :=
  let w := s.arg.fw
  .next { s with prefect := { s.prefect with staged := wr s.prefect.staged (fwIndex w.kind) (if w.last then some w.image else none) } }

/-- The choice between the slots of an image (R161): the staged image runs if its signature passes and its version is not below
the counter, which it then raises; one that does not run stays staged, and is logged. -/
def State.chooseSlot (s : State) (i : Nat) : State :=
  let f := s.prefect
  match rd f.staged i none with
  | none => s
  | some m =>
    if m.signed && f.version ≤ m.version then
      { s with prefect := { f with active := wr f.active i (some m), staged := wr f.staged i none, version := m.version } }
    else s.prefectLog 0 (0x100 + i)

/-- Whether an active image has a signature that passes. -/
def Prefect.runs (f : Prefect) (i : Nat) : Bool := (rd f.active i none).any (·.signed)

/-- The digest of an active image as it lies in its slot. -/
def Prefect.digest (f : Prefect) (i : Nat) : List Byte := sha256 (((rd f.active i none).map (·.bytes)).getD [])

/-- A measurement block (R160). -/
def Prefect.block (f : Prefect) (i : Nat) : List Byte := if i == 5 then natBytes f.version 4 else f.measures.getD (i - 1) []

/-- Response codes of SPDM 1.3 and the error codes of R401. -/
def spdmError (code : Nat) : Nat × List (List Byte) := (0x7F, [[BitVec.ofNat 8 code]])

/-- The Prefect's answer to a request: a response code and its contents, whose bytes DSP0274 gives (PRESUMED, assumption log 73): the
flags CERT, CHAL and MEAS with signatures; and the selections BaseHashAlgo SHA-256, MeasurementHashAlgo SHA-256 and BaseAsymAlgo
RSASSA-PSS with 3,072 bits. -/
def Prefect.answer (f : Prefect) (r : SpdmReq) : Nat × List (List Byte) :=
  let alg : List Byte := [0x13]
  let sign (l : List (List Byte)) : List (List Byte) := l ++ [Config.signature l.flatten]
  match r.code with
  | .getVersion => (0x04, [alg])
  | .keyExchange => spdmError 0x07
  | .pskExchange => spdmError 0x07
  | c =>
    if !r.v13 then spdmError 0x41
    else
      match c with
      | .getCapabilities => (0x61, [[0x16]])
      | .negotiate => (0x63, [natBytes 1 4, natBytes 2 4, natBytes 8 4])
      | .getDigests => (0x01, [Config.certChain])
      | .getCertificate => (0x02, [Config.certChain])
      | .challenge => (0x03, sign [Config.certChain, f.measures.flatten])
      | .getMeasurements i =>
        if 1 ≤ i && i ≤ 5 then (0x60, sign [f.block i])
        else if i == 0xFF then (0x60, sign ((List.range 5).map fun j => f.block (j + 1)))
        else spdmError 0x01
      | _ => spdmError 0x07

/-- The answer while the device is held at step 1 (R401): three requests on MCTP alone, and block 1 alone; at step 2 it is busy. -/
def Prefect.heldAnswer (f : Prefect) (r : SpdmReq) : Option (Nat × List (List Byte)) :=
  if f.held != 1 then some (spdmError 0x03)
  else if !r.mctp then none
  else
    match r.code with
    | .getVersion => some (f.answer r)
    | .getCapabilities => some (f.answer r)
    | .getMeasurements _ =>
      let b := f.digest 0
      some (0x60, [b, Config.signature b])
    | _ => none

/-- SPDM_REQUEST. -/
def execSpdmRequest (s : State) : Host.Outcome State Fault Refusal :=
  let f := s.prefect
  let a := if f.held != 0 then f.heldAnswer s.arg.spdm else some (f.answer s.arg.spdm)
  .next (match a with
    | some r => { s with prefect := { f with answers := f.answers ++ [r] } }
    | none => s)

/-! ## Power-on and device reset (R155 to R157, R163) -/

/-- The staff runtime image in device memory (R156 step 4). -/
def State.copyImage (s : State) : State :=
  { s with mem := ((rd s.prefect.active 2 none).getD {}).cells.foldl (fun l c => memWrite l c.1 c.2) s.mem }

/-- A die's boot record (R156 step 4, R157). -/
def State.bootRecord (s : State) (die : Nat) : State :=
  let m := (rd s.prefect.active 2 none).getD {}
  let k := die * 2 ^ 38
  let put (s : State) (i v : Nat) : State := { s with mem := memWriteN s.mem (k + 8 * i) 8 v }
  let s := put (put (put s 0 m.staffPc.toNat) 1 m.homePc.toNat) 2 m.ptb0.toNat
  let s := put s 3 (s.prefect.boots % 2 ^ 32 * 2 ^ 32 + s.prefect.version % 2 ^ 32)
  (List.range 4).foldl (fun s i => put s (4 + i) 0) s

/-- Starts every homeroom of a die (R156 step 6). -/
def State.bootHomes (s : State) (die : Nat) : State :=
  { s with ctxs := ((List.range 1920).map fun i => die * 1920 + i).foldl (fun (m : SMap Ctx) k =>
      m.set (k * 16) { Ctx.initial ⟨k, 0⟩ with pc := s.bootPc k }) s.ctxs }

/-- The free passes of a die whose ring is new: pass j stands at octet j now (R163). -/
def State.newRing (s : State) (n : Nat) : List Nat := (List.range n).map s.passFrom

/-- A die's registers from the configuration record (R156 step 3), at a boot that lets its ring run from now on; its Emram ports are
connected as they were. -/
def State.bootDie (s : State) (f : Prefect) (d : Nat) (ports : BitVec 9) : Die :=
  let n := min 240 (f.cfgPass.getD d 216)
  { Die.initial d with passCount := n, ring := s.newRing n, staffPlace := f.cfgPlace.getD d 0, ports := ports }

/-- Steps 1 to 6 of R156, or as far as the images let them go (R401). -/
def State.boot (s : State) : State :=
  let s := [0, 1, 2].foldl (fun s i => s.chooseSlot i) s
  let f := s.prefect.measured
  let f := { f with boots := f.boots + 1, held := if !f.runs 0 then 1 else if !f.runs 1 then 2 else 0 }
  let s := if f.held == 2 then s.prefectLog 0 0x201 else s
  let f := { f with log := s.prefect.log }
  let ptb := ((rd f.active 2 none).getD {}).ptb0
  let start : State :=
    { cycle := s.cycle + 1, bootAt := s.cycle + 1, seq := s.seq, fresh := s.fresh,
      mem := if f.held == 1 then s.mem.filter fun c => c.1 < 2 ^ 47 else s.mem.filter fun c => isHostKey c.1,
      poison := if f.held == 1 then s.poison else s.poison.filter fun g => isHostKey (g * 32),
      dies := (List.range 4).map fun d => (d, State.bootDie { s with cycle := s.cycle + 1 } f d (s.die d).ports),
      partRect := Vector.ofFn fun (i : Fin 16) => f.cfgRects.getD i.val 0,
      partPtb := wr (Vector.replicate 16 0) 0 (ptb &&& 0x0000FFFFFFFFF000),
      prefect := f, hostOut := s.hostOut, outbox := s.outbox }
  let start := (List.range 4).foldl (fun s d => s.post (s.cycle + 1024) .goldAdvance { die := d }) start
  if f.held != 0 then start
  else (List.range 4).foldl (fun s d => (s.bootRecord d).bootHomes d) start.copyImage

/-- POWER_ON_RESET: the whole package, the Prefect included; its images and the version counter are kept (R402). -/
def execPowerOnReset (s : State) : Host.Outcome State Fault Refusal :=
  let f := s.prefect
  .next (State.boot { s with prefect :=
    { active := f.active, staged := f.staged, version := f.version, cfgPass := f.cfgPass, cfgPlace := f.cfgPlace, cfgRects := f.cfgRects } })

/-- DEVICE_RESET: all four dies; the Prefect keeps running, and its log survives. -/
def execDeviceReset (s : State) : Host.Outcome State Fault Refusal := .next s.boot

/-! ## Die reset (R155, R156, R163, R386, R394, R395) -/

/-- The die that a step belongs to; 4 for one that belongs to none. A step of the reset die is lost with it. -/
def Pending.die (p : Pending) : Nat :=
  let a := p.arg
  if [Instr.pauseEnd, .builtinRuleRun, .contextSaveEnd, .contextRestoreEnd, .saveWithdrawReply, .waitLimitExpire, .cwaitLimitExpire,
      .statusWrite, .tinvComplete, .isolationDone, .buddyCompare].contains p.ev then dieOf a.c.core
  else if [Instr.forwardedReply, .forwardingEntryLapse, .rngSeedWrite, .cutMarkerArrive, .launchWake, .pairPushArrive, .stealReply,
      .takeWakeEvent, .streamElementMove, .neighbourElementArrive, .vectorLateResult, .divisionResult].contains p.ev then dieOf a.core
  else if [Instr.bankAccess, .memoryReply, .storeAck, .landingFaultReport, .walkDone, .translationMiss].contains p.ev then
    dieOf a.acc.who.core
  else if [Instr.decide, .repoint, .freeLMessage, .firstStep].contains p.ev then dieOf a.wire.acc.who.core
  else if [Instr.gselResult, .giveInstall].contains p.ev then dieOf a.late.who.core
  else if p.ev == Instr.homeroomLateResult then (if a.n == 1 then dieOf a.core else dieOf a.late.who.core)
  else if [Instr.arrayGrant, .blockEnd, .cohortStart, .cohortTimeout, .copyEnginePiece, .dmbxFill, .drainResume, .drainSegment,
      .drainStop, .matxCompletion, .matxStart, .migrArrive, .mxuCommandTake, .passArrive, .passRelease, .slateRewrite, .sumsEnd,
      .tileOpEnd, .tileTransferPiece].contains p.ev then octetDie a.octet
  else if p.ev == Instr.drainStorePiece then octetDie a.piece.octet
  else if [Instr.rollcallCfgWrite, .rollcallKick, .rollcallRelease, .passCountWrite, .pageMappedWake, .noticeArrive, .fragmentArrive,
      .deliver, .messageLoss, .lossReport, .launchHeaderAccept].contains p.ev then a.die
  else if p.ev == Instr.queueBlockMove then
    match a.move with
    | .dequeToOctet k => dieOf k
    | .octetToDeque k => dieOf k
    | .octetToDie o => octetDie o
    | .dieToOctet o => octetDie o
  else 4

/-- The die whose slates an address of a core lies in; 4 where it lies in none. -/
def State.slateDie (s : State) (core : Nat) (a : Word) : Nat :=
  match s.form core a with
  | .window c _ _ => dieOf c
  | .handle o _ _ _ => octetDie o
  | _ => 4

/-- A step that the reset takes from another die: it ends as its loss does (R393, R395), a search of the die's own cores with them,
and an MSEAT that waits for the die's answer goes on. -/
def State.loseStep (s : State) (die : Nat) (p : Pending) : State :=
  if p.ev == Instr.seatRequest then
    match p.arg.seat.waiter with
    | some l => s.seatAnswer l
    | none => s
  else if (p.ev == Instr.stealRequest || p.ev == Instr.dieAsk) && dieOf p.arg.core == die then s
  else s.losePending p

/-- Whether a step of another die has a packet that the reset loses. -/
def State.crosses (s : State) (die : Nat) (p : Pending) : Bool :=
  let a := p.arg
  if [Instr.bankAccess, .memoryReply, .storeAck].contains p.ev then s.slateDie a.acc.who.core a.acc.addr == die
  else if p.ev == Instr.firstStep || p.ev == Instr.decide then s.slateDie a.wire.acc.who.core a.wire.old == die
  else if p.ev == Instr.repoint then s.slateDie a.wire.acc.who.core a.wire.peer == die
  else if p.ev == Instr.freeLMessage then s.slateDie a.wire.acc.who.core a.v == die
  else if p.ev == Instr.stealRequest then dieOf a.n == die || dieOf a.core == die
  else if p.ev == Instr.dieAsk then a.die == die || dieOf a.core == die
  else if p.ev == Instr.pairPushArrive then dieOf a.c.core == die && a.n == 0
  else if p.ev == Instr.completionIncrement || p.ev == Instr.matxCompletion then
    s.slateDie a.count.who.core a.count.addr == die && dieOf a.count.who.core != die
  else if p.ev == Instr.seatRequest then a.die == die || dieOf a.acc.who.core == die
  else false

/-- Whether a step is an access to a memory stack: at a die's reset it is held at the die's boundary and performed when the memory
controllers are back (R395). -/
def State.heldAtStack (s : State) (p : Pending) : Bool :=
  let mem (core : Nat) (a : Word) : Bool :=
    match s.form core a with
    | .mem _ => true
    | _ => false
  if p.ev == Instr.bankAccess then mem p.arg.acc.who.core p.arg.acc.addr
  else if p.ev == Instr.completionIncrement || p.ev == Instr.matxCompletion then mem p.arg.count.who.core p.arg.count.addr
  else p.ev == Instr.hostBar2Access && p.arg.n == 1

/-- The steps of the agenda and the packets at a die reset. -/
def State.loseSteps (s : State) (die : Nat) : State :=
  let mine := s.agenda.filter fun p => p.die == die
  let lost := s.agenda.filter fun p => p.die != die && s.crosses die p
  let gone := mine ++ lost
  let qs := s.packets.filter fun (q : Packet) => q.src == die || q.dst == die
  let held := (qs.filter fun (q : Packet) => q.dst == die && s.heldAtStack q.step).map (·.step)
  let away := (qs.map (·.step)).filter fun p => !(held.any fun q => q.seq == p.seq) && p.die != die
  let s := { s with
    agenda := held.map (fun p => { p with due := s.cycle + 1 }) ++ s.agenda.filter fun p => !(gone.any fun q => q.seq == p.seq)
    packets := s.packets.filter fun (q : Packet) => !(q.src == die || q.dst == die) }
  (lost ++ away).foldl (fun s p => s.loseStep die p) s

/-- What waits in the die's slates for contexts of other dies is refused with 0x30 (R395). -/
def State.loseParked (s : State) (die : Nat) : State :=
  let away (a : Access) : Bool := dieOf a.who.core != die && s.slateDie a.who.core a.addr == die
  let l := (s.parked.map (·.acc) ++ s.sleepers.map (·.acc)).filter away
  let w := (s.cellWaits.map (·.req)).filter fun r => dieOf r.acc.who.core != die && s.slateDie r.acc.who.core r.old == die
  let s := { s with
    parked := s.parked.filter fun x => !away x.acc
    sleepers := s.sleepers.filter fun x => !away x.acc
    cellWaits := s.cellWaits.filter fun z => !(w.any fun r => r.acc.id == z.req.acc.id) }
  w.foldl (fun s r => s.spliceDone r 0x30) (l.foldl (fun s a => s.loseAccess a) s)

/-- Replies that a forwarding entry of the die would have sent on end at the migrated context with 0x30 (R395). -/
def State.loseForwards (s : State) (die : Nat) : State :=
  let moved (a : Access) : Option CtxId :=
    if dieOf a.who.core != die then none
    else match s.place a.who a.run with
      | .at c => if dieOf c.core == die then none else some c
      | .saved o _ => if octetDie o == die then none else some ⟨coreOfSeat o 0, 0⟩
      | .gone => none
  let l := s.agenda.filterMap fun p =>
    if [Instr.memoryReply, .storeAck, .landingFaultReport, .bankAccess].contains p.ev then
      (moved p.arg.acc).map fun c => { p.arg.acc with who := c } else none
  let travelling := (s.cores.filter fun p => dieOf p.1 == die).flatMap fun p => p.2.fwd.map fun (f : Forward) => f.run
  let s := { s with octets := s.octets.map fun (p : Nat × Octet) =>
    (p.1, { p.2 with cloak := p.2.cloak.filter fun (x : Saved) => !(x.kind == 7 && travelling.contains x.c.run) }) }
  l.foldl (fun s a => s.loseAccess a) s

/-- Operations of other dies' octets that reach the die's slates end with 0x30. -/
def State.loseEngines (s : State) (die : Nat) : State :=
  s.octets.foldl (fun s p =>
    if octetDie p.1 == die then s
    else
      let s := (s.octet p.1).ops.foldl (fun s (op : EngOp) =>
        if s.slateDie op.who.core op.src == die || s.slateDie op.who.core op.dst == die then s.failOp p.1 op 0x30 else s) s
      (s.octet p.1).mxu.cmds.foldl (fun s (c : MxuCmd) =>
        match c.matx with
        | some x =>
          if x.started && !x.ended && x.err.isNone && s.slateDie c.who.core x.out == die then
            s.modMatx p.1 c.id fun x => { x with err := some (0x30, x.out) }
          else s
        | none => s) s) s

/-- The die that a completion word lies on; 4 for none. -/
def State.wordDie (s : State) (core : Nat) (a : Word) : Nat :=
  match s.cellKey core a with
  | some k => if isSlateKey k then octetDie (keyOctet k) else if isDevKey k then physDie k else 0
  | none => 4

/-- Counts, with an err and an ENGINE_ERR on that die, for operations of the die whose word lies on another. -/
def State.loseCounts (s : State) (die : Nat) : State :=
  let away (core : Nat) (a : Word) : Bool := s.wordDie core a != die && s.wordDie core a != 4
  let ops := (s.octets.filter fun p => octetDie p.1 == die).flatMap fun p =>
    (p.2.ops.filterMap fun (op : EngOp) => if away op.who.core op.cw then some (op.who, op.cw) else none) ++
      p.2.mxu.cmds.filterMap fun (c : MxuCmd) => c.matx.bind fun x => if away c.who.core x.cw then some (c.who, x.cw) else none
  let ids := (s.octets.filter fun p => octetDie p.1 == die).flatMap fun p => p.2.ops.map fun (op : EngOp) => op.id
  let s := ids.foldl (fun s i => s.dropLocks i) s
  ops.foldl (fun s q =>
    let d := s.wordDie q.1.core q.2
    match s.cellKey q.1.core q.2 with
    | some k => (s.storeN (k / 8 * 8) 8 (countNext (s.rd8 (k / 8 * 8)) true)).notice d
        { kind := 0x0A, cause := 0x30, core := q.1.core, ctx := q.1.ctx, value := q.2 }
    | none => s) s

/-- Each cut in progress counts with an err and ends (R336). -/
def State.loseCuts (s : State) : State :=
  let l := s.cuts
  let s := { s with
    cuts := []
    cores := s.cores.map fun (p : Nat × Core) => (p.1, { p.2 with cuts := [] })
    agenda := s.agenda.filter fun p => p.ev != Instr.cutMarkerArrive }
  l.foldl (fun s (c : Cut) => s.post s.cycle .completionIncrement
    { count := { addr := c.cw, err := true, what := .cut c.id, who := c.who, run := c.run } }) s

/-- The messages that the die holds or that are on their way to it are lost (R392, R395): each sending interface of another die posts
LOSS for each that is undelivered. -/
def State.loseSlots (s : State) (die : Nat) : State :=
  ((List.range 4).filter fun d => d != die).foldl (fun s d =>
    ((s.die d).sends.filter fun (x : SendSide) => x.dnode == s.node && x.ddie == die && !x.host).foldl (fun s x =>
      x.busy.foldl (fun s (z : BusySeat) => s.lossNotice d s.node z.seq z.first) s) s) s

/-- The window of a source after the die's reset: what the source had sent is done with, so that none of it is delivered later
(R392; DESIGN CHOICE, assumption log 75). -/
def State.windowAfter (s : State) (die : Nat) (w : RecvWin) : RecvWin :=
  if w.snode == s.node then
    let x := s.sideOf w.sdie { dnode := s.node, ddie := die, host := w.host }
    { w with b := x.seq, w := 0 }
  else
    let slots := (s.die die).slots.filter fun (y : DSlot) => y.env.snode == w.snode && y.env.sdie == w.sdie && y.seat < 4096
    { w with w := slots.foldl (fun m y => sb m ((y.env.seq + 2 ^ 32 - w.b) % 2 ^ 32) true) w.w }

/-- The die's own tables after the reset: its sequences survive, and the blocks that it held elsewhere are void (R394). -/
def State.resetDie (s : State) (die : Nat) : State :=
  let old := s.die die
  let f := { s.bootDie s.prefect die old.ports with
    portFree := old.portFree
    wins := old.wins.map fun w => s.windowAfter die w
    passCount := old.passCount
    ring := s.newRing old.passCount
    rate := old.rate
    node := old.node
    inbox := old.inbox
    retired := old.retired
    queue := old.queue.drop 4096
    sends := old.sends.map fun (x : SendSide) => { host := x.host, dnode := x.dnode, ddie := x.ddie, seq := x.seq } }
  let s := { s.setDie die f with heldSteps := s.heldSteps.filter fun (h : HeldStep) => dieOf h.core != die }
  let s := { s with dies := s.dies.map fun (p : Nat × Die) =>
      (p.1, if p.1 == die then p.2 else
        { p.2 with
          leases := mapIf (fun (l : Lease) => l.snode == s.node && l.sdie == die && !l.host) (fun l => { l with void := true }) p.2.leases
          sends := p.2.sends.map fun (x : SendSide) =>
            if x.dnode == s.node && x.ddie == die then { x with idle := [], busy := [], asked := false } else x }) }
  s

/-- The octets of the die: every slate is zero and full, its generation is the next (R89), and nothing is queued. -/
def State.resetOctets (s : State) (die : Nat) : State :=
  let inDie (k : Nat) : Bool := isSlateKey k && octetDie (keyOctet k) == die
  let tile (k : Nat) : Bool := 2 ^ 49 ≤ k && dieOf ((k - 2 ^ 49) / 32768 / 4) == die
  let s := { s with
    mem := s.mem.filter fun c => !(inDie c.1 || tile c.1)
    empty := s.empty.filter fun w => !inDie (w * 8)
    poison := s.poison.filter fun g => !inDie (g * 32) }
  (List.range 240).foldl (fun s i =>
    let o := die * 240 + i
    let x := s.octet o
    s.setOctet o { gens := x.gens.map (· + 1), failing := x.failing, rebuilt := x.rebuilt }) s

/-- Whether the staff runtime image is the one that was measured (R160). -/
def Prefect.runtimeOk (f : Prefect) : Bool := f.measures.getD 2 [] == f.digest 2

/-- DIE_RESET: the other dies are told, what is on its way to and from the die ends, and the die runs steps 4 to 6 of R156; an image
that differs from the measured one is measured again, and the die does not start (R160). -/
def execDieReset (s : State) : Host.Outcome State Fault Refusal :=
  let die := s.arg.die
  let s := ((List.range 4).filter fun d => d != die).foldl (fun s d =>
    s.noticeFrom die d { kind := 0x08, value := BitVec.ofNat 64 die }) s
  let s := s.loseSlots die
  let s := s.loseForwards die
  let s := s.loseEngines die
  let s := s.loseCounts die
  let s := s.loseCuts
  let s := s.loseParked die
  let s := s.loseSteps die
  let s := s.forgetCores fun k => dieOf k == die
  let s := s.resetOctets die
  let s := s.resetDie die
  let s := { s with ctxs := s.ctxs.filter fun (p : Nat × Ctx) => dieOf (p.1 / 16) != die,
                    cores := s.cores.filter fun (p : Nat × Core) => dieOf p.1 != die }
  let s := { s with prefect := { s.prefect with boots := s.prefect.boots + 1 } }
  if s.prefect.runtimeOk then .next ((List.range 1920).foldl (fun s i => s.bootCore (die * 1920 + i)) (s.copyImage.bootRecord die))
  else
    .next { s with prefect := { s.prefect with measures := s.prefect.measures.set 2 (s.prefect.digest 2) },
                   ctxs := (List.range 1920).foldl (fun (m : SMap Ctx) i => m.set ((die * 1920 + i) * 16) {}) s.ctxs }

end Sys2Proof.Machine
end

