-- ==== Sys2Proof/Machine/VectorArith.lean ====
section
/-! DEFINITION. Vector arithmetic, logic, compares, predicates and lane moves (R207 to R217). -/

namespace Sys2Proof.Machine

/-! ## Arithmetic (R211 to R213) -/

/-- A two-source arithmetic instruction as its context computes it. -/
def binRes (op : VOp) (f : VBin) (x : Ctx) (k : Core) (v : Vals) : VRes :=
  arith op f.lt (modeOf f.rnd x.rm) f.sat (x.pred f.p) f.zm v.vd (v.v 0) (v.v 1) 0 2 k.rng

def terRes (op : VOp) (f : VTer) (x : Ctx) (k : Core) (v : Vals) : VRes :=
  arith op f.lt (modeOf f.rnd x.rm) false (x.pred f.p) f.zm v.vd (v.v 0) (v.v 1) (v.v 2) 3 k.rng

def unRes (op : VOp) (f : VUn) (x : Ctx) (k : Core) (v : Vals) : VRes :=
  arith op f.lt (modeOf f.rnd x.rm) f.sat (x.pred f.p) f.zm v.vd (v.v 0) 0 0 1 k.rng

def State.vBin (s : State) (op : VOp) (f : VBin) : State := s.vecNow (vUses [f.va, f.vb] f.vd f.p f.zm) f.vd (binRes op f)
def State.vTer (s : State) (op : VOp) (f : VTer) : State :=
  s.vecNow (vUses [f.va, f.vb, f.vc] f.vd f.p f.zm) f.vd (terRes op f)
def State.vUn (s : State) (op : VOp) (f : VUn) : State := s.vecNow (vUses [f.va] f.vd f.p f.zm) f.vd (unRes op f)
/-- The late arithmetic of the divide unit (R209, R353). -/
def State.vBinLate (s : State) (op : VOp) (f : VBin) (t : Nat) : State :=
  s.vecLate (vUses [f.va, f.vb] f.vd f.p f.zm) f.vd t (binRes op f)
def State.vUnLate (s : State) (op : VOp) (f : VUn) (t : Nat) : State :=
  s.vecLate (vUses [f.va] f.vd f.p f.zm) f.vd t (unRes op f)

def execVadd (f : VBin) (s : State) : Host.Outcome State Fault Refusal := .next (s.vBin .add f)
def execVsub (f : VBin) (s : State) : Host.Outcome State Fault Refusal := .next (s.vBin .sub f)
def execVmul (f : VBin) (s : State) : Host.Outcome State Fault Refusal := .next (s.vBin .mul f)
def execVmin (f : VBin) (s : State) : Host.Outcome State Fault Refusal := .next (s.vBin .min f)
def execVmax (f : VBin) (s : State) : Host.Outcome State Fault Refusal := .next (s.vBin .max f)
def execVfma (f : VTer) (s : State) : Host.Outcome State Fault Refusal := .next (s.vTer .fma f)
def execVfms (f : VTer) (s : State) : Host.Outcome State Fault Refusal := .next (s.vTer .fms f)
def execVabs (f : VUn) (s : State) : Host.Outcome State Fault Refusal := .next (s.vUn .abs f)
def execVneg (f : VUn) (s : State) : Host.Outcome State Fault Refusal := .next (s.vUn .neg f)
def execVdiv (f : VBin) (s : State) : Host.Outcome State Fault Refusal := .next (s.vBinLate .div f (lateTime 24 16))
def execVsqrt (f : VUn) (s : State) : Host.Outcome State Fault Refusal := .next (s.vUnLate .sqrt f (lateTime 24 16))
def execVrcp (f : VUn) (s : State) : Host.Outcome State Fault Refusal := .next (s.vUnLate .rcp f (lateTime 16 12))
def execVrsq (f : VUn) (s : State) : Host.Outcome State Fault Refusal := .next (s.vUnLate .rsq f (lateTime 16 12))
def execVexp2 (f : VUn) (s : State) : Host.Outcome State Fault Refusal := .next (s.vUnLate .exp2 f (lateTime 16 12))
def execVlog2 (f : VUn) (s : State) : Host.Outcome State Fault Refusal := .next (s.vUnLate .log2 f (lateTime 16 12))

/-! ## Bitwise, shift and select (R214) -/

/-- An exact lane. -/
def plainOut (x : Nat) (g : BitVec 32) : Out := ⟨x, 0, g, false⟩

/-- A lane-wise instruction without rounding: `f` gives active lane `i` from the whole sources. -/
def State.vMove (s : State) (u : Uses) (vd : BitVec 3) (lt : Fmt) (p : Pred) (zm : Bool) (f : Vals → Nat → Nat) : State :=
  s.vecNow u vd fun x k v => laneWise lt.width (x.pred p) zm v.vd k.rng fun i g => plainOut (f v i) g

def State.vLog (s : State) (f : VLog) (g : Nat → Nat → Nat → Nat) : State :=
  s.vMove (vUses [f.va, f.vb] f.vd f.p f.zm) f.vd f.lt f.p f.zm fun v i =>
    g f.lt.width (lane (v.v 0) f.lt.width i) (lane (v.v 1) f.lt.width i)

/-- An arithmetic right shift of `w` bits. -/
def sraNat (w a n : Nat) : Nat := (signedOf w a / (2 ^ n : Int) % (2 ^ w : Int)).toNat

def execVand (f : VLog) (s : State) : Host.Outcome State Fault Refusal := .next (s.vLog f (fun _ a b => a &&& b))
def execVor (f : VLog) (s : State) : Host.Outcome State Fault Refusal := .next (s.vLog f (fun _ a b => a ||| b))
def execVxor (f : VLog) (s : State) : Host.Outcome State Fault Refusal := .next (s.vLog f (fun _ a b => a ^^^ b))
def execVandn (f : VLog) (s : State) : Host.Outcome State Fault Refusal := .next (s.vLog f (fun w a b => a &&& (2 ^ w - 1 - b)))
def execVshl (f : VLog) (s : State) : Host.Outcome State Fault Refusal := .next (s.vLog f (fun w a b => a * 2 ^ (b % w) % 2 ^ w))
def execVshr (f : VLog) (s : State) : Host.Outcome State Fault Refusal := .next (s.vLog f (fun w a b => a / 2 ^ (b % w)))
def execVsra (f : VLog) (s : State) : Host.Outcome State Fault Refusal := .next (s.vLog f (fun w a b => sraNat w a (b % w)))

/-- VSEL: the predicate chooses; every lane is written (R214). -/
def execVsel (f : VSelF) (s : State) : Host.Outcome State Fault Refusal :=
  let w := f.lt.width
  let m := rd (s.ctx s.who).p f.pr.toNat 0
  .next (s.vMove { vs := [f.va, f.vb], vout := some f.vd } f.vd f.lt none false fun v i =>
    if laneOn (some m) w i then lane (v.v 0) w i else lane (v.v 1) w i)

/-! ## Compares and predicates (R215, R216) -/

/-- A condition on two float lanes. -/
def cmpFloat (c : VCond) (a b : Num) : Bool :=
  let un := a.isNan || b.isNan
  match c with
  | .eq => a.eqv b
  | .ne => un || !a.eqv b
  | .lt => a.lt b
  | .le => !un && !b.lt a
  | .gt => b.lt a
  | .ge => !un && !a.lt b
  | .un => un

/-- A condition on two integer lanes. -/
def cmpInt (c : VCond) (a b : Int) : Bool :=
  match c with
  | .eq => a == b
  | .ne => a != b
  | .lt => a < b
  | .le => a ≤ b
  | .gt => b < a
  | .ge => b ≤ a
  | .un => false

/-- Lane `i` of a compare. -/
def cmpLane (f : VCmpF) (a b : VWord) (i : Nat) : Bool :=
  let x := lane a 32 i
  let y := lane b 32 i
  if f.i32 then (if f.u then cmpInt f.cc x y else cmpInt f.cc (signedOf 32 x) (signedOf 32 y))
  else cmpFloat f.cc (fmtValue .fp32 x) (fmtValue .fp32 y)

/-- The active lanes of a vector that hold a subnormal (R135). -/
def anySub (f : Fmt) (p : Option (BitVec 32)) (v : VWord) : Bool :=
  (List.range (1024 / f.width)).any fun i => laneOn p f.width i && isSub f (lane v f.width i)

/-- A predicate from its bits. -/
def packPred (f : Nat → Bool) : BitVec 32 := (List.range 32).foldl (fun m i => sb m i (f i)) 0

/-- Writes a predicate register (R209). -/
def State.setPred (s : State) (i : BitVec 2) (m : BitVec 32) : State := s.modCtx s.who fun x => { x.wrote (72 + i.toNat) (m.setWidth 1024) with p := wr x.p i.toNat m }

/-- VCMP (R215): inactive lanes' bits follow zm; a subnormal source in an active FP32 lane places two skipped turns (R46, R135). -/
def execVcmp (f : VCmpF) (s : State) : Host.Outcome State Fault Refusal :=
  let u : Uses := { vs := [f.va, f.vb] }
  match s.peek u with
  | .stop t => .next t
  | .ok v =>
    let x := s.ctx s.who
    let old := rd x.p f.pd.toNat 0
    let p := x.pred f.p
    let sub := !f.i32 && (anySub .fp32 p (v.v 0) || anySub .fp32 p (v.v 1))
    let t := (s.commit u).modCtx s.who fun x => { x with skips := if sub then x.skips + 2 else x.skips }
    .next ((t.setPred f.pd (packPred fun i =>
      if laneOn p 32 i then cmpLane f (v.v 0) (v.v 1) i else if f.zm then false else tb old i)).finish)

/-- A predicate operation (R216). -/
def State.predOp (s : State) (pd : BitVec 2) (f : (BitVec 2 → BitVec 32) → BitVec 32) : State :=
  (s.setPred pd (f fun i => rd (s.ctx s.who).p i.toNat 0)).finish

def execPand (pd pa pb : BitVec 2) (s : State) : Host.Outcome State Fault Refusal := .next (s.predOp pd fun r => r pa &&& r pb)
def execPor (pd pa pb : BitVec 2) (s : State) : Host.Outcome State Fault Refusal := .next (s.predOp pd fun r => r pa ||| r pb)
def execPxor (pd pa pb : BitVec 2) (s : State) : Host.Outcome State Fault Refusal := .next (s.predOp pd fun r => r pa ^^^ r pb)
def execPnot (pd pa : BitVec 2) (s : State) : Host.Outcome State Fault Refusal := .next (s.predOp pd fun r => ~~~ r pa)

def execPcnt (pa : BitVec 2) (r : Reg) (s : State) : Host.Outcome State Fault Refusal :=
  .next (s.compute { out := [r] } fun _ =>
    BitVec.ofNat 64 ((List.range 32).filter fun i => tb (rd (s.ctx s.who).p pa.toNat 0) i).length)

def execPfirst (pa : BitVec 2) (r : Reg) (s : State) : Host.Outcome State Fault Refusal :=
  .next (s.compute { out := [r] } fun _ =>
    BitVec.ofNat 64 (((List.range 32).find? fun i => tb (rd (s.ctx s.who).p pa.toNat 0) i).getD 32))

/-! ## Moving lanes (R217) -/

def execVmov (f : VMovF) (s : State) : Host.Outcome State Fault Refusal :=
  .next (s.vMove (vUses [f.va] f.vd f.p f.zm) f.vd f.lt f.p f.zm fun v i => lane (v.v 0) f.lt.width i)

def execVbcast (f : VBcastF) (s : State) : Host.Outcome State Fault Refusal :=
  .next (s.vMove { vUses [] f.vd f.p f.zm with a := some f.s } f.vd f.lt f.p f.zm fun v _ => v.a.toNat % 2 ^ f.lt.width)

def execVext (f : VExtF) (s : State) : Host.Outcome State Fault Refusal :=
  .next (s.compute { vs := [f.va], out := [f.s] } fun v => BitVec.ofNat 64 (lane (v.v 0) f.lt.width f.i.toNat))

/-- VINS keeps the other lanes of vd. -/
def execVins (f : VInsF) (s : State) : Host.Outcome State Fault Refusal :=
  let w := f.lt.width
  .next (s.vMove { a := some f.s, vdr := some f.vd, vout := some f.vd } f.vd f.lt none false fun v i =>
    if i == f.i.toNat then v.a.toNat % 2 ^ w else lane v.vd w i)

def execVperm (f : VLog) (s : State) : Host.Outcome State Fault Refusal :=
  let w := f.lt.width
  .next (s.vMove (vUses [f.va, f.vb] f.vd f.p f.zm) f.vd f.lt f.p f.zm fun v i =>
    lane (v.v 0) w (lane (v.v 1) w i % (1024 / w)))

def execVrot (f : VRotF) (s : State) : Host.Outcome State Fault Refusal :=
  let w := f.lt.width
  .next (s.vMove { vUses [f.va] f.vd f.p f.zm with a := some f.s } f.vd f.lt f.p f.zm fun v i =>
    lane (v.v 0) w ((i + v.a.toNat) % (1024 / w)))

def execVzip (f : VZipF) (s : State) : Host.Outcome State Fault Refusal :=
  let w := f.lt.width
  let h := if f.alt then 1024 / w / 2 else 0
  .next (s.vMove (vUses [f.va, f.vb] f.vd f.p f.zm) f.vd f.lt f.p f.zm fun v i =>
    lane (v.v (i % 2)) w (h + i / 2))

def execVunzip (f : VZipF) (s : State) : Host.Outcome State Fault Refusal :=
  let w := f.lt.width
  let l := 1024 / w
  .next (s.vMove (vUses [f.va, f.vb] f.vd f.p f.zm) f.vd f.lt f.p f.zm fun v i =>
    let j := 2 * i + b2n f.alt
    if j < l then lane (v.v 0) w j else lane (v.v 1) w (j - l))

end Sys2Proof.Machine
end

