-- ==== Sys2Proof/Machine/VectorConv.lean ====
section
/-! DEFINITION. Reductions and conversions of vectors (R220 to R223) and expert selection (R224). -/

namespace Sys2Proof.Machine

/-! ## Reductions (R220) -/

/-- The rounded sum of two lanes. -/
def addLane (f : Fmt) (mode : Mode) (sat : Bool) (a b : Nat) (g : BitVec 32) : Out := arithLane .add f mode sat a b 0 g

/-- One level of the tree of R220: neighbours added in ascending order. -/
def sumLevel (f : Fmt) (mode : Mode) (sat : Bool) : List Nat → BitVec 32 → List Nat × FFlags × BitVec 32 × Bool
  | a :: b :: r, g =>
    let o := addLane f mode sat a b g
    let (xs, fl, g, sb) := sumLevel f mode sat r o.rng
    (o.enc :: xs, o.flags ||| fl, g, o.sub || sb)
  | l, g => (l, 0, g, false)

/-- The levels of the tree. A subnormal sum of any level counts as a result that places skipped turns (R135; DESIGN CHOICE, assumption
log 57). -/
def sumTree (f : Fmt) (mode : Mode) (sat : Bool) : Nat → List Nat → BitVec 32 → Nat × FFlags × BitVec 32 × Bool
  | 0, l, g => (l.headD 0, 0, g, false)
  | n + 1, l, g =>
    if l.length ≤ 1 then (l.headD 0, 0, g, false)
    else
      let (xs, fl, g, sb) := sumLevel f mode sat l g
      let (r, fl', g, sb') := sumTree f mode sat n xs g
      (r, fl ||| fl', g, sb || sb')

/-- A reduction's result in every lane. -/
def splat (w x : Nat) : VWord := packLanes w (List.replicate (1024 / w) x)

/-- VRSUM. -/
def sumRes (f : VUn) (x : Ctx) (k : Core) (v : Vals) : VRes :=
  let w := f.lt.width
  let p := x.pred f.p
  let ys := (List.range (1024 / w)).map fun i => if laneOn p w i then lane (v.v 0) w i else 0
  let (r, fl, g, sb) := sumTree f.lt (modeOf f.rnd x.rm) f.sat 8 ys k.rng
  { v := splat w r, flags := fl, rng := g, sub := sb || anySub f.lt p (v.v 0) }

/-- A fold of the active lanes, without rounding. -/
def foldRes (f : VUn) (empty : Nat) (g : Nat → Nat → Nat) (x : Ctx) (k : Core) (v : Vals) : VRes :=
  let w := f.lt.width
  let p := x.pred f.p
  let ys := (List.range (1024 / w)).filterMap fun i => if laneOn p w i then some (lane (v.v 0) w i) else none
  let r := match ys with
    | [] => empty
    | y :: r => r.foldl g y
  { v := splat w r, rng := k.rng, sub := anySub f.lt p (v.v 0) }

/-- The larger or smaller of two lanes (R220), with a canonical NaN when either is a NaN. -/
def extreme (f : Fmt) (mx : Bool) (a b : Nat) : Nat :=
  match fmtSpec f with
  | some sp =>
    let x := decodeFloat sp a
    let y := decodeFloat sp b
    if x.isNan || y.isNan then sp.nan.getD 0
    else if mx then (if x.below y then b else a)
    else (if y.below x then b else a)
  | none => intLane (if mx then .max else .min) f.width false a b

/-- A single NaN is canonical in the result too (R136). -/
def canonOf (f : Fmt) (a : Nat) : Nat :=
  match fmtSpec f with
  | some sp => if (decodeFloat sp a).isNan then sp.nan.getD 0 else a
  | none => a

/-- The maximum or minimum of no lane: an infinity, or an end of the integers. -/
def extremeEmpty (f : Fmt) (mx : Bool) : Nat :=
  match fmtSpec f with
  | some sp => sp.infEnc mx
  | none => if mx then 2 ^ (f.width - 1) else 2 ^ (f.width - 1) - 1

/-- VRMAX and VRMIN. -/
def extremeRes (mx : Bool) (f : VUn) (x : Ctx) (k : Core) (v : Vals) : VRes :=
  let w := f.lt.width
  let p := x.pred f.p
  let ys := (List.range (1024 / w)).filterMap fun i => if laneOn p w i then some (canonOf f.lt (lane (v.v 0) w i)) else none
  let r := match ys with
    | [] => extremeEmpty f.lt mx
    | y :: r => r.foldl (extreme f.lt mx) y
  { v := splat w r, rng := k.rng, sub := anySub f.lt p (v.v 0) }

/-- The lanes of VSCAN: `z` is the sum so far. -/
def scanLanes (f : Fmt) (mode : Mode) (sat : Bool) (p : Option (BitVec 32)) (zm : Bool) (old y : VWord) :
    List Nat → Nat → BitVec 32 → List Nat × FFlags × BitVec 32 × Bool
  | [], _, g => ([], 0, g, false)
  | i :: is, z, g =>
    let w := f.width
    if laneOn p w i then
      let o := addLane f mode sat z (lane y w i) g
      let (xs, fl, g, sb) := scanLanes f mode sat p zm old y is o.enc o.rng
      (o.enc :: xs, o.flags ||| fl, g, o.sub || sb)
    else
      let (xs, fl, g, sb) := scanLanes f mode sat p zm old y is z g
      ((if zm then 0 else lane old w i) :: xs, fl, g, sb)

def scanRes (f : VUn) (x : Ctx) (k : Core) (v : Vals) : VRes :=
  let w := f.lt.width
  let p := x.pred f.p
  let (xs, fl, g, sb) := scanLanes f.lt (modeOf f.rnd x.rm) f.sat p f.zm v.vd (v.v 0) (List.range (1024 / w)) 0 k.rng
  { v := packLanes w xs, flags := fl, rng := g, sub := sb || anySub f.lt p (v.v 0) }

/-- The registers of a reduction that writes every lane. -/
def redUses (f : VUn) : Uses := { vs := [f.va], vout := some f.vd }

def execVrsum (f : VUn) (s : State) : Host.Outcome State Fault Refusal := .next (s.vecNow (redUses f) f.vd (sumRes f))
def execVrmax (f : VUn) (s : State) : Host.Outcome State Fault Refusal := .next (s.vecNow (redUses f) f.vd (extremeRes true f))
def execVrmin (f : VUn) (s : State) : Host.Outcome State Fault Refusal := .next (s.vecNow (redUses f) f.vd (extremeRes false f))
def execVrand (f : VUn) (s : State) : Host.Outcome State Fault Refusal :=
  .next (s.vecNow (redUses f) f.vd (foldRes f (2 ^ f.lt.width - 1) fun a b => a &&& b))
def execVror (f : VUn) (s : State) : Host.Outcome State Fault Refusal :=
  .next (s.vecNow (redUses f) f.vd (foldRes f 0 fun a b => a ||| b))
def execVscan (f : VUn) (s : State) : Host.Outcome State Fault Refusal :=
  .next (s.vecNow (vUses [f.va] f.vd f.p f.zm) f.vd (scanRes f))

/-! ## Conversions (R221 to R223) -/

/-- One converted element; subnormals count in FP32, FP16 and BF16 only (R135). -/
def convLane (lt st : Fmt) (mode : Mode) (nf : Bool) (x : Nat) (g : BitVec 32) : Out :=
  let o := roundNarrow lt (fmtValue st x) mode nf g
  { o with sub := isSub lt o.enc || isSub st x }

/-- VCVT. -/
def execVcvt (f : VCvtF) (s : State) : Host.Outcome State Fault Refusal :=
  .next (s.vecNow (vUses [f.va] f.vd f.p f.zm) f.vd fun x k v =>
    laneWise f.lt.width (x.pred f.p) f.zm v.vd k.rng fun i g =>
      convLane f.lt f.st (modeOf f.rnd x.rm) f.nan (lane (v.v 0) f.lt.width i) g)

/-- A vector with `n` bits from bit `lo` replaced. -/
def replaceBits (old : VWord) (lo n x : Nat) : VWord :=
  (old &&& ~~~(BitVec.ofNat 1024 ((2 ^ n - 1) * 2 ^ lo))) ||| BitVec.ofNat 1024 (x % 2 ^ n * 2 ^ lo)

/-- Elements of `w` bits as a number, the first lowest (R117). -/
def packElems (w : Nat) (xs : List Nat) : Nat := xs.foldr (fun x r => x % 2 ^ w + 2 ^ w * r) 0

/-- VPACK: all lanes of va into part q of vd; the other parts are kept. -/
def execVpack (f : VPackF) (s : State) : Host.Outcome State Fault Refusal :=
  .next (s.vecNow { vs := [f.va], vdr := some f.vd, vout := some f.vd } f.vd fun x k v =>
    let n := 1024 / f.st.width
    let w := f.lt.width
    let (xs, fl, g, sb) := runLanes (fun i g => convLane f.lt f.st (modeOf f.rnd x.rm) f.nan (lane (v.v 0) f.st.width i) g)
      (List.range n) k.rng
    { v := replaceBits v.vd (f.q.toNat * n * w) (n * w) (packElems w xs), flags := fl, rng := g, sub := sb })

/-- VUNPK: part q of va into all lanes of vd. -/
def execVunpk (f : VPackF) (s : State) : Host.Outcome State Fault Refusal :=
  .next (s.vecNow { vs := [f.va], vout := some f.vd } f.vd fun x k v =>
    let n := 1024 / f.lt.width
    let w := f.st.width
    let src := (v.v 0).toNat / 2 ^ (f.q.toNat * n * w)
    let (xs, fl, g, sb) := runLanes (fun i g => convLane f.lt f.st (modeOf f.rnd x.rm) f.nan (src / 2 ^ (w * i) % 2 ^ w) g)
      (List.range n) k.rng
    { v := packLanes f.lt.width xs, flags := fl, rng := g, sub := sb })

/-- The Tint blocks of a list of values, 16 to a block, with the generator passed on (R223). -/
def tintBlocks (f : Fmt) (mode : Mode) (nf : Bool) : Nat → List Num → BitVec 32 → List TintOut × BitVec 32
  | 0, _, g => ([], g)
  | n + 1, xs, g =>
    let o := tintBlock f (xs.take 16) mode nf g
    let (r, g) := tintBlocks f mode nf n (xs.drop 16) o.rng
    (o :: r, g)

/-- VTPACK: it writes vd and the headers' register in its issue cycle. -/
def execVtpack (f : VTPackF) (s : State) : Host.Outcome State Fault Refusal :=
  let u : Uses := { vs := [f.va], vdr := some f.vd, vout := some f.vd, out := [f.s] }
  match s.peek u with
  | .stop t => .next t
  | .ok v =>
    let x := s.ctx s.who
    let n := 1024 / f.st.width
    let b := n / 16
    let w := f.lt.width
    let xs := (List.range n).map fun i => fmtValue f.st (lane (v.v 0) f.st.width i)
    let (os, g) := tintBlocks f.lt (modeOf f.rnd x.rm) f.nan b xs (s.coreAt s.who.core).rng
    let bits := packElems (16 * w) (os.map fun o => tintPack f.lt o.elems)
    let r : VRes :=
      { v := replaceBits v.vd (f.q.toNat * b * 16 * w) (b * 16 * w) bits
        flags := os.foldl (fun a o => a ||| o.flags) 0, rng := g, sub := anySub f.st none (v.v 0) }
    let t := ((s.commit u).vecEffects r).modCtx s.who fun x => x.setV f.vd.toNat r.v
    .next (t.setReg f.s (BitVec.ofNat 64 (packElems 16 (os.map (·.header))))).finish

/-- VTUNPK. -/
def execVtunpk (f : VTUnpkF) (s : State) : Host.Outcome State Fault Refusal :=
  .next (s.vecNow { vs := [f.va], a := some f.s, vout := some f.vd } f.vd fun x k v =>
    let n := 1024 / f.lt.width
    let w := f.st.width
    let src := (v.v 0).toNat / 2 ^ (f.q.toNat * n * w)
    let (xs, fl, g, sb) := runLanes (fun i g =>
        let h := v.a.toNat / 2 ^ (16 * (i / 16)) % 65536
        let o := roundNarrow f.lt (tintValue f.st h (src / 2 ^ (w * i) % 2 ^ w) (i % 16)) (modeOf f.rnd x.rm) f.nan g
        { o with sub := isSub f.lt o.enc })
      (List.range n) k.rng
    { v := packLanes f.lt.width xs, flags := fl, rng := g, sub := sb })

/-! ## Expert selection (R224) -/

/-- The registers that hold the scores. -/
def gselRegs (f : GselF) : Nat := (f.e.toNat + (if f.bf then 64 else 32)) / (if f.bf then 64 else 32)

/-- The two largest values of a list. -/
def topTwo (xs : List Num) : List Num :=
  xs.foldl (fun l x =>
    match l with
    | [] => [x]
    | [a] => if a.lt x then [x, a] else [a, x]
    | a :: b :: _ => if a.lt x then [x, a] else if b.lt x then [a, x] else [a, b]) []

/-- A group's sum, `none` where it is not eligible; `free` stands for a sum that has no exact value. -/
def groupSum (free : Num) (xs : List Num) : Option Num :=
  match topTwo xs with
  | [] => none
  | [a] => some a
  | a :: b :: _ => let r := a.add b; some (if r.isNan then free else r)

/-- Whether group `i` ranks before group `j`. -/
def ranksBefore (gs : List (Option Num)) (i j : Nat) : Bool :=
  match gs.getD i none, gs.getD j none with
  | some a, some b => b.lt a || (!a.lt b && i < j)
  | _, _ => false

/-- GSEL's result (R224). -/
def gselBits (f : GselF) (dead : Vector Word 4) (vs : List VWord) (free : Num) : VWord :=
  let fm : Fmt := if f.bf then .bf16 else .fp32
  let w := fm.width
  let l := 1024 / w
  let e := f.e.toNat + 1
  let g := f.g.toNat + 1
  let score (i : Nat) : Num := fmtValue fm (lane (vs.getD (i / l) 0) w (i % l))
  let live (i : Nat) : Bool := !tb (rd dead (i / 64) 0) (i % 64) && !(score i).isNan
  let members (j : Nat) : List Nat := (List.range (e / g)).map fun t => j * (e / g) + t
  let gs := (List.range g).map fun j => groupSum free (((members j).filter live).map score)
  let kept (j : Nat) : Bool :=
    (gs.getD j none).isSome && ((List.range g).filter fun i => i != j && ranksBefore gs i j).length < f.k.toNat
  BitVec.ofNat 1024 (packElems 1 ((List.range e).map fun i => b2n (live i && kept (i / (e / g)))))

/-- GSEL: a late writer; its range must not pass v7. -/
def execGsel (f : GselF) (s : State) : Host.Outcome State Fault Refusal :=
  let n := gselRegs f
  let u : Uses :=
    { vs := (List.range n).map fun i => { r := f.va.r + BitVec.ofNat 3 i, e := f.va.e }, vout := some f.vd,
      codeOk := f.va.r.toNat + n ≤ 8 }
  match s.peek u with
  | .stop t => .next t
  | .ok v =>
    let x := s.ctx s.who
    let d : Dest := .vec f.vd 0xFFFFFFFF false
    let r := gselBits f (s.coreAt s.who.core).dead v.vs (fmtValue .fp32 (Config.gselSum s.fresh).toNat)
    let t := ({ s.commit u with fresh := s.fresh + 1 }).emptyDest s.who d
    let t := t.modCtx s.who fun x => { x with lateOut := x.lateOut + 1 }
    .next (t.post (s.cycle + 12) .gselResult { late := { who := s.who, run := x.run, dest := d, val := r } }).finish

end Sys2Proof.Machine
end

