-- ==== Sys2Proof/Machine/Dispatch.lean ====
section
/-! DEFINITION. The meaning of every instruction, drain word and step of the device. -/

namespace Sys2Proof.Machine

open Host

/-- One arm for each constructor. -/
def exec (i : Instr) (s : State) : Host.Outcome State Fault Refusal :=
  match i with
  | .nop => Sys2Proof.Machine.execNop s
  | .br c a b disp => Sys2Proof.Machine.execBr c a b disp s
  | .brbit set a n disp => Sys2Proof.Machine.execBrbit set a n disp s
  | .brf empty a disp => Sys2Proof.Machine.execBrf empty a disp s
  | .bre nex a disp => Sys2Proof.Machine.execBre nex a disp s
  | .loop a disp => Sys2Proof.Machine.execLoop a disp s
  | .jal f => Sys2Proof.Machine.execJal f s
  | .jalr f => Sys2Proof.Machine.execJalr f s
  | .endRun a => Sys2Proof.Machine.execEndRun a s
  | .rdcyc d k => Sys2Proof.Machine.execRdcyc d k s
  | .pause imm => Sys2Proof.Machine.execPause imm s
  | .iadd f m => Sys2Proof.Machine.execIadd f m s
  | .isub f m => Sys2Proof.Machine.execIsub f m s
  | .imul f => Sys2Proof.Machine.execImul f s
  | .imulh f => Sys2Proof.Machine.execImulh f s
  | .imulhu f => Sys2Proof.Machine.execImulhu f s
  | .idiv f => Sys2Proof.Machine.execIdiv f s
  | .idivu f => Sys2Proof.Machine.execIdivu f s
  | .irem f => Sys2Proof.Machine.execIrem f s
  | .iremu f => Sys2Proof.Machine.execIremu f s
  | .iand f => Sys2Proof.Machine.execIand f s
  | .ior f => Sys2Proof.Machine.execIor f s
  | .ixor f => Sys2Proof.Machine.execIxor f s
  | .iandn f => Sys2Proof.Machine.execIandn f s
  | .ishl f => Sys2Proof.Machine.execIshl f s
  | .ishr f => Sys2Proof.Machine.execIshr f s
  | .isra f => Sys2Proof.Machine.execIsra f s
  | .irol f => Sys2Proof.Machine.execIrol f s
  | .imin f => Sys2Proof.Machine.execImin f s
  | .imax f => Sys2Proof.Machine.execImax f s
  | .iminu f => Sys2Proof.Machine.execIminu f s
  | .imaxu f => Sys2Proof.Machine.execImaxu f s
  | .iseq f => Sys2Proof.Machine.execIseq f s
  | .islt f => Sys2Proof.Machine.execIslt f s
  | .isltu f => Sys2Proof.Machine.execIsltu f s
  | .isel f => Sys2Proof.Machine.execIsel f s
  | .bext f => Sys2Proof.Machine.execBext f s
  | .bextu f => Sys2Proof.Machine.execBextu f s
  | .bins f => Sys2Proof.Machine.execBins f s
  | .clz f => Sys2Proof.Machine.execClz f s
  | .ctz f => Sys2Proof.Machine.execCtz f s
  | .popc f => Sys2Proof.Machine.execPopc f s
  | .bswap f => Sys2Proof.Machine.execBswap f s
  | .crc32c f => Sys2Proof.Machine.execCrc32c f s
  | .crc16 f => Sys2Proof.Machine.execCrc16 f s
  | .crc15 f => Sys2Proof.Machine.execCrc15 f s
  | .movi f => Sys2Proof.Machine.execMovi f s
  | .movhi d a imm => Sys2Proof.Machine.execMovhi d a imm s
  | .iaddi f m => Sys2Proof.Machine.execIaddi f m s
  | .iandi f => Sys2Proof.Machine.execIandi f s
  | .iori f => Sys2Proof.Machine.execIori f s
  | .ixori f => Sys2Proof.Machine.execIxori f s
  | .ishli f => Sys2Proof.Machine.execIshli f s
  | .ishri f => Sys2Proof.Machine.execIshri f s
  | .israi f => Sys2Proof.Machine.execIsrai f s
  | .islti f => Sys2Proof.Machine.execIslti f s
  | .iseqi f => Sys2Proof.Machine.execIseqi f s
  | .ld f => Sys2Proof.Machine.execLd f s
  | .st f => Sys2Proof.Machine.execSt f s
  | .ldx f => Sys2Proof.Machine.execLdx f s
  | .stx f => Sys2Proof.Machine.execStx f s
  | .ldf f => Sys2Proof.Machine.execLdf f s
  | .aadd f => Sys2Proof.Machine.execAadd f s
  | .aand f => Sys2Proof.Machine.execAand f s
  | .aor f => Sys2Proof.Machine.execAor f s
  | .axor f => Sys2Proof.Machine.execAxor f s
  | .amin f => Sys2Proof.Machine.execAmin f s
  | .amax f => Sys2Proof.Machine.execAmax f s
  | .aswp f => Sys2Proof.Machine.execAswp f s
  | .acas f => Sys2Proof.Machine.execAcas f s
  | .aincb f => Sys2Proof.Machine.execAincb f s
  | .gld f => Sys2Proof.Machine.execGld f s
  | .gst f => Sys2Proof.Machine.execGst f s
  | .gldx f => Sys2Proof.Machine.execGldx f s
  | .gstx f => Sys2Proof.Machine.execGstx f s
  | .gldf f => Sys2Proof.Machine.execGldf f s
  | .gaadd f => Sys2Proof.Machine.execGaadd f s
  | .gaand f => Sys2Proof.Machine.execGaand f s
  | .gaor f => Sys2Proof.Machine.execGaor f s
  | .gaxor f => Sys2Proof.Machine.execGaxor f s
  | .gamin f => Sys2Proof.Machine.execGamin f s
  | .gamax f => Sys2Proof.Machine.execGamax f s
  | .gaswp f => Sys2Proof.Machine.execGaswp f s
  | .gacas f => Sys2Proof.Machine.execGacas f s
  | .gaincb f => Sys2Proof.Machine.execGaincb f s
  | .fence r e d => Sys2Proof.Machine.execFence r e d s
  | .qclaim d => Sys2Proof.Machine.execQclaim d s
  | .qfree d => Sys2Proof.Machine.execQfree d s
  | .qcnt d a => Sys2Proof.Machine.execQcnt d a s
  | .qskip a b => Sys2Proof.Machine.execQskip a b s
  | .mclr d => Sys2Proof.Machine.execMclr d s
  | .mpoll d a => Sys2Proof.Machine.execMpoll d a s
  | .vadd f => Sys2Proof.Machine.execVadd f s
  | .vsub f => Sys2Proof.Machine.execVsub f s
  | .vmul f => Sys2Proof.Machine.execVmul f s
  | .vfma f => Sys2Proof.Machine.execVfma f s
  | .vfms f => Sys2Proof.Machine.execVfms f s
  | .vdiv f => Sys2Proof.Machine.execVdiv f s
  | .vsqrt f => Sys2Proof.Machine.execVsqrt f s
  | .vmin f => Sys2Proof.Machine.execVmin f s
  | .vmax f => Sys2Proof.Machine.execVmax f s
  | .vabs f => Sys2Proof.Machine.execVabs f s
  | .vneg f => Sys2Proof.Machine.execVneg f s
  | .vrcp f => Sys2Proof.Machine.execVrcp f s
  | .vrsq f => Sys2Proof.Machine.execVrsq f s
  | .vexp2 f => Sys2Proof.Machine.execVexp2 f s
  | .vlog2 f => Sys2Proof.Machine.execVlog2 f s
  | .vand f => Sys2Proof.Machine.execVand f s
  | .vor f => Sys2Proof.Machine.execVor f s
  | .vxor f => Sys2Proof.Machine.execVxor f s
  | .vandn f => Sys2Proof.Machine.execVandn f s
  | .vshl f => Sys2Proof.Machine.execVshl f s
  | .vshr f => Sys2Proof.Machine.execVshr f s
  | .vsra f => Sys2Proof.Machine.execVsra f s
  | .vsel f => Sys2Proof.Machine.execVsel f s
  | .vcmp f => Sys2Proof.Machine.execVcmp f s
  | .pand pd pa pb => Sys2Proof.Machine.execPand pd pa pb s
  | .por pd pa pb => Sys2Proof.Machine.execPor pd pa pb s
  | .pxor pd pa pb => Sys2Proof.Machine.execPxor pd pa pb s
  | .pnot pd pa => Sys2Proof.Machine.execPnot pd pa s
  | .pcnt pa r => Sys2Proof.Machine.execPcnt pa r s
  | .pfirst pa r => Sys2Proof.Machine.execPfirst pa r s
  | .vmov f => Sys2Proof.Machine.execVmov f s
  | .vbcast f => Sys2Proof.Machine.execVbcast f s
  | .vext f => Sys2Proof.Machine.execVext f s
  | .vins f => Sys2Proof.Machine.execVins f s
  | .vperm f => Sys2Proof.Machine.execVperm f s
  | .vrot f => Sys2Proof.Machine.execVrot f s
  | .vzip f => Sys2Proof.Machine.execVzip f s
  | .vunzip f => Sys2Proof.Machine.execVunzip f s
  | .vld f => Sys2Proof.Machine.execVld f s
  | .vst f => Sys2Proof.Machine.execVst f s
  | .vldg f => Sys2Proof.Machine.execVldg f s
  | .vstg f => Sys2Proof.Machine.execVstg f s
  | .vrsum f => Sys2Proof.Machine.execVrsum f s
  | .vrmax f => Sys2Proof.Machine.execVrmax f s
  | .vrmin f => Sys2Proof.Machine.execVrmin f s
  | .vrand f => Sys2Proof.Machine.execVrand f s
  | .vror f => Sys2Proof.Machine.execVror f s
  | .vscan f => Sys2Proof.Machine.execVscan f s
  | .vcvt f => Sys2Proof.Machine.execVcvt f s
  | .vpack f => Sys2Proof.Machine.execVpack f s
  | .vunpk f => Sys2Proof.Machine.execVunpk f s
  | .vtpack f => Sys2Proof.Machine.execVtpack f s
  | .vtunpk f => Sys2Proof.Machine.execVtunpk f s
  | .gsel f => Sys2Proof.Machine.execGsel f s
  | .hsift fin va r => Sys2Proof.Machine.execHsift fin va r s
  | .tld f => Sys2Proof.Machine.execTld f s
  | .tldt t a b => Sys2Proof.Machine.execTldt t a b s
  | .tst f => Sys2Proof.Machine.execTst f s
  | .tzero t => Sys2Proof.Machine.execTzero t s
  | .tcopy td ts => Sys2Proof.Machine.execTcopy td ts s
  | .matx f => Sys2Proof.Machine.execMatx f s
  | .drainld n a => Sys2Proof.Machine.execDrainld n a s
  | .accld f => Sys2Proof.Machine.execAccld f s
  | .accst f => Sys2Proof.Machine.execAccst f s
  | .accrel acc => Sys2Proof.Machine.execAccrel acc s
  | .dmov dd da => Sys2Proof.Machine.execDmov dd da s
  | .dadd dd da db => Sys2Proof.Machine.execDadd dd da db s
  | .dsub dd da db => Sys2Proof.Machine.execDsub dd da db s
  | .dmul dd da db => Sys2Proof.Machine.execDmul dd da db s
  | .dfma dd da db dc => Sys2Proof.Machine.execDfma dd da db dc s
  | .dmin dd da db => Sys2Proof.Machine.execDmin dd da db s
  | .dmax dd da db => Sys2Proof.Machine.execDmax dd da db s
  | .dabs dd da => Sys2Proof.Machine.execDabs dd da s
  | .dneg dd da => Sys2Proof.Machine.execDneg dd da s
  | .dclmp dd da db dc => Sys2Proof.Machine.execDclmp dd da db dc s
  | .dsel cc dd da db dc => Sys2Proof.Machine.execDsel cc dd da db dc s
  | .dexp2 dd da => Sys2Proof.Machine.execDexp2 dd da s
  | .drcp dd da => Sys2Proof.Machine.execDrcp dd da s
  | .drsq dd da => Sys2Proof.Machine.execDrsq dd da s
  | .dldr dd => Sys2Proof.Machine.execDldr dd s
  | .dldc dd => Sys2Proof.Machine.execDldc dd s
  | .dcvt dd da => Sys2Proof.Machine.execDcvt dd da s
  | .dblk dd da => Sys2Proof.Machine.execDblk dd da s
  | .dst da => Sys2Proof.Machine.execDst da s
  | .dmbx sum da => Sys2Proof.Machine.execDmbx sum da s
  | .dend => Sys2Proof.Machine.execDend s
  | .agent d a b => Sys2Proof.Machine.execAgent d a b s
  | .free a => Sys2Proof.Machine.execFree a s
  | .link a b => Sys2Proof.Machine.execLink a b s
  | .splice a b => Sys2Proof.Machine.execSplice a b s
  | .join a b => Sys2Proof.Machine.execJoin a b s
  | .pref a => Sys2Proof.Machine.execPref a s
  | .unref a => Sys2Proof.Machine.execUnref a s
  | .pmut d a => Sys2Proof.Machine.execPmut d a s
  | .palloc d a b => Sys2Proof.Machine.execPalloc d a b s
  | .take d w => Sys2Proof.Machine.execTake d w s
  | .pushp a b => Sys2Proof.Machine.execPushp a b s
  | .enqr a b nb => Sys2Proof.Machine.execEnqr a b nb s
  | .inbox a b => Sys2Proof.Machine.execInbox a b s
  | .cellrd d a => Sys2Proof.Machine.execCellrd d a s
  | .start d a b c prio => Sys2Proof.Machine.execStart d a b c prio s
  | .reap d b w look => Sys2Proof.Machine.execReap d b w look s
  | .park a => Sys2Proof.Machine.execPark a s
  | .wake a => Sys2Proof.Machine.execWake a s
  | .yield => Sys2Proof.Machine.execYield s
  | .migr a => Sys2Proof.Machine.execMigr a s
  | .ctxrd d a b => Sys2Proof.Machine.execCtxrd d a b s
  | .ctxwr a b c => Sys2Proof.Machine.execCtxwr a b c s
  | .arrive t => Sys2Proof.Machine.execArrive t s
  | .wait t a => Sys2Proof.Machine.execWait t a s
  | .rcgen t d => Sys2Proof.Machine.execRcgen t d s
  | .rcpoll t d => Sys2Proof.Machine.execRcpoll t d s
  | .smap d a b => Sys2Proof.Machine.execSmap d a b s
  | .sunmap d a => Sys2Proof.Machine.execSunmap d a s
  | .sunmapRc d a => Sys2Proof.Machine.execSunmapRc d a s
  | .give d a b c => Sys2Proof.Machine.execGive d a b c s
  | .sgen d a => Sys2Proof.Machine.execSgen d a s
  | .cpy d a b c => Sys2Proof.Machine.execCpy d a b c s
  | .cpyr d a b c op ty => Sys2Proof.Machine.execCpyr d a b c op ty s
  | .stbind d a => Sys2Proof.Machine.execStbind d a s
  | .stunbind d => Sys2Proof.Machine.execStunbind d s
  | .cwait d a b c => Sys2Proof.Machine.execCwait d a b c s
  | .msend a b c nb => Sys2Proof.Machine.execMsend a b c nb s
  | .mbulk a b c fol nb => Sys2Proof.Machine.execMbulk a b c fol nb s
  | .mseat d a req => Sys2Proof.Machine.execMseat d a req s
  | .csrr d a => Sys2Proof.Machine.execCsrr d a s
  | .csrw a b => Sys2Proof.Machine.execCsrw a b s
  | .trap a => Sys2Proof.Machine.execTrap a s
  | .tret d a b next rc => Sys2Proof.Machine.execTret d a b next rc s
  | .tretRp d a b rc => Sys2Proof.Machine.execTretRp d a b rc s
  | .frec d a => Sys2Proof.Machine.execFrec d a s
  | .isol a b => Sys2Proof.Machine.execIsol a b s
  | .unisol a => Sys2Proof.Machine.execUnisol a s
  | .cut a b c => Sys2Proof.Machine.execCut a b c s
  | .tinv k a b => Sys2Proof.Machine.execTinv k a b s
  | .post a b => Sys2Proof.Machine.execPost a b s
  | .pauseEnd => Sys2Proof.Machine.execPauseEnd s
  | .vectorLateResult => Sys2Proof.Machine.execVectorLateResult s
  | .mxuCommandTake => Sys2Proof.Machine.execMxuCommandTake s
  | .tileTransferPiece => Sys2Proof.Machine.execTileTransferPiece s
  | .tileOpEnd => Sys2Proof.Machine.execTileOpEnd s
  | .passArrive => Sys2Proof.Machine.execPassArrive s
  | .passRelease => Sys2Proof.Machine.execPassRelease s
  | .matxStart => Sys2Proof.Machine.execMatxStart s
  | .cohortStart => Sys2Proof.Machine.execCohortStart s
  | .cohortTimeout => Sys2Proof.Machine.execCohortTimeout s
  | .arrayGrant => Sys2Proof.Machine.execArrayGrant s
  | .blockEnd => Sys2Proof.Machine.execBlockEnd s
  | .sumsEnd => Sys2Proof.Machine.execSumsEnd s
  | .drainSegment => Sys2Proof.Machine.execDrainSegment s
  | .drainStorePiece => Sys2Proof.Machine.execDrainStorePiece s
  | .drainStop => Sys2Proof.Machine.execDrainStop s
  | .drainResume => Sys2Proof.Machine.execDrainResume s
  | .dmbxFill => Sys2Proof.Machine.execDmbxFill s
  | .matxCompletion => Sys2Proof.Machine.execMatxCompletion s
  | .firstStep => Sys2Proof.Machine.execFirstStep s
  | .decide => Sys2Proof.Machine.execDecide s
  | .repoint => Sys2Proof.Machine.execRepoint s
  | .freeLMessage => Sys2Proof.Machine.execFreeLMessage s
  | .portCellWaitLimit => Sys2Proof.Machine.execPortCellWaitLimit s
  | .builtinRuleRun => Sys2Proof.Machine.execBuiltinRuleRun s
  | .contextSaveEnd => Sys2Proof.Machine.execContextSaveEnd s
  | .contextRestoreEnd => Sys2Proof.Machine.execContextRestoreEnd s
  | .saveWithdrawReply => Sys2Proof.Machine.execSaveWithdrawReply s
  | .migrArrive => Sys2Proof.Machine.execMigrArrive s
  | .forwardedReply => Sys2Proof.Machine.execForwardedReply s
  | .forwardingEntryLapse => Sys2Proof.Machine.execForwardingEntryLapse s
  | .rollcallRelease => Sys2Proof.Machine.execRollcallRelease s
  | .waitLimitExpire => Sys2Proof.Machine.execWaitLimitExpire s
  | .giveInstall => Sys2Proof.Machine.execGiveInstall s
  | .cwaitLimitExpire => Sys2Proof.Machine.execCwaitLimitExpire s
  | .copyEnginePiece => Sys2Proof.Machine.execCopyEnginePiece s
  | .streamElementMove => Sys2Proof.Machine.execStreamElementMove s
  | .neighbourElementArrive => Sys2Proof.Machine.execNeighbourElementArrive s
  | .completionIncrement => Sys2Proof.Machine.execCompletionIncrement s
  | .statusWrite => Sys2Proof.Machine.execStatusWrite s
  | .rollcallCfgWrite => Sys2Proof.Machine.execRollcallCfgWrite s
  | .rollcallKick => Sys2Proof.Machine.execRollcallKick s
  | .passCountWrite => Sys2Proof.Machine.execPassCountWrite s
  | .rngSeedWrite => Sys2Proof.Machine.execRngSeedWrite s
  | .isolationDone => Sys2Proof.Machine.execIsolationDone s
  | .cutMarkerArrive => Sys2Proof.Machine.execCutMarkerArrive s
  | .tinvComplete => Sys2Proof.Machine.execTinvComplete s
  | .bankAccess => Sys2Proof.Machine.execBankAccess s
  | .parkedOpTimerRetry => Sys2Proof.Machine.execParkedOpTimerRetry s
  | .slateRewrite => Sys2Proof.Machine.execSlateRewrite s
  | .memoryReply => Sys2Proof.Machine.execMemoryReply s
  | .storeAck => Sys2Proof.Machine.execStoreAck s
  | .landingFaultReport => Sys2Proof.Machine.execLandingFaultReport s
  | .translationMiss => Sys2Proof.Machine.execTranslationMiss s
  | .walkDone => Sys2Proof.Machine.execWalkDone s
  | .pageMappedWake => Sys2Proof.Machine.execPageMappedWake s
  | .noticeArrive => Sys2Proof.Machine.execNoticeArrive s
  | .launchHeaderAccept => Sys2Proof.Machine.execLaunchHeaderAccept s
  | .launchWake => Sys2Proof.Machine.execLaunchWake s
  | .pairPushArrive => Sys2Proof.Machine.execPairPushArrive s
  | .queueBlockMove => Sys2Proof.Machine.execQueueBlockMove s
  | .stealRequest => Sys2Proof.Machine.execStealRequest s
  | .stealReply => Sys2Proof.Machine.execStealReply s
  | .dieAsk => Sys2Proof.Machine.execDieAsk s
  | .queueAging => Sys2Proof.Machine.execQueueAging s
  | .takeWakeEvent => Sys2Proof.Machine.execTakeWakeEvent s
  | .goldAdvance => Sys2Proof.Machine.execGoldAdvance s
  | .fragmentArrive => Sys2Proof.Machine.execFragmentArrive s
  | .deliver => Sys2Proof.Machine.execDeliver s
  | .seatRequest => Sys2Proof.Machine.execSeatRequest s
  | .seatLeaseExpire => Sys2Proof.Machine.execSeatLeaseExpire s
  | .messageLoss => Sys2Proof.Machine.execMessageLoss s
  | .lossReport => Sys2Proof.Machine.execLossReport s
  | .hostDoorbellWrite => Sys2Proof.Machine.execHostDoorbellWrite s
  | .hostBar2Access => Sys2Proof.Machine.execHostBar2Access s
  | .linkRetrained => Sys2Proof.Machine.execLinkRetrained s
  | .buddyCompare => Sys2Proof.Machine.execBuddyCompare s
  | .powerOnReset => Sys2Proof.Machine.execPowerOnReset s
  | .deviceReset => Sys2Proof.Machine.execDeviceReset s
  | .dieReset => Sys2Proof.Machine.execDieReset s
  | .sensorSample => Sys2Proof.Machine.execSensorSample s
  | .spdmRequest => Sys2Proof.Machine.execSpdmRequest s
  | .firmwareUpdateWrite => Sys2Proof.Machine.execFirmwareUpdateWrite s
  | .prefectRegisterWrite => Sys2Proof.Machine.execPrefectRegisterWrite s
  | .unassignedEncoding => Sys2Proof.Machine.execUnassignedEncoding s
  | .divisionResult => Sys2Proof.Machine.execDivisionResult s
  | .gselResult => Sys2Proof.Machine.execGselResult s
  | .homeroomLateResult => Sys2Proof.Machine.execHomeroomLateResult s

end Sys2Proof.Machine
end

