-- ==== Sys2Proof/Machine/Step.lean ====
section
/-! DEFINITION. One step of the device. -/

namespace Sys2Proof.Machine

/-- One step: what the plan says, and the end of an issue (DESIGN CHOICE, assumption log 1). -/
def step (s : State) : Host.Outcome State Fault Refusal :=
  match s.plan with
  | .move t => .next t
  | .run i t issue =>
    match exec i t with
    | .next u => .next (u.close issue)
    | .fault f => .fault f
    | .refused r => .refused r

/-- The state with a word in the place that the next step fetches from: for 32 bits the drain pipe of octet 0 with the
word as its program, otherwise the first word of slate 0 of octet 0, which core 0 reads through its window 0, with its
homeroom alone in turn and nothing due (DESIGN CHOICE, assumption log 4). -/
def State.withFetchWord (s : State) (nbits w : Nat) : State :=
  if nbits ≤ 32 then
    let cmd : MxuCmd := { id := 0, cmd := .matx { prog := [w % 2 ^ 32], m := 1, n := 1, started := true, sumsDone := true } }
    { s with
      pipe := some 0
      octets := s.octets.set 0
        { s.octet 0 with
          mxu := { (s.octet 0).mxu with
                   cmds := [cmd], pipe := { live := true, d := Vector.replicate 8 [0] }, drains := [0] } } }
  else
    let c : CtxId := ⟨0, 0⟩
    let x := s.ctx c
    { s with
      turn := 0
      scan := 0
      pipe := none
      agenda := s.agenda.filter fun p => s.cycle < p.due || p.late
      prefect := { s.prefect with held := 0 }
      mem := memWriteN s.mem (slateKey 0 0 0) 8 w
      poison := s.poison.filter fun g => g != slateKey 0 0 0 / 32
      latent := []
      octets := s.octets.set 0 { s.octet 0 with gens := wr (s.octet 0).gens 0 0, saves := [], failing := [] }
      cores := s.cores.set 0
        { s.coreAt 0 with rot := 15, win := wr (s.coreAt 0).win 0 { valid := true, slate := 0, own := 2, rem := 0 } }
      ctxs := s.ctxs.set 0
        { x with life := .active, wait := .none, readyAt := 0, skips := 0, drops := [], relFault := none, buddy := none,
                 pc := 0x0FFF0F0000000000 } }

end Sys2Proof.Machine
end

