-- ==== Sys2Proof/Safety.lean ====
section
/-! DEFINITION. The vocabulary of the statements: the invariant of every step, when an instruction's operands can be read, what an
issue leaves, and the values that the spec's tables give, written from the rules and not from the meanings. -/

namespace Sys2Proof.Machine

/-! ## The invariant -/

/-- What every step keeps: the memory is in its canonical form. -/
def State.Inv (s : State) : Prop := Memory.wf s.mem = true

/-! ## Operands (R73, R75, R170, R181, R340, R341) -/

/-- Whether the issuing context holds a stream register that is bound (R75, R341). -/
def State.holds (s : State) (r : Reg) : Prop :=
  (s.stream s.who.core r).bound = true ∧ (s.stream s.who.core r).owner = some (s.ctx s.who).run

/-- The conditions under which an instruction that names these registers neither traps at its operand checks nor waits on
them: privilege and codes, streams held in the right direction with the elements left, every source full, no late result
pending into a destination, and room in an outbound stream. -/
structure State.Readable (s : State) (u : Uses) : Prop where
  privilege : u.need ≤ s.priv s.who
  code : u.codeOk = true
  notM7 : ∀ r ∈ u.out ++ u.late, r ≠ 55
  lateReg : ∀ r ∈ u.late, r.toNat < 56
  inbound : ∀ p ∈ u.reads, 56 ≤ p.1.toNat → s.holds p.1 ∧ (s.stream s.who.core p.1).outb = false ∧
    countReads u.reads p.1 ≤ (s.stream s.who.core p.1).leftOver
  outbound : ∀ r ∈ u.out, 56 ≤ r.toNat → s.holds r ∧ (s.stream s.who.core r).outb = true ∧
    0 < (s.stream s.who.core r).leftOver ∧ (s.coreAt s.who.core).outFull (s.stream s.who.core r) = false
  full : ∀ p ∈ u.reads, s.regFull s.who p.1 (countReads u.reads p.1) = true
  vectorFull : ∀ v ∈ u.vs, tb (s.ctx s.who).vFull v.r.toNat = true
  oldFull : ∀ v ∈ u.vdr, tb (s.ctx s.who).vFull v.toNat = true
  notPending : ∀ r ∈ u.out ++ u.late, s.regPend s.who r = false
  vectorNotPending : ∀ v ∈ u.vout, tb (s.ctx s.who).vPend v.toNat = false

/-- The value of read number `k` of an instruction: a stream register gives its elements to its reads in order (R340). -/
def State.readVal (s : State) (u : Uses) (k : Nat) (r : Reg) : Word := s.regVal s.who r (countReads (u.reads.take k) r)

/-- The values that an instruction reads, in the order d, a, b, c (R340). -/
def State.vals (s : State) (u : Uses) : Vals :=
  let nd := u.dr.toList.length
  let na := nd + u.a.toList.length
  let nb := na + u.b.toList.length
  { d := (u.dr.map (s.readVal u 0)).getD 0
    a := (u.a.map fun q => s.readVal u nd q.r).getD 0
    b := (u.b.map fun q => s.readVal u na q.r).getD 0
    c := (u.c.map fun q => s.readVal u nb q.r).getD 0
    vs := u.vs.map fun v => rd (s.ctx s.who).v v.r.toNat 0
    vd := (u.vdr.map fun v => rd (s.ctx s.who).v v.toNat 0).getD 0 }

/-! ## What an issue leaves (R45, R71, R72, R75, R194) -/

/-- Everything outside the issuing context, its core, and the agenda is as before. -/
structure State.SameElse (s t : State) : Prop where
  device : t = { s with ctxs := t.ctxs, cores := t.cores, agenda := t.agenda, seq := t.seq, fresh := t.fresh }
  contexts : ∀ c : CtxId, c.key ≠ s.who.key → t.ctx c = s.ctx c
  otherCores : ∀ k, k ≠ s.who.core → t.coreAt k = s.coreAt k

/-- The fields of a context that an issue may change: its scalar bank with its bits, its pc and its place in the rotation, its
count of issued instructions, and what its buddy compares. -/
def Ctx.IssueFrame (x y : Ctx) : Prop :=
  y = { x with s := y.s, sFull := y.sFull, sPend := y.sPend, pc := y.pc, wait := y.wait, readyAt := y.readyAt,
               insCount := y.insCount, starting := y.starting, seated := y.seated, buddy := y.buddy }

/-- The fields of a core that an issue may change: its common registers, mailboxes and streams. -/
def Core.IssueFrame (k l : Core) : Prop :=
  l = { k with c := l.c, cFull := l.cFull, cPend := l.cPend, m := l.m, mFull := l.mFull, mPend := l.mPend, m7q := l.m7q,
               q := l.q }

/-- The end of an issue at a pc: the context is ready 8 cycles later, or later under the hint of its word (R45, R175), and its
count of issued instructions is one more (R194). -/
structure State.Issued (s t : State) (pc : Word) : Prop where
  pc : (t.ctx s.who).pc = pc
  wait : (t.ctx s.who).wait = .none
  ready : (t.ctx s.who).readyAt = s.cycle + max 8 (hint Config.stepping s.word)
  count : (t.ctx s.who).insCount = (s.ctx s.who).insCount + 1

/-- What an instruction that reads `u` and writes `w` to `d` leaves: the register written and full, but for s0; every other
scalar register, common register and mailbox with its value and its bit, but for m7 where it is read; each stream without the
elements read and with the element written; all else as before, memory included. -/
structure State.Wrote (s t : State) (u : Uses) (d : Reg) (w : Word) (pc : Word) : Prop where
  issued : s.Issued t pc
  same : s.SameElse t
  ctxFrame : (s.ctx s.who).IssueFrame (t.ctx s.who)
  coreFrame : (s.coreAt s.who.core).IssueFrame (t.coreAt s.who.core)
  zero : t.regVal s.who 0 0 = 0
  value : d ≠ 0 → d.toNat < 56 → t.regVal s.who d 0 = w ∧ t.regFull s.who d 1 = true ∧ t.regPend s.who d = false
  others : ∀ r : Reg, r ≠ d → r.toNat < 55 →
    t.regVal s.who r 0 = s.regVal s.who r 0 ∧ t.regFull s.who r 1 = s.regFull s.who r 1 ∧ t.regPend s.who r = s.regPend s.who r
  m7 : (∀ p ∈ u.reads, p.1 ≠ 55) →
    t.regVal s.who 55 0 = s.regVal s.who 55 0 ∧ t.regFull s.who 55 1 = s.regFull s.who 55 1
  streams : ∀ i, i < 8 →
    (rd (t.coreAt s.who.core).q i {}).buf =
      (rd (s.coreAt s.who.core).q i {}).buf.drop (countReads u.reads (BitVec.ofNat 6 (56 + i))) ++
        (if d = BitVec.ofNat 6 (56 + i) then [(rd (s.coreAt s.who.core).q i {}).trim w] else []) ∧
    (rd (t.coreAt s.who.core).q i {}).done =
      (rd (s.coreAt s.who.core).q i {}).done + countReads u.reads (BitVec.ofNat 6 (56 + i)) +
        (if d = BitVec.ofNat 6 (56 + i) then 1 else 0)
  bytes : ∀ a, memRead t.mem a = memRead s.mem a
  agenda : ∃ new : List Pending, t.agenda = new ++ s.agenda ∧ ∀ p ∈ new, p.ev = .streamElementMove

/-- The fields of a context that the issue of a late writer or of an access may change: the full/empty bits, its pc and its place
in the rotation, its counts, and what its buddy compares. -/
def Ctx.LateFrame (x y : Ctx) : Prop :=
  y = { x with sFull := y.sFull, sPend := y.sPend, vFull := y.vFull, vPend := y.vPend, pc := y.pc, wait := y.wait,
               readyAt := y.readyAt, insCount := y.insCount, starting := y.starting,
               seated := y.seated, buddy := y.buddy, plain := y.plain,
               relaxed := y.relaxed, relStores := y.relStores, lateOut := y.lateOut }

/-- What an instruction that reads `u` and whose results come later leaves at its issue (R72, R180): the late scalar destinations
empty with a result pending, but for s0, which stays full (R71); every other scalar register, common register and mailbox with
its value and its bit, but for m7 where it is read; each stream without the elements read; the vector registers with their
values, and with their bits but for a late vector destination; all else as before, memory included, but for a packet to another
die. -/
structure State.Began (s t : State) (u : Uses) (late : List Reg) (vlate : Option (BitVec 3)) : Prop where
  ready : (t.ctx s.who).readyAt = s.cycle + max 8 (hint Config.stepping s.word)
  count : (t.ctx s.who).insCount = (s.ctx s.who).insCount + 1
  same : ({ s with packets := t.packets } : State).SameElse t
  ctxFrame : (s.ctx s.who).LateFrame (t.ctx s.who)
  coreFrame : (s.coreAt s.who.core).IssueFrame (t.coreAt s.who.core)
  zero : t.regVal s.who 0 0 = 0 ∧ t.regFull s.who 0 1 = true
  empty : ∀ r ∈ late, r ≠ 0 → t.regVal s.who r 0 = s.regVal s.who r 0 ∧ t.regFull s.who r 1 = false ∧ t.regPend s.who r = true
  others : ∀ r : Reg, r ∉ late → r.toNat < 55 →
    t.regVal s.who r 0 = s.regVal s.who r 0 ∧ t.regFull s.who r 1 = s.regFull s.who r 1 ∧ t.regPend s.who r = s.regPend s.who r
  vector : ∀ v ∈ vlate, tb (t.ctx s.who).vFull v.toNat = false ∧ tb (t.ctx s.who).vPend v.toNat = true
  vectors : ∀ i, i < 8 → (∀ v ∈ vlate, v.toNat ≠ i) →
    tb (t.ctx s.who).vFull i = tb (s.ctx s.who).vFull i ∧ tb (t.ctx s.who).vPend i = tb (s.ctx s.who).vPend i
  streams : ∀ i, i < 8 → ∃ n, n = countReads u.reads (BitVec.ofNat 6 (56 + i)) ∧
    (rd (t.coreAt s.who.core).q i {}).buf = (rd (s.coreAt s.who.core).q i {}).buf.drop n ∧
    (rd (t.coreAt s.who.core).q i {}).done = (rd (s.coreAt s.who.core).q i {}).done + n
  bytes : ∀ a, memRead t.mem a = memRead s.mem a

/-- A step of the agenda of `t` that `s` did not have, and that comes `lat` cycles from now, or later under traffic (R91). -/
def State.Sent (s t : State) (lat : Nat) (ev : Instr) (arg : StepArg) : Prop :=
  ∃ p ∈ t.agenda, s.cycle + lat ≤ p.due ∧ p.ev = ev ∧ p.arg = arg ∧ s.seq ≤ p.seq

/-- A packet of `len` bytes leaves one die for another, or stays within one, and brings a step `lat` cycles from now: within a
die, or where the time leaves no room for a coded message, it comes alone; else a coded message carries it, which leaves in time
to be decoded then, or later under traffic (R142, R145; assumption log 27). -/
def State.Carries (s t : State) (src dst : Nat) (cn : Bool) (len lat : Nat) (ev : Instr) (arg : StepArg) : Prop :=
  if src = dst ∨ lat < s.crossTime src dst len cn then s.Sent t lat ev arg
  else ∃ p ∈ t.packets, p.src = src ∧ p.dst = dst ∧ p.cn = cn ∧ p.len = len ∧ p.lat = lat ∧ p.held = false ∧ p.step.ev = ev ∧
    p.step.arg = arg ∧ s.Sent t (lat - s.crossTime src dst len cn) .seatRequest { n := 5, id := p.step.seq, die := src }

/-- A class N packet of a core leaves as any packet does while the core has fewer than 8 flits in the network, and else waits to
enter it (R139). -/
def State.CarriesN (s t : State) (core dst len lat : Nat) (ev : Instr) (arg : StepArg) : Prop :=
  if 7680 ≤ core ∨ s.nflits core < 8 then s.Carries t (dieOf core) dst true len lat ev { arg with flit := some core }
  else ∃ p ∈ t.packets, p.src = dieOf core ∧ p.dst = dst ∧ p.cn = true ∧ p.len = len ∧ p.lat = lat ∧ p.held = true ∧
    p.step.ev = ev ∧ p.step.arg = { arg with flit := some core } ∧
    s.Sent t 1 .seatRequest { n := 6, id := p.step.seq, core := core }

/-- A step of the agenda that comes at a cycle. -/
def State.Due (t : State) (due : Nat) (ev : Instr) (arg : StepArg) : Prop :=
  ∃ p ∈ t.agenda, p.due = due ∧ p.ev = ev ∧ p.arg = arg

/-- A run of a context is where it issued, in life and not migrated. -/
def State.inPlace (s : State) (c : CtxId) (run : Nat) : Prop :=
  (s.ctx c).run = run ∧ (s.ctx c).life ≠ .gated ∧ (s.coreAt c.core).fwd = []

/-! ## Traps and waits at issue (R73, R321 to R325) -/

/-- An instruction that traps: its context stops at it with the record of R325, without any other effect; a homeroom's trap is
told to the staff (R331). -/
structure State.Trapped (s t : State) (cause : Nat) (addr : Word) : Prop where
  same : s.SameElse t
  ctx : t.ctx s.who =
    { s.ctx s.who with
      life := .trapped, wait := .none, starting := false, reported := false, relFault := none, stopAt := s.cycle
      frec := { cause := cause, pc := (s.ctx s.who).pc, addr := addr, word := s.word, ctx := s.who.ctx } }
  cores : ∀ k, t.coreAt k = s.coreAt k
  home : s.who.ctx = 0 → s.Sent t 20 .noticeArrive
    { die := dieOf s.who.core
      notice := { kind := 0x09, cause := cause, die := dieOf s.who.core, core := s.who.core, ctx := 0
                  pc := (s.ctx s.who).pc, addr := addr, word := s.word } }
  bytes : ∀ a, memRead t.mem a = memRead s.mem a

/-- An instruction that waits, without an issue slot and without any effect: its context has the wait kind that a save would
record (R61), and issues the same instruction again. Where it waits for a register, that register holds it back (R73). -/
structure State.Waits (s t : State) (kind : Nat) : Prop where
  device : t = { s with ctxs := t.ctxs }
  contexts : ∀ c : CtxId, c.key ≠ s.who.key → t.ctx c = s.ctx c
  ctx : t.ctx s.who = { s.ctx s.who with wait := .blocked kind, blockedOn := (t.ctx s.who).blockedOn, starting := false }
  until' : ∀ b ∈ (t.ctx s.who).blockedOn, kind = 1 ∧ s.unblocked s.who b = false

/-- A stream operand that its context does not hold, or that runs the other way (R341 step 1). -/
def State.StreamWrong (s : State) (u : Uses) : Prop :=
  (∃ p ∈ u.reads, 56 ≤ p.1.toNat ∧ (¬ s.holds p.1 ∨ (s.stream s.who.core p.1).outb = true)) ∨
  ∃ r ∈ u.out, 56 ≤ r.toNat ∧ (¬ s.holds r ∨ (s.stream s.who.core r).outb = false)

/-- A stream operand without the elements left (R341 step 2). -/
def State.StreamOver (s : State) (u : Uses) : Prop :=
  (∃ p ∈ u.reads, 56 ≤ p.1.toNat ∧ (s.stream s.who.core p.1).leftOver < countReads u.reads p.1) ∨
  ∃ r ∈ u.out, 56 ≤ r.toNat ∧ (s.stream s.who.core r).leftOver = 0

/-- An empty source whose policy bit says trap (R73). -/
def State.EmptyTraps (s : State) (u : Uses) : Prop :=
  ∃ p ∈ u.reads, p.2 = some true ∧ s.regFull s.who p.1 (countReads u.reads p.1) = false

/-- A destination code that the instruction refuses: m7, or a code that it narrows away (R181). -/
def Uses.CodeBad (u : Uses) : Prop := u.codeOk = false ∨ (55 : Reg) ∈ u.out

/-! ## Accesses on their way (R87 to R91, R196 to R204) -/

/-- The issue-cycle checks of an access's address: it is no malformed slate address, and where it names a window of the issuing
core in local form, the window is valid and its owner rights allow the access (R199). -/
def State.AllowsHere (s : State) (addr : Word) (need : Need) : Prop :=
  match s.form s.who.core addr with
  | .bad => False
  | .window c w _ =>
    c = s.who.core → bits addr.toNat 39 38 = 0 →
      (rd (s.coreAt c).win w {}).valid = true ∧ rightsOk (rd (s.coreAt c).win w {}).own need = true
  | _ => True

/-- An access is on its way to its bank, where it is due at half its unloaded time: a request of 16 bytes and what it stores, or
the class N packet of a splice (R91, R137). -/
def State.Departs (s t : State) (a : Access) (lat : Nat) : Prop :=
  let core := a.who.core
  let arg : StepArg := { acc := { a with lat := lat } }
  if a.kind.isSplice then s.CarriesN t core (s.endDie a) 80 (lat / 2) .bankAccess arg
  else s.Carries t (dieOf core) (s.endDie a) false (16 + if a.kind.writes then a.kind.size else 0) (lat / 2) .bankAccess arg

/-- An access leaves for its place: its bank at half its unloaded time (R91), the walker where the translation cache misses, the
interface where it names another node. -/
def State.Leaves (s t : State) (a : Access) : Prop :=
  let core := a.who.core
  match s.form core a.addr with
  | .window c _ _ =>
    s.Departs t a (if bits a.addr.toNat 39 38 = 0 then 4
      else 8 + 4 * octetHops (octetOf core) (octetOf c) + 24 * crossings (dieOf core) (dieOf c))
  | .handle o _ _ _ => s.Departs t a (8 + 4 * octetHops (octetOf core) o + 24 * crossings (dieOf core) (octetDie o))
  | .mem off =>
    match s.tlbFind (dieOf core) (s.partOf core) off with
    | some e =>
      s.Departs t a
        (110 + 24 * crossings (dieOf core) (if 2 ^ 46 ≤ e.phys off ∧ e.phys off < 2 ^ 47 then 0 else e.phys off / 2 ^ 36 / 4))
    | none => s.Sent t (110 * (s.walk (s.partOf core) off).2) .walkDone { acc := { a with lat := 110 } }
  | .remote _ => s.Sent t 4 .seatRequest { acc := a, n := 1, die := dieOf core }
  | .bad => False

/-- No memory-range lock of the issuing octet holds the access back, at any part of it or at its other cell (R101, R360). -/
def State.Unlocked (s : State) (addr : Word) (k : AccKind) : Prop :=
  ∀ l ∈ (s.octet (octetOf s.who.core)).locks,
    (∀ p ∈ k.parts, l.hits none (lockAddr (addr + BitVec.ofNat 64 p.1)) p.2 k.writes = false) ∧
    ∀ x ∈ k.others, l.hits none (lockAddr x) 8 k.writes = false

/-- An access of the issuing context as it is issued (R104). -/
structure State.Issues (s : State) (a : Access) (k : AccKind) (addr : Word) (rx : Bool) (dest : Dest) : Prop where
  run : a.run = (s.ctx s.who).run
  who : a.who = s.who
  kind : a.kind = k
  addr : a.addr = addr
  rx : a.rx = rx
  dest : a.dest = dest
  pc : a.pc = (s.ctx s.who).pc
  word : a.word = s.word
  issued : a.issued = s.cycle
  staff : a.staff = decide (s.priv s.who = 2)

/-- The accesses outstanding after an issue: a plain load or store, or one relaxed access more (R105, R106). -/
def State.Outstanding (s t : State) (k : AccKind) (rx : Bool) : Prop :=
  let x := s.ctx s.who
  let y := t.ctx s.who
  if rx then y.plain = x.plain ∧ y.relaxed = x.relaxed + 1 ∧ y.relStores = x.relStores + (if k.acked then 1 else 0)
  else y.plain = (if k.acked then .store else .load) ∧ y.relaxed = x.relaxed ∧ y.relStores = x.relStores

/-- What the rules say of a memory instruction: the registers it names, whether it is relaxed and global, what it does at its
bank, its address and alignment, and its late destinations. -/
structure MemRow where
  uses : Uses
  rx : Bool := false
  glob : Bool := false
  kind : State → Vals → AccKind
  ea : Vals → Word
  align : Nat
  dest : State → Dest := fun _ => .none
  late : List Reg := []
  vlate : Option (BitVec 3) := none

/-- The address that a memory instruction accesses (R196). -/
def MemRow.addr (r : MemRow) (v : Vals) : Word :=
  if r.glob then r.ea v else BitVec.ofNat 64 (0x0FFF0F0000000000 + (r.ea v).toNat % 2 ^ 19)

/-! ## The values of the scalar tables (R182 to R194) -/

/-- What a rule says of an instruction that computes in its issue cycle: the registers it names, the one it writes (s0 for
none), its value, the next pc, and a condition on the values read. -/
structure Row where
  uses : Uses := {}
  d : Reg := 0
  val : State → Vals → Word := fun _ _ => 0
  pc : State → Vals → Word := fun s _ => (s.ctx s.who).pc + 8
  ok : Vals → Prop := fun _ => True

namespace Spec

/-- Clamped to −2^63 … 2^63 − 1 (R183). -/
def clamp (x : Int) : Word := BitVec.ofInt 64 (max (-(2 ^ 63)) (min (2 ^ 63 - 1) x))

/-- R183, IADD and IADDI. -/
def sum (m : Sat) (a b : Word) : Word :=
  match m with
  | .wrap => BitVec.ofNat 64 (a.toNat + b.toNat)
  | .ss => clamp (a.toInt + b.toInt)
  | .us => BitVec.ofNat 64 (min (a.toNat + b.toNat) (2 ^ 64 - 1))

/-- R183, ISUB. -/
def difference (m : Sat) (a b : Word) : Word :=
  match m with
  | .wrap => BitVec.ofInt 64 (a.toInt - b.toInt)
  | .ss => clamp (a.toInt - b.toInt)
  | .us => BitVec.ofInt 64 (max ((a.toNat : Int) - b.toNat) 0)

/-- 1 where a relation holds, else 0. -/
def truth (p : Prop) [Decidable p] : Word := if p then 1 else 0

/-- A row of R182 with two sources. -/
def two (f : R3) (g : Word → Word → Word) : Row :=
  { uses := { a := some f.a, b := some f.b, out := [f.d] }, d := f.d, val := fun _ v => g v.a v.b }

/-- R182 but for the divisions. -/
def arith : Instr → Option Row
  | .iadd f m => some (two f (sum m))
  | .isub f m => some (two f (difference m))
  | .imul f => some (two f fun a b => BitVec.ofNat 64 (a.toNat * b.toNat))
  | .imulh f => some (two f fun a b => (BitVec.ofInt 128 (a.toInt * b.toInt)).extractLsb' 64 64)
  | .imulhu f => some (two f fun a b => (BitVec.ofNat 128 (a.toNat * b.toNat)).extractLsb' 64 64)
  | .iand f => some (two f fun a b => a &&& b)
  | .ior f => some (two f fun a b => a ||| b)
  | .ixor f => some (two f fun a b => a ^^^ b)
  | .iandn f => some (two f fun a b => a &&& ~~~b)
  | .ishl f => some (two f fun a b => BitVec.ofNat 64 (a.toNat * 2 ^ (b.toNat % 64)))
  | .ishr f => some (two f fun a b => BitVec.ofNat 64 (a.toNat / 2 ^ (b.toNat % 64)))
  | .isra f => some (two f fun a b => BitVec.ofInt 64 (a.toInt / 2 ^ (b.toNat % 64)))
  | .irol f => some (two f fun a b => (a <<< (b.toNat % 64)) ||| (a >>> (64 - b.toNat % 64)))
  | .imin f => some (two f fun a b => if a.toInt < b.toInt then a else b)
  | .imax f => some (two f fun a b => if b.toInt < a.toInt then a else b)
  | .iminu f => some (two f fun a b => if a.toNat < b.toNat then a else b)
  | .imaxu f => some (two f fun a b => if b.toNat < a.toNat then a else b)
  | .iseq f => some (two f fun a b => truth (a = b))
  | .islt f => some (two f fun a b => truth (a.toInt < b.toInt))
  | .isltu f => some (two f fun a b => truth (a.toNat < b.toNat))
  | .isel f =>
    some { uses := { a := some f.a, b := some f.b, c := some f.c, out := [f.d] }, d := f.d
           val := fun _ v => if v.c ≠ 0 then v.a else v.b }
  | _ => none

/-- R184: the quotient or remainder, rounded toward zero, and its corners. -/
def division : Instr → Option (R3 × (Word → Word → Word))
  | .idiv f => some (f, fun a b => if b = 0 then BitVec.allOnes 64 else a.sdiv b)
  | .irem f => some (f, fun a b => if b = 0 then a else a.srem b)
  | .idivu f => some (f, fun a b => if b = 0 then BitVec.allOnes 64 else a / b)
  | .iremu f => some (f, fun a b => if b = 0 then a else a % b)
  | _ => none

/-- A row of R185 that reads d. -/
def imm (f : RImm) (g : Word → Word) : Row :=
  { uses := { dr := some f.d, out := [f.d] }, d := f.d, val := fun _ v => g v.d }

/-- R185; the shift immediates are 0 to 63. -/
def immediate : Instr → Option Row
  | .movi f => some { uses := { out := [f.d] }, d := f.d, val := fun _ _ => BitVec.ofInt 64 f.imm.toInt }
  | .movhi d a i =>
    some { uses := { a := some a, out := [d] }, d := d, val := fun _ v => i ++ v.a.setWidth 32 }
  | .iaddi f m => some (imm f fun x => sum m x (BitVec.ofInt 64 f.imm.toInt))
  | .iandi f => some (imm f fun x => x &&& BitVec.ofInt 64 f.imm.toInt)
  | .iori f => some (imm f fun x => x ||| BitVec.ofInt 64 f.imm.toInt)
  | .ixori f => some (imm f fun x => x ^^^ BitVec.ofInt 64 f.imm.toInt)
  | .ishli f => some (imm f fun x => BitVec.ofNat 64 (x.toNat * 2 ^ f.imm.toNat))
  | .ishri f => some (imm f fun x => BitVec.ofNat 64 (x.toNat / 2 ^ f.imm.toNat))
  | .israi f => some (imm f fun x => BitVec.ofInt 64 (x.toInt / 2 ^ f.imm.toNat))
  | .islti f => some (imm f fun x => truth (x.toInt < f.imm.toInt))
  | .iseqi f => some (imm f fun x => truth (x = BitVec.ofInt 64 f.imm.toInt))
  | _ => none

/-- A row with three sources. -/
def three (f : R4) (g : Word → Word → Word → Word) : Row :=
  { uses := { a := some f.a, b := some f.b, c := some f.c, out := [f.d] }, d := f.d, val := fun _ v => g v.a v.b v.c }

/-- R186: the length of the field at `pos`. -/
def len (b c : Word) : Nat := min (c.toNat % 128) (64 - b.toNat % 64)

/-- R187, CRC-32C: the check value after `n` bits of `b` from bit `j` on. -/
def crc32c (b : Word) : Nat → Nat → BitVec 32 → BitVec 32
  | 0, _, x => x
  | n + 1, j, x => crc32c b n (j + 1) ((x >>> 1) ^^^ if x.getLsbD 0 ^^ b.getLsbD j then 0x82F63B78 else 0)

/-- R187, CRC-16 and CRC-15: the check value after the bits n − 1 to 0 of `b`. -/
def crc {w : Nat} (p : BitVec w) (b : Word) : Nat → BitVec w → BitVec w
  | 0, x => x
  | n + 1, x => crc p b n ((x <<< 1) ^^^ if x.msb ^^ b.getLsbD n then p else 0)

/-- R186 and R187. -/
def field : Instr → Option Row
  | .bext f => some (three f fun a b c => (a.extractLsb' (b.toNat % 64) (len b c)).signExtend 64)
  | .bextu f => some (three f fun a b c => (a.extractLsb' (b.toNat % 64) (len b c)).setWidth 64)
  | .bins f =>
    some { uses := { dr := some f.d, a := some f.a, b := some f.b, c := some f.c, out := [f.d] }, d := f.d
           val := fun _ v =>
             let m : Word := (BitVec.allOnes (len v.b v.c)).setWidth 64
             (v.d &&& ~~~(m <<< (v.b.toNat % 64))) ||| ((v.a &&& m) <<< (v.b.toNat % 64)) }
  | .clz f =>
    some { uses := { a := some f.a, out := [f.d] }, d := f.d
           val := fun _ v => if v.a = 0 then 64 else BitVec.ofNat 64 (63 - v.a.toNat.log2) }
  | .ctz f =>
    some { uses := { a := some f.a, out := [f.d] }, d := f.d
           val := fun _ v => if v.a = 0 then 64 else BitVec.ofNat 64 (v.a &&& (0 - v.a)).toNat.log2 }
  | .popc f =>
    some { uses := { a := some f.a, out := [f.d] }, d := f.d
           val := fun _ v => BitVec.ofNat 64 ((List.range 64).countP fun i => v.a.getLsbD i) }
  | .bswap f =>
    some { uses := { a := some f.a, out := [f.d] }, d := f.d
           val := fun _ v =>
             v.a.extractLsb' 0 8 ++ v.a.extractLsb' 8 8 ++ v.a.extractLsb' 16 8 ++ v.a.extractLsb' 24 8 ++
               v.a.extractLsb' 32 8 ++ v.a.extractLsb' 40 8 ++ v.a.extractLsb' 48 8 ++ v.a.extractLsb' 56 8 }
  | .crc32c f => some (three f fun a b c => (crc32c b (min (c.toNat % 128) 64) 0 (a.setWidth 32)).setWidth 64)
  | .crc16 f => some (three f fun a b c => (crc (0x1021 : BitVec 16) b (min (c.toNat % 128) 64) (a.setWidth 16)).setWidth 64)
  | .crc15 f => some (three f fun a b c => (crc (0x4599 : BitVec 15) b (min (c.toNat % 128) 64) (a.setWidth 15)).setWidth 64)
  | _ => none

/-- The address that a branch goes to: its own + 8 times its sign-extended displacement (R189). -/
def target (s : State) (disp : BitVec 30) : Word := BitVec.ofInt 64 ((s.ctx s.who).pc.toInt + 8 * disp.toInt)

/-- The pc after a branch. -/
def branch (disp : BitVec 30) (taken : State → Vals → Bool) : State → Vals → Word :=
  fun s v => if taken s v then target s disp else (s.ctx s.who).pc + 8

/-- R189. -/
def holds (c : Cond) (a b : Word) : Bool :=
  match c with
  | .al => true
  | .eq => a = b
  | .ne => a ≠ b
  | .lt => a.toInt < b.toInt
  | .ge => a.toInt ≥ b.toInt
  | .ltu => a.toNat < b.toNat
  | .geu => a.toNat ≥ b.toNat

/-- R189 to R195 but for END and PAUSE. BRF reads a full/empty bit alone; a stream tests full when it holds an element. -/
def control : Instr → Option Row
  | .nop => some {}
  | .br c a b disp =>
    some { uses := if c = .al then {} else { a := some a, b := some b }, pc := branch disp fun _ v => holds c v.a v.b }
  | .brbit set a n disp =>
    some { uses := { a := some a }, pc := branch disp fun _ v => v.a.getLsbD n.toNat = set }
  | .brf empty a disp =>
    if a.toNat < 56 then some { pc := branch disp fun s _ => s.regFull s.who a 1 = !empty } else none
  | .loop a disp =>
    some { uses := { a := some a, out := [a.r], codeOk := 1 ≤ a.r.toNat && a.r.toNat ≤ 47 }, d := a.r
           val := fun _ v => v.a - 1, pc := branch disp fun _ v => v.a - 1 ≠ 0 }
  | .jal f =>
    some { uses := { out := [f.d] }, d := f.d, val := fun s _ => (s.ctx s.who).pc + 8
           pc := fun s _ => BitVec.ofInt 64 ((s.ctx s.who).pc.toInt + 8 * f.imm.toInt) }
  | .jalr f =>
    some { uses := { a := some f.a, out := [f.d] }, d := f.d, val := fun s _ => (s.ctx s.who).pc + 8
           pc := fun _ v => v.a, ok := fun v => v.a.toNat % 8 = 0 }
  | .rdcyc d k =>
    some { uses := { out := [d] }, d := d
           val := fun s _ =>
             match k with
             | .cycles => BitVec.ofNat 64 (s.cycle - s.bootAt)
             | .ins => BitVec.ofNat 64 (s.ctx s.who).insCount
             | .ident => BitVec.ofNat 64 (s.who.core * 16 + s.who.ctx) }
  | _ => none

/-- Every instruction of the scalar tables. -/
def scalar (i : Instr) : Option Row := (arith i <|> immediate i) <|> (field i <|> control i)

/-! ## The memory tables (R196 to R203, R218) -/

/-- A sign-extended offset. -/
def offset (o : BitVec 25) : Int := o.toInt

/-- The effective address of loads, stores and full/empty operations. -/
def ea2 (o : BitVec 25) (v : Vals) : Word := BitVec.ofInt 64 (v.a.toInt + v.b.toInt + offset o)
/-- The effective address of atomics. -/
def ea1 (o : BitVec 25) (v : Vals) : Word := BitVec.ofInt 64 (v.a.toInt + offset o)

/-- The low `n` bytes of a value. -/
def low (n : Nat) (w : Word) : Word := BitVec.ofNat 64 (w.toNat % 256 ^ n)

/-- R197: the bytes of a load and whether it sign-extends. -/
def loadWidth : Width → Nat × Bool
  | .b => (1, false) | .h => (2, false) | .w => (4, false) | .d => (8, false)
  | .bs => (1, true) | .hs => (2, true) | .ws => (4, true)
/-- R197: the bytes of a store. -/
def storeWidth : StWidth → Nat
  | .b => 1 | .h => 2 | .w => 4 | .d => 8

def load (f : LdF) (glob : Bool) : MemRow :=
  { uses := { a := some f.a, b := some f.b, late := [f.d] }, rx := f.rx, glob := glob
    kind := fun _ _ => .load (loadWidth f.w).1 (loadWidth f.w).2
    ea := ea2 f.off, align := (loadWidth f.w).1, dest := fun _ => .reg f.d, late := [f.d] }

def store (f : StF) (glob : Bool) : MemRow :=
  { uses := { dr := some f.d, a := some f.a, b := some f.b }, rx := f.rx, glob := glob
    kind := fun _ v => .store (storeWidth f.w) (low (storeWidth f.w) v.d), ea := ea2 f.off, align := storeWidth f.w }

/-- R203 and R344: an ACAS whose d is a stream register takes its compare value from it, and has no late result. -/
def atomic (op : AtomOp) (f : AtF) (glob : Bool) : MemRow :=
  let n := if f.dw then 8 else 4
  let late := if op = .cas ∧ 56 ≤ f.d.toNat then [] else [f.d]
  { uses := { dr := if op = .cas then some f.d else none, a := some f.a, b := some f.b, late := late }, rx := f.rx
    glob := glob, kind := fun _ v => .atomic op n (low n v.b) (low n v.d), ea := ea1 f.off, align := n
    dest := fun _ => if op = .cas ∧ 56 ≤ f.d.toNat then .none else .reg f.d, late := late }

/-- The lanes that a predicate operand selects; without one, all of them (R168, R208). -/
def lanes (s : State) (p : Pred) : BitVec 32 := (p.map fun i => rd (s.ctx s.who).p i.toNat 0).getD 0xFFFFFFFF

/-- Whether inactive lanes keep their old value: a predicate without zero-masking (R208). -/
def merges (p : Pred) (zm : Bool) : Bool := p.isSome && !zm

def vload (f : VLdF) (glob : Bool) : MemRow :=
  { uses := { a := some f.s, vdr := if merges f.p f.zm then some f.vd else none, vout := some f.vd }, rx := f.rx, glob := glob
    kind := fun _ _ => .vload, ea := fun v => v.a, align := 128
    dest := fun s => .vec f.vd (lanes s f.p) (merges f.p f.zm), vlate := some f.vd }

def vstore (f : VStF) (glob : Bool) : MemRow :=
  { uses := { a := some f.s, vdr := some f.vd }, rx := f.rx, glob := glob
    kind := fun s v => .vstore (lanes s f.p) v.vd, ea := fun v => v.a, align := 128 }

/-- The loads, stores and atomics. -/
def memory : Instr → Option MemRow
  | .ld f => some (load f false) | .gld f => some (load f true)
  | .st f => some (store f false) | .gst f => some (store f true)
  | .aadd f => some (atomic .add f false) | .gaadd f => some (atomic .add f true)
  | .aand f => some (atomic .and f false) | .gaand f => some (atomic .and f true)
  | .aor f => some (atomic .or f false) | .gaor f => some (atomic .or f true)
  | .axor f => some (atomic .xor f false) | .gaxor f => some (atomic .xor f true)
  | .amin f => some (atomic .min f false) | .gamin f => some (atomic .min f true)
  | .amax f => some (atomic .max f false) | .gamax f => some (atomic .max f true)
  | .aswp f => some (atomic .swp f false) | .gaswp f => some (atomic .swp f true)
  | .acas f => some (atomic .cas f false) | .gacas f => some (atomic .cas f true)
  | .aincb f => some (atomic .incb f false) | .gaincb f => some (atomic .incb f true)
  | .vld f => some (vload f false) | .vldg f => some (vload f true)
  | .vst f => some (vstore f false) | .vstg f => some (vstore f true)
  | _ => none

/-- A full/empty operation. -/
def feRow (f : FeF) (glob st : Bool) (k : Vals → AccKind) : MemRow :=
  { uses := { dr := if st then some f.d else none, a := some f.a, b := some f.b, late := if st then [] else [f.d] }, glob := glob
    kind := fun _ => k, ea := ea2 f.off, align := 8, dest := fun _ => if st then .none else .reg f.d
    late := if st then [] else [f.d] }

/-- The full/empty operations (R202). -/
def fullEmpty : Instr → Option MemRow
  | .ldx f => some (feRow f false false fun _ => .ldx) | .gldx f => some (feRow f true false fun _ => .ldx)
  | .stx f => some (feRow f false true fun v => .stx v.d) | .gstx f => some (feRow f true true fun v => .stx v.d)
  | .ldf f => some (feRow f false false fun _ => .ldf) | .gldf f => some (feRow f true false fun _ => .ldf)
  | _ => none

end Spec

/-! ## Accesses at their banks (R94, R95, R104, R203) -/

namespace Spec

/-- R197: the value of a load of `n` bytes. -/
def extend (n : Nat) (sx : Bool) (v : Nat) : Word :=
  if sx then (BitVec.ofNat (8 * n) v).signExtend 64 else (BitVec.ofNat (8 * n) v).setWidth 64

/-- R203: the value that an atomic leaves. -/
def combine (op : AtomOp) {w : Nat} (old v cmp : BitVec w) : BitVec w :=
  match op with
  | .add => old + v
  | .and => old &&& v
  | .or => old ||| v
  | .xor => old ^^^ v
  | .min => if v.toInt < old.toInt then v else old
  | .max => if v.toInt > old.toInt then v else old
  | .swp => v
  | .cas => if old = cmp then v else old
  | .incb => if old.toNat < v.toNat then old + 1 else old

/-- The byte sizes of scalar accesses (R197). -/
def sizes : List Nat := [1, 2, 4, 8]

end Spec

/-- An access that its place lets on, to a key, at its banks' turn: no earlier relaxed access to its granules is to come (R106);
either the slate switch or the walker gives the key now (R90, R97), with the banks of the access free (R94), and no watchpoint
stops it (R373), or it was let on to its key before and comes at the turn that it took then (R360); the storage has
no error or poison where it reads (R366), and nothing is parked at the words that it would change (R95); the memory is in its
canonical form. `t` is the state after the walker's bookkeeping; for a slate it is the state before. -/
structure State.Lands (s : State) (a : Access) (k : Nat) (t : State) : Prop where
  inv : s.Inv
  order : s.mustFollow a = false
  place : if s.arg.slot = true then k = a.key ∧ t = s
    else s.landParts a.who.core a.staff true a.addr a.kind.parts a.kind.need a.kind.use = .go k t
  core : a.who.core < 7680
  bank : s.arg.slot = true ∨ ∀ q ∈ s.turnKeys a k, s.bankFrom q ≤ s.cycle
  host : s.arg.slot = true ∨ (a.kind.bankOnly = true → isHostKey k = false)
  watch : s.arg.slot = true ∨ a.staff = true ∨ s.watched a k = false
  sound : t.latent = [] ∧ t.degraded (keyOctet k) (keySlate k) = false ∧ t.isPoisoned k a.kind.size = false
  quiet : ∀ p ∈ s.parked, ∀ w ∈ wordsOf k a.kind.size, p.word ≠ w

/-- The reply of an access with its value leaves its bank, and comes to its core the second half of its time later (R91); from
another die it is a packet of 16 bytes and the value. -/
def State.Replies (s t : State) (a : Access) (val : VWord) : Prop :=
  let b := { a with key := 0 }
  s.Carries t (s.endDie a) (dieOf a.who.core) false (16 + a.kind.size) (a.lat - a.lat / 2) .memoryReply
    { acc := b, vec := val }

/-- The acknowledgement of an access leaves its bank, and comes to its core the second half of its time later (R91). -/
def State.Acks (s t : State) (a : Access) : Prop :=
  let b := { a with key := 0 }
  s.Carries t (s.endDie a) (dieOf a.who.core) false 16 (a.lat - a.lat / 2) .storeAck { acc := b }

/-- The contexts, cores, octets and parked operations are as before. -/
def State.SameUnits (s t : State) : Prop :=
  t.ctxs = s.ctxs ∧ t.cores = s.cores ∧ t.octets = s.octets ∧ t.parked = s.parked

/-- Every byte outside `n` bytes from a key is as before. -/
def State.SameBytesBut (s t : State) (k n : Nat) : Prop :=
  ∀ x, (x < k ∨ k + n ≤ x) → memRead t.mem x = memRead s.mem x

/-- A reply's value reaches a scalar destination: it is full with the value, and every other scalar register of the context's
bank, and of the common and mailbox registers of its core, is as before. -/
def State.Filled (s t : State) (c : CtxId) (d : Reg) (w : Word) : Prop :=
  (d ≠ 0 → t.regVal c d 0 = w ∧ t.regFull c d 1 = true ∧ t.regPend c d = false) ∧
  t.regVal c 0 0 = 0 ∧
  ∀ r : Reg, r ≠ d → r.toNat < 56 →
    t.regVal c r 0 = s.regVal c r 0 ∧ t.regFull c r 1 = s.regFull c r 1 ∧ t.regPend c r = s.regPend c r

/-- A run at its place that no pair, drop, stop or reap complicates: its context is active there, has no buddy, is not dropped,
and has no refused relaxed access that its stop waits for. -/
structure State.Plainly (s : State) (c : CtxId) (run : Nat) : Prop where
  inCore : c.core < 7680
  place : s.inPlace c run
  active : (s.ctx c).life = .active
  noBuddy : (s.ctx c).buddy = none
  noDrop : (s.ctx c).drops = []
  noStop : (s.ctx c).relFault = none

/-! ## Vector instructions (R207 to R224) -/

/-- What a vector instruction that writes `w` to vd in its issue cycle leaves: vd full with the value; its flags added to the
sticky flags (R134); two turns more to skip where it met a subnormal (R46, R135); the generator after its roundings (R131); all
else as before, memory included. -/
structure State.WroteV (s t : State) (u : Uses) (vd : BitVec 3) (w : VWord) (fl : FFlags) (g : BitVec 32) (sub : Bool) : Prop where
  issued : s.Issued t ((s.ctx s.who).pc + 8)
  same : s.SameElse t
  ctx : let y := t.ctx s.who
    y = { s.ctx s.who with
          v := y.v, vFull := y.vFull, vPend := y.vPend, flags := (s.ctx s.who).flags ||| fl
          skips := if sub then (s.ctx s.who).skips + 2 else (s.ctx s.who).skips
          pc := y.pc, wait := y.wait, readyAt := y.readyAt, insCount := y.insCount, starting := y.starting,
          seated := y.seated, buddy := y.buddy }
  value : rd (t.ctx s.who).v vd.toNat 0 = w ∧ tb (t.ctx s.who).vFull vd.toNat = true ∧ tb (t.ctx s.who).vPend vd.toNat = false
  vectors : ∀ i, i < 8 → i ≠ vd.toNat → rd (t.ctx s.who).v i 0 = rd (s.ctx s.who).v i 0 ∧
    tb (t.ctx s.who).vFull i = tb (s.ctx s.who).vFull i ∧ tb (t.ctx s.who).vPend i = tb (s.ctx s.who).vPend i
  core : ({ s.coreAt s.who.core with rng := g } : Core).IssueFrame (t.coreAt s.who.core)
  scalars : ∀ r : Reg, r.toNat < 55 →
    t.regVal s.who r 0 = s.regVal s.who r 0 ∧ t.regFull s.who r 1 = s.regFull s.who r 1 ∧ t.regPend s.who r = s.regPend s.who r
  streams : ∀ i, i < 8 → ∃ n, n = countReads u.reads (BitVec.ofNat 6 (56 + i)) ∧
    (rd (t.coreAt s.who.core).q i {}).buf = (rd (s.coreAt s.who.core).q i {}).buf.drop n ∧
    (rd (t.coreAt s.who.core).q i {}).done = (rd (s.coreAt s.who.core).q i {}).done + n
  bytes : ∀ a, memRead t.mem a = memRead s.mem a

/-- What a late vector writer leaves at its issue: vd empty with a result pending, its flags, turns and generator as of its
issue (DEDUCED, assumption log 12), one late result more, and all else as before. -/
structure State.BeganV (s t : State) (vd : BitVec 3) (fl : FFlags) (g : BitVec 32) (sub : Bool) : Prop where
  issued : s.Issued t ((s.ctx s.who).pc + 8)
  contexts : ∀ c : CtxId, c.key ≠ s.who.key → t.ctx c = s.ctx c
  cores : ∀ k, k ≠ s.who.core → t.coreAt k = s.coreAt k
  ctx : let y := t.ctx s.who
    y = { s.ctx s.who with
          vFull := y.vFull, vPend := y.vPend, flags := (s.ctx s.who).flags ||| fl
          skips := if sub then (s.ctx s.who).skips + 2 else (s.ctx s.who).skips, lateOut := (s.ctx s.who).lateOut + 1
          pc := y.pc, wait := y.wait, readyAt := y.readyAt, insCount := y.insCount, starting := y.starting,
          seated := y.seated, buddy := y.buddy }
  empty : tb (t.ctx s.who).vFull vd.toNat = false ∧ tb (t.ctx s.who).vPend vd.toNat = true
  vectors : ∀ i, i < 8 → i ≠ vd.toNat →
    tb (t.ctx s.who).vFull i = tb (s.ctx s.who).vFull i ∧ tb (t.ctx s.who).vPend i = tb (s.ctx s.who).vPend i
  core : let l := t.coreAt s.who.core
    l = { s.coreAt s.who.core with rng := g, div := l.div, q := l.q, m := l.m, mFull := l.mFull, mPend := l.mPend, m7q := l.m7q }
  bytes : ∀ a, memRead t.mem a = memRead s.mem a

namespace Spec

/-- R208: whether lane `i` of `w` bits is active. -/
def active (s : State) (p : Pred) (w i : Nat) : Prop :=
  ∀ j ∈ p, (rd (s.ctx s.who).p j.toNat 0).getLsbD (i * w / 32) = true

/-- R207: lane `i` of a vector. -/
def lane (v : VWord) (w i : Nat) : BitVec w := v.extractLsb' (w * i) w

/-- The registers of a lane-wise instruction: its sources, and vd where inactive lanes keep its lanes (R209). -/
def vUses (vs : List VSrc) (vd : BitVec 3) (p : Pred) (zm : Bool) : Uses :=
  { vs := vs, vdr := if merges p zm then some vd else none, vout := some vd }

/-- What a rule says of a lane-wise instruction that rounds nothing: its registers, its lane type and predicate, and the value
of an active lane. -/
structure LaneRow where
  uses : Uses
  vd : BitVec 3
  lt : Fmt
  p : Pred := none
  zm : Bool := false
  val : State → Vals → (i : Nat) → BitVec lt.width

/-- Two-source logic. -/
def log (f : VLog) (g : BitVec f.lt.width → BitVec f.lt.width → BitVec f.lt.width) : LaneRow :=
  { uses := vUses [f.va, f.vb] f.vd f.p f.zm, vd := f.vd, lt := f.lt, p := f.p, zm := f.zm
    val := fun _ v i => g (lane (v.vs.getD 0 0) _ i) (lane (v.vs.getD 1 0) _ i) }

/-- R214 and R217: bitwise instructions, shifts, selection, and the moves of lanes. -/
def lanesTable : Instr → Option LaneRow
  | .vand f => some (log f fun a b => a &&& b)
  | .vor f => some (log f fun a b => a ||| b)
  | .vxor f => some (log f fun a b => a ^^^ b)
  | .vandn f => some (log f fun a b => a &&& ~~~b)
  | .vshl f => some (log f fun a b => a <<< (b.toNat % f.lt.width))
  | .vshr f => some (log f fun a b => a >>> (b.toNat % f.lt.width))
  | .vsra f => some (log f fun a b => a.sshiftRight (b.toNat % f.lt.width))
  | .vsel f =>
    some { uses := { vs := [f.va, f.vb], vout := some f.vd }, vd := f.vd, lt := f.lt
           val := fun s v i =>
             if (rd (s.ctx s.who).p f.pr.toNat 0).getLsbD (i * f.lt.width / 32) then lane (v.vs.getD 0 0) _ i
             else lane (v.vs.getD 1 0) _ i }
  | .vmov f =>
    some { uses := vUses [f.va] f.vd f.p f.zm, vd := f.vd, lt := f.lt, p := f.p, zm := f.zm
           val := fun _ v i => lane (v.vs.getD 0 0) _ i }
  | .vbcast f =>
    some { uses := { vUses [] f.vd f.p f.zm with a := some f.s }, vd := f.vd, lt := f.lt, p := f.p, zm := f.zm
           val := fun _ v _ => v.a.setWidth _ }
  | .vins f =>
    some { uses := { a := some f.s, vdr := some f.vd, vout := some f.vd }, vd := f.vd, lt := f.lt
           val := fun _ v i => if i = f.i.toNat then v.a.setWidth _ else lane v.vd _ i }
  | .vperm f =>
    some { uses := vUses [f.va, f.vb] f.vd f.p f.zm, vd := f.vd, lt := f.lt, p := f.p, zm := f.zm
           val := fun _ v i => lane (v.vs.getD 0 0) _ ((lane (v.vs.getD 1 0) f.lt.width i).toNat % (1024 / f.lt.width)) }
  | .vrot f =>
    some { uses := { vUses [f.va] f.vd f.p f.zm with a := some f.s }, vd := f.vd, lt := f.lt, p := f.p, zm := f.zm
           val := fun _ v i => lane (v.vs.getD 0 0) _ ((i + v.a.toNat) % (1024 / f.lt.width)) }
  | .vzip f =>
    some { uses := vUses [f.va, f.vb] f.vd f.p f.zm, vd := f.vd, lt := f.lt, p := f.p, zm := f.zm
           val := fun _ v i =>
             let h := if f.alt then 1024 / f.lt.width / 2 else 0
             if i % 2 = 0 then lane (v.vs.getD 0 0) _ (h + i / 2) else lane (v.vs.getD 1 0) _ (h + i / 2) }
  | .vunzip f =>
    some { uses := vUses [f.va, f.vb] f.vd f.p f.zm, vd := f.vd, lt := f.lt, p := f.p, zm := f.zm
           val := fun _ v i =>
             let j := 2 * i + if f.alt then 1 else 0
             let l := 1024 / f.lt.width
             if j < l then lane (v.vs.getD 0 0) _ j else lane (v.vs.getD 1 0) _ (j - l) }
  | _ => none

/-- What a rule says of a lane-wise instruction that rounds: its sources and fields, and an active lane's element, flags and
generator from its lane number and the generator before it. -/
structure RoundRow where
  vs : List VSrc
  vd : BitVec 3
  lt : Fmt
  p : Pred
  zm : Bool
  out : State → Vals → Nat → BitVec 32 → Out

/-- The mode of a rounding field (R210). -/
def mode (s : State) (r : Rnd) : Mode :=
  match r with
  | .rne => .rne | .rz => .rz | .ru => .ru | .rd => .rd | .sr => .sr
  | .dyn => Mode.ofCode (s.ctx s.who).rm.toNat

/-- Lane `i` of source `k` as a number. -/
def src (v : Vals) (k w i : Nat) : Nat := (lane (v.vs.getD k 0) w i).toNat

/-- R211, R213: an integer lane: the exact result, wrapped or clamped. -/
def intLane (w : Nat) (sat : Bool) (x : Int) (g : BitVec 32) : Out :=
  let y := if sat then max (-(2 ^ (w - 1))) (min (2 ^ (w - 1) - 1) x) else x
  ⟨(BitVec.ofInt w y).toNat, 0, g, false⟩

/-- R211, R212: a float lane: the exact result rounded once into the lane format, with the flags of the operation and of the
rounding, and R135's subnormals. -/
def floatLane (op : VOp) (lt : Fmt) (m : Mode) (n a b c : Nat) (g : BitVec 32) : Out :=
  let o := arithLane op lt m false a b c g
  { o with sub := o.sub || isSub lt a || (decide (2 ≤ n) && isSub lt b) || (decide (3 ≤ n) && isSub lt c) }

/-- A lane of an arithmetic instruction with `n` sources. -/
def arithOut (op : VOp) (lt : Fmt) (rnd : Rnd) (sat : Bool) (n : Nat) (int : Int → Int → Int) (s : State) (v : Vals) (i : Nat)
    (g : BitVec 32) : Out :=
  let w := lt.width
  if lt.isFloat then floatLane op lt (mode s rnd) n (src v 0 w i) (src v 1 w i) (src v 2 w i) g
  else intLane w sat (int (lane (v.vs.getD 0 0) w i).toInt (lane (v.vs.getD 1 0) w i).toInt) g

def bin (op : VOp) (f : VBin) (int : Int → Int → Int) : RoundRow :=
  ⟨[f.va, f.vb], f.vd, f.lt, f.p, f.zm, arithOut op f.lt f.rnd f.sat 2 int⟩
def un (op : VOp) (f : VUn) (int : Int → Int) : RoundRow :=
  ⟨[f.va], f.vd, f.lt, f.p, f.zm, arithOut op f.lt f.rnd f.sat 1 fun a _ => int a⟩
def ter (op : VOp) (f : VTer) : RoundRow :=
  ⟨[f.va, f.vb, f.vc], f.vd, f.lt, f.p, f.zm, arithOut op f.lt f.rnd false 3 fun a _ => a⟩

/-- The immediate arithmetic of R211, and VCVT (R222). -/
def rounding : Instr → Option RoundRow
  | .vadd f => some (bin .add f (· + ·))
  | .vsub f => some (bin .sub f (· - ·))
  | .vmul f => some (bin .mul f (· * ·))
  | .vmin f => some (bin .min f min)
  | .vmax f => some (bin .max f max)
  | .vabs f => some (un .abs f fun a => |a|)
  | .vneg f => some (un .neg f fun a => -a)
  | .vfma f => some (ter .fma f)
  | .vfms f => some (ter .fms f)
  | .vcvt f =>
    some ⟨[f.va], f.vd, f.lt, f.p, f.zm, fun s v i g =>
      let x := src v 0 f.lt.width i
      let o := roundNarrow f.lt (fmtValue f.st x) (mode s f.rnd) f.nan g
      { o with sub := isSub f.lt o.enc || isSub f.st x }⟩
  | _ => none

/-- The late arithmetic of R211, with the cycles of R209 on the two steppings. -/
def roundingLate : Instr → Option (RoundRow × Nat × Nat)
  | .vdiv f => some (bin .div f fun a _ => a, 24, 16)
  | .vsqrt f => some (un .sqrt f id, 24, 16)
  | .vrcp f => some (un .rcp f id, 16, 12)
  | .vrsq f => some (un .rsq f id, 16, 12)
  | .vexp2 f => some (un .exp2 f id, 16, 12)
  | .vlog2 f => some (un .log2 f id, 16, 12)
  | _ => none

/-- What lanes computed in ascending order give (R131, R208): `g i` is the generator before lane `i`. -/
structure Rounds (r : RoundRow) (s : State) (w : VWord) (fl : FFlags) (sub : Bool) (g : Nat → BitVec 32) : Prop where
  first : g 0 = (s.coreAt s.who.core).rng
  next : ∀ i, i < 1024 / r.lt.width →
    (active s r.p r.lt.width i → g (i + 1) = (r.out s (s.vals (vUses r.vs r.vd r.p r.zm)) i (g i)).rng) ∧
    (¬ active s r.p r.lt.width i → g (i + 1) = g i)
  value : ∀ i, i < 1024 / r.lt.width →
    (active s r.p r.lt.width i →
      (lane w r.lt.width i).toNat = (r.out s (s.vals (vUses r.vs r.vd r.p r.zm)) i (g i)).enc % 2 ^ r.lt.width) ∧
    (¬ active s r.p r.lt.width i → lane w r.lt.width i =
      if r.zm then 0 else lane (rd (s.ctx s.who).v r.vd.toNat 0) r.lt.width i)
  flags : ∀ b, b < 5 → (fl.getLsbD b = true ↔ ∃ i, i < 1024 / r.lt.width ∧ active s r.p r.lt.width i ∧
    (r.out s (s.vals (vUses r.vs r.vd r.p r.zm)) i (g i)).flags.getLsbD b = true)
  subs : sub = true ↔ ∃ i, i < 1024 / r.lt.width ∧ active s r.p r.lt.width i ∧
    (r.out s (s.vals (vUses r.vs r.vd r.p r.zm)) i (g i)).sub = true

end Spec

namespace Spec

/-- The predicate registers' number of set bits and lowest set bit (R216), and a lane as a scalar (R217). -/
def vectorScalar : Instr → Option Row
  | .pcnt pa r =>
    some { uses := { out := [r] }, d := r
           val := fun s _ => BitVec.ofNat 64 ((List.range 32).countP fun i => (rd (s.ctx s.who).p pa.toNat 0).getLsbD i) }
  | .pfirst pa r =>
    some { uses := { out := [r] }, d := r
           val := fun s _ =>
             let m := rd (s.ctx s.who).p pa.toNat 0
             if m = 0 then 32 else BitVec.ofNat 64 (m &&& (0 - m)).toNat.log2 }
  | .vext f =>
    some { uses := { vs := [f.va], out := [f.s] }, d := f.s
           val := fun _ v => (lane (v.vs.getD 0 0) f.lt.width f.i.toNat).setWidth 64 }
  | _ => none

/-- R216: the predicate that a predicate operation writes. -/
def predicate : Instr → Option (BitVec 2 × ((BitVec 2 → BitVec 32) → BitVec 32))
  | .pand pd a b => some (pd, fun p => p a &&& p b)
  | .por pd a b => some (pd, fun p => p a ||| p b)
  | .pxor pd a b => some (pd, fun p => p a ^^^ p b)
  | .pnot pd a => some (pd, fun p => ~~~ p a)
  | _ => none

/-- R215: a condition on two values. -/
def compares (f : VCmpF) (a b : BitVec 32) : Bool :=
  if f.i32 then
    let x : Int := if f.u then a.toNat else a.toInt
    let y : Int := if f.u then b.toNat else b.toInt
    match f.cc with
    | .eq => x = y | .ne => x ≠ y | .lt => x < y | .le => x ≤ y | .gt => x > y | .ge => x ≥ y | .un => false
  else
    let x := fmtValue .fp32 a.toNat
    let y := fmtValue .fp32 b.toNat
    let nan := x.isNan || y.isNan
    match f.cc with
    | .un => nan
    | .ne => nan || x.lt y || y.lt x
    | .eq => !nan && !x.lt y && !y.lt x
    | .lt => !nan && x.lt y
    | .le => !nan && !y.lt x
    | .gt => !nan && y.lt x
    | .ge => !nan && !x.lt y

/-- The vector instructions that write a whole register from all their lanes: reductions, scans, packs and Tint unpacks. -/
def whole : Instr → Option (Uses × BitVec 3 × (State → Vals → VRes))
  | .vrsum f => some ({ vs := [f.va], vout := some f.vd }, f.vd, fun s v => sumRes f (s.ctx s.who) (s.coreAt s.who.core) v)
  | .vrmax f => some ({ vs := [f.va], vout := some f.vd }, f.vd, fun s v => extremeRes true f (s.ctx s.who) (s.coreAt s.who.core) v)
  | .vrmin f => some ({ vs := [f.va], vout := some f.vd }, f.vd, fun s v => extremeRes false f (s.ctx s.who) (s.coreAt s.who.core) v)
  | .vrand f =>
    some ({ vs := [f.va], vout := some f.vd }, f.vd, fun s v =>
      foldRes f (2 ^ f.lt.width - 1) (fun a b => a &&& b) (s.ctx s.who) (s.coreAt s.who.core) v)
  | .vror f =>
    some ({ vs := [f.va], vout := some f.vd }, f.vd, fun s v =>
      foldRes f 0 (fun a b => a ||| b) (s.ctx s.who) (s.coreAt s.who.core) v)
  | .vscan f => some (vUses [f.va] f.vd f.p f.zm, f.vd, fun s v => scanRes f (s.ctx s.who) (s.coreAt s.who.core) v)
  | .vpack f =>
    some ({ vs := [f.va], vdr := some f.vd, vout := some f.vd }, f.vd, fun s v =>
      let n := 1024 / f.st.width
      let w := f.lt.width
      let (xs, fl, g, sb) := runLanes (fun i g => convLane f.lt f.st (mode s f.rnd) f.nan (src v 0 f.st.width i) g) (List.range n)
        (s.coreAt s.who.core).rng
      { v := replaceBits v.vd (f.q.toNat * n * w) (n * w) (packElems w xs), flags := fl, rng := g, sub := sb })
  | .vunpk f =>
    some ({ vs := [f.va], vout := some f.vd }, f.vd, fun s v =>
      let n := 1024 / f.lt.width
      let w := f.st.width
      let (xs, fl, g, sb) := runLanes (fun i g =>
        convLane f.lt f.st (mode s f.rnd) f.nan (((v.vs.getD 0 0).extractLsb' (f.q.toNat * n * w + w * i) w).toNat) g)
        (List.range n) (s.coreAt s.who.core).rng
      { v := packLanes f.lt.width xs, flags := fl, rng := g, sub := sb })
  | .vtunpk f =>
    some ({ vs := [f.va], a := some f.s, vout := some f.vd }, f.vd, fun s v =>
      let n := 1024 / f.lt.width
      let w := f.st.width
      let (xs, fl, g, sb) := runLanes (fun i g =>
        let h := (v.a.extractLsb' (16 * (i / 16)) 16).toNat
        let e := ((v.vs.getD 0 0).extractLsb' (f.q.toNat * n * w + w * i) w).toNat
        let o := roundNarrow f.lt (tintValue f.st h e (i % 16)) (mode s f.rnd) f.nan g
        { o with sub := isSub f.lt o.enc }) (List.range n) (s.coreAt s.who.core).rng
      { v := packLanes f.lt.width xs, flags := fl, rng := g, sub := sb })
  | _ => none

/-- The integer reductions of R220 over the active lanes, without clamping; `none` where no lane is active. -/
def reduce : Instr → Option (VUn × (List Int → Int) × (List Nat → Nat) × Bool)
  | .vrsum f => some (f, List.sum, fun _ => 0, true)
  | .vrand f => some (f, fun _ => 0, fun l => l.foldl (· &&& ·) (2 ^ f.lt.width - 1), false)
  | .vror f => some (f, fun _ => 0, fun l => l.foldl (· ||| ·) 0, false)
  | .vrmax f => some (f, fun l => l.foldl max (-(2 ^ (f.lt.width - 1))), fun _ => 0, true)
  | .vrmin f => some (f, fun l => l.foldl min (2 ^ (f.lt.width - 1) - 1), fun _ => 0, true)
  | _ => none

/-- The active lanes of a source, in order. -/
def activeLanes (s : State) (p : Pred) (v : VWord) (w : Nat) : List (BitVec w) :=
  ((List.range (1024 / w)).filter fun i => p.all fun j => (rd (s.ctx s.who).p j.toNat 0).getLsbD (i * w / 32)).map (lane v w)

end Spec

/-! ## Instructions beyond the tables -/

/-- A core after an instruction has read `u`: m7 is emptied, or takes the next notice, where it was read (R72, R340), and each
stream has given its elements (R75). -/
def Core.after (k : Core) (u : Uses) : Core :=
  let k := if u.reads.any fun p => p.1 == 55 then k.takeM 7 else k
  { k with
    q := Vector.ofFn fun i : Fin 8 =>
      { k.q[i] with buf := k.q[i].buf.drop (countReads u.reads (BitVec.ofNat 6 (56 + i)))
                    done := k.q[i].done + countReads u.reads (BitVec.ofNat 6 (56 + i)) } }

/-- What an instruction that ends past itself leaves of contexts, cores and memory: its context is `x` but for its place in the
rotation and its count of issued instructions, its core is `k`, and the other contexts and cores, and every byte, are as
before. -/
structure State.Passed (s t : State) (x : Ctx) (k : Core) : Prop where
  issued : s.Issued t ((s.ctx s.who).pc + 8)
  ctx : let y := t.ctx s.who
    y = { x with pc := y.pc, wait := y.wait, readyAt := y.readyAt, insCount := y.insCount, starting := y.starting,
                 seated := y.seated, buddy := y.buddy }
  contexts : ∀ c : CtxId, c.key ≠ s.who.key → t.ctx c = s.ctx c
  core : t.coreAt s.who.core = k
  cores : ∀ j, j ≠ s.who.core → t.coreAt j = s.coreAt j
  bytes : ∀ a, memRead t.mem a = memRead s.mem a

/-- No effect bit is still to be set for a run (R265): it is gone, has no agent record, or has set it. -/
def State.NoEffectBit (s : State) (c : CtxId) (run : Nat) : Prop :=
  ∀ x, s.runCtx c run = some x → x.agentRec = 0 ∨ x.ebDone = true

/-- Nothing is parked at the words of a range (R95). -/
def State.Quiet (s : State) (k n : Nat) : Prop := ∀ p ∈ s.parked, ∀ w ∈ wordsOf k n, p.word ≠ w

namespace Spec

/-- Whether a completion word satisfies a CWAIT (R103): their difference modulo 2^62 is below 2^61. -/
def satisfied (w T : Nat) : Prop := ((w : Int) - T) % 2 ^ 62 < 2 ^ 61

/-- A completion word after an increment (R103): one more in its low 62 bits, bit 62 as it was, and err set for good. -/
def incremented (w : Nat) (err : Bool) : Nat :=
  (w + 1) % 2 ^ 62 + w / 2 ^ 62 % 2 * 2 ^ 62 + (if err ∨ w / 2 ^ 63 % 2 = 1 then 2 ^ 63 else 0)

/-- The bytes of an element of CPYR (R280). -/
def elemBytes : RedTy → Nat
  | .i32 => 4 | .i64 => 8 | .f32 => 4 | .bf16 => 2 | .f16 => 2

/-- A slate-map entry as R89 lays it out. -/
def entry (w : Win) : Word :=
  (if w.valid then 2 ^ 31 else 0) + BitVec.ofNat 64 (w.slate * 2 ^ 26) + BitVec.ofNat 64 (w.gen.toNat * 2 ^ 18) +
    BitVec.ofNat 64 (w.own.toNat * 2 ^ 16) + BitVec.ofNat 64 (w.rem.toNat * 2 ^ 14)

end Spec

/-! ## The matrix unit (R234 to R261) -/

/-- What the rules say of a command as it issues: its registers, the access that it leaves outstanding, its address with the rights
it needs, the command, a cause for which it is refused, and what the core's record of its kept slots becomes. -/
structure MxuRow where
  uses : Uses := {}
  plain : Plain := .none
  addr : Vals → Option (Word × Need) := fun _ => none
  cmd : State → Vals → Cmd
  broken : State → Vals → Option Nat := fun _ _ => none
  kept : Core → Core := id

namespace Spec

/-- The shape and scale registers of a tile of the issuing core. -/
def shape (s : State) (t : BitVec 2) : TShape :=
  ⟨rd (s.coreAt s.who.core).shape t.toNat 0, rd (s.coreAt s.who.core).scale t.toNat 0⟩

/-- The slot registers with one replaced. -/
def keep (acc : BitVec 2) (k : Option (Nat × Nat)) (x : Core) : Core := { x with kept := wr x.kept acc.toNat k }

/-- TLD and TST: a broken shape, or .sc without a scale plane, is refused with 0x20 (R237, R261). -/
def plane (s : State) (f : TileF) : Option Nat :=
  match (shape s f.t).info with
  | none => some 0x20
  | some i => if f.sc ∧ i.hb = 0 then some 0x20 else none

/-- The commands of 13 but for MATX. -/
def mxu : Instr → Option MxuRow
  | .tld f =>
    some { uses := { a := some f.a, b := some f.b }, plain := .load, addr := fun v => some (v.a, .load)
           cmd := fun s v => .tld f.t.toNat f.sc v.a v.b (shape s f.t), broken := fun s _ => plane s f }
  | .tst f =>
    some { uses := { a := some f.a, b := some f.b }, plain := .store, addr := fun v => some (v.a, .store)
           cmd := fun s v => .tst f.t.toNat f.sc v.a v.b (shape s f.t), broken := fun s _ => plane s f }
  | .tldt t a b =>
    some { uses := { a := some a, b := some b }, plain := .load, addr := fun v => some (v.a, .load)
           cmd := fun s v => .tldt t.toNat v.a v.b (shape s t)
           broken := fun s _ =>
             match (shape s t).info with
             | none => some 0x20
             | some i => if (i.fmt.width = 8 ∨ i.fmt.width = 16 ∨ i.fmt.width = 32) ∧ i.mx = false ∧ i.fmt.isTint = false then none
               else some 0x20 }
  | .tzero t => some { cmd := fun _ _ => .tzero t.toNat }
  | .tcopy td ts => some { cmd := fun _ _ => .tcopy td.toNat ts.toNat }
  | .drainld n a =>
    some { uses := { a := some a }, plain := .load, addr := fun v => some (v.a, .load), cmd := fun _ v => .drainld n.toNat v.a
           broken := fun _ v => if v.a.toNat % 4 ≠ 0 then some 0x15 else none }
  | .accld f =>
    some { uses := { a := some f.a, b := some f.b }, plain := .load, addr := fun v => some (v.a, .load)
           cmd := fun _ v => .accld f.acc.toNat v.a v.b (f.m.toNat + 1) (f.n.toNat + 1)
           kept := keep f.acc (some (f.m.toNat + 1, f.n.toNat + 1)) }
  | .accst f =>
    some { uses := { a := some f.a, b := some f.b }, plain := .store, addr := fun v => some (v.a, .store)
           cmd := fun _ v => .accst f.acc.toNat v.a v.b (f.m.toNat + 1) (f.n.toNat + 1)
           broken := fun s _ =>
             if rd (s.coreAt s.who.core).kept f.acc.toNat none = some (f.m.toNat + 1, f.n.toNat + 1) then none else some 0x20 }
  | .accrel acc =>
    some { cmd := fun _ _ => .accrel acc.toNat
           broken := fun s _ => if rd (s.coreAt s.who.core).kept acc.toNat none = none then some 0x20 else none
           kept := keep acc none }
  | _ => none

/-- The commands of the issuing core that its octet has not taken. -/
def queued (s : State) : List MxuCmd :=
  (s.octet (octetOf s.who.core)).mxu.cmds.filter fun c => c.seat = seatOf s.who.core ∧ c.taken = false

/-- A command as the issuing context issues it. -/
structure Queued (s : State) (c : MxuCmd) (k : Cmd) : Prop where
  who : c.who = s.who
  run : c.run = (s.ctx s.who).run
  seat : c.seat = seatOf s.who.core
  staff : c.staff = decide (s.priv s.who = 2)
  pc : c.pc = (s.ctx s.who).pc
  word : c.word = s.word
  taken : c.taken = false
  pos : c.pos = 0
  cmd : c.cmd = k

/-- A MATX that its octet has taken and that waits for its start (R246). -/
def waiting (c : MxuCmd) (x : Matx) : Prop := c.taken = true ∧ x.started = false ∧ x.failed = false

/-- Whether a MATX may start under its octet's pass: the pass has been held for less than 4,096 cycles (R163), and the die's count is
not 0 (R164). -/
def mayStart (s : State) (o : Nat) : Prop :=
  (s.die (octetDie o)).passCount ≠ 0 ∧ ∃ at', (s.octet o).pass = some at' ∧ s.cycle < at' + 4096

/-- A MATX that waits for the array: it has blocks left, or its grant is to start it (R246, R247). -/
def forArray (s : State) (o : Nat) (c : MxuCmd) (x : Matx) : Prop :=
  (x.started = true ∧ x.sumsDone = false ∧ x.blocks < x.blockCount) ∨ (waiting c x ∧ x.f.cohort = .c1 ∧ mayStart s o)

/-- A MATX as its start leaves it, with A, its sparsity and its metadata from one MATX and B from another (R246, R248). -/
def started (s : State) (x : Matx) (ca : Nat) (xa : Matx) (a : Shape) (cb : Nat) (xb : Matx) (b : Shape) : Matx :=
  { x with
    started := true, ia := xa.sa, ib := xb.sb, im := xa.sm, sparse := .dense
    opA := s.planes ca xa.f.ta.toNat a, opB := s.planes cb xb.f.tb.toNat b, opM := [], m := a.rows, n := b.cols }

/-- The members of a MATX's cohort that are taken and wait, each at its row and column (R248). -/
def member (s : State) (x : Matx) (seat i j : Nat) (o : Nat) (c : MxuCmd) (y : Matx) : Prop :=
  (i, j, some (o, c, y)) ∈ s.members x seat

/-- Whether a member of a MATX's cohort is not taken yet. -/
def missing (s : State) (x : Matx) (seat : Nat) : Prop := ∃ m ∈ s.members x seat, m.2.2 = none

/-- Whether an ISOL fences a member octet of a MATX's cohort (R385). -/
def fenced (s : State) (x : Matx) (seat : Nat) : Prop :=
  ∃ t ∈ x.launch, ∃ i j, i < (cohortDims x.f.cohort).1 ∧ j < (cohortDims x.f.cohort).2 ∧
    ∃ f ∈ s.fences, f.has (coreOfSeat (memberOctet t i j) seat) = true

/-- The elements of k that a step of the loop sums (R127). -/
def group (a b : Fmt) : Nat :=
  if a ∈ [Fmt.fp32, .fp16, .bf16] ∨ b ∈ [Fmt.fp32, .fp16, .bf16] then 1
  else if a ∈ [Fmt.e4m3, .e5m2, .e3m2, .int8, .tn5, .tn8] ∨ b ∈ [Fmt.e4m3, .e5m2, .e3m2, .int8, .tn5, .tn8] then 2
  else 4

/-- R126: the accumulator after `n` steps over the products `p` of `K` elements, in groups of `g`. -/
def loop (g : Nat) (p : Nat → Num) (K : Nat) (was : Aw40) : Nat → Aw40
  | 0 => was
  | n + 1 =>
    roundAW40 ((aw40Val (loop g p K was n)).add (sumAll (((List.range g).filter fun j => n * g + j < K).map fun j => p (n * g + j))))

/-- The words of a drain program that write one register of each element (R254). -/
def drainWord : Instr → Option (BitVec 3 × (Pipe → List Aw40))
  | .dmov dd da => some (dd, fun p => rd p.d da.toNat [])
  | .dadd dd da db => some (dd, two' da db fun a b => a.add b)
  | .dsub dd da db => some (dd, two' da db fun a b => a.add b.opp)
  | .dmul dd da db => some (dd, two' da db Num.mul)
  | .dmin dd da db => some (dd, two' da db Num.min)
  | .dmax dd da db => some (dd, two' da db Num.max)
  | .dfma dd da db dc => some (dd, three' da db dc fun a b c => (a.mul b).add c)
  | .dclmp dd da db dc => some (dd, three' da db dc fun a b c => (a.max b).min c)
  | .dabs dd da => some (dd, one' da Num.abs)
  | .dneg dd da => some (dd, one' da Num.opp)
  | .dexp2 dd da => some (dd, one' da fun a => (floatOp .exp2 a a a false).1)
  | .drcp dd da => some (dd, one' da fun a => (floatOp .rcp a a a false).1)
  | .drsq dd da => some (dd, one' da fun a => (floatOp .rsq a a a false).1)
  | .dsel cc dd da db dc =>
    some (dd, fun p => (List.range (min (min (rd p.d da.toNat []).length (rd p.d db.toNat []).length) (rd p.d dc.toNat []).length)).map
      fun j => if sel cc (aw40Val ((rd p.d dc.toNat []).getD j 0)) then (rd p.d da.toNat []).getD j 0 else (rd p.d db.toNat []).getD j 0)
  | _ => none
where
  one' (da : BitVec 3) (f : Num → Num) (p : Pipe) : List Aw40 := (rd p.d da.toNat []).map fun a => roundAW40 (f (aw40Val a))
  two' (da db : BitVec 3) (f : Num → Num → Num) (p : Pipe) : List Aw40 :=
    (List.range (min (rd p.d da.toNat []).length (rd p.d db.toNat []).length)).map fun j =>
      roundAW40 (f (aw40Val ((rd p.d da.toNat []).getD j 0)) (aw40Val ((rd p.d db.toNat []).getD j 0)))
  three' (da db dc : BitVec 3) (f : Num → Num → Num → Num) (p : Pipe) : List Aw40 :=
    (List.range (min (min (rd p.d da.toNat []).length (rd p.d db.toNat []).length) (rd p.d dc.toNat []).length)).map fun j =>
      roundAW40 (f (aw40Val ((rd p.d da.toNat []).getD j 0)) (aw40Val ((rd p.d db.toNat []).getD j 0))
        (aw40Val ((rd p.d dc.toNat []).getD j 0)))
  sel (cc : DCond) (c : Num) : Bool :=
    match cc with
    | .gt => !c.isNan && Num.zero.lt c
    | .ge => !c.isNan && !c.lt Num.zero
    | .lt => !c.isNan && c.lt Num.zero
    | .le => !c.isNan && !Num.zero.lt c
    | .eq => c.isZero
    | .ne => !c.isZero

end Spec

/-- The taken members of a cohort are refused with a cause (R329, R385): each ends with err, and nothing else changes but what their
cores hold in the slots. -/
def State.CohortRefused (s t : State) (x : Matx) (seat cause : Nat) : Prop :=
  t.mem = s.mem ∧ t.ctxs = s.ctxs ∧ (∀ k, { t.coreAt k with kept := (s.coreAt k).kept } = s.coreAt k) ∧
  ∀ i j o c y, Spec.member s x seat i j o c y → ∃ e z, t.matx o c.id = some (e, z) ∧ z.failed = true ∧ z.err = some (cause, 0)

/-- What a drain word leaves: only its octet's matrix unit and the drain's operands have changed. -/
structure State.DrainFrame (s t : State) : Prop where
  ctxs : t.ctxs = s.ctxs
  cores : t.cores = s.cores
  dies : t.dies = s.dies
  mem : t.mem = s.mem
  agenda : t.agenda = s.agenda

/-! ## Nets (R26 to R43, R263 to R271) -/

/-- What the rules say of a net instruction that is a plain access: its registers, whether it needs its net's descriptor, its
address operands with their alignment and the right that they need, its access, and its late destinations. -/
structure NetRow where
  uses : Uses
  net : Bool := true
  bad : Vals → Prop := fun _ => False
  addrs : State → Vals → List (Word × Nat)
  need : Need := .fullEmpty
  kind : State → Vals → AccKind
  addr : State → Vals → Word
  dest : Dest := .none
  late : List Reg := []

namespace Spec

/-- A dword of the descriptor of the issuing context's net (R266): 2 its payload store, 3 its arena. -/
def netWord (s : State) (i : Nat) : Word :=
  BitVec.ofNat 64 (s.dword s.who.core (BitVec.ofNat 64 (s.desc (s.ctx s.who).net.toNat + 8 * i)))

/-- The alignment of a record operand (R26, R269): the record's size, 64 bytes where sz of its header is set (R27). -/
def recordSize (s : State) (a : Word) : Nat := if s.dword s.who.core a / 2 ^ 46 % 2 = 1 then 64 else 32

/-- The net instructions that are plain accesses (R263, R269 to R271). -/
def net : Instr → Option NetRow
  | .agent d a b =>
    some { uses := { a := some a, b := some b, late := [d] }, bad := fun v => v.a.getLsbD 48 = false ∧ (b.r ≠ 0 ∨ b.e = true)
           addrs := fun _ _ => [], kind := fun s v => .agent v.a v.b (s.ctx s.who).net.toNat, addr := fun s _ => netWord s 3
           dest := .reg d, late := [d] }
  | .free a =>
    some { uses := { a := some a }, addrs := fun s v => [(v.a, recordSize s v.a)], kind := fun s _ => .free (s.ctx s.who).net.toNat
           addr := fun _ v => v.a }
  | .link a b =>
    some { uses := { a := some a, b := some b }, net := false, addrs := fun _ v => [(v.a, 8), (v.b, 8)]
           kind := fun s v => .link (if first s v then v.a else v.b), addr := fun s v => if first s v then v.b else v.a }
  | .splice a b =>
    some { uses := { a := some a, b := some b }, net := false, addrs := fun _ v => [(v.a, 8), (v.b, 8)]
           kind := fun _ v => .splice v.b, addr := fun _ v => v.a }
  | .join a b =>
    some { uses := { a := some a, b := some b }, addrs := fun _ v => [(v.a, 8), (v.b, 8)]
           kind := fun s v => .join v.a v.b (s.ctx s.who).net.toNat, addr := fun s _ => netWord s 3 }
  | .pref a =>
    some { uses := { a := some a }, net := false, addrs := fun _ v => [(v.a, 32)], need := .store, kind := fun _ _ => .pref
           addr := fun _ v => v.a }
  | .unref a =>
    some { uses := { a := some a }, addrs := fun _ v => [(v.a, 32)], need := .store
           kind := fun s _ => .unref (s.ctx s.who).net.toNat, addr := fun _ v => v.a }
  | .pmut d a =>
    some { uses := { a := some a, late := [d] }, addrs := fun _ v => [(v.a, 32)], need := .store
           kind := fun s _ => .pmut (s.ctx s.who).net.toNat, addr := fun _ v => v.a, dest := .reg d, late := [d] }
  | .palloc d a b =>
    some { uses := { a := some a, b := some b, late := [d] }, addrs := fun _ _ => []
           kind := fun s v => .palloc v.a v.b (s.ctx s.who).net.toNat, addr := fun s _ => netWord s 2, dest := .reg d, late := [d] }
  | .cellrd d a =>
    some { uses := { a := some a, late := [d] }, net := false, addrs := fun _ v => [(v.a, 8)]
           kind := fun _ _ => .cellrd, addr := fun _ v => v.a, dest := .reg d, late := [d] }
  | _ => none
where
  /-- Whether the second cell of a LINK lies before the first (R30). -/
  first (s : State) (v : Vals) : Bool := s.cellLt (s.norm s.who.core v.b) (s.norm s.who.core v.a)

/-- A LIVE or departing cell with a tag that names an address (R28). -/
def cellIs (w st tag : Nat) (a : Word) : Prop :=
  w / 2 ^ 62 = st ∧ w / 2 ^ 54 % 256 = tag ∧ w / 2 ^ 41 % 4096 = a.toNat / 2 ^ 48 % 4096 ∧ w % 2 ^ 41 = a.toNat / 8 % 2 ^ 41

end Spec

/-- A cell in a slate: its key, a slate switch that lets a step of the wire protocol on (R90, R92, R101), no poison (R366), and
nothing parked there (R28, R95). -/
structure State.CellAt (s : State) (core : Nat) (a : Word) (k : Nat) : Prop where
  key : s.cellKey core a = some k
  allowed : s.enter core (s.isStaffCore core) 0 a 8 .fullEmpty 1 = .go k s
  sound : s.isPoisoned k 8 = false
  aligned : k % 8 = 0
  slate : isSlateKey k = true
  quiet : s.Quiet k 8

/-! ## Threads (R50, R59 to R63) -/

namespace Spec

/-- A saved context back in a context of its core (R60, R61): a ready entry of kind 5 has completed its WAIT. -/
def restored (x : Saved) (now : Nat) : Ctx :=
  { x.c with
    life := .active, wait := .none, readyAt := max x.c.readyAt now, prio := x.prio, starting := true
    drops := if x.kind = 3 then [] else x.c.drops
    pc := if x.kind = 5 ∧ x.ready = true then x.c.pc + 8 else x.c.pc
    left := if x.kind = 5 ∧ x.ready = true then 0 else x.c.left }

/-- A list in the order of the entries' numbers. -/
def aged (l : List QItem) : Prop := (l.map (·.id)).Pairwise (· ≤ ·)

end Spec

/-- A homeroom's late result: a status, a take word or a reap word (R274 to R276). -/
def State.Answers (t : State) (due : Nat) (l : Late) (v : Nat) : Prop :=
  t.Due due .homeroomLateResult { late := { l with val := BitVec.ofNat 1024 v } }

/-- A core whose deque takes entries at its near end (R56): of more than 64, the 8 at the far end leave as a block, oldest first. -/
def State.AtNearEnd (s t : State) (core : Nat) (m : List QItem) : Prop :=
  let l := m ++ (s.coreAt core).deque
  t.coreAt core = { s.coreAt core with deque := if l.length ≤ 64 then l else l.take (l.length - 8) } ∧
  (64 < l.length → ∃ b : List QItem, b.Perm (l.drop (l.length - 8)) ∧ Spec.aged b ∧
    t.Due s.cycle .queueBlockMove { move := .dequeToOctet core, items := b })

/-- A context as a start makes it (R50): its bank is zero and full but for s1, its pc and priority are the start's, and its first
issue is due at a cycle. -/
structure Ctx.Started (y : Ctx) (pc s1 : Word) (prio at' : Nat) : Prop where
  ctx : y = { run := y.run, life := .active, prio := prio, pc := pc, readyAt := at', starting := true
              s := y.s, sFull := y.sFull, sPend := y.sPend, wid := y.wid, launch := y.launch }
  regs : ∀ j, j < 32 → rd y.s j 0 = (if j = 1 then s1 else 0) ∧ tb y.sFull j = true ∧ tb y.sPend j = false

/-! ## Control registers (R80 to R86, R154, R158, R266, R332, R372) -/

namespace Spec

/-- The numbers from `n` on with the entries of a register file. -/
def each {k : Nat} (n : Nat) (v : Vector Word k) : List (Nat × Word) := (List.range k).map fun i => (n + i, rd v i 0)

/-- The control registers that hold a value, as the issuing context reads them. -/
def registers (s : State) : List (Nat × Word) :=
  let x := s.ctx s.who
  let k := s.coreAt s.who.core
  let d := s.die (dieOf s.who.core)
  let o := s.octet (octetOf s.who.core)
  [(0x000, BitVec.ofNat 64 (s.priv s.who * 2 ^ 62 + x.prio * 2 ^ 54 + x.rm.toNat * 2 ^ 51 + (if x.ctxz then 2 ^ 50 else 0) +
      x.flags.toNat * 2 ^ 45 + s.who.ctx * 2 ^ 32 + x.net.toNat * 2 ^ 16)),
   (0x001, x.wid), (0x002, x.waitLimit.setWidth 64)] ++
  each 0x010 k.shape ++ each 0x014 k.scale ++
  [(0x020, k.dctl), (0x021, k.dout), (0x022, k.drowp), (0x023, k.dcolp), (0x028, k.rng.setWidth 64), (0x029, k.weight.setWidth 64)] ++
  each 0x030 k.dead ++ [(0x040, o.replayLimit.setWidth 64)] ++
  ((List.range 4).map fun i => (0x044 + i, (rd o.mxu.slots i {}).rst)) ++
  [(0x120, d.rate), (0x121, d.node), (0x122, d.inbox), (0x130, BitVec.ofNat 64 d.passCount),
   (0x131, o.pass.elim 0 fun t => BitVec.ofNat 64 (2 ^ 13 + min 8191 (s.cycle - t))), (0x132, BitVec.ofNat 64 d.staffPlace),
   (0x133, d.staffNotice), (0x134, d.staffRing), (0x135, BitVec.ofNat 64 d.staffDrop), (0x160, s.netTable)] ++
  each 0x140 s.partRect ++ each 0x150 s.partPtb ++ each 0x170 d.watchLo ++ each 0x178 d.watchHi

/-- The registers that a write stores, with the bits that they keep and the privilege that it needs. -/
def stored : List (Nat × Word × Nat) :=
  let all : Word := 0xFFFFFFFFFFFFFFFF
  let eachOf (n k : Nat) (m : Word) (p : Nat) : List (Nat × Word × Nat) := (List.range k).map fun i => (n + i, m, p)
  [(0x002, 0xFFFFFFFF, 0), (0x021, all, 0), (0x022, all, 0), (0x023, all, 0), (0x040, 0xF, 2), (0x121, 0xFFF, 2),
   (0x122, 0xFFFFFFFFFFE0, 2), (0x133, all, 2), (0x160, 0x0000FFFFFFF80000, 2)] ++
  eachOf 0x010 4 0xF8FFFF0000000000 0 ++ eachOf 0x014 4 0x8000000000007FFF 0 ++ eachOf 0x030 4 all 0 ++
  eachOf 0x150 16 0x0000FFFFFFFFF000 2 ++ eachOf 0x170 8 0x8000FFFFFFFFFFE0 2 ++ eachOf 0x178 8 0x0000FFFFFFFFFFE0 2

/-- The numbers that are no control register. -/
def absent (n : Nat) : Prop :=
  (0x003 ≤ n ∧ n < 0x010) ∨ (0x018 ≤ n ∧ n < 0x020) ∨ (0x024 ≤ n ∧ n < 0x028) ∨ (0x02A ≤ n ∧ n < 0x030) ∨ (0x034 ≤ n ∧ n < 0x040) ∨
  (0x041 ≤ n ∧ n < 0x044) ∨ (0x048 ≤ n ∧ n < 0x100) ∨ (0x124 ≤ n ∧ n < 0x130) ∨ (0x136 ≤ n ∧ n < 0x140) ∨
  (0x161 ≤ n ∧ n < 0x170) ∨ (0x180 ≤ n ∧ n < 0x188) ∨ 0x190 ≤ n

/-- A dword of a fault record (R286, R325). -/
def recordWord (f : Frec) (i : Nat) : Word :=
  if i = 0 then BitVec.ofNat 64 (f.cause % 256 + f.ctx % 16 * 256) else if i = 1 then f.pc else if i = 2 then f.addr else f.word

/-- A trapped context as TRET returns it to rotation (R286, R324), not before a hint of its last issue has run out (R175). -/
def resumed (x : Ctx) (next : Bool) (now : Nat) : Ctx :=
  { x with life := .active, wait := .none, readyAt := max x.readyAt (now + 2), pc := if next then x.pc + 8 else x.pc, poisoned := []
           mixed := false, relFault := none, tries := 0, qskip := none, seated := false }

end Spec

/-! ## Messages (R145 to R147) -/

/-- A class O message of a die that another of class B with the follow bit goes before, to another interface of the same node
(R113, R149; assumption log 68). -/
def State.Trails (s : State) (die cls dnode ddie : Nat) : Prop :=
  cls = 0 ∧
    ((∃ x ∈ (s.die die).sends, x.host = false ∧ x.dnode = dnode ∧ x.ddie ≠ ddie ∧ ∃ z ∈ x.busy, z.fol = true) ∨
     (dnode = s.node ∧ ddie ≠ die ∧ ∃ y ∈ (s.die die).slots, 4096 ≤ y.seat ∧ y.env.cls = 2 ∧ y.env.fol = true))

/-- An earlier relaxed access of the same context that touches a granule of an access (R106). -/
def Access.Before (b a : Access) : Prop :=
  b.rx = true ∧ b.run = a.run ∧ b.id < a.id ∧ b.addr.toNat / 32 ≤ (a.addr.toNat + max 1 a.kind.size - 1) / 32 ∧
    a.addr.toNat / 32 ≤ (b.addr.toNat + max 1 b.kind.size - 1) / 32

/-- A relaxed access to another node that waits for an earlier one there (R106). -/
def State.FollowsOther (s : State) (a : Access) : Prop :=
  a.rx = true ∧ ((∃ r ∈ (s.die (dieOf a.who.core)).remote, r.acc.Before a) ∨
    ∃ p ∈ s.agenda, p.ev = Instr.seatRequest ∧ p.arg.n = 1 ∧ p.arg.acc.Before a)

/-- The messages of a device as they are accepted: each takes a seat of its sender's side and the next sequence, and its fragments
leave one a cycle (R145 to R147): to another die of the device, to the diagonal one by way of the die in the source's row or column
(R17), and to another node by the connected ports in turn (R145). -/
def State.Accepted (s t : State) (die : Nat) (e : Env) (rate : Nat × Nat) (bs : List Byte) (lat seat : Nat) (rest : List Nat) : Prop :=
  let q := s.sendSide die e.dnode e.ddie
  let m := { e with snode := s.node, sdie := die, seq := q.seq, seat := seat, k := min rate.1 ((bs.length + 127) / 128), m := rate.2
                    len := bs.length }
  let r := t.sendSide die e.dnode e.ddie
  r.idle = rest ∧ r.seq = (q.seq + 1) % 2 ^ 32 ∧
  (∃ z, z.seat = seat ∧ z.seq = q.seq ∧ z.fol = (e.cls == 2 && e.fol) ∧ r.busy = q.busy ++ [z]) ∧
  ∀ (j : Nat) f, (m.fragments bs)[j]? = some f →
    (e.dnode = s.node → crossings die e.ddie ≠ 2 → s.Sent t (lat + j) .fragmentArrive { die := e.ddie, frag := f }) ∧
    (e.dnode = s.node → crossings die e.ddie = 2 → s.Sent t (lat - 12 + j) .fragmentArrive
      { die := if f.frag % 2 = 0 then rowMate die else colMate die, n := 3, frag := f }) ∧
    ∀ p, e.dnode ≠ s.node → s.ports[(q.seq % s.ports.length + f.frag) % s.ports.length]? = some p →
      s.Sent t (12 * crossings die (p / 9) + j) .fragmentArrive { die := p / 9, n := 1, frag := { f with port := some p } }

/-! ## Launches (R51 to R54, R398) -/

namespace Spec

/-- The cores of a launch's rectangle. -/
def selects (w : List Word) (k : Nat) : Prop :=
  let col := bits (w.getD 1 0).toNat 63 57
  let row := bits (w.getD 1 0).toNat 56 50
  k < 7680 ∧ col ≤ devCol k ∧ devCol k < col + bits (w.getD 1 0).toNat 49 43 ∧ row ≤ devRow k ∧
    devRow k < row + bits (w.getD 1 0).toNat 42 36

/-- The widths and extents of a launch's fields. -/
def fieldWidth (w : List Word) (i : Nat) : Nat := bits (w.getD 2 0).toNat (29 + 6 * i) (24 + 6 * i)
def extent (w : List Word) (i : Nat) : Nat :=
  if bits (w.getD 3 0).toNat (11 + 12 * i) (12 * i) = 0 then 4096 else bits (w.getD 3 0).toNat (11 + 12 * i) (12 * i)

/-- R398's rows. -/
def refuses (s : State) (w : List Word) (reason : Nat) : Prop :=
  let f (i hi lo : Nat) : Nat := bits (w.getD i 0).toNat hi lo
  let nf := f 2 63 61
  let oneDie := f 1 63 57 / 48 = (f 1 63 57 + f 1 49 43 - 1) / 48 ∧ f 1 56 50 / 40 = (f 1 56 50 + f 1 42 36 - 1) / 40
  let d (i : Nat) : Nat := s.dword (coreAtDev (f 1 56 50) (f 1 63 57)) (w.getD 4 0 + BitVec.ofNat 64 (8 * i))
  match reason with
  | 1 => 2 ≤ f 0 63 62
  | 2 => f 0 47 32 = 0 ∨ f 0 47 32 % 2 = 1
  | 3 => nf = 0 ∨ nf = 7 ∨ (∃ i, i < nf ∧ fieldWidth w i = 0) ∨ 64 < ((List.range nf).map (fieldWidth w)).sum ∨
      ∃ i, i + 1 < nf ∧ 2 ^ fieldWidth w i < extent w i
  | 4 => f 1 49 43 = 0 ∨ f 1 42 36 = 0 ∨ 96 < f 1 63 57 + f 1 49 43 ∨ 80 < f 1 56 50 + f 1 42 36
  | 5 => ∃ k, selects w k ∧ s.isStaffCore k = true
  | 6 => f 0 50 50 = 1 ∧ (¬ oneDie ∨ f 7 60 59 = 3)
  | 7 => f 0 51 51 = 1 ∧ (5 ≤ f 7 63 61 ∨ f 0 50 50 = 0)
  | 8 => f 0 49 48 ≠ 0 ∨ f 0 31 16 ≠ 0 ∨ f 1 35 0 ≠ 0 ∨ f 2 60 60 ≠ 0 ∨ f 2 23 0 ≠ 0 ∨ f 3 63 60 ≠ 0 ∨ f 6 44 0 ≠ 0 ∨ f 7 58 0 ≠ 0
  | 9 => f 0 63 62 = 1 ∧ (d 0 / 2 ^ 35 % 32 < 4 ∨ 16 < d 0 / 2 ^ 35 % 32 ∨ d 1 % (16 * 2 ^ (d 0 / 2 ^ 35 % 32)) ≠ 0 ∨
      d 0 / 2 ^ 48 ≠ f 0 15 0)
  | 10 => f 0 52 52 = 1 ∧ ¬ oneDie
  | _ => False

/-- The rank of a context of a core in a launch (R53). -/
def rank (w : List Word) (core k : Nat) : Nat :=
  let on (i : Nat) : Bool := bitAt (bits (w.getD 0 0).toNat 47 32) i
  ((List.range core).countP (hdrHas w)) * ((List.range 16).countP on) + (List.range k).countP on

end Spec

/-! ## Resets (R157) -/

/-- The boot record of a die (R157). -/
def State.Record (t : State) (die : Nat) : Prop :=
  let m := (rd t.prefect.active 2 none).getD {}
  ∀ i, i < 8 → memReadN t.mem (die * 2 ^ 38 + 8 * i) 8 =
    match i with
    | 0 => m.staffPc.toNat
    | 1 => m.homePc.toNat
    | 2 => m.ptb0.toNat
    | 3 => t.prefect.boots % 2 ^ 32 * 2 ^ 32 + t.prefect.version % 2 ^ 32
    | _ => 0

end Sys2Proof.Machine
end

