-- ==== Sys2Proof/Certificates/Slice0/Obligations.lean ====
section
/-! DEFINITION. The statements for the provers. Each docstring names the rules of the spec that the statement formalises; a
statement that rests on a choice of the model names its log entry. -/

open Sys2Proof Sys2Proof.Machine

/-! ## Decoding and the step -/

/-- R165 to R172: every well-formed instruction that has a word has one of 64 bits under each hint, and decoding it gives the
instruction back, with every operand at every value that its encoding admits. -/
def Claims.DecodeOfEncode : Prop :=
  ∀ (i : Instr) (sv ctl w : Nat), sv < 3 → ctl < 16 → encode sv ctl i = some w → w < 2 ^ 64 ∧ decode (BitVec.ofNat 64 w) = .ok i

/-- R173 and R254: the same for the words of drain programs. -/
def Claims.DrainDecodeOfEncode : Prop :=
  ∀ (i : Instr) (w : Nat), encodeDrain i = some w → w < 2 ^ 32 ∧ decodeDrain w = some i

/-! ## Scalar instructions -/

/-- R182 and R183: each instruction of 0x010 to 0x02F but the divisions completes, on operands that can be read, with the result
of the table in d, and with nothing else changed. -/
def Obligations.ArithmeticResults : Prop :=
  ∀ (i : Instr) (r : Row) (s : State), Spec.arith i = some r → s.Readable r.uses →
    ∃ t, exec i s = .next t ∧ s.Wrote t r.uses r.d (r.val s (s.vals r.uses)) (r.pc s (s.vals r.uses))

/-- R184: a division marks d empty, and its result is due 20 cycles after its issue, with the quotient rounded toward zero, the
remainder with the sign of the dividend, and the corners of the table. -/
def Obligations.DivisionResults : Prop :=
  ∀ (i : Instr) (f : R3) (g : Word → Word → Word) (s : State), Spec.division i = some (f, g) →
    let u : Uses := { a := some f.a, b := some f.b, late := [f.d] }
    s.Readable u →
    ∃ t, exec i s = .next t ∧ s.Began t u [f.d] none ∧ (t.ctx s.who).pc = (s.ctx s.who).pc + 8 ∧
      (t.ctx s.who).wait = .none ∧ (t.ctx s.who).lateOut = (s.ctx s.who).lateOut + 1 ∧
      t.Due (s.cycle + 20) .divisionResult
        { late := { who := s.who, run := (s.ctx s.who).run, dest := .reg f.d
                    val := (g (s.vals u).a (s.vals u).b).setWidth 1024 } }

/-- R185: each immediate instruction completes with the result of the table. -/
def Obligations.ImmediateResults : Prop :=
  ∀ (i : Instr) (r : Row) (s : State), i.wf = true → Spec.immediate i = some r → s.Readable r.uses →
    ∃ t, exec i s = .next t ∧ s.Wrote t r.uses r.d (r.val s (s.vals r.uses)) (r.pc s (s.vals r.uses))

/-- R186 and R187: bit fields, counts, and the check codes, bit by bit in their order. -/
def Obligations.FieldResults : Prop :=
  ∀ (i : Instr) (r : Row) (s : State), Spec.field i = some r → s.Readable r.uses →
    ∃ t, exec i s = .next t ∧ s.Wrote t r.uses r.d (r.val s (s.vals r.uses)) (r.pc s (s.vals r.uses))

/-- R189 to R195: branches, LOOP, jumps, RDCYC and NOP: the register that the instruction writes, and the pc. -/
def Claims.ControlResults : Prop :=
  ∀ (i : Instr) (r : Row) (s : State), Spec.control i = some r → s.Readable r.uses → r.ok (s.vals r.uses) →
    ∃ t, exec i s = .next t ∧ s.Wrote t r.uses r.d (r.val s (s.vals r.uses)) (r.pc s (s.vals r.uses))

/-- R170, R181, R73 and R341: the operand checks of the scalar instructions, in their order: a refused code traps with cause
0x05, a stream that is not held or runs the other way with 0x0A, one without the elements left with 0x09, an empty source whose
policy says trap with 0x08; an empty source that blocks, and a destination with a result pending, wait. -/
def Obligations.OperandChecks : Prop :=
  ∀ (i : Instr) (r : Row) (s : State), Spec.scalar i = some r →
    (r.uses.CodeBad → ∃ t, exec i s = .next t ∧ s.Trapped t 0x05 0) ∧
    (¬ r.uses.CodeBad → s.StreamWrong r.uses → ∃ t, exec i s = .next t ∧ s.Trapped t 0x0A 0) ∧
    (¬ r.uses.CodeBad → ¬ s.StreamWrong r.uses → s.StreamOver r.uses → ∃ t, exec i s = .next t ∧ s.Trapped t 0x09 0) ∧
    (¬ r.uses.CodeBad → ¬ s.StreamWrong r.uses → ¬ s.StreamOver r.uses → s.EmptyTraps r.uses →
      ∃ t, exec i s = .next t ∧ s.Trapped t 0x08 0) ∧
    (¬ r.uses.CodeBad → ¬ s.StreamWrong r.uses → ¬ s.StreamOver r.uses → ¬ s.EmptyTraps r.uses →
      ((∃ p ∈ r.uses.reads, s.regFull s.who p.1 (countReads r.uses.reads p.1) = false) ∨
        ∃ d ∈ r.uses.out, s.regPend s.who d = true) →
      ∃ t, exec i s = .next t ∧ s.Waits t 1)

/-- R190: BRF of a stream register, and BRE: they read the state of the stream alone, and one that the context does not hold traps
with cause 0x0A; BRE of any other code traps with cause 0x05. -/
def Claims.StreamBranches : Prop :=
  ∀ (s : State) (a : Reg) (disp : BitVec 30) (b : Bool),
    (56 ≤ a.toNat → s.holds a →
      (∃ t, exec (.brf b a disp) s = .next t ∧ s.Wrote t {} 0 0
        (if decide (1 ≤ (s.stream s.who.core a).buf.length) = !b then Spec.target s disp else (s.ctx s.who).pc + 8)) ∧
      ∃ t, exec (.bre b a disp) s = .next t ∧ s.Wrote t {} 0 0
        (if decide ((s.stream s.who.core a).leftOver = 0) = !b then Spec.target s disp else (s.ctx s.who).pc + 8)) ∧
    (56 ≤ a.toNat → ¬ s.holds a →
      (∃ t, exec (.brf b a disp) s = .next t ∧ s.Trapped t 0x0A 0) ∧ ∃ t, exec (.bre b a disp) s = .next t ∧ s.Trapped t 0x0A 0) ∧
    (a.toNat < 56 → ∃ t, exec (.bre b a disp) s = .next t ∧ s.Trapped t 0x05 0)

/-- R193: END of a context 1 to 15 waits until its relaxed count is zero and its stores are acknowledged; then it records Reg(a)
as the exit value and leaves rotation for REAP. In context 0 it traps with cause 0x01. -/
def Claims.EndFinishes : Prop :=
  ∀ (s : State) (a : Src),
    (s.who.ctx = 0 → ∃ t, exec (.endRun a) s = .next t ∧ s.Trapped t 0x01 0) ∧
    (s.who.ctx ≠ 0 → ((s.ctx s.who).relaxed ≠ 0 ∨ (s.ctx s.who).plain = .store) →
      ∃ t, exec (.endRun a) s = .next t ∧ s.Waits t 0) ∧
    (s.who.ctx ≠ 0 → (s.ctx s.who).relaxed = 0 → (s.ctx s.who).plain ≠ .store → s.Readable { a := some a } →
      ∃ t, exec (.endRun a) s = .next t ∧
        ((s.ctx s.who).notice = none →
          t.ctx s.who = { s.ctx s.who with
            life := .finished, exitVal := (s.vals { a := some a }).a, wait := .none
            insCount := (s.ctx s.who).insCount + 1, starting := false, reported := false } ∧
          s.SameElse t ∧ ∀ k, memRead t.mem k = memRead s.mem k) ∧
        (t.ctx s.who).life = .finished ∧ (t.ctx s.who).exitVal = (s.vals { a := some a }).a)

/-- R195 and R205: PAUSE keeps its context out of the ready set for U(imm) cycles after its issue, and its end puts the context
back; FENCE completes when its conditions hold, and waits otherwise. -/
def Claims.PauseAndFence : Prop :=
  ∀ (s : State),
    (∀ imm : BitVec 32, ∃ t, exec (.pause imm) s = .next t ∧ (t.ctx s.who).pc = (s.ctx s.who).pc + 8 ∧ s.SameElse t ∧
      (imm = 0 → s.Wrote t {} 0 0 ((s.ctx s.who).pc + 8)) ∧
      (imm ≠ 0 → (t.ctx s.who).wait = .pause (s.cycle + imm.toNat) ∧
        t.Due (s.cycle + imm.toNat) .pauseEnd { c := s.who, run := (s.ctx s.who).run, n := s.cycle + imm.toNat })) ∧
    (s.inPlace s.arg.c s.arg.run → (s.ctx s.arg.c).wait = .pause s.arg.n →
      ∃ t, exec .pauseEnd s = .next t ∧ t.ctx s.arg.c = { s.ctx s.arg.c with wait := .none }) ∧
    ∀ r e d : Bool,
      let x := s.ctx s.who
      let all := !r && !e && !d
      let met := ((r || all) = true → x.plain = .none ∧ x.relaxed = 0) ∧ ((e || all) = true → x.engOut = 0) ∧
        ((d || all) = true → x.matxOut = 0)
      (met → ∃ t, exec (.fence r e d) s = .next t ∧ s.Wrote t {} 0 0 ((s.ctx s.who).pc + 8)) ∧
      (¬ met → ∃ t, exec (.fence r e d) s = .next t ∧ s.Waits t 0)

/-! ## Memory instructions -/

/-- R105, R106, R108, R196 to R200, R203, R204 and R218: a load, store or atomic whose issue conditions hold issues: its address
is the one of R196, its late destination is empty, it is outstanding, and it leaves for its place with the time of R91; memory
is as before. -/
def Claims.MemoryIssues : Prop :=
  ∀ (i : Instr) (r : MemRow) (s : State), Spec.memory i = some r → s.Readable r.uses →
    (s.ctx s.who).plain = .none → (if r.rx then (s.ctx s.who).relaxed < 8 else (s.ctx s.who).relaxed = 0) →
    (r.ea (s.vals r.uses)).toNat % r.align = 0 →
    let addr := r.addr (s.vals r.uses)
    let k := r.kind s (s.vals r.uses)
    s.AllowsHere addr k.need → s.Unlocked addr k → (s.ctx s.who).buddy = none →
    ∃ t a, exec i s = .next t ∧ s.Began t r.uses r.late r.vlate ∧ (t.ctx s.who).pc = (s.ctx s.who).pc + 8 ∧
      (t.ctx s.who).wait = .none ∧ s.Issues a k addr r.rx (r.dest s) ∧ s.Outstanding t k r.rx ∧ s.Leaves t a

/-- R202: a full/empty operation issues likewise, but its context stays at it, waiting for its reply. -/
def Claims.FullEmptyIssues : Prop :=
  ∀ (i : Instr) (r : MemRow) (s : State), Spec.fullEmpty i = some r → s.Readable r.uses →
    (s.ctx s.who).plain = .none → (s.ctx s.who).relaxed = 0 → (r.ea (s.vals r.uses)).toNat % 8 = 0 →
    let addr := r.addr (s.vals r.uses)
    let k := r.kind s (s.vals r.uses)
    bits addr.toNat 47 40 = 0x0F → s.AllowsHere addr k.need → (s.ctx s.who).buddy = none →
    ∃ t a, exec i s = .next t ∧ s.Began t r.uses r.late none ∧ (t.ctx s.who).pc = (s.ctx s.who).pc ∧
      (t.ctx s.who).wait = .reply a.id ∧ s.Issues a k addr false (r.dest s) ∧ s.Outstanding t k false ∧ s.Leaves t a

/-- R199, R201 and R105 to R106: what a memory instruction's issue-cycle checks find, in their order: it waits on the accesses of
its context; then misalignment traps with cause 0x15, a full/empty operation outside slate space with 0x16, a malformed slate
address or an invalid window of its own core with 0x10, and its owner rights with 0x11, each with the effective address. -/
def Obligations.MemoryIssueChecks : Prop :=
  ∀ (i : Instr) (r : MemRow) (s : State), (Spec.memory i = some r ∨ Spec.fullEmpty i = some r) →
    ((¬ ((s.ctx s.who).plain = .none ∧ if r.rx then (s.ctx s.who).relaxed < 8 else (s.ctx s.who).relaxed = 0)) →
      s.Readable r.uses → ∃ t, exec i s = .next t ∧ s.Waits t 0) ∧
    ((s.ctx s.who).plain = .none → (if r.rx then (s.ctx s.who).relaxed < 8 else (s.ctx s.who).relaxed = 0) →
      s.Readable r.uses →
      let ea := r.ea (s.vals r.uses)
      let addr := r.addr (s.vals r.uses)
      let need := (r.kind s (s.vals r.uses)).need
      let outside := Spec.memory i = none ∧ bits addr.toNat 47 40 ≠ 0x0F
      (ea.toNat % r.align ≠ 0 → ∃ t, exec i s = .next t ∧ s.Trapped t 0x15 ea) ∧
      (ea.toNat % r.align = 0 → outside → ∃ t, exec i s = .next t ∧ s.Trapped t 0x16 ea) ∧
      (ea.toNat % r.align = 0 → ¬ outside → s.form s.who.core addr = .bad → ∃ t, exec i s = .next t ∧ s.Trapped t 0x10 ea) ∧
      ∀ w off, ea.toNat % r.align = 0 → s.form s.who.core addr = .window s.who.core w off → bits addr.toNat 39 38 = 0 →
        ((rd (s.coreAt s.who.core).win w {}).valid = false → ∃ t, exec i s = .next t ∧ s.Trapped t 0x10 ea) ∧
        ((rd (s.coreAt s.who.core).win w {}).valid = true → rightsOk (rd (s.coreAt s.who.core).win w {}).own need = false →
          ∃ t, exec i s = .next t ∧ s.Trapped t 0x11 ea))

/-! ## Accesses at their banks -/

/-- R94, R104, R197, R200 and R218: a load that its place lets on replies with the bytes at its key, extended as its width says,
and changes no byte and no full/empty bit. -/
def Claims.LoadsAtBanks : Prop :=
  ∀ (s t : State) (a : Access) (k : Nat), s.arg.acc = a → s.Lands a k t →
    (∀ n sx, n ∈ Spec.sizes → a.kind = .load n sx →
      ∃ u, exec .bankAccess s = .next u ∧
        t.Replies u a ((Spec.extend n sx (memReadN t.mem k n)).setWidth 1024) ∧
        u.mem = t.mem ∧ u.empty = t.empty ∧ t.SameUnits u) ∧
    (a.kind = .vload →
      ∃ u, exec .bankAccess s = .next u ∧
        t.Replies u a (BitVec.ofNat 1024 (memReadN t.mem k 128)) ∧ u.mem = t.mem ∧ u.empty = t.empty ∧ t.SameUnits u)

/-- R95, R104, R200 and R218: a store that its place lets on writes its bytes and no others, leaves the slate words that it touches
full, and is acknowledged; a vector store writes the 32-bit lanes of its mask. -/
def Claims.StoresAtBanks : Prop :=
  ∀ (s t : State) (a : Access) (k : Nat), s.arg.acc = a → s.Lands a k t →
    (∀ n d, n ∈ Spec.sizes → a.kind = .store n d →
      ∃ u, exec .bankAccess s = .next u ∧
        (∀ i, i < n → memRead u.mem (k + i) = d.extractLsb' (8 * i) 8) ∧ t.SameBytesBut u k n ∧
        (isSlateKey k = true → ∀ w ∈ wordsOf k n, u.full (w * 8) = true) ∧ t.Acks u a ∧ t.SameUnits u) ∧
    (∀ mask d, a.kind = .vstore mask d →
      ∃ u, exec .bankAccess s = .next u ∧
        (∀ i, i < 128 → memRead u.mem (k + i) =
          if mask.getLsbD (i / 4) then d.extractLsb' (8 * i) 8 else memRead t.mem (k + i)) ∧
        t.SameBytesBut u k 128 ∧ t.Acks u a ∧ t.SameUnits u)

/-- R94, R95 and R203: an atomic on a slate is one step of its bank: the old value is its reply, the bytes take the combined value,
the word is full, and no other byte changes. -/
def Obligations.AtomicsAtBanks : Prop :=
  ∀ (s t : State) (a : Access) (k n : Nat) (op : AtomOp) (v c : Word), s.arg.acc = a → s.Lands a k t →
    isSlateKey k = true → (n = 4 ∨ n = 8) → a.kind = .atomic op n v c → v.toNat < 2 ^ (8 * n) → c.toNat < 2 ^ (8 * n) →
    let old := memReadN t.mem k n
    ∃ u, exec .bankAccess s = .next u ∧
      memReadN u.mem k n =
        (Spec.combine op (BitVec.ofNat (8 * n) old) (BitVec.ofNat (8 * n) v.toNat) (BitVec.ofNat (8 * n) c.toNat)).toNat ∧
      t.SameBytesBut u k n ∧ (∀ w ∈ wordsOf k n, u.full (w * 8) = true) ∧
      t.Replies u a (BitVec.ofNat 1024 old) ∧ t.SameUnits u

/-- R95, R104 and R202: the full/empty operations at their word: LDX of a full word replies and empties it, STX of an empty word
writes it and fills it, LDF of a full word replies and leaves it; each of them at a word that does not let it on parks there,
and is tried again 256 cycles later at the latest. -/
def Obligations.FullEmptyAtBanks : Prop :=
  ∀ (s t : State) (a : Access) (k : Nat), s.arg.acc = a → s.Lands a k t → isSlateKey k = true → k % 8 = 0 →
    let word := memReadN t.mem k 8
    (t.full k = true → a.kind = .ldx →
      ∃ u, exec .bankAccess s = .next u ∧ u.full k = false ∧ u.mem = t.mem ∧
        t.Replies u a (BitVec.ofNat 1024 word) ∧ t.SameUnits u) ∧
    (t.full k = true → a.kind = .ldf →
      ∃ u, exec .bankAccess s = .next u ∧ u.empty = t.empty ∧ u.mem = t.mem ∧
        t.Replies u a (BitVec.ofNat 1024 word) ∧ t.SameUnits u) ∧
    (∀ d, t.full k = false → a.kind = .stx d →
      ∃ u, exec .bankAccess s = .next u ∧ u.full k = true ∧ memReadN u.mem k 8 = d.toNat ∧ t.SameBytesBut u k 8 ∧
        t.Acks u a ∧ t.SameUnits u) ∧
    (((t.full k = false ∧ (a.kind = .ldx ∨ a.kind = .ldf)) ∨ (t.full k = true ∧ ∃ d, a.kind = .stx d)) →
      ∃ u, exec .bankAccess s = .next u ∧ u.mem = t.mem ∧ u.empty = t.empty ∧
        (∃ p ∈ u.parked, p.acc.id = a.id ∧ p.acc.kind = a.kind ∧ p.acc.key = k) ∧
        u.Due (s.cycle + 256) .parkedOpTimerRetry { id := a.id } ∧
        u.ctxs = t.ctxs ∧ u.cores = t.cores)

/-- R72, R105, R106 and R202: a reply writes its value to the destination of its instruction and ends the access: a plain one is
done, a relaxed one is counted out, and a full/empty operation ends its wait with the pc past it. An acknowledgement ends a store
and an STX likewise. -/
def Claims.RepliesEndAccesses : Prop :=
  ∀ (s : State) (a : Access), s.arg.acc = a → s.Plainly a.who a.run →
    (∀ d : Reg, d.toNat < 56 → a.dest = .reg d → (a.kind = .ldx ∨ a.kind = .ldf ∨ (∃ n sx, a.kind = .load n sx) ∨
        ∃ op n v c, a.kind = .atomic op n v c) →
      ∃ t, exec .memoryReply s = .next t ∧ s.Filled t a.who d (s.arg.vec.setWidth 64) ∧
        (a.rx = false → (t.ctx a.who).plain = .none ∧ (t.ctx a.who).relaxed = (s.ctx a.who).relaxed) ∧
        (a.rx = true → (t.ctx a.who).plain = (s.ctx a.who).plain ∧ (t.ctx a.who).relaxed = (s.ctx a.who).relaxed - 1) ∧
        ((s.ctx a.who).wait = .reply a.id → (t.ctx a.who).wait = .none ∧ (t.ctx a.who).pc = (s.ctx a.who).pc + 8) ∧
        (∀ c : CtxId, c.key ≠ a.who.key → t.ctx c = s.ctx c) ∧ t.mem = s.mem) ∧
    (((∃ n d, a.kind = .store n d) ∨ (∃ m d, a.kind = .vstore m d) ∨ ∃ d, a.kind = .stx d) →
      ∃ t, exec .storeAck s = .next t ∧
        (a.rx = false → (t.ctx a.who).plain = .none ∧ (t.ctx a.who).relaxed = (s.ctx a.who).relaxed) ∧
        (a.rx = true → (t.ctx a.who).plain = (s.ctx a.who).plain ∧ (t.ctx a.who).relaxed = (s.ctx a.who).relaxed - 1 ∧
          (t.ctx a.who).relStores = (s.ctx a.who).relStores - 1) ∧
        ((s.ctx a.who).wait = .reply a.id → (t.ctx a.who).wait = .none ∧ (t.ctx a.who).pc = (s.ctx a.who).pc + 8) ∧
        (t.ctx a.who).s = (s.ctx a.who).s ∧ (∀ c : CtxId, c.key ≠ a.who.key → t.ctx c = s.ctx c) ∧ t.mem = s.mem)

/-- R199, R321, R322 and R325: the report of a refused plain access writes no register and no byte, ends the access, and stops its
context with the record of the access, whose address is the effective address of a local form; a refused relaxed access stops it once the relaxed count is zero. -/
def Claims.RefusalsStopContexts : Prop :=
  ∀ (s : State) (a : Access) (d : Reg), s.arg.acc = a → s.Plainly a.who a.run → d.toNat < 56 → a.dest = .reg d →
    (∃ n sx, a.kind = .load n sx) →
    ∃ t, exec .landingFaultReport s = .next t ∧ t.mem = s.mem ∧ t.regVal a.who d 0 = s.regVal a.who d 0 ∧
      (d ≠ 0 → t.regFull a.who d 1 = s.regFull a.who d 1 ∧ t.regPend a.who d = false) ∧
      (a.rx = false → (t.ctx a.who).life = .trapped ∧ (t.ctx a.who).plain = .none ∧ (t.ctx a.who).frec =
        { cause := s.arg.cause, pc := a.pc, addr := a.ea.getD a.addr, word := a.word, ctx := a.who.ctx }) ∧
      (a.rx = true → 1 < (s.ctx a.who).relaxed → (t.ctx a.who).life = .active ∧
        (t.ctx a.who).relaxed = (s.ctx a.who).relaxed - 1 ∧
        (t.ctx a.who).relFault =
          some (a.id, { cause := s.arg.cause, pc := a.pc, addr := a.ea.getD a.addr, word := a.word })) ∧
      (a.rx = true → (s.ctx a.who).relaxed = 1 → (t.ctx a.who).life = .trapped ∧ (t.ctx a.who).frec =
        { cause := s.arg.cause, pc := a.pc, addr := a.ea.getD a.addr, word := a.word, ctx := a.who.ctx }) ∧
      ∀ c : CtxId, c.key ≠ a.who.key → t.ctx c = s.ctx c

/-! ## Vector instructions -/

/-- R207, R208, R209, R214 and R217: the bitwise instructions, shifts, VSEL and the moves of lanes complete with the value of the
table in each active lane of vd, and the old value, or zero, in each inactive one. -/
def Obligations.LaneMoves : Prop :=
  ∀ (i : Instr) (r : Spec.LaneRow) (s : State), i.wf = true → Spec.lanesTable i = some r → s.Readable r.uses →
    ∃ t w, exec i s = .next t ∧ s.WroteV t r.uses r.vd w 0 (s.coreAt s.who.core).rng false ∧
      ∀ j, j < 1024 / r.lt.width →
        (Spec.active s r.p r.lt.width j → Spec.lane w r.lt.width j = r.val s (s.vals r.uses) j) ∧
        (¬ Spec.active s r.p r.lt.width j → Spec.lane w r.lt.width j =
          if r.zm then 0 else Spec.lane (rd (s.ctx s.who).v r.vd.toNat 0) r.lt.width j)

/-- R208 to R213, R131, R134, R135 and R222: the immediate arithmetic and VCVT complete with each active lane rounded once in
ascending order, the integer lanes wrapped or clamped, the flags of the active lanes added, and the generator stepped lane by
lane. -/
def Claims.VectorArithmetic : Prop :=
  ∀ (i : Instr) (r : Spec.RoundRow) (s : State), i.wf = true → Spec.rounding i = some r →
    s.Readable (Spec.vUses r.vs r.vd r.p r.zm) →
    ∃ t w fl sub g, exec i s = .next t ∧ Spec.Rounds r s w fl sub g ∧
      s.WroteV t (Spec.vUses r.vs r.vd r.p r.zm) r.vd w fl (g (1024 / r.lt.width)) sub

/-- R209, R211 and R353: the six late instructions put their result into the divide unit: it is written at the table's cycles after
the issue when the unit is idle, and after the results ahead of it otherwise. -/
def Claims.LateVectorArithmetic : Prop :=
  ∀ (i : Instr) (r : Spec.RoundRow) (a b : Nat) (s : State), i.wf = true → Spec.roundingLate i = some (r, a, b) →
    s.Readable (Spec.vUses r.vs r.vd r.p r.zm) →
    let n := if Config.stepping = .b then b else a
    ∃ t w fl sub g, exec i s = .next t ∧ Spec.Rounds r s w fl sub g ∧ s.BeganV t r.vd fl (g (1024 / r.lt.width)) sub ∧
      let l : Late := { who := s.who, run := (s.ctx s.who).run, dest := .vec r.vd 0xFFFFFFFF false, val := w }
      (t.coreAt s.who.core).div = (s.coreAt s.who.core).div ++ [{ late := l, cycles := n }] ∧
      ((s.coreAt s.who.core).div = [] → t.Due (s.cycle + n) .vectorLateResult { core := s.who.core, late := l })

/-- R184, R209, R224 and R353: a division's, a vector's and GSEL's late result is written to its register, which becomes full, and
counts out of the results to come; the divide unit starts its next instruction in the cycle after. -/
def Obligations.LateResultsArrive : Prop :=
  ∀ (s : State) (l : Late), s.arg.late = l → s.inPlace l.who l.run → (s.ctx l.who).buddy = none →
    (∀ (d : Reg) (i : Instr), d.toNat < 56 → l.dest = .reg d → i = .divisionResult →
      ∃ t, exec i s = .next t ∧ s.Filled t l.who d (l.val.setWidth 64) ∧
        (t.ctx l.who).lateOut = (s.ctx l.who).lateOut - 1 ∧ t.mem = s.mem) ∧
    (∀ (vd : BitVec 3) (i : Instr), l.dest = .vec vd 0xFFFFFFFF false → (i = .gselResult ∨ (i = .vectorLateResult ∧ s.arg.core = l.who.core)) →
      ∃ t, exec i s = .next t ∧ rd (t.ctx l.who).v vd.toNat 0 = l.val ∧ tb (t.ctx l.who).vFull vd.toNat = true ∧
        tb (t.ctx l.who).vPend vd.toNat = false ∧ (t.ctx l.who).lateOut = (s.ctx l.who).lateOut - 1 ∧
        (∀ j, j < 8 → j ≠ vd.toNat → rd (t.ctx l.who).v j 0 = rd (s.ctx l.who).v j 0) ∧ t.mem = s.mem ∧
        (i = .vectorLateResult → ∀ d rest, (s.coreAt l.who.core).div.drop 1 = d :: rest →
          (t.coreAt l.who.core).div = d :: rest ∧
          t.Due (s.cycle + 1 + d.cycles) .vectorLateResult { core := l.who.core, late := d.late }))

/-- R215 and R216: VCMP writes the bits of its active lanes to pd, and the predicate operations their result, and nothing else
changes but the turns that a subnormal source of VCMP places (R135); PCNT, PFIRST and VEXT write their scalar (R217). -/
def Obligations.PredicateResults : Prop :=
  (∀ (f : VCmpF) (s : State), s.Readable { vs := [f.va, f.vb] } →
    let v := s.vals { vs := [f.va, f.vb] }
    ∃ t m, exec (.vcmp f) s = .next t ∧ (∀ i, i < 32 → m.getLsbD i =
        if (f.p.all fun j => (rd (s.ctx s.who).p j.toNat 0).getLsbD i) then
          Spec.compares f (Spec.lane (v.vs.getD 0 0) 32 i) (Spec.lane (v.vs.getD 1 0) 32 i)
        else !f.zm && (rd (s.ctx s.who).p f.pd.toNat 0).getLsbD i) ∧
      s.Issued t ((s.ctx s.who).pc + 8) ∧ s.SameElse t ∧ rd (t.ctx s.who).p f.pd.toNat 0 = m ∧
      (∀ i, i < 4 → i ≠ f.pd.toNat → rd (t.ctx s.who).p i 0 = rd (s.ctx s.who).p i 0) ∧
      (t.ctx s.who).s = (s.ctx s.who).s ∧ (t.ctx s.who).v = (s.ctx s.who).v ∧ (t.ctx s.who).flags = (s.ctx s.who).flags ∧
      ((t.ctx s.who).skips = (s.ctx s.who).skips ∨ (t.ctx s.who).skips = (s.ctx s.who).skips + 2)) ∧
  (∀ (i : Instr) (pd : BitVec 2) (g : (BitVec 2 → BitVec 32) → BitVec 32) (s : State), Spec.predicate i = some (pd, g) →
    ∃ t, exec i s = .next t ∧ s.Issued t ((s.ctx s.who).pc + 8) ∧ s.SameElse t ∧
      rd (t.ctx s.who).p pd.toNat 0 = g (fun j => rd (s.ctx s.who).p j.toNat 0) ∧
      (∀ j, j < 4 → j ≠ pd.toNat → rd (t.ctx s.who).p j 0 = rd (s.ctx s.who).p j 0) ∧
      (t.ctx s.who).s = (s.ctx s.who).s ∧ (t.ctx s.who).v = (s.ctx s.who).v ∧ (t.ctx s.who).flags = (s.ctx s.who).flags) ∧
  ∀ (i : Instr) (r : Row) (s : State), i.wf = true → Spec.vectorScalar i = some r → s.Readable r.uses →
    ∃ t, exec i s = .next t ∧ s.Wrote t r.uses r.d (r.val s (s.vals r.uses)) (r.pc s (s.vals r.uses))

/-- R220 to R223: the reductions, VSCAN, VPACK, VUNPK and VTUNPK complete with the value, the flags and the generator that their
elements give in their order. -/
def Claims.ReductionsAndPacks : Prop :=
  ∀ (i : Instr) (u : Uses) (vd : BitVec 3) (f : State → Vals → VRes) (s : State), Spec.whole i = some (u, vd, f) → s.Readable u →
    let r := f s (s.vals u)
    ∃ t, exec i s = .next t ∧ s.WroteV t u vd r.v r.flags r.rng r.sub

/-- R220 on integer lanes: every lane of vd is the sum, the largest, the smallest, the and or the or of the active lanes, with the
ends of the integers, all ones and zero where none is active, and no flag. -/
def Claims.IntegerReductions : Prop :=
  ∀ (i : Instr) (f : VUn) (g : List Int → Int) (h : List Nat → Nat) (signed : Bool) (s : State), i.wf = true →
    Spec.reduce i = some (f, g, h, signed) → f.lt.isIntLane = true → f.sat = false →
    s.Readable { vs := [f.va], vout := some f.vd } →
    let w := f.lt.width
    let ys := Spec.activeLanes s f.p (rd (s.ctx s.who).v f.va.r.toNat 0) w
    ∃ t x, exec i s = .next t ∧ rd (t.ctx s.who).v f.vd.toNat 0 = x ∧ (t.ctx s.who).flags = (s.ctx s.who).flags ∧
      ∀ j, j < 1024 / w → Spec.lane x w j =
        if signed then BitVec.ofInt w (g (ys.map (·.toInt))) else BitVec.ofNat w (h (ys.map (·.toNat)))

/-- R223: VTPACK writes the Tint blocks of its lanes into part q of vd, and their headers to its scalar, in its issue cycle. -/
def Claims.TintPack : Prop :=
  ∀ (f : VTPackF) (s : State), (Instr.vtpack f).wf = true →
    let u : Uses := { vs := [f.va], vdr := some f.vd, vout := some f.vd, out := [f.s] }
    s.Readable u →
    let n := 1024 / f.st.width
    let w := f.lt.width
    let xs := (List.range n).map fun i => fmtValue f.st (Spec.src (s.vals u) 0 f.st.width i)
    let (os, g) := tintBlocks f.lt (Spec.mode s f.rnd) f.nan (n / 16) xs (s.coreAt s.who.core).rng
    ∃ t, exec (.vtpack f) s = .next t ∧ s.Issued t ((s.ctx s.who).pc + 8) ∧ (t.coreAt s.who.core).rng = g ∧
      (f.s ≠ 0 → f.s.toNat < 56 → t.regVal s.who f.s 0 = BitVec.ofNat 64 (packElems 16 (os.map (·.header)))) ∧
      (56 ≤ f.s.toNat → (t.stream s.who.core f.s).buf = (s.stream s.who.core f.s).buf ++
        [(s.stream s.who.core f.s).trim (BitVec.ofNat 64 (packElems 16 (os.map (·.header))))]) ∧
      rd (t.ctx s.who).v f.vd.toNat 0 = replaceBits (rd (s.ctx s.who).v f.vd.toNat 0) (f.q.toNat * n * w) (n * w)
        (packElems (16 * w) (os.map fun o => tintPack f.lt o.elems)) ∧
      (∀ i, i < 8 → i ≠ f.vd.toNat → rd (t.ctx s.who).v i 0 = rd (s.ctx s.who).v i 0) ∧ ∀ a, memRead t.mem a = memRead s.mem a

/-- R224: GSEL's result is due 12 cycles after its issue: bit e of vd is 1 when expert e is live and fewer than K eligible groups
rank before its group, by the exact sum of their two largest live scores and then by number. -/
def Claims.ExpertSelection : Prop :=
  ∀ (f : GselF) (s : State), (Instr.gsel f).wf = true →
    let w := if f.bf then 16 else 32
    let l := 1024 / w
    let n := (f.e.toNat + l) / l
    let u : Uses :=
      { vs := (List.range n).map fun i => { r := f.va.r + BitVec.ofNat 3 i, e := f.va.e }, vout := some f.vd
        codeOk := f.va.r.toNat + n ≤ 8 }
    s.Readable u →
    let score (e : Nat) : Sys2Proof.Machine.Num :=
      fmtValue (if f.bf then .bf16 else .fp32) (Spec.lane (rd (s.ctx s.who).v (f.va.r.toNat + e / l) 0) w (e % l)).toNat
    let live (e : Nat) : Bool := !(rd (s.coreAt s.who.core).dead (e / 64) 0).getLsbD (e % 64) && !(score e).isNan
    let size := (f.e.toNat + 1) / (f.g.toNat + 1)
    let free := fmtValue .fp32 (Config.gselSum s.fresh).toNat
    let sums := (List.range (f.g.toNat + 1)).map fun j =>
      groupSum free ((((List.range size).map fun t => j * size + t).filter live).map score)
    ∃ t r, exec (.gsel f) s = .next t ∧ s.BeganV t f.vd 0 (s.coreAt s.who.core).rng false ∧
      t.Due (s.cycle + 12) .gselResult
        { late := { who := s.who, run := (s.ctx s.who).run, dest := .vec f.vd 0xFFFFFFFF false, val := r } } ∧
      ∀ e, e < 1024 → (r.getLsbD e = true ↔ e ≤ f.e.toNat ∧ live e = true ∧ (sums.getD (e / size) none).isSome = true ∧
        ((List.range (f.g.toNat + 1)).filter fun i => i != e / size && ranksBefore sums i (e / size)).length < f.k.toNat)

/-- R226: HSIFT of a heap within its window and rights issues as a plain local access of 72 bytes; a misaligned heap, or one that
leaves its window, traps with cause 0x15. -/
def Claims.HeapSiftIssues : Prop :=
  ∀ (fin : Bool) (va : VSrc) (r : Src) (s : State),
    let u : Uses := { a := some r, vs := if fin then [] else [va] }
    s.Readable u → (s.ctx s.who).plain = .none → (s.ctx s.who).relaxed = 0 →
    let ea := (s.vals u).a
    let addr := BitVec.ofNat 64 (0x0FFF0F0000000000 + ea.toNat % 2 ^ 19)
    let k := AccKind.hsift fin (((s.vals u).vs.getD 0 0).setWidth 64)
    ((ea.toNat % 8 ≠ 0 ∨ 65536 < ea.toNat % 65536 + 72) → ∃ t, exec (.hsift fin va r) s = .next t ∧ s.Trapped t 0x15 ea) ∧
    (ea.toNat % 8 = 0 → ea.toNat % 65536 + 72 ≤ 65536 → s.AllowsHere addr .store → (s.ctx s.who).buddy = none →
      ∃ t a, exec (.hsift fin va r) s = .next t ∧ s.Began t u [] none ∧ (t.ctx s.who).pc = (s.ctx s.who).pc + 8 ∧
        s.Issues a k addr false .none ∧ s.Outstanding t k false ∧ s.Leaves t a)

/-- R129: rounding onto the multiples of a unit gives the nearest with ties to even, the one nearer zero, the one above, or the one
below, and says whether it is exact; the value is n / k, with the sign beside it. -/
def Obligations.RoundingModes : Prop :=
  ∀ (neg : Bool) (n k : Nat) (u : Int) (g : BitVec 32), 0 < k →
    let x : ℚ := (n : ℚ) / k
    let q (m : Mode) : ℚ := ((roundAt neg n k u m g).q : ℚ) * 2 ^ u
    (|q .rne - x| ≤ 2 ^ u / 2) ∧ (|q .rne - x| = 2 ^ u / 2 → (roundAt neg n k u .rne g).q % 2 = 0) ∧
    (q .rz ≤ x ∧ x < q .rz + 2 ^ u) ∧
    (neg = false → x ≤ q .ru ∧ q .ru < x + 2 ^ u ∧ q .rd ≤ x ∧ x < q .rd + 2 ^ u) ∧
    (neg = true → q .ru ≤ x ∧ x < q .ru + 2 ^ u ∧ x ≤ q .rd ∧ q .rd < x + 2 ^ u) ∧
    (∀ m, (roundAt neg n k u m g).inexact = true ↔ q m ≠ x) ∧
    ∀ m, m ≠ .sr → (roundAt neg n k u m g).rng = g

/-! ## Streams and mailboxes -/

/-- R231 and R281: QCLAIM, QFREE and STUNBIND: a claim is taken, kept, or waited for; a claim that is not held traps; a binding
ends before its register is free again. -/
def Claims.StreamClaims : Prop :=
  ∀ (s : State) (d : Reg),
    let x := s.ctx s.who
    let k := s.coreAt s.who.core
    let q := s.stream s.who.core d
    let i := d.toNat - 56
    (d.toNat < 56 → ∀ ins ∈ [Instr.qclaim d, .qfree d, .stunbind d], ∃ t, exec ins s = .next t ∧ s.Trapped t 0x05 0) ∧
    (56 ≤ d.toNat →
      (q.owner = none → ∃ t, exec (.qclaim d) s = .next t ∧ s.SameElse t ∧
        s.Passed t x { k with q := wr k.q i { q with owner := some x.run } }) ∧
      (q.owner = some x.run → ∃ t, exec (.qclaim d) s = .next t ∧ s.SameElse t ∧ s.Passed t x k) ∧
      (∀ o, q.owner = some o → o ≠ x.run → ∃ t, exec (.qclaim d) s = .next t ∧ s.Waits t 0) ∧
      (q.owner ≠ some x.run → ∀ ins ∈ [Instr.qfree d, .stunbind d], ∃ t, exec ins s = .next t ∧ s.Trapped t 0x0A 0) ∧
      (q.owner = some x.run → q.bound = false ∨ q.counted = true →
        (∃ t, exec (.qfree d) s = .next t ∧ s.SameElse t ∧ s.Passed t x { k with q := wr k.q i {} }) ∧
        ∃ t, exec (.stunbind d) s = .next t ∧ s.SameElse t ∧ s.Passed t x { k with q := wr k.q i { owner := q.owner } }) ∧
      (q.owner = some x.run → q.bound = true → q.counted = false → ∀ ins ∈ [Instr.qfree d, .stunbind d],
        ∃ t, exec ins s = .next t ∧ t.ctx s.who = { x with wait := .blocked 0, blockedOn := none, starting := false } ∧
          (t.stream s.who.core d).closing = true ∧ (t.stream s.who.core d).buf = q.buf ∧
          (∀ c : CtxId, c.key ≠ s.who.key → t.ctx c = s.ctx c) ∧ t.mem = s.mem))

/-- R229, R231 and R345: QCNT of a bound register counts what the register holds, or the places it has, and the elements left;
QSKIP pops what has arrived
and waits for the rest. -/
def Claims.StreamCounts : Prop :=
  ∀ (s : State) (a : Reg),
    let x := s.ctx s.who
    let k := s.coreAt s.who.core
    let q := s.stream s.who.core a
    (∀ d : Reg, s.Readable { out := [d], codeOk := decide (56 ≤ a.toNat) } →
      (s.holds a → ∃ t, exec (.qcnt d a) s = .next t ∧
        let n := if q.outb then (if q.kind = 1 then 16 - rd k.nbrOut q.ch 0 else 16 - q.buf.length) else q.buf.length
        s.Wrote t { out := [d] } d (BitVec.ofNat 64 (n + 256 * min q.leftOver (2 ^ 56 - 1))) (x.pc + 8)) ∧
      (¬ s.holds a → ∃ t, exec (.qcnt d a) s = .next t ∧ s.Trapped t 0x0A 0)) ∧
    ∀ b : Src,
      let u : Uses := { b := some b, codeOk := decide (56 ≤ a.toNat) }
      let e := countReads u.reads a
      (s.Readable u → ¬ s.holds a ∨ q.outb = true → ∃ t, exec (.qskip a b) s = .next t ∧ s.Trapped t 0x0A 0) ∧
      ∀ n c, 56 ≤ a.toNat → s.holds a → q.outb = false →
        ((x.qskip = none ∧ s.Readable u ∧ n = (s.vals u).b.toNat ∧ c = e) ∨ (x.qskip = some n ∧ c = 0)) →
        let m := min n (q.leftOver - c)
        let p := min m (q.buf.length - c)
        ∃ t, exec (.qskip a b) s = .next t ∧
          (t.stream s.who.core a).buf = q.buf.drop (c + p) ∧ (t.stream s.who.core a).done = q.done + c + p ∧
          (∀ d : CtxId, d.key ≠ s.who.key → t.ctx d = s.ctx d) ∧ t.mem = s.mem ∧ (t.ctx s.who).s = x.s ∧
          (p = m → s.Issued t (x.pc + 8) ∧ (t.ctx s.who).qskip = none) ∧
          (p ≠ m → t.ctx s.who = { x with wait := .blocked 1, blockedOn := none, starting := false, qskip := some (m - p) })

/-- R72, R74 and R232: MCLR empties a mailbox and MPOLL reads and empties one, or gives 0; m7 takes the next notice that waits
for it; a code that is no mailbox traps with cause 0x05. -/
def Claims.MailboxResults : Prop :=
  ∀ (s : State) (m : Reg),
    let k := s.coreAt s.who.core
    let i := m.toNat - 48
    let emptied : Core :=
      match k.m7q with
      | w :: r => if i = 7 then { k with m7q := r, m := wr k.m 7 w, mFull := sb k.mFull 7 true, mPend := sb k.mPend 7 false }
          else { k with mFull := sb k.mFull i false }
      | [] => { k with mFull := sb k.mFull i false }
    (48 ≤ m.toNat → m.toNat < 56 →
      (∃ t, exec (.mclr m) s = .next t ∧ s.SameElse t ∧ s.Passed t (s.ctx s.who) emptied) ∧
      ∀ d : Reg, s.Readable { out := [d] } →
        (tb k.mFull i = true → ∃ t, exec (.mpoll d m) s = .next t ∧
          (s.setCore s.who.core emptied).Wrote t { out := [d] } d (rd k.m i 0) ((s.ctx s.who).pc + 8)) ∧
        (tb k.mFull i = false → ∃ t, exec (.mpoll d m) s = .next t ∧
          s.Wrote t { out := [d] } d 0 ((s.ctx s.who).pc + 8))) ∧
    (m.toNat < 48 ∨ 56 ≤ m.toNat →
      (∃ t, exec (.mclr m) s = .next t ∧ s.Trapped t 0x05 0) ∧
      ∀ d : Reg, ∃ t, exec (.mpoll d m) s = .next t ∧ s.Trapped t 0x05 0)

/-- R170, R227, R281 and R341: STBIND of a claimed register that is unbound, or whose binding has ended, reads its descriptor as a
plain access, with the pc at the STBIND; a claim that is not held traps with cause 0x0A, and a misaligned descriptor with 0x15,
before the old binding ends. -/
def Claims.StreamBinding : Prop :=
  ∀ (s : State) (d : Reg) (a : Src),
    let u : Uses := { a := some a }
    let q := s.stream s.who.core d
    let s' := s.modCore s.who.core fun k => { k with q := wr k.q (d.toNat - 56) { owner := q.owner } }
    let addr := (s.vals u).a
    (d.toNat < 56 → ∃ t, exec (.stbind d a) s = .next t ∧ s.Trapped t 0x05 0) ∧
    (56 ≤ d.toNat → q.owner ≠ some (s.ctx s.who).run → ∃ t, exec (.stbind d a) s = .next t ∧ s.Trapped t 0x0A 0) ∧
    (56 ≤ d.toNat → q.owner = some (s.ctx s.who).run → s.Readable u →
      (s.ctx s.who).plain = .none → (s.ctx s.who).relaxed = 0 →
      (addr.toNat % 8 ≠ 0 → ∃ t, exec (.stbind d a) s = .next t ∧ s.Trapped t 0x15 addr) ∧
      (addr.toNat % 8 = 0 → (q.bound = false ∨ q.counted = true) → s'.AllowsHere addr .load → s'.Unlocked addr (.bind (d.toNat - 56)) → (s.ctx s.who).buddy = none →
        ∃ t acc, exec (.stbind d a) s = .next t ∧ s'.Began t u [] none ∧ (t.ctx s.who).pc = (s.ctx s.who).pc ∧
          (t.ctx s.who).wait = .reply acc.id ∧ s'.Issues acc (.bind (d.toNat - 56)) addr false .none ∧
          s'.Outstanding t (.bind (d.toNat - 56)) false ∧ s'.Leaves t acc))

/-- R75 and R227 to R230: the moves of a bound stream's engine: an element that arrives joins the buffer; an affine inbound
stream fetches its next element, at most 16 ahead, in element order, at its bank's turn; an outbound one stores its oldest element; the elements of
a neighbour channel go on, each taking one of 16 places, and arrive 2 cycles later. -/
def Claims.StreamMoves : Prop :=
  ∀ (s : State),
    let core := s.arg.core
    let i := s.arg.n
    let q := s.q core i
    (i < 4 → s.arg.id < 8 →
      ∃ t, exec .neighbourElementArrive s = .next t ∧ t.mem = s.mem ∧
        rd (t.coreAt core).nbr i [] = rd (s.coreAt core).nbr i [] ++ [s.arg.v] ∧
        (t.q s.arg.die s.arg.id).inflight = (s.q s.arg.die s.arg.id).inflight - 1) ∧
    (i < 8 → q.bound = true →
    (s.arg.id = 2 → q.closing = false →
      ∃ t, exec .streamElementMove s = .next t ∧ (t.q core i).buf = q.buf ++ [s.arg.v] ∧
        (t.q core i).inflight = q.inflight - 1 ∧ (t.q core i).done = q.done ∧ t.mem = s.mem) ∧
    (s.arg.id = 0 → q.ending = false → q.stalled = none → q.start ≤ s.cycle →
      (q.kind = 0 → q.outb = false → q.closing = false → q.moved < q.limit → q.moved - q.done < 16 →
        (∀ ks u, s.elemSide core q (q.addrOf q.moved) 0 = .ok ks u → u.latent = [] →
          (∀ k ∈ ks, u.isPoisoned k 1 = false ∧ u.degraded (keyOctet k) (keySlate k) = false) →
          (q.slot = true ∨ ∀ k ∈ ks, s.bankFrom k ≤ s.cycle) →
          ∃ t due, exec .streamElementMove s = .next t ∧ s.cycle ≤ due ∧ q.lastAt ≤ due ∧
            t.q core i = { q with moved := q.moved + 1, inflight := q.inflight + 1, lastAt := due, slot := false, walked := none } ∧
            t.mem = u.mem ∧
            t.Due due .streamElementMove
              { core := core, n := i, id := 2
                v := Spec.extend (2 ^ q.esz) q.sx (bytesNat (ks.map fun k => memRead u.mem k) % 2 ^ (8 * 2 ^ q.esz)) }) ∧
        ∀ p, s.elemSide core q (q.addrOf q.moved) 0 = .miss p → s.walkOf q.who.core p q.walked = .gone →
          ∃ t, exec .streamElementMove s = .next t ∧ t.q core i = { q with stalled := some (pageOf p) } ∧ t.mem = s.mem ∧
            ∃ n, s.Sent t 20 .noticeArrive { die := s.missDie q.who.core p, notice := n } ∧ n.kind = 0x01 ∧
              n.value = q.addrOf q.moved) ∧
      (∀ w r, q.kind = 0 → q.outb = true → q.tsp = true → q.staff = true →
        (∀ f ∈ (s.octet (octetOf core)).fixups, f.op ≠ q.bindId) → q.buf = w :: r → s.Inv →
        let k := tileKey core q.tt ((q.addrOf q.moved).toNat % 32768)
        (q.addrOf q.moved).toNat % 32768 + 2 ^ q.esz ≤ 32768 →
        ∃ t, exec .streamElementMove s = .next t ∧
          t.q core i = { q with buf := r, moved := q.moved + 1, inflight := q.inflight + 1, slot := false, walked := none } ∧
          s.SameBytesBut t k (2 ^ q.esz) ∧
          ∀ j, j < 2 ^ q.esz → memRead t.mem (k + j) = BitVec.ofNat 8 (w.toNat / 256 ^ j)) ∧
      (∀ w r dst, q.kind = 1 → q.outb = true → q.ch < 4 → q.buf = w :: r → s.neighbour core q.ch = some dst →
        rd (s.coreAt core).nbrOut q.ch 0 < 16 →
        ∃ t, exec .streamElementMove s = .next t ∧
          t.q core i = { q with buf := r, moved := q.moved + 1, inflight := q.inflight + 1 } ∧
          rd (t.coreAt core).nbrOut q.ch 0 = rd (s.coreAt core).nbrOut q.ch 0 + 1 ∧ t.mem = s.mem ∧
          t.Due (s.cycle + 2) .neighbourElementArrive
            { core := dst, n := s.backChannel core q.ch dst, v := w, die := core, octet := q.ch, id := i }) ∧
      ∀ w r, q.kind = 1 → q.outb = false → q.ch < 4 → rd (s.coreAt core).nbr q.ch [] = w :: r → q.closing = false →
        q.moved < q.limit → q.buf.length < 16 →
        ∃ t, exec .streamElementMove s = .next t ∧
          t.q core i = { q with buf := q.buf ++ [Spec.extend (2 ^ q.esz) q.sx (w.toNat % 2 ^ (8 * 2 ^ q.esz))], moved := q.moved + 1 } ∧
          rd (t.coreAt core).nbr q.ch [] = r ∧ t.mem = s.mem))

/-! ## Copy engines and completion words -/

/-- R101, R102, R280, R328 and R351: CPY and CPYR: other nodes, ranges that leave their slate and parts of an element
trap; a locked range or a full table waits; an operation without its right or with a malformed address, or of no bytes, counts at
once; every other enters its two locks and its octet's list, and its context goes on. -/
def Claims.CopyIssues : Prop :=
  ∀ (i : Instr) (d : Reg) (a b c : Src) (kind : EngKind) (n : Nat) (s : State),
    ((i = .cpy d a b c ∧ kind = .cpy ∧ n = 1) ∨ ∃ op ty, i = .cpyr d a b c op ty ∧ kind = .cpyr op ty ∧ n = Spec.elemBytes ty) →
    let u : Uses := { dr := some d, a := some a, b := some b, c := some c }
    s.Readable u → (s.ctx s.who).plain = .none → (s.ctx s.who).relaxed = 0 →
    let v := s.vals u
    let x := s.ctx s.who
    let core := s.who.core
    let octet := octetOf core
    let len := v.c.toNat % 2 ^ 32
    let src : Span := ⟨v.a, len, false⟩
    let dst : Span := ⟨v.b, len, true⟩
    let fault := (s.spanFault core (decide (s.priv s.who = 2)) src).or (s.spanFault core (decide (s.priv s.who = 2)) dst)
    let near := ∀ m, s.form core v.a ≠ .remote m ∧ s.form core v.b ≠ .remote m
    let inside := s.leavesSlate core src = false ∧ s.leavesSlate core dst = false
    let open' := s.spanClosed core src = false ∧ s.spanClosed core dst = false
    let free := s.lockConflict core src = false ∧ s.lockConflict core dst = false ∧ s.lockRoom core [src, dst] = true
    (¬ near → ∃ t w m, exec i s = .next t ∧ s.form core w = .remote m ∧ s.Trapped t 0x16 w) ∧
    (near → ¬ inside → ∃ t w, exec i s = .next t ∧ (w = v.a ∨ w = v.b) ∧ s.Trapped t 0x15 w) ∧
    (near → inside → len % n ≠ 0 → ∃ t, exec i s = .next t ∧ s.Trapped t 0x15 v.b) ∧
    (near → inside → len % n = 0 → (¬ open' ∨ (fault = none ∧ len ≠ 0 ∧ ¬ free)) →
      ∃ t, exec i s = .next t ∧ s.Waits t 0) ∧
    (near → inside → len % n = 0 → open' → (fault.isSome = true ∨ len = 0) →
      ∃ t, exec i s = .next t ∧ s.SameElse t ∧
        s.Passed t { x with engOut := x.engOut + 1 } ((s.coreAt core).after u) ∧
        t.Due s.cycle .completionIncrement
          { count := { addr := v.d, err := fault.isSome, what := .engine octet 0, who := s.who, run := x.run } }) ∧
    (near → inside → len % n = 0 → open' → fault = none → len ≠ 0 → free →
      ∃ t op, exec i s = .next t ∧ s.Passed t { x with engOut := x.engOut + 1 } ((s.coreAt core).after u) ∧
        (t.octet octet).ops = (s.octet octet).ops ++ [op] ∧ op.who = s.who ∧ op.run = x.run ∧ op.kind = kind ∧ op.src = v.a ∧
        op.dst = v.b ∧ op.len = len ∧ op.cw = v.d ∧ op.pos = 0 ∧ op.err = none ∧ op.counting = false ∧
        ∀ p ∈ [src, dst], ∀ o sl lo, s.spanAt core p = some (o, sl, lo) →
          { op := op.id, write := p.write, slate := sl, lo := lo, hi := lo + len } ∈ (t.octet o).locks)

/-- R91, R94, R102, R280, R328 and R366: a piece of a CPY, at its turn at the banks of its bytes, moves up to 64 bytes from its source
to its destination and changes no other byte; when the last one has moved, the operation counts once its stores are acknowledged
and its increment has come to its word, with err where it has failed. -/
def Claims.CopyPieces : Prop :=
  ∀ (s : State) (op : EngOp) (sk : List Nat) (k : Nat),
    let o := s.octet s.arg.octet
    let n := min 64 (op.len - op.pos)
    s.Inv → o.ops = [op] → o.fixups = [] → op.moving = true → op.start ≤ s.cycle → op.kind = .cpy → op.staff = true →
    let dst := op.dst + BitVec.ofNat 64 op.pos
    let ack := max op.ackAt (s.cycle + s.engLat op.who.core dst / 2)
    let moved : EngOp := { op with pos := op.pos + 64, slot := false, walked := none, ackAt := ack }
    s.side op.who op.staff op.id (op.src + BitVec.ofNat 64 op.pos) n 0 = .ok sk s →
    s.side op.who op.staff op.id dst n 1 = .ok ((List.range n).map fun i => k + i) s →
    (op.slot = true ∨ ∀ j, (j ∈ sk ∨ (k ≤ j ∧ j < k + n)) → s.bankFrom j ≤ s.cycle) →
    sk.length = n → s.latent = [] →
    (∀ j ∈ sk, s.isPoisoned j 1 = false ∧ s.degraded (keyOctet j) (keySlate j) = false) → s.Quiet k n →
    ∃ t, exec .copyEnginePiece s = .next t ∧
      (∀ i, i < n → memRead t.mem (k + i) = memRead s.mem (sk.getD i 0)) ∧ s.SameBytesBut t k n ∧
      t.ctxs = s.ctxs ∧ t.cores = s.cores ∧
      (op.pos + 64 < op.len → (t.octet s.arg.octet).ops = [moved] ∧
        ∃ p ∈ t.agenda, p.ev = .copyEnginePiece ∧ p.arg.octet = s.arg.octet ∧ p.due ≤ s.cycle + 1) ∧
      (op.len ≤ op.pos + 64 → (t.octet s.arg.octet).ops = [{ moved with counting := true }] ∧
        s.Carries t (octetDie s.arg.octet) (s.farDie op.who.core op.cw) false 16
          (ack - s.cycle + s.engLat op.who.core op.cw / 2) .completionIncrement
          { count := { addr := op.cw, err := op.err.isSome, what := .engine s.arg.octet op.id, who := op.who, run := op.run } })

/-- R91, R94, R101, R103, R107 and R343: an increment of a completion word in a slate that its place lets on, at its bank's turn, adds
one to its low 62 bits, keeps bit 62, sets err for good, and leaves the word full; an engine operation then leaves its octet with
its locks, and its context's count of operations falls. A page that is not translated is walked, and a missing one holds the
increment. -/
def Claims.CompletionIncrements : Prop :=
  ∀ (s : State) (c : Count), s.arg.count = c → (s.coreAt c.who.core).cuts = [] →
    (∀ k, s.Inv → s.countPlace c = .word k s → isSlateKey k = true → (s.arg.slot = true ∨ s.bankFrom k ≤ s.cycle) →
      s.NoEffectBit c.who c.run → s.Quiet k 8 →
      ∃ t, exec .completionIncrement s = .next t ∧
        memReadN t.mem k 8 = Spec.incremented (memReadN s.mem k 8) c.err ∧ t.full k = true ∧ s.SameBytesBut t k 8 ∧
        ∀ e id, c.what = .engine e id →
          (∀ op ∈ (t.octet e).ops, op.id ≠ id) ∧ (∀ q, ∀ l ∈ (t.octet q).locks, l.op ≠ id) ∧
          (s.inPlace c.who c.run → (t.ctx c.who).engOut = (s.ctx c.who).engOut - 1)) ∧
    ∀ off, s.form c.who.core c.addr = .mem off → s.tlbFind (dieOf c.who.core) (s.partOf c.who.core) off = none →
      (s.arg.walked = false → ∃ t, exec .completionIncrement s = .next t ∧ t.mem = s.mem ∧ t.heldCounts = s.heldCounts ∧
        s.Sent t (110 * (s.walk (s.partOf c.who.core) off).2) .completionIncrement { s.arg with n := 1, walked := true }) ∧
      (s.arg.walked = true → (s.walk (s.partOf c.who.core) off).1 = none →
       ∃ t, exec .completionIncrement s = .next t ∧ t.mem = s.mem ∧ t.heldCounts = s.heldCounts ++ [c] ∧
        ∃ n, s.Sent t 20 .noticeArrive { die := dieOf c.who.core, notice := n } ∧ n.kind = 0x01 ∧ n.value = c.addr)

/-- R103, R282 and R365: a CWAIT whose word satisfies it completes at its issue with the word in d; any other sleeps with its pc at
itself, and a limit other than zero ends it with cause 0x1A, without an effect. -/
def Claims.CompletionWaits : Prop :=
  ∀ (s : State) (d : Reg) (a b c : Src),
    let u : Uses := { a := some a, b := some b, c := some c, late := [d] }
    let v := s.vals u
    let s' := s.modCtx s.who fun x => { x with left := 0 }
    let land := s.land s.who.core (decide (s.priv s.who = 2)) true v.a 8 .sync 0
    let T := v.b.toNat % 2 ^ 62
    let limit := if (s.ctx s.who).left ≠ 0 then (s.ctx s.who).left else v.c.toNat
    let s'' := s.modCtx s.who fun x => { x with left := 0, limitAt := if limit = 0 then 0 else s.cycle + limit }
    (s.Readable u → s.form s.who.core v.a ≠ .bad → bits v.a.toNat 47 40 ≠ 0x0F →
      ∃ t, exec (.cwait d a b c) s = .next t ∧ s.Trapped t 0x16 v.a) ∧
    (s.Readable u → bits v.a.toNat 47 40 = 0x0F → s.AllowsHere v.a .sync → (s.ctx s.who).life = .active →
      (∀ k m, land = .go k m → Spec.satisfied (memReadN s.mem (k / 8 * 8) 8) T →
        ∃ t, exec (.cwait d a b c) s = .next t ∧
          s'.Wrote t u d (BitVec.ofNat 64 (memReadN s.mem (k / 8 * 8) 8)) ((s.ctx s.who).pc + 8)) ∧
      ((∀ k m, land = .go k m → ¬ Spec.satisfied (memReadN s.mem (k / 8 * 8) 8) T) → (s.ctx s.who).buddy = none →
        ∃ t acc, exec (.cwait d a b c) s = .next t ∧ s''.Began t u [d] none ∧ (t.ctx s.who).pc = (s.ctx s.who).pc ∧
          (t.ctx s.who).wait = .cwait acc.id ∧ s''.Issues acc (.cwait T limit) v.a false (.reg d) ∧ s''.Leaves t acc ∧
          (limit ≠ 0 → t.Due (s.cycle + limit) .cwaitLimitExpire
            { c := s.who, run := (s.ctx s.who).run, id := acc.id, n := s.cycle + limit }))) ∧
    ∀ (who : CtxId) (z : Sleeper) (r : Reg), s.arg.c = who → (s.ctx who).run = s.arg.run → (s.ctx who).life = .active →
      (s.ctx who).wait = .cwait s.arg.id → (s.ctx who).drops = [] → (s.ctx who).left = 0 → s.arg.n ≤ s.cycle →
      s.sleepers = [z] → z.acc.id = s.arg.id → z.acc.dest = .reg r → 0 < r.toNat → r.toNat < 32 →
      ∃ t, exec .cwaitLimitExpire s = .next t ∧ t.sleepers = [] ∧ (t.ctx who).life = .trapped ∧
        (t.ctx who).frec =
          { cause := 0x1A, pc := (s.ctx who).pc, addr := z.acc.addr, word := z.acc.word, ctx := who.ctx } ∧
        (t.ctx who).s = (s.ctx who).s ∧ (z.acc.was = true → t.regFull who r 1 = true) ∧ t.regPend who r = false ∧
        t.mem = s.mem ∧ ∀ e : CtxId, e.key ≠ who.key → t.ctx e = s.ctx e

/-! ## The slate map and the hand-over of slates -/

/-- R89, R279 and R349: SMAP writes its status, and installs the entry only with status 0; SGEN reads an entry with its generation.
-/
def Claims.SlateMap : Prop :=
  ∀ (s : State) (d : Reg) (a b : Src),
    let core := s.who.core
    (let u : Uses := { a := some a, b := some b, out := [d], need := 1 }
     let v := s.vals u
     let w := v.b.toNat % 8
     let sl := v.a.toNat / 2 ^ 26 % 32
     let own := BitVec.ofNat 2 (v.a.toNat / 2 ^ 16)
     let e : Win :=
       { valid := true, slate := sl, gen := rd (s.octet (octetOf core)).gens sl 0, own := own, rem := BitVec.ofNat 2 (v.a.toNat / 2 ^ 14) }
     let held := ∃ i j, i < 8 ∧ j < 8 ∧
       (rd (s.coreAt (coreOfSeat (octetOf core) i)).win j {}).valid = true ∧
       (rd (s.coreAt (coreOfSeat (octetOf core) i)).win j {}).slate = sl
     s.Readable u →
     (own = 3 → ∃ t, exec (.smap d a b) s = .next t ∧ s.Trapped t 0x02 0) ∧
     (own ≠ 3 → (rd (s.coreAt core).win w {}).valid = true →
       ∃ t, exec (.smap d a b) s = .next t ∧ s.Wrote t u d 1 ((s.ctx s.who).pc + 8)) ∧
     (own ≠ 3 → (rd (s.coreAt core).win w {}).valid = false → held →
       ∃ t, exec (.smap d a b) s = .next t ∧ s.Wrote t u d 2 ((s.ctx s.who).pc + 8)) ∧
     (own ≠ 3 → (rd (s.coreAt core).win w {}).valid = false → ¬ held →
       ∃ t, exec (.smap d a b) s = .next t ∧
         (s.modCore core fun k => { k with win := wr k.win w e }).Wrote t u d 0 ((s.ctx s.who).pc + 8))) ∧
    (s.Readable { a := some a, out := [d] } →
      ∃ t, exec (.sgen d a) s = .next t ∧
        s.Wrote t { a := some a, out := [d] } d
          (Spec.entry (rd (s.coreAt core).win ((s.vals { a := some a, out := [d] }).a.toNat % 8) {})) ((s.ctx s.who).pc + 8))

/-- R92, R93, R108 and R279: GIVE and SUNMAP of a window that holds a slate close it and wait for the install; a window without one
gives status 1, a GIVE to a window that is valid status 2, and a GIVE waits for its context's stores, for an earlier transfer of
either window, and for room for its notice. R362: sunmap.rc does the same with the slate that a handle names. -/
def Claims.SlateTransfers : Prop :=
  ∀ (s : State) (i : Instr) (d : Reg) (u : Uses) (octet : Nat) (g : GiveOp),
    let core := s.who.core
    let here := octetOf core
    let win (c w : Nat) : Win := rd (s.coreAt c).win w {}
    let refused (n : Nat) : Prop := ∃ t id, exec i s = .next t ∧ s.Began t u [d] none ∧ (t.ctx s.who).pc = (s.ctx s.who).pc + 8 ∧
      (t.ctx s.who).wait = .hold id ∧ (t.ctx s.who).lateOut = (s.ctx s.who).lateOut + 1 ∧
      s.Sent t 8 .giveInstall
        { late := { who := s.who, run := (s.ctx s.who).run, dest := .reg d, val := BitVec.ofNat 1024 n }, n := 1 }
    let started : Prop := ∃ t h id, exec i s = .next t ∧
      h = { g with id := h.id, reply := { who := s.who, run := (s.ctx s.who).run, dest := .reg d } } ∧
      (s.modOctet octet fun o => { o with gives := o.gives ++ [h] }).Began t u [d] none ∧
      (t.ctx s.who).pc = (s.ctx s.who).pc + 8 ∧ (t.ctx s.who).wait = .hold id ∧
      (t.ctx s.who).lateOut = (s.ctx s.who).lateOut + 1 ∧ s.Sent t 8 .giveInstall { octet := octet, id := h.id }
    s.Readable u →
    (∀ a b c : Src, i = .give d a b c → u = { a := some a, b := some b, c := some c, late := [d] } →
      let own := (s.vals u).a.toNat % 8
      let dst := coreOfSeat here ((s.vals u).b.toNat % 8)
      let w := (s.vals u).c.toNat % 8
      let busy := (∃ h ∈ (s.octet here).gives, h.target = some (dst, w)) ∨ s.closed here (win core own).slate = true ∨
        s.noticeRoom here dst = false
      ((s.ctx s.who).relaxed ≠ 0 ∨ (s.ctx s.who).plain = .store → ∃ t, exec i s = .next t ∧ s.Waits t 0) ∧
      ((s.ctx s.who).relaxed = 0 → (s.ctx s.who).plain ≠ .store →
        ((win core own).valid = false → refused 1) ∧
        ((win core own).valid = true → (win dst w).valid = true → refused 2) ∧
        ((win core own).valid = true → (win dst w).valid = false → busy → ∃ t, exec i s = .next t ∧ s.Waits t 0) ∧
        ((win core own).valid = true → (win dst w).valid = false → ¬ busy → octet = here →
          g = { core := core, win := own, target := some (dst, w), slate := (win core own).slate } → started))) ∧
    (∀ a : Src, i = .sunmap d a → u = { a := some a, late := [d], need := 1 } →
      let own := (s.vals u).a.toNat % 8
      ((win core own).valid = false → refused 1) ∧
      ((win core own).valid = true → s.closed here (win core own).slate = true → ∃ t, exec i s = .next t ∧ s.Waits t 0) ∧
      ((win core own).valid = true → s.closed here (win core own).slate = false → octet = here → g = { core := core, win := own, slate := (win core own).slate } → started)) ∧
    ∀ a : Src, i = .sunmapRc d a → u = { a := some a, late := [d], need := 2 } →
      ((∀ o sl n off, s.form core (s.vals u).a ≠ .handle o sl n off) → refused 1) ∧
      ∀ o sl n off, s.form core (s.vals u).a = .handle o sl n off →
        ((rd (s.octet o).gens sl 0).toNat ≠ n → refused 1) ∧
        ((rd (s.octet o).gens sl 0).toNat = n → (∀ l ∈ (s.octet o).locks, l.slate ≠ some sl) → s.parked = [] → octet = o →
          g = { slate := sl, reclaim := true } → started)

/-- R92, R93, R279 and R362: the install of a transfer whose slate no live range lock covers, and at whose banks no access waits
for its turn: the generation advances, the giver's
window is invalid and the target's holds the slate with the rights it had, the notice is placed in the target's m7 or queued
for it, and the status is 0; a reclaim leaves the slate in no window. A locked slate is tried again, and a refused transfer
writes its status. -/
def Claims.SlateInstalls : Prop :=
  ∀ (s : State) (l : Late) (d : Reg), l.dest = .reg d → d.toNat < 55 → s.inPlace l.who l.run → (s.ctx l.who).buddy = none →
    (∀ id, (s.ctx l.who).wait = .hold id → s.arg.n = 1 → s.arg.late = l →
      ∃ t, exec .giveInstall s = .next t ∧ s.Filled t l.who d (l.val.setWidth 64) ∧ (t.ctx l.who).wait = .none ∧
        (t.ctx l.who).lateOut = (s.ctx l.who).lateOut - 1 ∧ t.octets = s.octets ∧ t.mem = s.mem) ∧
    ∀ g, s.arg.n = 0 → g.reply = l → (s.octet s.arg.octet).gives = [g] → g.id = s.arg.id → g.slate < 32 →
      ((s.draining s.arg.octet g.slate = true ∨ ∃ q ∈ (s.octet s.arg.octet).locks, q.slate = some g.slate) →
        exec .giveInstall s = .next (s.post (s.cycle + 1) .giveInstall s.arg)) ∧
      (s.draining s.arg.octet g.slate = false → (∀ q ∈ (s.octet s.arg.octet).locks, q.slate ≠ some g.slate) →
        let gen := rd (s.octet s.arg.octet).gens g.slate 0 + 1
        ∃ t, exec .giveInstall s = .next t ∧ rd (t.octet s.arg.octet).gens g.slate 0 = gen ∧
          (t.octet s.arg.octet).gives = [] ∧ (t.octet s.arg.octet).waiting = [] ∧ t.regVal l.who d 0 = 0 ∧
          (d ≠ 0 → t.regFull l.who d 1 = true) ∧ t.mem = s.mem ∧ t.empty = s.empty ∧
          (∀ dst w, g.reclaim = false → g.target = some (dst, w) → dst ≠ g.core → dst ≠ l.who.core → g.win < 8 → w < 8 →
            let old := rd (s.coreAt g.core).win g.win {}
            let note := BitVec.ofNat 64 (w * 2 ^ 21 + g.slate * 2 ^ 16 + gen.toNat * 2 ^ 8 + seatOf g.core)
            rd (t.coreAt g.core).win g.win {} = {} ∧
            rd (t.coreAt dst).win w {} = { valid := true, slate := g.slate, gen := gen, own := old.own, rem := old.rem } ∧
            (∀ j, j < 8 → j ≠ g.win → rd (t.coreAt g.core).win j {} = rd (s.coreAt g.core).win j {}) ∧
            (∀ j, j < 8 → j ≠ w → rd (t.coreAt dst).win j {} = rd (s.coreAt dst).win j {}) ∧
            (tb (s.coreAt dst).mFull 7 = false → rd (t.coreAt dst).m 7 0 = note ∧ tb (t.coreAt dst).mFull 7 = true) ∧
            (tb (s.coreAt dst).mFull 7 = true → (t.coreAt dst).m7q = (s.coreAt dst).m7q ++ [note] ∧
              rd (t.coreAt dst).m 7 0 = rd (s.coreAt dst).m 7 0)) ∧
          (g.reclaim = true → g.target = none → ∀ i j, i < 8 → j < 8 →
            let w := rd (s.coreAt (coreOfSeat s.arg.octet i)).win j {}
            rd (t.coreAt (coreOfSeat s.arg.octet i)).win j {} = if w.slate = g.slate then {} else w))

/-! ## Translation, notices, and what banks do later -/

/-- R91, R97, R327 and R367: a walk that finds a leaf fills the die's translation cache and sends its access on to its bank; one that
finds none is a miss, which holds the access, drops its context, and posts MISS at the die whose walker missed, or whose
controller has marked the frame. -/
def Claims.Walks : Prop :=
  ∀ (s : State) (a : Access), s.arg.acc = a →
    let die := dieOf a.who.core
    let part := s.partOf a.who.core
    let addr := a.miss.getD a.addr
    let off := addr.toNat % 2 ^ 48
    let go (u t : State) (e : TlbEnt) : Prop :=
      let l := 110 + 24 * crossings die (if 2 ^ 46 ≤ e.phys off ∧ e.phys off < 2 ^ 47 then 0 else e.phys off / 2 ^ 36 / 4)
      u.Departs t { a with miss := none } (if addr = a.addr then l else a.lat)
    (∀ e, s.tlbFind die part off = some e → ∃ t, exec .walkDone s = .next t ∧ go s t e ∧ t.mem = s.mem ∧ t.dies = s.dies) ∧
    (∀ l n, s.tlbFind die part off = none → s.walk part off = (some l, n) → (s.die die).tlb.length < 16384 →
      let e : TlbEnt := { part := part, base := l.base, size := l.size, pte := l.pte, leaf := l.leaf, cnt := l.leaf.toNat % 65536 }
      ∃ t, exec .walkDone s = .next t ∧ t.tlbFind die part off = some e ∧ go (s.tlbFill die part l) t e ∧
        t.mem = s.mem ∧ t.ctxs = s.ctxs) ∧
    (∀ n, s.tlbFind die part off = none → s.walk part off = (none, n) →
      exec .walkDone s = .next (s.postLate s.cycle .translationMiss s.arg)) ∧
    (a.who.core < 7680 → s.inPlace a.who a.run →
      ∃ t, exec .translationMiss s = .next t ∧ t.held = s.held ++ [a] ∧ t.mem = s.mem ∧
        t.ctx a.who = { s.ctx a.who with
          drops := addr :: (s.ctx a.who).drops
          dropAt := if (s.ctx a.who).drops = [] then s.cycle else (s.ctx a.who).dropAt } ∧
        (∀ c : CtxId, c.key ≠ a.who.key → t.ctx c = s.ctx c) ∧
        s.Sent t 20 .noticeArrive
          { die := s.missDie a.who.core addr
            notice := { kind := 0x01, cause := 0x40, die := s.missDie a.who.core addr, core := a.who.core, ctx := a.who.ctx, value := addr
                        word := BitVec.ofNat 64 part } })

/-- R327 and R354: the wake of a PAGE_MAPPED at a die translates the held accesses in the page again, and returns the contexts of
the partition whose missing pages it covers to the ready set. -/
def Claims.PageWakes : Prop :=
  ∀ (s : State) (size : Nat),
    ((s.arg.n = 0 ∧ size = 2 ^ 16) ∨ (s.arg.n = 1 ∧ size = 2 ^ 21) ∨ (s.arg.n = 2 ∧ size = 2 ^ 30)) →
    let part := s.arg.w.toNat % 16
    let inPage (x : Word) : Prop := x.toNat % 2 ^ 48 / size = s.arg.v.toNat % 2 ^ 48 / size
    let mine (core : Nat) : Prop := dieOf core = s.arg.die ∧ s.partOf core = part
    ∃ t, exec .pageMappedWake s = .next t ∧ t.mem = s.mem ∧
      (∀ a ∈ s.held, mine a.who.core ∧ inPage (a.miss.getD a.addr) →
        a ∉ t.held ∧
        ((∀ o st n l, a.kind ≠ .tile o st n l) → (∀ p, a.kind ≠ .drain p) → ∃ p ∈ t.agenda, p.ev = .walkDone ∧ p.arg = { acc := a })) ∧
      (∀ a ∈ s.held, ¬ (mine a.who.core ∧ inPage (a.miss.getD a.addr)) → a ∈ t.held) ∧
      ∀ c : CtxId, c.ctx < 16 →
        ((¬ mine c.core ∨ ∀ x ∈ (s.ctx c).drops, ¬ inPage x) → t.ctx c = s.ctx c) ∧
        (mine c.core → (s.ctx c).drops ≠ [] → (∀ x ∈ (s.ctx c).drops, inPage x) →
          (t.ctx c).drops = [] ∧ (t.ctx c).s = (s.ctx c).s ∧
          ((s.ctx c).wait = .none ∨ (s.ctx c).wait = .fetchDrop → t.ctx c = { s.ctx c with drops := [], wait := .none }))

/-- R332, R333, R335 and R418: a notice is written at the write position of its die's ring, which advances; in a full ring a MISS
waits, and every other notice is dropped and counted. -/
def Claims.NoticeRecords : Prop :=
  ∀ (s : State),
    let d := s.die s.arg.die
    let n := s.arg.notice
    let size := d.staffRing.toNat / 2 ^ 48 % 2 ^ 16
    let room := 0 < size ∧ d.staffWrite ∉ d.staffBusy
    (room → d.staffDrop = 0 → d.staffWait = [] → s.Inv →
      let k := d.staffRing.toNat % 2 ^ 48 / 64 * 64 + d.staffWrite * 64
      k + 64 ≤ 2 ^ 48 →
      let u := { d with staffBusy := d.staffBusy ++ [d.staffWrite]
                        staffWrite := if size ≤ d.staffWrite + 1 then 0 else d.staffWrite + 1 }
      ∃ t, exec .noticeArrive s = .next t ∧ t.die s.arg.die = u ∧ s.SameBytesBut t k 64 ∧ t.ctxs = s.ctxs ∧
        memReadN t.mem k 8 = 0xFF1 * 2 ^ 52 + 2 ^ 46 ∧
        memReadN t.mem (k + 16) 8 =
          (n.kind * 2 ^ 56 + n.cause * 2 ^ 48 + n.die * 2 ^ 46 + n.core * 2 ^ 33 + n.ctx * 2 ^ 29) % 2 ^ 64 ∧
        memReadN t.mem (k + 24) 8 = n.value.toNat ∧ memReadN t.mem (k + 32) 8 = n.pc.toNat ∧
        memReadN t.mem (k + 40) 8 = n.addr.toNat ∧ memReadN t.mem (k + 48) 8 = n.word.toNat ∧
        memReadN t.mem (k + 8) 8 = 0 ∧ memReadN t.mem (k + 56) 8 = 0) ∧
    (¬ room → n.kind = 0x01 →
      exec .noticeArrive s = .next (s.setDie s.arg.die { d with staffWait := d.staffWait ++ [n] })) ∧
    (¬ room → n.kind ≠ 0x01 →
      exec .noticeArrive s = .next (s.setDie s.arg.die { d with staffDrop := min 0xFFFFFFFF (d.staffDrop + 1) }))

/-- R95 and R364: the timed re-try of a parked LDX: a full word completes it; an empty one counts the re-try, and past the context's
wait limit the operation is withdrawn with cause 0x18. R371: the rewrite of a failing slate corrects a word in a cycle in which
the slate's bank is idle, from its stripe, where a second uncorrectable word poisons it, and ends with its notice. -/
def Claims.TimedRetries : Prop :=
  (∀ (s : State) (p : Parked), s.parked = [p] → p.acc.id = s.arg.id → p.last + 256 ≤ s.cycle → p.acc.kind = .ldx →
    p.acc.key % 8 = 0 → isSlateKey p.acc.key = true → s.inPlace p.acc.who p.acc.run → (s.ctx p.acc.who).drops = [] →
    let a := p.acc
    let limit := (s.ctx a.who).waitLimit.toNat
    (s.full a.key = true → ∃ t, exec .parkedOpTimerRetry s = .next t ∧ t.parked = [] ∧ t.full a.key = false ∧ t.mem = s.mem ∧
      s.Carries t (s.endDie a) (dieOf a.who.core) false 24 (a.lat - a.lat / 2) .memoryReply
        { acc := a, vec := BitVec.ofNat 1024 (memReadN s.mem a.key 8) }) ∧
    (s.full a.key = false → a.tries + 1 ≤ limit → ∃ t, exec .parkedOpTimerRetry s = .next t ∧
      t.parked = [{ acc := { a with tries := a.tries + 1 }, last := s.cycle }] ∧ t.mem = s.mem ∧ t.empty = s.empty ∧
      t.Due (s.cycle + 256) .parkedOpTimerRetry s.arg) ∧
    (s.full a.key = false → limit < a.tries + 1 → ∃ t, exec .parkedOpTimerRetry s = .next t ∧ t.parked = [] ∧ t.mem = s.mem ∧
      t.Due s.cycle .landingFaultReport { acc := { a with tries := a.tries + 1 }, cause := 0x18 })) ∧
  ∀ (s : State) (f : Failing), (s.octet s.arg.octet).failing = [f] → f.slate = s.arg.n → f.pos < 8192 →
    let w := slateKey s.arg.octet f.slate (f.pos * 8) / 8
    (s.cycle < s.bankFrom (slateKey s.arg.octet f.slate 0) →
      exec .slateRewrite s = .next (s.post (s.cycle + 1) .slateRewrite s.arg)) ∧
    (s.bankFrom (slateKey s.arg.octet f.slate 0) ≤ s.cycle →
    ∃ t, exec .slateRewrite s = .next t ∧ (t.octet s.arg.octet).failing = [{ f with pos := f.pos + 1 }] ∧ t.mem = s.mem ∧
      (∀ v b, Latent.slateWord v b ∈ t.latent → v ≠ w) ∧
      ((∃ v b, Latent.slateWord v b ∈ s.latent ∧ v ≠ w ∧ 1 < b ∧ sameStripe v w = true) → t.isPoisoned (8 * w) 8 = true) ∧
      (f.pos + 1 < 8192 → t.Due (s.cycle + 1) .slateRewrite s.arg) ∧
      (f.pos + 1 = 8192 → f.stays = false → ∃ n, s.Sent t 20 .noticeArrive { die := octetDie s.arg.octet, notice := n } ∧
        n.kind = 0x0E ∧ n.value = BitVec.ofNat 64 (s.arg.octet * 2 ^ 32 + f.slate)))

/-! ## The matrix unit -/

/-- R234, R236 to R239, R250, R251 and R261: a command of the matrix unit joins its core's queue with its operands and samples, and
leaves outstanding the access that it names; with four commands queued, or accesses outstanding, it waits; a malformed address
traps with cause 0x10, a broken shape or slot with 0x20, and a misaligned drain program with 0x15. -/
def Claims.MxuIssues : Prop :=
  ∀ (i : Instr) (r : MxuRow) (s : State), Spec.mxu i = some r → s.Readable r.uses →
    let x := s.ctx s.who
    let v := s.vals r.uses
    let octet := octetOf s.who.core
    let quiet := r.plain = .none ∨ (x.plain = .none ∧ x.relaxed = 0)
    (¬ quiet → ∃ t, exec i s = .next t ∧ s.Waits t 0) ∧
    (quiet → 4 ≤ (Spec.queued s).length → ∃ t, exec i s = .next t ∧ s.Waits t 0) ∧
    (quiet → (Spec.queued s).length < 4 →
      (∀ a n, r.addr v = some (a, n) → s.form s.who.core a = .bad → ∃ t, exec i s = .next t ∧ s.Trapped t 0x10 a) ∧
      ((∀ a n, r.addr v = some (a, n) → s.AllowsHere a n) →
        (∀ k, r.broken s v = some k →
          ∃ t, exec i s = .next t ∧ s.Trapped t k (if k = 0x20 then 0 else (r.addr v).elim 0 (·.1))) ∧
        (r.broken s v = none → ∃ t c, exec i s = .next t ∧
          s.Passed t { x with plain := if r.plain = .none then x.plain else r.plain }
            (r.kept ((s.coreAt s.who.core).after r.uses)) ∧
          t.octet octet = { s.octet octet with
            mxu := { (s.octet octet).mxu with cmds := (s.octet octet).mxu.cmds ++ [c] } } ∧
          Spec.Queued s c (r.cmd s v) ∧ t.Due s.cycle .mxuCommandTake { octet := octet })))

/-- R240 to R242, R248, R250, R258 and R261: a MATX whose operands, program and cohort pass its checks joins its core's queue with
its samples; the generator steps once under .sr, the mailbox that its program fills is emptied, and the context has one MATX
more to come. Broken operands trap with cause 0x20, a DMBX without a mailbox with 0x21, and a broken cohort with 0x23. -/
def Claims.MatxIssues : Prop :=
  ∀ (s : State) (f : MatxF),
    let u : Uses := { c := some f.cr, codeOk := decide (f.cr.r.toNat < 55) }
    s.Readable u → (s.ctx s.who).plain = .none → (s.ctx s.who).relaxed = 0 → (Spec.queued s).length < 4 →
    let core := s.who.core
    let octet := octetOf core
    let k := s.coreAt core
    let cw := (s.vals u).c
    let p := rd (s.octet octet).mxu.progs f.drain.toNat {}
    let dmbx := p.valid && holds (drainBody p.words) 0x14
    let mbx := k.dctl.toNat / 2 ^ 21 % 8
    let sr := decide (k.dctl.toNat / 2 ^ 25 % 8 = 4)
    let m : Matx :=
      { f := f, sa := Spec.shape s f.ta, sb := Spec.shape s f.tb, sm := if f.sparse = .dense then {} else Spec.shape s f.tm
        ctl := k.dctl, out := k.dout, rowp := k.drowp, colp := k.dcolp, rng := if sr then k.rng else 0, cw := cw
        mbxGone := dmbx, launch := (s.ctx s.who).launch }
    (s.matxShapeOk f m = false → ∃ t, exec (.matx f) s = .next t ∧ s.Trapped t 0x20 0) ∧
    (s.matxShapeOk f m = true → dmbx = true → mbx = 7 → ∃ t, exec (.matx f) s = .next t ∧ s.Trapped t 0x21 0) ∧
    (s.matxShapeOk f m = true → ¬ (dmbx = true ∧ mbx = 7) → cohortOk f m.launch = false →
      ∃ t, exec (.matx f) s = .next t ∧ s.Trapped t 0x23 0) ∧
    (s.matxShapeOk f m = true → ¬ (dmbx = true ∧ mbx = 7) → cohortOk f m.launch = true →
      ∃ t c, exec (.matx f) s = .next t ∧ Spec.Queued s c (.matx m) ∧
        t.octet octet = { s.octet octet with mxu := { (s.octet octet).mxu with cmds := (s.octet octet).mxu.cmds ++ [c] } } ∧
        t.Due s.cycle .mxuCommandTake { octet := octet } ∧
        let l := t.coreAt core
        s.Passed t { s.ctx s.who with matxOut := (s.ctx s.who).matxOut + 1 }
          { k with rng := if sr then nextRandom k.rng else k.rng, mFull := l.mFull, mPend := l.mPend, kept := l.kept } ∧
        (∀ j, j < 8 → tb l.mFull j = (tb k.mFull j && !(dmbx && j == mbx)) ∧ tb l.mPend j = (tb k.mPend j || (dmbx && j == mbx))) ∧
        (f.keep = false → rd l.kept f.acc.toNat none = none) ∧
        ∀ a b, m.sa.info = some a → m.sb.info = some b → f.keep = true → rd l.kept f.acc.toNat none = some (a.rows, b.cols))

/-- R234, R235, R238, R239, R245, R250 and R251: the next command that can be taken is taken: a transfer begins its pieces, TZERO
and TCOPY end 512 cycles later, ACCREL frees its slot, and a MATX binds its slot and its program and asks for its start; one
without a valid program, or on a spoiled slot, ends with err. -/
def Claims.MxuTakes : Prop :=
  ∀ (s : State) (c : MxuCmd),
    let o := s.arg.octet
    let m := (s.octet o).mxu
    (((List.range 8).findSome? fun seat => s.canTake o seat) = none → exec .mxuCommandTake s = .next s) ∧
    (((List.range 8).findSome? fun seat => s.canTake o seat) = some c → (∀ d ∈ m.cmds, d.id = c.id → d = c) →
      ∃ t, exec .mxuCommandTake s = .next t ∧ t.mem = s.mem ∧ t.ctxs = s.ctxs ∧
        ((∀ x, c.cmd ≠ .matx x) → t.cores = s.cores) ∧ t.Due s.cycle .mxuCommandTake { octet := o } ∧
        (((∃ d, c.cmd = .tzero d) ∨ ∃ d e, c.cmd = .tcopy d e) →
          t.Due (s.cycle + 512) .tileOpEnd { octet := o, id := c.id } ∧ { c with taken := true } ∈ (t.octet o).mxu.cmds) ∧
        (∀ r, c.cmd.rows = some r →
          s.Carries t (octetDie o) (s.farDie c.who.core r.base) false 80 (s.tileLead o c.who.core r.base) .tileTransferPiece
            { octet := o, id := c.id }) ∧
        (∀ r, c.cmd.rows = some r → (∀ acc a p i j, c.cmd ≠ .accst acc a p i j) →
          { c with taken := true } ∈ (t.octet o).mxu.cmds) ∧
        (∀ acc a p i j, c.cmd = .accst acc a p i j →
          { c with taken := true, bytes := s.accBytes o acc c.who.core i j } ∈ (t.octet o).mxu.cmds) ∧
        (∀ acc, c.cmd = .accrel acc → acc < 4 → (∀ d ∈ (t.octet o).mxu.cmds, d.id ≠ c.id) ∧
          ((rd m.slots acc {}).st = .kept c.who.core → rd (t.octet o).mxu.slots acc {} = {})) ∧
        ∀ x, c.cmd = .matx x →
          let p := rd m.progs x.f.drain.toNat {}
          let slot := rd m.slots x.f.acc.toNat {}
          let body := drainBody p.words
          let noMbx := holds body 0x14 = true ∧ x.ctl.toNat / 2 ^ 21 % 8 = 7
          let ended (cause : Nat) : Prop :=
            s.Carries t (octetDie o) (s.farDie c.who.core x.cw) false 16 (s.lat c.who.core x.cw) .matxCompletion
              { octet := o, id := c.id, count := { addr := x.cw, err := true, what := .matx o c.id, who := c.who, run := c.run } } ∧
            (t.octet o).mxu.slots = m.slots ∧ (∀ k, { t.coreAt k with kept := (s.coreAt k).kept } = s.coreAt k) ∧
            { c with taken := true, cmd := .matx { x with failed := true, err := some (cause, 0) } } ∈ (t.octet o).mxu.cmds
          (p.valid = false ∨ noMbx → ended 0x21) ∧
          (p.valid = true → ¬ noMbx → slot.spoiled = true → ended 0x22) ∧
          (p.valid = true → ¬ noMbx → slot.spoiled = false →
            { c with taken := true, cmd := .matx { x with prog := body, wasKept := slot.st == .kept c.who.core } } ∈
              (t.octet o).mxu.cmds ∧ t.cores = s.cores ∧
            (x.f.cohort ≠ .c1 → t.Due (s.cycle + 2 ^ 20) .cohortTimeout { octet := o, id := c.id }) ∧
            (rd (t.octet o).mxu.slots x.f.acc.toNat {}).st = .running c.id ∧ t.Due s.cycle .matxStart { octet := o, id := c.id }))

/-- R94, R237, R238 and R250: a granule piece of a TLD at a place that lets it on, at its banks' turn, copies its bytes into the tile register, and one of a
TST copies them out of it; no other byte changes, and the transfer goes on behind the piece. -/
def Claims.TilePieces : Prop :=
  ∀ (s : State) (c : MxuCmd) (r : Rows) (tile k : Nat) (sc : Bool) (a p : Word) (sh : TShape),
    let o := s.arg.octet
    let n := r.piece c.pos
    let tk := tileKey c.who.core tile (c.cmd.tileOff c.pos)
    s.Inv → (s.octet o).mxu.findCmd s.arg.id = some c → c.cmd.rows = some r →
    (∀ m, s.form c.who.core (r.addr c.pos) ≠ .remote m) →
    (∀ l ∈ (s.octet o).locks, l.slate ≠ none) → s.latent = [] →
    s.isPoisoned k n = false → s.isPoisoned tk n = false →
    let comes (need : Need) (use : Nat) : Prop :=
      (s.arg.slot = true ∧ k = s.arg.acc.key) ∨
      (s.arg.slot = false ∧ s.land c.who.core c.staff true (r.addr c.pos) n need use = .go k s ∧
        s.bankFrom k ≤ s.cycle ∧ s.bankFrom (k + n - 1) ≤ s.cycle)
    (c.cmd = .tld tile sc a p sh → comes .load 0 →
      ∃ t, exec .tileTransferPiece s = .next t ∧ (∀ i, i < n → memRead t.mem (tk + i) = memRead s.mem (k + i)) ∧
        s.SameBytesBut t tk n ∧ t.ctxs = s.ctxs ∧ t.cores = s.cores ∧
        (∃ d ∈ (t.octet o).mxu.cmds, d.id = c.id ∧ d.pos = c.pos + n) ∧
        (r.total ≤ c.pos + n → t.Due s.cycle .tileOpEnd { octet := o, id := c.id }) ∧
        (c.pos + n < r.total → ∃ due, due ≤ s.cycle + 1 ∧ t.Due due .tileTransferPiece { octet := o, id := c.id })) ∧
    (c.cmd = .tst tile sc a p sh → comes .store 1 → (c.staff = true ∨ s.watchHits k n = []) → s.Quiet k n →
      ∃ t, exec .tileTransferPiece s = .next t ∧ (∀ i, i < n → memRead t.mem (k + i) = memRead s.mem (tk + i)) ∧
        s.SameBytesBut t k n ∧ t.ctxs = s.ctxs ∧ t.cores = s.cores ∧
        (∃ d ∈ (t.octet o).mxu.cmds, d.id = c.id ∧ d.pos = c.pos + n) ∧
        (r.total ≤ c.pos + n →
          let far := r.addr c.pos
          s.Carries t (s.farDie c.who.core far) (octetDie o) false 16 (s.lat c.who.core far - s.oneWay c.who.core far) .tileOpEnd
            { octet := o, id := c.id }) ∧
        (c.pos + n < r.total → ∃ due, due ≤ s.cycle + 1 ∧ t.Due due .tileTransferPiece { octet := o, id := c.id }))

/-- R238, R239, R250 and R251: the end of a command: TZERO leaves its tile register zero and TCOPY a copy, DRAINLD installs a valid
program or none, ACCLD leaves its slot kept by its core with the elements read, and the access of a transfer is over. -/
def Claims.TileEnds : Prop :=
  ∀ (s : State) (c : MxuCmd),
    let o := s.arg.octet
    let m := (s.octet o).mxu
    let core := c.who.core
    s.Inv → m.findCmd s.arg.id = some c →
    (∀ d, c.cmd = .tzero d →
      ∃ t, exec .tileOpEnd s = .next t ∧ (∀ i, i < 32768 → memRead t.mem (tileKey core d 0 + i) = 0) ∧
        s.SameBytesBut t (tileKey core d 0) 32768 ∧ t.ctxs = s.ctxs ∧ t.cores = s.cores ∧
        (∀ e ∈ (t.octet o).mxu.cmds, e.id ≠ c.id)) ∧
    (∀ d e, c.cmd = .tcopy d e →
      ∃ t, exec .tileOpEnd s = .next t ∧
        (∀ i, i < 32768 → memRead t.mem (tileKey core d 0 + i) = memRead s.mem (tileKey core e 0 + i)) ∧
        s.SameBytesBut t (tileKey core d 0) 32768 ∧ t.ctxs = s.ctxs ∧ t.cores = s.cores ∧
        (∀ e ∈ (t.octet o).mxu.cmds, e.id ≠ c.id)) ∧
    (s.inPlace c.who c.run → (s.ctx c.who).relFault = none →
      (∀ n a, c.cmd = .drainld n a → n < 64 →
        let ws := (List.range 32).map fun i => bytesNat ((c.bytes.drop (4 * i)).take 4)
        ∃ t, exec .tileOpEnd s = .next t ∧ t.ctx c.who = { s.ctx c.who with plain := .none } ∧ t.mem = s.mem ∧
          rd (t.octet o).mxu.progs n {} = if drainValid ws then { valid := true, words := ws } else {}) ∧
      (∀ acc a p i j, c.cmd = .accld acc a p i j → acc < 4 → c.bytes.length = 8 * (i * j) →
        ∃ t, exec .tileOpEnd s = .next t ∧ t.ctx c.who = { s.ctx c.who with plain := .none } ∧ t.mem = s.mem ∧
          let slot := rd (t.octet o).mxu.slots acc {}
          slot.st = .kept core ∧ slot.spoiled = false ∧ slot.vals.length = i * j ∧
          ∀ e, e < i * j → slot.vals.getD e 0 = aw40Load (BitVec.ofNat 40 (bytesNat ((c.bytes.drop (8 * e)).take 5)))) ∧
      (∀ tile sc a p sh, c.cmd = .tst tile sc a p sh →
        ∃ t, exec .tileOpEnd s = .next t ∧ t.ctx c.who = { s.ctx c.who with plain := .none } ∧ t.mem = s.mem ∧
          ∀ e ∈ (t.octet o).mxu.cmds, e.id ≠ c.id))

/-- R163 and R164: an octet with a MATX to start takes the free pass that reaches it, unless the die's count is 0; it waits for the
first pass of the ring that comes to it, and gives its pass back, where the octet stands, when no MATX computes sums under it and
none waits or the pass has been held for 4,096 cycles. -/
def Claims.PassSteps : Prop :=
  ∀ (s : State),
    let o := s.arg.octet
    let die := octetDie o
    let x := s.octet o
    let ring := (s.die die).ring
    let stands (p g : Nat) : Prop := (p + s.cycle + g) % 240 = o % 240
    ((x.pass ≠ none ∨ x.mxu.wantsPass = false ∨ (s.die die).passCount = 0) → exec .passArrive s = .next s) ∧
    (x.pass = none → x.mxu.wantsPass = true → (s.die die).passCount ≠ 0 →
      (∀ l p r, ring = l ++ p :: r → stands p 0 → (∀ q ∈ l, ¬ stands q 0) →
        ∃ t, exec .passArrive s = .next t ∧ (t.octet o).pass = some s.cycle ∧ (t.die die).ring = l ++ r ∧ t.mem = s.mem ∧
          t.ctxs = s.ctxs ∧ t.cores = s.cores ∧ t.Due (s.cycle + 4096) .passRelease { octet := o } ∧
          ∀ c ∈ x.mxu.cmds, ∀ y, c.cmd = .matx y → Spec.waiting c y → t.Due s.cycle .matxStart { octet := o, id := c.id }) ∧
      (ring = [] → exec .passArrive s = .next s) ∧
      (ring ≠ [] → (∀ q ∈ ring, ¬ stands q 0) →
        ∃ g, exec .passArrive s = .next (s.post (s.cycle + g) .passArrive { octet := o }) ∧ (∃ q ∈ ring, stands q g) ∧
          ∀ h, 1 ≤ h → h < g → ∀ q ∈ ring, ¬ stands q h)) ∧
    (x.pass = none → exec .passRelease s = .next s) ∧
    ∀ at', x.pass = some at' →
      ((x.mxu.summing = true ∨ (x.mxu.wantsPass = true ∧ s.cycle < at' + 4096)) → exec .passRelease s = .next s) ∧
      (x.mxu.summing = false → (x.mxu.wantsPass = false ∨ at' + 4096 ≤ s.cycle) →
        ∃ t p, exec .passRelease s = .next t ∧ (t.octet o).pass = none ∧ (t.die die).ring = ring ++ [p] ∧ stands p 0 ∧
          t.mem = s.mem ∧ t.ctxs = s.ctxs ∧ t.cores = s.cores)

/-- R163, R246 and R247: a taken MATX asks for a pass where its octet holds none; one of a cohort looks at its members; any other asks
for the array where its octet's pass lets it start, and else waits. The array serves the seats in turn, each for its weight of blocks
(R86), with 112 cycles of fill but behind a block of the same MATX, and its grant starts a MATX with its operands as they are. -/
def Claims.MatxStarts : Prop :=
  ∀ (s : State),
    let o := s.arg.octet
    let m := (s.octet o).mxu
    (s.matx o s.arg.id = none → exec .matxStart s = .next s) ∧
    (∀ c x, s.matx o s.arg.id = some (c, x) →
      (¬ Spec.waiting c x → exec .matxStart s = .next s) ∧
      (Spec.waiting c x →
        ((s.octet o).pass = none → ∃ t, exec .matxStart s = .next t ∧ t.octets = s.octets ∧ t.mem = s.mem ∧
          ((s.die (octetDie o)).ring ≠ [] → ∃ p ∈ t.agenda, p.ev = .passArrive ∧ p.arg = { octet := o }) ∧
          (x.f.cohort ≠ .c1 → t.Due s.cycle .cohortStart { octet := o, id := c.id })) ∧
        ((s.octet o).pass ≠ none → x.f.cohort ≠ .c1 →
          exec .matxStart s = .next (s.post s.cycle .cohortStart { octet := o, id := c.id })) ∧
        ((s.octet o).pass ≠ none → x.f.cohort = .c1 →
          (Spec.mayStart s o → exec .matxStart s = .next (s.post s.cycle .arrayGrant { octet := o })) ∧
          (¬ Spec.mayStart s o → exec .matxStart s = .next s)))) ∧
    (m.grant ≠ none → exec .arrayGrant s = .next s) ∧
    ((∀ d ∈ m.cmds, ∀ y, d.cmd = .matx y → d.seat < 8 → ¬ Spec.forArray s o d y) → exec .arrayGrant s = .next s) ∧
    ∀ n l c r x, n < 8 → m.grant = none → m.cmds = l ++ c :: r → c.cmd = .matx x → s.matx o c.id = some (c, x) →
      c.seat = (m.ptr + n) % 8 → Spec.forArray s o c x →
      (∀ d ∈ m.cmds, ∀ y i, d.cmd = .matx y → i < n → d.seat = (m.ptr + i) % 8 → ¬ Spec.forArray s o d y) →
      (∀ d ∈ l, ∀ y, d.cmd = .matx y → d.seat = c.seat → ¬ Spec.forArray s o d y) →
      let granted (t : State) (y : Matx) : Prop :=
        (t.octet o).mxu.grant = some (c.seat, (s.coreAt c.who.core).weight.toNat - 1) ∧ t.mem = s.mem ∧ t.ctxs = s.ctxs ∧
        t.cores = s.cores ∧ t.matx o c.id = some ({ c with cmd := .matx y }, y) ∧
        t.Due (s.cycle + y.blockTime + if m.lastBlock = some (c.id, s.cycle) then 0 else 112) .blockEnd { octet := o, id := c.id }
      (x.started = true → ∃ t, exec .arrayGrant s = .next t ∧ granted t x) ∧
      ∀ a b, x.started = false → x.sa.info = some a → x.sb.info = some b → s.latent = [] →
        s.planesBad c.who.core x.f.ta.toNat a = false → s.planesBad c.who.core x.f.tb.toNat b = false → x.f.sparse = .dense →
        ∃ t, exec .arrayGrant s = .next t ∧ granted t (Spec.started s x c.who.core x a c.who.core x b)

/-- R248 and R385: a cohort whose members are all taken, under passes of their octets that let them start, starts in one cycle, each
member with the A of its row's first member and the B of its column's; it waits while a member is missing or a pass; operands whose
K differ refuse every member with cause 0x20, a fenced member those that are taken with cause 0x23, and so does a member that is
still missing 2^20 cycles after a take. -/
def Claims.CohortStarts : Prop :=
  ∀ (s : State),
    (s.matx s.arg.octet s.arg.id = none → exec .cohortStart s = .next s ∧ exec .cohortTimeout s = .next s) ∧
    ∀ (c : MxuCmd) (x : Matx), s.matx s.arg.octet s.arg.id = some (c, x) →
      let In := Spec.member s x c.seat
      (x.started = true ∨ x.failed = true → exec .cohortStart s = .next s ∧ exec .cohortTimeout s = .next s) ∧
      (x.started = false → x.failed = false → (∀ i j o d y, In i j o d y → s.matx o d.id = some (d, y)) →
        (∀ i j i' j' o d d' y y', In i j o d y → In i' j' o d' y' → (i', j') = (i, j)) →
        (Spec.missing s x c.seat → ∃ t, exec .cohortTimeout s = .next t ∧ s.CohortRefused t x c.seat 0x23) ∧
        (¬ Spec.missing s x c.seat → exec .cohortTimeout s = .next s) ∧
        (Spec.fenced s x c.seat → ∃ t, exec .cohortStart s = .next t ∧ s.CohortRefused t x c.seat 0x23) ∧
        (¬ Spec.fenced s x c.seat → Spec.missing s x c.seat → exec .cohortStart s = .next s) ∧
        (¬ Spec.fenced s x c.seat → ¬ Spec.missing s x c.seat →
          let supply (f : MxuCmd × Matx → Shape → MxuCmd × Matx → Shape → Prop) : Prop :=
            ∀ i j oa a xa ob b xb, In i 0 oa a xa → In 0 j ob b xb →
              ∃ ia ib, xa.sa.info = some ia ∧ xb.sb.info = some ib ∧ f (a, xa) ia (b, xb) ib
          ((∃ i j oa a xa ob b xb ia ib o d y, In i j o d y ∧ In i 0 oa a xa ∧ In 0 j ob b xb ∧ xa.sa.info = some ia ∧
              xb.sb.info = some ib ∧ ia.cols * sparseFactor xa.f.sparse ≠ ib.rows) →
            ∃ t, exec .cohortStart s = .next t ∧ s.CohortRefused t x c.seat 0x20) ∧
          (supply (fun a ia _ ib => ia.cols = ib.rows ∧ pairOk ia.fmt ib.fmt .dense = true ∧ a.2.f.sparse = .dense) →
            (∀ i j o d y, In i j o d y → y.wasKept = false) →
            ((∃ i j o d y, In i j o d y ∧ ¬ Spec.mayStart s o) → exec .cohortStart s = .next s) ∧
            ((∀ i j o d y, In i j o d y → Spec.mayStart s o) → s.latent = [] →
              supply (fun a ia b ib => s.planesBad a.1.who.core a.2.f.ta.toNat ia = false ∧
                s.planesBad b.1.who.core b.2.f.tb.toNat ib = false) →
              ∃ t, exec .cohortStart s = .next t ∧ t.mem = s.mem ∧ t.ctxs = s.ctxs ∧ t.cores = s.cores ∧
                ∀ i j o d y oa a xa ob b xb ia ib, In i j o d y → In i 0 oa a xa → In 0 j ob b xb →
                  xa.sa.info = some ia → xb.sb.info = some ib →
                  (∃ e, t.matx o d.id = some (e, Spec.started s y a.who.core xa ia b.who.core xb ib)) ∧
                  t.Due s.cycle .arrayGrant { octet := o }))))

/-- R126 to R128, R244 and R247: a dense block of 64 rows and 48 columns leaves each of its elements the value of the loop over its
k-groups: the exact sum of the group's products added to the accumulator and rounded to AW40 once a group; the last one's sums end
4 cycles later for each link of its cohort (R248). R383 and R384: a mismatched block is replayed, up to the limit; past it the MATX
ends with cause 0x22. R246: the drain follows the sums. -/
def Claims.MatxSums : Prop :=
  ∀ (s : State),
    let o := s.arg.octet
    let m := (s.octet o).mxu
    (s.matx o s.arg.id = none → exec .blockEnd s = .next s ∧ exec .sumsEnd s = .next s) ∧
    (∀ c x, s.matx o s.arg.id = some (c, x) → x.failed = true → exec .blockEnd s = .next s) ∧
    (∀ c x a b, s.matx o s.arg.id = some (c, x) → x.failed = false → x.ia.info = some a → x.ib.info = some b → a.cols = b.rows →
      x.sparse = .dense → x.m = a.rows → x.n = b.cols → takeMismatch o s.latent = none →
      let g := Spec.group a.fmt b.fmt
      let A (i k : Nat) : Sys2Proof.Machine.Num := ((planeVals x.ia x.opA).getD i []).getD k Sys2Proof.Machine.Num.zero
      let B (k j : Nat) : Sys2Proof.Machine.Num := ((planeVals x.ib x.opB).getD k []).getD j Sys2Proof.Machine.Num.zero
      let old := (rd m.slots x.f.acc.toNat {}).vals
      let r0 := x.blocks / ((b.cols + 47) / 48) * 64
      let c0 := x.blocks % ((b.cols + 47) / 48) * 48
      ∃ t, exec .blockEnd s = .next t ∧ t.mem = s.mem ∧ t.ctxs = s.ctxs ∧ t.cores = s.cores ∧
        (x.blockCount ≤ x.blocks + 1 →
          t.Due (s.cycle + 4 * ((cohortDims x.f.cohort).1 + (cohortDims x.f.cohort).2 - 2)) .sumsEnd { octet := o, id := c.id }) ∧
        ∃ e z, t.matx o c.id = some (e, z) ∧ z.blocks = x.blocks + 1 ∧ z.replays = 0 ∧
          (t.octet o).mxu.lastBlock = some (c.id, s.cycle) ∧
          ∀ i j, i < a.rows → j < b.cols → (old = [] ∨ old.length = a.rows * b.cols) →
            let was := old.getD (i * b.cols + j) 0
            (rd (t.octet o).mxu.slots x.f.acc.toNat {}).vals.getD (i * b.cols + j) 0 =
              if r0 ≤ i ∧ i < r0 + 64 ∧ c0 ≤ j ∧ j < c0 + 48 then
                Spec.loop g (fun k => (A i k).mul (B k j)) a.cols was ((a.cols + g - 1) / g)
              else was) ∧
    (∀ c x l, s.matx o s.arg.id = some (c, x) → x.failed = false → takeMismatch o s.latent = some l →
      (x.replays < (s.octet o).replayLimit.toNat →
        ∃ t, exec .blockEnd s = .next t ∧ t.latent = l ∧ t.mem = s.mem ∧ (t.octet o).mxu.slots = m.slots ∧
          (∃ e z, t.matx o c.id = some (e, z) ∧ z.replays = x.replays + 1 ∧ z.blocks = x.blocks) ∧
          t.Due (s.cycle + x.blockTime + 112) .blockEnd s.arg) ∧
      ((s.octet o).replayLimit.toNat ≤ x.replays →
        ∃ t e z, exec .blockEnd s = .next t ∧ t.mem = s.mem ∧ t.matx o c.id = some (e, z) ∧ z.sumsDone = true ∧ z.spoils = true ∧
          z.err = some (0x22, 0) ∧ t.Due s.cycle .passRelease { octet := o })) ∧
    ∀ c x, s.matx o s.arg.id = some (c, x) →
      ∃ t e z, exec .sumsEnd s = .next t ∧ t.matx o c.id = some (e, z) ∧ z.sumsDone = true ∧ t.mem = s.mem ∧
        t.Due s.cycle .passRelease { octet := o } ∧
        (x.failed = false →
          (holds x.prog 0x13 = true ∨ holds x.prog 0x14 = true →
            (t.octet o).mxu.drains = m.drains ++ [c.id] ∧ ∃ p ∈ t.agenda, p.ev = .drainSegment ∧ p.arg.octet = o) ∧
          (holds x.prog 0x13 = false → holds x.prog 0x14 = false →
            s.Carries t (octetDie o) (s.farDie c.who.core x.cw) false 16 (s.lat c.who.core x.cw) .matxCompletion
              { octet := o, id := c.id
                count := { addr := x.cw, err := x.err.isSome, what := .matx o c.id, who := c.who, run := c.run } }))

/-! ## Drains -/

/-- R253 to R257: the words of a drain program on the segment in the pipe: each writes its register of every element, computed and
rounded once to AW40; DCVT and DBLK convert to the output format; DLDR and DLDC read FP32 operands; DST names the values that
leave, DMBX reduces them, and DEND ends the program. Nothing outside the drain changes. -/
def Obligations.DrainWords : Prop :=
  ∀ (s : State) (o : Nat), s.pipe = some o →
    let m := (s.octet o).mxu
    let p := m.pipe
    let left (t : State) (q : Pipe) : Prop := s.DrainFrame t ∧ (t.octet o).mxu.pipe = q
    (∀ i dd f, Spec.drainWord i = some (dd, f) → ∃ t, exec i s = .next t ∧
      left t { p with d := wr p.d dd.toNat (f p), pos := p.pos + 1 } ∧
      (t.octet o).mxu = { m with pipe := { p with d := wr p.d dd.toNat (f p), pos := p.pos + 1 } }) ∧
    (∃ t, exec .dend s = .next t ∧ left t { p with pos := 32 }) ∧
    ∀ c x, s.matx o p.id = some (c, x) →
      let reg (i : BitVec 3) : List Aw40 := rd p.d i.toNat []
      (∀ da, ∃ t, exec (.dst da) s = .next t ∧ left t { p with dst := some (reg da), pos := p.pos + 1 }) ∧
      (∀ sum da, ∃ t e z, exec (.dmbx sum da) s = .next t ∧ left t { p with pos := p.pos + 1 } ∧
        t.matx o p.id = some (e, z) ∧
        (sum = true → (reg da).length ≠ 0 → z.z = some ((reg da).foldl (fun (a v : Aw40) => roundAW40 ((aw40Val a).add (aw40Val v)))
          ((x.z.map (·.1)).getD 0), 0)) ∧
        (sum = false → z.z = Sys2Proof.Machine.reduce false (x.rowOf p.seg) x.z (reg da))) ∧
      (∀ dd da,
        (x.ofmt.isTint = true → ∃ t, exec (.dcvt dd da) s = .next t ∧
          left t { p with d := wr p.d dd.toNat (reg da), pos := p.pos + 1 }) ∧
        (x.ofmt.isTint = false → ∃ t e z, ∃ g : Nat → BitVec 32, ∃ l : List Aw40, exec (.dcvt dd da) s = .next t ∧
          left t { p with d := wr p.d dd.toNat l, pos := p.pos + 1 } ∧ l.length = (reg da).length ∧ g 0 = x.rng ∧
          t.matx o p.id = some (e, z) ∧ z.rng = g (reg da).length ∧
          ∀ j, j < (reg da).length →
            let r := roundNarrow x.ofmt (aw40Val ((reg da).getD j 0)) x.mode x.nf (g j)
            g (j + 1) = r.rng ∧ l.getD j 0 = roundAW40 (fmtValue x.ofmt r.enc)) ∧
        (x.ofmt.isTint = false → ∃ t, exec (.dblk dd da) s = .next t ∧
          left t { p with d := wr p.d dd.toNat (reg da), pos := p.pos + 1 }) ∧
        (x.ofmt.isTint = true → ∃ t e z, exec (.dblk dd da) s = .next t ∧
          let b := tintBlock x.ofmt ((reg da).map aw40Val) x.mode x.nf x.rng
          let l := b.elems.mapIdx fun j y => roundAW40 (tintValue x.ofmt b.header y j)
          left t { p with d := wr p.d dd.toNat l, pos := p.pos + 1, blk := some (b.header, b.elems) } ∧
          t.matx o p.id = some (e, z) ∧ z.rng = b.rng)) ∧
      ∀ (dd : BitVec 3) (i : Instr) (row : Bool) (k : Nat → Nat),
        (i = .dldr dd ∧ row = true) ∨ (i = .dldc dd ∧ row = false) → s.latent = [] →
        let n := x.width p.seg
        let at' (j : Nat) : Nat := if row then x.rowOf p.seg else x.colOf p.seg + j
        let addr (j : Nat) : Word := (if row then x.rowp else x.colp) + BitVec.ofNat 64 (4 * at' j)
        let need := if row then 1 else n
        (∀ j, j < need →
          (∀ q ∈ (if row then x.rowv else x.colv), q.1 ≠ at' j) ∧
          (∃ ec w off, s.form c.who.core (addr j) = .window ec w off) ∧
          s.land c.who.core c.staff false (addr j) 4 .load 0 = .go (k j) s ∧ s.isPoisoned (k j) 4 = false) →
        (∀ q ∈ s.octets, ∀ l ∈ q.2.locks, l.slate = none) →
        let val (j : Nat) : Aw40 := roundAW40 (fmtValue .fp32 (memReadN s.mem (k j) 4))
        ∃ t, exec i s = .next t ∧ t.mem = s.mem ∧ t.ctxs = s.ctxs ∧ t.cores = s.cores ∧
          (t.octet o).mxu.pipe =
            { p with d := wr p.d dd.toNat (if row then List.replicate n (val 0) else (List.range n).map val), pos := p.pos + 1 }

/-- R253, R256, R379 to R381, R403 and R404: four segments enter the pipe a cycle, in order, each with its slot's values in d0; the
stores of a program that has ended leave at the depth of the pipe; a piece lands as bytes; a missing page stops its drain at
the segment that met it and drops its context, unless it is stopped at an earlier one; an operand whose page comes takes the drain
back to its segment; and a resumption puts the drain back. -/
def Claims.DrainSteps : Prop :=
  ∀ (s : State),
    let o := s.arg.octet
    let m := (s.octet o).mxu
    (∀ id r c x, m.pipe.live = false → m.drains = id :: r → s.matx o id = some (c, x) →
      (x.segCount ≤ x.seg → ∃ t, exec .drainSegment s = .next t ∧ (t.octet o).mxu.drains = r ∧ t.mem = s.mem ∧
        t.Due x.endAt .dmbxFill { octet := o, id := id }) ∧
      (x.seg < x.segCount → 4 ≤ s.arg.n → ∃ t, exec .drainSegment s = .next t ∧ (t.octet o).mxu.drains = m.drains ∧
        t.Due (s.cycle + 1) .drainSegment { octet := o }) ∧
      (x.seg < x.segCount → s.arg.n < 4 →
        let w := x.width x.seg
        ∃ t e z, exec .drainSegment s = .next t ∧ t.pipe = some o ∧ t.matx o id = some (e, z) ∧ z.seg = x.seg + 1 ∧
          z.endAt = s.cycle + drainLen x.prog ∧ (t.octet o).mxu.pipe.live = true ∧ (t.octet o).mxu.pipe.id = c.id ∧
          (t.octet o).mxu.pipe.seg = x.seg ∧ (t.octet o).mxu.pipe.pos = 0 ∧
          rd (t.octet o).mxu.pipe.d 0 [] =
            ((rd m.slots x.f.acc.toNat {}).vals.drop (x.rowOf x.seg * x.n + x.colOf x.seg)).take w ∧
          (∀ j, 0 < j → j < 8 → rd (t.octet o).mxu.pipe.d j [] = List.replicate w 0) ∧ t.mem = s.mem ∧
          t.Due s.cycle .drainSegment { octet := o, n := s.arg.n + 1 })) ∧
    (∀ c x vs, m.pipe.live = true → s.matx o m.pipe.id = some (c, x) → m.pipe.dst = some vs → m.drains = [] →
      ∃ t, exec .drainSegment s = .next t ∧ (t.octet o).mxu.pipe.live = false ∧ t.mem = s.mem ∧
        ∀ q ∈ x.pieces o m.pipe.id m.pipe.seg vs m.pipe.blk, t.Due (s.cycle + drainLen x.prog) .drainStorePiece { piece := q }) ∧
    (∀ c x, s.Inv → s.matx s.arg.piece.octet s.arg.piece.matx = some (c, x) →
      let p := s.arg.piece
      (∀ tile, s.arg.n = 0 → x.tdst = some tile →
        ∃ t, exec .drainStorePiece s = .next t ∧
          (∀ j, j < p.bytes.length → memRead t.mem (tileKey c.who.core tile p.addr.toNat + j) = p.bytes.getD j 0) ∧
          s.SameBytesBut t (tileKey c.who.core tile p.addr.toNat) p.bytes.length ∧
          t.Due s.cycle .dmbxFill { octet := p.octet, id := p.matx }) ∧
      (∀ k, s.arg.n = 1 →
        ((s.arg.slot = true ∧ k = s.arg.acc.key) ∨
          (s.arg.slot = false ∧ s.land c.who.core c.staff false p.addr p.bytes.length .store 1 = .go k s ∧
            (∀ q ∈ s.octets, ∀ l ∈ q.2.locks, l.slate = none) ∧ s.bankFrom k ≤ s.cycle ∧
            s.bankFrom (k + p.bytes.length - 1) ≤ s.cycle)) →
        (c.staff = true ∨ s.watchHits k p.bytes.length = []) → s.Quiet k p.bytes.length →
        ∃ t, exec .drainStorePiece s = .next t ∧ (∀ j, j < p.bytes.length → memRead t.mem (k + j) = p.bytes.getD j 0) ∧
          s.SameBytesBut t k p.bytes.length ∧ t.ctxs = s.ctxs ∧
          s.Carries t (s.farDie c.who.core p.addr) (octetDie p.octet) false 16
            (s.lat c.who.core p.addr - s.oneWay c.who.core p.addr) .drainStorePiece { piece := p, n := 2 }) ∧
      (s.arg.n = 2 → s.arg.cause = 0 →
        exec .drainStorePiece s = .next (s.post s.cycle .dmbxFill { octet := p.octet, id := p.matx }))) ∧
    ∀ c x, s.matx o s.arg.id = some (c, x) →
      (s.arg.v ∉ x.walks → exec .drainStop s = .next s) ∧
      (∀ p, x.walks = [s.arg.v] → x.waitP = [p] → pageAt p.addr = s.arg.v → s.mapped c.who.core s.arg.v = false →
        s.inPlace c.who c.run → (s.ctx c.who).life = .active →
        ∃ t e z, exec .drainStop s = .next t ∧ t.matx o s.arg.id = some (e, z) ∧ z.walks = [] ∧ z.waitP = [] ∧ t.mem = s.mem ∧
          (x.stopped = none ∨ p.seg < x.seg →
            z.stopped = some p.addr ∧ z.seg = p.seg ∧ (t.ctx c.who).drops = p.addr :: (s.ctx c.who).drops) ∧
          (x.stopped ≠ none → x.seg ≤ p.seg → z.stopped = x.stopped ∧ z.seg = x.seg ∧ t.ctxs = s.ctxs) ∧
          ∃ n, s.Sent t 20 .noticeArrive { die := s.missDie c.who.core p.addr, notice := n } ∧ n.kind = 0x01 ∧ n.value = p.addr ∧
            n.addr = x.cw) ∧
      (∀ p, x.walks = [s.arg.v] → x.waitP = [p] → pageAt p.addr = s.arg.v → s.mapped c.who.core s.arg.v = true → p.bytes ≠ [] →
        ∃ t, exec .drainStop s = .next t ∧ t.Due s.cycle .drainStorePiece { piece := p, n := 3 }) ∧
      (∀ p, x.walks = [s.arg.v] → x.waitP = [p] → pageAt p.addr = s.arg.v → s.mapped c.who.core s.arg.v = true → p.bytes = [] →
        ∃ t e z, exec .drainStop s = .next t ∧ t.matx o s.arg.id = some (e, z) ∧ t.mem = s.mem ∧ t.ctxs = s.ctxs ∧
          (x.stopped = none → z.seg = p.seg ∧ t.Due s.cycle .drainResume { octet := o, id := s.arg.id }) ∧
          (x.stopped ≠ none → z.stopped = x.stopped ∧ z.seg = min x.seg p.seg)) ∧
      (x.stopped = none → exec .drainResume s = .next s) ∧
      (∀ a, x.stopped = some a →
        ∃ t e z, exec .drainResume s = .next t ∧ t.matx o s.arg.id = some (e, z) ∧ z.stopped = none ∧
          (t.octet o).mxu.drains = m.drains ++ [s.arg.id] ∧ (rd (t.octet o).mxu.slots x.f.acc.toNat {}).rst = 0 ∧
          t.mem = s.mem ∧ t.ctxs = s.ctxs ∧ ∃ q ∈ t.agenda, q.ev = .drainSegment ∧ q.arg.octet = o)

/-- R245, R257 to R259: a drain is over once its segments have ended and its stores are acknowledged: its mailbox fills, and its
completion word counts as an access of its core would; then its slot is kept or free, and its context has one MATX less. -/
def Claims.MatxEnds : Prop :=
  ∀ (s : State) (c : MxuCmd) (x : Matx), s.matx s.arg.octet s.arg.id = some (c, x) →
    let o := s.arg.octet
    let isOver := x.sumsDone = true ∧ x.ended = false ∧ x.failed = false ∧ x.stopped = none ∧ x.segCount ≤ x.seg ∧ x.endAt ≤ s.cycle ∧
      s.piecesOut o s.arg.id x = false
    (¬ isOver → exec .dmbxFill s = .next s) ∧
    (isOver → ∃ t e z, exec .dmbxFill s = .next t ∧ t.matx o s.arg.id = some (e, z) ∧ z.ended = true ∧ t.mem = s.mem ∧
      t.ctxs = s.ctxs ∧
      s.Carries t (octetDie o) (s.farDie c.who.core x.cw) false 16 (s.lat c.who.core x.cw) .matxCompletion
        { octet := o, id := c.id
          count := { addr := x.cw, err := x.err.isSome, what := .matx o c.id, who := c.who, run := c.run } } ∧
      (holds x.prog 0x14 = true →
        let i := x.ctl.toNat / 2 ^ 21 % 8
        let q := x.z.getD (0, 0)
        rd (t.coreAt c.who.core).m i 0 =
          BitVec.ofNat 64 (x.m * 2 ^ 48 + q.2 * 2 ^ 32 + (roundNarrow .fp32 (aw40Val q.1) .rne true 0).enc) ∧
        tb (t.coreAt c.who.core).mFull i = true ∧ tb (t.coreAt c.who.core).mPend i = false) ∧
      (holds x.prog 0x14 = false → t.cores = s.cores)) ∧
    ∀ sl ec w off k, s.arg.count = { addr := x.cw, err := x.err.isSome, what := .matx o c.id, who := c.who, run := c.run } →
      s.Inv → c.id = s.arg.id → (s.coreAt c.who.core).cuts = [] → s.form c.who.core x.cw = .window ec w off →
      s.isNacked c.who.core false (.window ec w off) = false → s.slateOf (.window ec w off) = some (octetOf ec, sl) →
      ec < 7680 → sl < 32 → k = slateKey (octetOf ec) sl (x.cw.toNat % 65536) / 8 * 8 → s.NoEffectBit c.who c.run → s.Quiet k 8 →
      s.inPlace c.who c.run → x.failed = false → x.mbxGone = false →
      ∃ t, exec .matxCompletion s = .next t ∧
        memReadN t.mem k 8 = Spec.incremented (memReadN s.mem k 8) x.err.isSome ∧ t.full k = true ∧ s.SameBytesBut t k 8 ∧
        (t.ctx c.who).matxOut = (s.ctx c.who).matxOut - 1 ∧ (∀ d ∈ (t.octet o).mxu.cmds, d.id ≠ c.id) ∧
        let was := rd (s.octet o).mxu.slots x.f.acc.toNat {}
        let slot := rd (t.octet o).mxu.slots x.f.acc.toNat {}
        (x.f.keep = true → slot = { was with st := .kept c.who.core, spoiled := x.spoils, rst := 0 }) ∧ (x.f.keep = false → slot = {})

/-! ## Nets -/

/-- R39, R263, R269 to R271 and R288: a net instruction is a plain access of its address, its arena or its payload store; its d, where
it has one, is late. A reserved operand traps with cause 0x02, misalignment with 0x15, and a net without a descriptor with
0x29; accesses outstanding make it wait. -/
def Claims.NetIssues : Prop :=
  ∀ (i : Instr) (r : NetRow) (s : State), Spec.net i = some r → s.Readable r.uses →
    let v := s.vals r.uses
    let x := s.ctx s.who
    let noNet := r.net = true ∧ s.desc x.net.toNat = 0
    (r.bad v → ∃ t, exec i s = .next t ∧ s.Trapped t 0x02 0) ∧
    (¬ r.bad v → (x.plain ≠ .none ∨ x.relaxed ≠ 0) → ∃ t, exec i s = .next t ∧ s.Waits t 0) ∧
    (¬ r.bad v → x.plain = .none → x.relaxed = 0 →
      ((∃ p ∈ r.addrs s v, p.1.toNat % p.2 ≠ 0) →
        ∃ t p, p ∈ r.addrs s v ∧ p.1.toNat % p.2 ≠ 0 ∧ exec i s = .next t ∧ s.Trapped t 0x15 p.1) ∧
      ((∀ p ∈ r.addrs s v, p.1.toNat % p.2 = 0 ∧ s.AllowsHere p.1 r.need) →
        (noNet → ∃ t, exec i s = .next t ∧ s.Trapped t 0x29 0) ∧
        (¬ noNet → s.form s.who.core (r.addr s v) ≠ .bad → s.Unlocked (r.addr s v) (r.kind s v) → x.buddy = none →
          ∃ t a, exec i s = .next t ∧ s.Began t r.uses r.late none ∧ (t.ctx s.who).pc = x.pc + 8 ∧
            (t.ctx s.who).wait = .none ∧ s.Issues a (r.kind s v) (r.addr s v) false r.dest ∧
            s.Outstanding t (r.kind s v) false ∧ s.Leaves t a)))

/-- R55, R56, R272 and R88: PUSHP puts the pair, under its records' names and its priority, at the near end of its core's deque. -/
def Claims.PairPushes : Prop :=
  ∀ (s : State) (a b : Src),
    let u : Uses := { a := some a, b := some b }
    s.Readable u →
    let v := s.vals u
    let core := s.who.core
    let x := s.norm core v.a
    let y := s.norm core v.b
    let aligned (w : Word) : Prop := w.toNat % Spec.recordSize s w = 0
    (¬ aligned v.a → ∃ t, exec (.pushp a b) s = .next t ∧ s.Trapped t 0x15 v.a) ∧
    (aligned v.a → ¬ aligned v.b → ∃ t, exec (.pushp a b) s = .next t ∧ s.Trapped t 0x15 v.b) ∧
    (aligned v.a → aligned v.b → s.AllowsHere v.a .load → s.AllowsHere v.b .load →
      (s.coreAt core).deque.length < 64 →
      ∃ t q, exec (.pushp a b) s = .next t ∧ q.a = x ∧ q.b = y ∧ q.prio = (s.pairPrio core x y).2 ∧ q.since = s.cycle ∧
        s.Passed t (s.ctx s.who) { (s.coreAt core).after u with deque := q :: (s.coreAt core).deque })

/-- R28, R40 to R42, R316 and R387: the steps of a splice on cells in slates: its first step leaves the old cell departing and asks
its peer, with a REPOINT where the old cell comes first and a DECIDE where it does not; each of these joins the peer and the
fresh cell under one tag, and frees the old cell by a message; a FREE old cell waits, for 256 cycles between re-tries. -/
def Claims.SpliceSteps : Prop :=
  ∀ (s : State) (r : WireReq) (k : Nat), s.Inv → (∀ c, (s.coreAt c).cuts = []) → s.bridges = [] → s.marked = [] → s.latent = [] → r.join = false →
    let core := r.acc.who.core
    let w := memReadN s.mem k 8
    (s.arg.wire = r → s.arg.n = 0 → s.CellAt core r.old k → s.dword core r.new / 2 ^ 62 = 0 →
      (w / 2 ^ 62 = 1 →
        let p := cellPeer w
        let req := { r with peer := p, tag := w / 2 ^ 54 % 256 }
        ∃ t, exec .firstStep s = .next t ∧ s.SameBytesBut t k 8 ∧
          (s.cellLt r.old p = true → Spec.cellIs (memReadN t.mem k 8) 2 (w / 2 ^ 54 % 256) r.new ∧
            s.CarriesN t (s.holderOf core r.old) (s.farDie core p) 80 (s.oneWay core p) .repoint { wire := req }) ∧
          (s.cellLt r.old p = false → memReadN t.mem k 8 = w % 2 ^ 62 + 2 * 2 ^ 62 ∧
            s.CarriesN t (s.holderOf core r.old) (s.farDie core p) 80 (s.oneWay core p) .decide { wire := req })) ∧
      (2 ≤ w / 2 ^ 62 → ∃ t, exec .firstStep s = .next t ∧ t.mem = s.mem ∧
        s.Carries t (s.endDie r.acc) (dieOf core) false 16 (r.acc.lat - r.acc.lat / 2) .landingFaultReport
          { acc := r.acc, cause := 0x28 }) ∧
      (w / 2 ^ 62 = 0 → ∃ t z, exec .firstStep s = .next t ∧ t.mem = s.mem ∧ t.cellWaits = s.cellWaits ++ [z] ∧ z.key = k ∧
        z.req = r ∧ z.last = s.cycle ∧ t.Due (s.cycle + 256) .portCellWaitLimit { id := z.id })) ∧
    (∀ n, s.arg.wire = r → s.arg.slot = true → s.CellAt core r.peer k → s.CellAt core r.new n → k ≠ n →
      w / 2 ^ 62 = 1 → w / 2 ^ 54 % 256 = r.tag → r.tag < 256 → s.sameCell core (cellPeer w) r.old = true →
      (∃ t, exec .repoint s = .next t ∧ Spec.cellIs (memReadN t.mem k 8) 1 r.tag (s.norm core r.new) ∧
        Spec.cellIs (memReadN t.mem n 8) 1 r.tag (s.norm core r.peer) ∧
        (∀ x, (x < k ∨ k + 8 ≤ x) → (x < n ∨ n + 8 ≤ x) → memRead t.mem x = memRead s.mem x) ∧
        s.CarriesN t (s.holderOf core r.peer) (s.farDie core r.old) 80 (s.oneWay core r.old) .freeLMessage
          { v := r.old, wire := r }) ∧
      ∃ t tag, exec .decide s = .next t ∧ tag < 256 ∧ Spec.cellIs (memReadN t.mem k 8) 1 tag (s.norm core r.new) ∧
        Spec.cellIs (memReadN t.mem n 8) 1 tag (s.norm core r.peer) ∧
        (∀ x, (x < k ∨ k + 8 ≤ x) → (x < n ∨ n + 8 ≤ x) → memRead t.mem x = memRead s.mem x) ∧
        s.CarriesN t (s.holderOf core r.peer) (s.farDie core r.old) 80 (s.oneWay core r.old) .freeLMessage
          { v := r.old, wire := r }) ∧
    (s.arg.wire = r → s.arg.n = 0 → s.arg.slot = true → s.CellAt core s.arg.v k → s.repointDue core s.arg.v = false → w / 2 ^ 62 = 2 →
      ∃ t, exec .freeLMessage s = .next t ∧ memReadN t.mem k 8 = 0 ∧ s.SameBytesBut t k 8) ∧
    ∀ z, s.cellWaits = [z] → z.id = s.arg.id → z.req = r → s.CellAt core r.old k → s.dword core r.new / 2 ^ 62 = 0 →
      w / 2 ^ 62 = 0 → s.inPlace r.acc.who r.acc.run →
      (s.cycle < z.last + 256 → exec .portCellWaitLimit s = .next (s.post (z.last + 256) .portCellWaitLimit s.arg)) ∧
      (z.last + 256 ≤ s.cycle → r.tries + 1 ≤ (s.ctx r.acc.who).waitLimit.toNat →
        ∃ t, exec .portCellWaitLimit s = .next t ∧ t.mem = s.mem ∧
          t.cellWaits = [{ z with req := { r with tries := r.tries + 1 }, last := s.cycle }]) ∧
      (z.last + 256 ≤ s.cycle → (s.ctx r.acc.who).waitLimit.toNat < r.tries + 1 →
        ∃ t, exec .portCellWaitLimit s = .next t ∧ t.mem = s.mem ∧ t.cellWaits = [] ∧
          s.Carries t (s.endDie r.acc) (dieOf core) false 16 (r.acc.lat - r.acc.lat / 2) .landingFaultReport
            { acc := r.acc, cause := 0x18 })

/-- R38: the run of a built-in rule returns its two records by plain accesses, 8 cycles apart, once its accesses are done, and then
its context is finished with the exit value 0. -/
def Claims.BuiltinRuns : Prop :=
  ∀ (s : State) (c : CtxId) (p q : Word), s.arg.c = c →
    let x := s.ctx c
    (x.builtin = none → exec .builtinRuleRun s = .next s) ∧
    ∀ n, x.builtin = some (n, p, q) → x.run = s.arg.run → x.life = .active → s.isSaving c = false →
      ((x.plain ≠ .none ∨ x.relaxed ≠ 0 ∨ x.drops ≠ []) →
        exec .builtinRuleRun s = .next (s.post (s.cycle + 1) .builtinRuleRun s.arg)) ∧
      (x.plain = .none → x.relaxed = 0 → x.drops = [] →
        (n = 3 ∨ n = 4 → x.buddy = none →
          let rec' := rd x.s (n - 2) 0
          s.form c.core rec' ≠ .bad → (∀ l ∈ (s.octet (octetOf c.core)).locks, l.slate ≠ none) →
          ∃ t, exec .builtinRuleRun s = .next t ∧ (t.ctx c).builtin = some (n + 1, p, q) ∧ (t.ctx c).plain = .store ∧
            t.mem = s.mem ∧ t.Due (s.cycle + 8) .builtinRuleRun { c := c, run := x.run } ∧
            ∃ a : Access, a.kind = .free x.net.toNat ∧ a.addr = rec' ∧ a.who = c ∧ s.Leaves t a) ∧
        (5 ≤ n → ∃ t, exec .builtinRuleRun s = .next t ∧
          t.ctx c = { x with life := .finished, wait := .none, builtin := none, exitVal := 0 } ∧ t.mem = s.mem ∧
          ∀ d : CtxId, d.key ≠ c.key → t.ctx d = s.ctx d))

/-! ## Threads -/

/-- R49, R59, R264 and R277: PARK takes a running context of its core out of rotation, WAKE puts a parked one back, and YIELD begins
the issuer's save; context 0 has neither park.self nor YIELD (0x01), and a context may name no other but from context 0 (0x04). -/
def Claims.ParkWakeYield : Prop :=
  ∀ (s : State),
    let x := s.ctx s.who
    let core := s.who.core
    let o := s.octet (octetOf core)
    (s.who.ctx = 0 → (∃ t, exec (.park none) s = .next t ∧ s.Trapped t 0x01 0) ∧ ∃ t, exec .yield s = .next t ∧ s.Trapped t 0x01 0) ∧
    (s.who.ctx ≠ 0 → x.life = .active → s.isSaving s.who = false →
      (∃ t, exec (.park none) s = .next t ∧ s.Passed t { x with life := .parked } (s.coreAt core)) ∧
      ∃ t, exec .yield s = .next t ∧ s.Passed t x (s.coreAt core) ∧
        t.octet (octetOf core) = { o with saves := o.saves ++ [{ core := core, ctx := s.who.ctx, run := x.run, after := .nothing }] } ∧
        t.Due s.cycle .contextSaveEnd { c := s.who, run := x.run }) ∧
    ∀ a : Src,
      let u : Uses := { a := some a }
      s.Readable u →
      let c : CtxId := ⟨core, (s.vals u).a.toNat % 16⟩
      let y := s.ctx c
      let k := (s.coreAt core).after u
      let mine := s.who.ctx = 0 ∨ c.ctx = s.who.ctx
      (¬ mine → (∃ t, exec (.park (some a)) s = .next t ∧ s.Trapped t 0x04 0) ∧ ∃ t, exec (.wake a) s = .next t ∧ s.Trapped t 0x04 0) ∧
      (mine →
        (c.ctx ≠ 0 → y.life = .active → s.isSaving c = false → ∃ t, exec (.park (some a)) s = .next t ∧
          let s' := s.setCtx c { y with life := .parked }
          s'.Passed t (s'.ctx s.who) k) ∧
        (c.ctx = 0 ∨ y.life ≠ .active ∨ s.isSaving c = true → ∃ t, exec (.park (some a)) s = .next t ∧ s.Passed t x k) ∧
        (y.life = .parked → y.builtin = none → y.relFault = none → ∃ t, exec (.wake a) s = .next t ∧
          let s' := s.setCtx c { y with life := .active }
          s'.Passed t (s'.ctx s.who) k) ∧
        (y.life ≠ .parked → ∃ t, exec (.wake a) s = .next t ∧ s.Passed t x k))

/-- R60 to R62, R336 and R408: a save waits until nothing is outstanding, then takes 21 cycles of its octet's port, and leaves its
context gated and its layout in the cloakroom, ready but for a dropped context and a WAIT; a stop instead ends it. A parked
full/empty operation is withdrawn first, and restarts at the restore with the re-tries it has counted. -/
def Claims.Saves : Prop :=
  ∀ (s : State),
    let c := s.arg.c
    let x := s.ctx c
    let o := octetOf c.core
    (∀ v, s.saveOf c = some v → v.run = s.arg.run →
      (x.life ≠ .active →
        (v.after = .nothing → ∃ t, exec .contextSaveEnd s = .next t ∧ t.saveOf c = none ∧ t.ctxs = s.ctxs ∧ t.mem = s.mem) ∧
        ∀ pc w p l, v.after = .startPc pc w p l → ∃ t, exec .contextSaveEnd s = .next t ∧ t.ctxs = s.ctxs ∧ t.Answers (s.cycle + 2) l 2) ∧
      (x.life = .active → x.run = v.run →
        (v.ends = 0 → (∀ i, x.wait ≠ .reply i ∧ x.wait ≠ .cwait i ∧ x.wait ≠ .hold i) →
          ((x.plain ≠ .none ∨ x.relaxed ≠ 0 ∨ x.lateOut ≠ 0 ∨ x.relFault ≠ none) →
            exec .contextSaveEnd s = .next (s.post (s.cycle + 1) .contextSaveEnd s.arg)) ∧
          (x.plain = .none → x.relaxed = 0 → x.lateOut = 0 → x.relFault = none →
            let e := max s.cycle (s.octet o).portAt + 21
            ∃ t, exec .contextSaveEnd s = .next t ∧ (t.octet o).portAt = e ∧ t.saveOf c = some { v with ends := e } ∧
              t.Due e .contextSaveEnd s.arg ∧ t.ctxs = s.ctxs ∧ t.mem = s.mem)) ∧
        (∀ p, v.ends = 0 → v.withdrawn = false → x.wait = .reply p.acc.id → s.parked = [p] →
          ∃ t, exec .contextSaveEnd s = .next t ∧ t.ctxs = s.ctxs ∧ t.parked = s.parked ∧ t.Due (s.cycle + 1) .contextSaveEnd s.arg ∧
            s.Sent t (p.acc.lat / 2) .saveWithdrawReply { c := c, run := p.acc.run, id := p.acc.id }) ∧
        (v.ends ≠ 0 → s.cycle < v.ends → exec .contextSaveEnd s = .next (s.post v.ends .contextSaveEnd s.arg)) ∧
        (v.ends ≠ 0 → v.ends ≤ s.cycle → v.after = .nothing →
          let out (kind tag left : Nat) (ready : Bool) : Prop := ∃ t, exec .contextSaveEnd s = .next t ∧ t.ctx c = {} ∧
            t.saveOf c = none ∧ t.mem = s.mem ∧ (∀ d : CtxId, d.key ≠ c.key → t.ctx d = s.ctx d) ∧
            ∃ e ∈ (t.octet o).cloak, e.core = c.core ∧ e.c = { x with wait := .none, left := left, starting := false } ∧
              e.prio = x.prio ∧ e.kind = kind ∧ e.tag = tag ∧ e.ready = ready ∧ e.taken = false
          (x.drops = [] → x.wait = .none → out 0 0 x.left true) ∧
          (x.drops ≠ [] → out 3 0 x.left false) ∧
          (∀ n dl, x.drops = [] → x.wait = .roll n dl → dl ≠ 0 → out 5 n (max 1 (dl - s.cycle)) false)))) ∧
    (∀ p, s.arg.n = 0 → s.parked = [p] → p.acc.id = s.arg.id →
      ∃ t, exec .saveWithdrawReply s = .next t ∧ t.parked = [] ∧ t.mem = s.mem ∧ t.ctxs = s.ctxs ∧
        s.Sent t (p.acc.lat - p.acc.lat / 2) .saveWithdrawReply { s.arg with n := 1, acc := p.acc }) ∧
    ∀ (a : Access) (r : Reg), s.arg.n = 1 → s.arg.acc = a → a.dest = .reg r → 0 < r.toNat → r.toNat < 32 → a.rx = false →
      a.kind = .ldx → x.run = a.run → x.life ≠ .gated →
      ∃ t, exec .saveWithdrawReply s = .next t ∧ t.regPend c r = false ∧ (a.was = true → t.regFull c r 1 = true) ∧
        (t.ctx c).wait = .blocked 4 ∧ (t.ctx c).tries = a.tries ∧ (t.ctx c).plain = .none ∧ (t.ctx c).s = x.s ∧ (t.ctx c).pc = x.pc ∧
        t.mem = s.mem

/-- R60, R61, R63, R377 and R414: the end of a restore puts the saved context into its context; MIGR leaves its context gated, its
old core forwarding for 4,096 cycles, and the context arrives in the lowest-numbered free context of its new core, or becomes a
ready entry of its cloakroom. -/
def Claims.RestoresAndMigrations : Prop :=
  ∀ (s : State),
    (∀ x, (s.ctx s.arg.c).run = s.arg.run →
      ((s.octet (octetOf s.arg.c.core)).cloak.find? fun (e : Saved) => e.id == s.arg.id) = some x →
      x.c.builtin = none → x.c.relFault = none → x.c.buddy = none →
      ∃ t, exec .contextRestoreEnd s = .next t ∧ t.ctx s.arg.c = Spec.restored x s.cycle ∧
        (∀ d : CtxId, d.key ≠ s.arg.c.key → t.ctx d = s.ctx d) ∧
        (∀ e ∈ (t.octet (octetOf s.arg.c.core)).cloak, e.id ≠ s.arg.id) ∧ t.cores = s.cores ∧ t.mem = s.mem) ∧
    (∀ a : Src,
      let u : Uses := { a := some a }
      let x := s.ctx s.who
      let core := s.who.core
      (s.who.ctx = 0 → ∃ t, exec (.migr a) s = .next t ∧ s.Trapped t 0x01 0) ∧
      (s.who.ctx ≠ 0 → x.relStores ≠ 0 ∨ x.plain = .store → ∃ t, exec (.migr a) s = .next t ∧ s.Waits t 0) ∧
      (s.who.ctx ≠ 0 → x.relStores = 0 → x.plain ≠ .store → s.Readable u →
        let dst := (s.vals u).a.toNat % 7680
        let staff := s.isStaffCore dst = true ∧ s.priv s.who < 2
        let claims := ∃ i, i < 8 ∧ (rd (s.coreAt core).q i {}).owner = some x.run
        (staff → ∃ t, exec (.migr a) s = .next t ∧ s.Trapped t 0x04 0) ∧
        (¬ staff → claims → ∃ t, exec (.migr a) s = .next t ∧ s.Trapped t 0x0A 0) ∧
        (¬ staff → ¬ claims → ∃ t e, exec (.migr a) s = .next t ∧ t.ctx s.who = {} ∧
          (∀ d : CtxId, d.key ≠ s.who.key → t.ctx d = s.ctx d) ∧ t.mem = s.mem ∧
          e ∈ (t.octet (octetOf dst)).cloak ∧ e.core = dst ∧ e.kind = 7 ∧ e.ready = false ∧ e.prio = x.prio ∧
          e.c = { x with pc := x.pc + 8, wait := .none, readyAt := e.c.readyAt, insCount := x.insCount + 1, starting := false
                         seated := false, buddy := e.c.buddy } ∧
          (dst ≠ core →
            (t.coreAt core).fwd = { run := x.run, dest := ⟨dst, 0⟩, till := s.cycle + 4096 } :: (s.coreAt core).fwd ∧
            t.Due (s.cycle + 4096) .forwardingEntryLapse { core := core, run := x.run } ∧
            s.CarriesN t core (dieOf dst) 1360 (70 + 60 * crossings (dieOf core) (dieOf dst)) .migrArrive
              { octet := octetOf dst, id := e.id })))) ∧
    (∀ x, ((s.octet s.arg.octet).cloak.find? fun (e : Saved) => e.id == s.arg.id) = some x →
      x.c.builtin = none → x.c.relFault = none → x.c.buddy = none →
      (∀ k, 0 < k → k < 16 → (s.ctx ⟨x.core, k⟩).life = .gated → (∀ j, 0 < j → j < k → (s.ctx ⟨x.core, j⟩).life ≠ .gated) →
        ∃ t, exec .migrArrive s = .next t ∧ t.ctx ⟨x.core, k⟩ = Spec.restored x s.cycle ∧
          (∀ d : CtxId, d.key ≠ x.core * 16 + k → t.ctx d = s.ctx d) ∧ (∀ f ∈ (t.coreAt x.core).fwd, f.run ≠ x.c.run) ∧
          t.mem = s.mem) ∧
      ((∀ k, 0 < k → k < 16 → (s.ctx ⟨x.core, k⟩).life ≠ .gated) →
        ∃ t, exec .migrArrive s = .next t ∧ t.ctxs = s.ctxs ∧ t.mem = s.mem ∧
          ∃ e ∈ (t.octet s.arg.octet).cloak, e.id = x.id ∧ e.core = x.core ∧ e.c = x.c ∧ e.kind = 0 ∧ e.ready = true)) ∧
    ∀ f : Forward, (s.coreAt s.arg.core).fwd = [f] → f.run = s.arg.run →
      let open' := ∃ x, s.runCtx ⟨s.arg.core, 0⟩ f.run = some x ∧ (x.plain ≠ .none ∨ x.relaxed ≠ 0 ∨ x.lateOut ≠ 0)
      (s.cycle < f.till → exec .forwardingEntryLapse s = .next (s.post f.till .forwardingEntryLapse s.arg)) ∧
      (f.till ≤ s.cycle → open' → exec .forwardingEntryLapse s = .next (s.post (s.cycle + 1) .forwardingEntryLapse s.arg)) ∧
      (f.till ≤ s.cycle → ¬ open' → exec .forwardingEntryLapse s =
        .next (s.setCore s.arg.core { s.coreAt s.arg.core with fwd := [] }))

/-- R63 and R377: what comes for a context that has left a core does at its present core what it would have done there, and goes on,
2 cycles a hop and 14 a die crossed, where the context has left that core too. -/
def Claims.ForwardedReplies : Prop :=
  ∀ (s : State),
    (∀ a, s.arg.acc = a → s.Plainly a.who a.run → (s.coreAt s.arg.core).fwd = [] →
      (s.arg.n = 0 → (∃ n sx, a.kind = .load n sx) ∨ a.kind = .vload ∨ a.kind = .ldx ∨ a.kind = .ldf →
        ∃ t, exec .forwardedReply s = .next t ∧ exec .memoryReply s = .next t) ∧
      (s.arg.n = 0 → (∃ n d, a.kind = .store n d) ∨ ∃ d, a.kind = .stx d →
        ∃ t, exec .forwardedReply s = .next t ∧ exec .storeAck s = .next t) ∧
      (s.arg.n = 1 → (∃ n sx, a.kind = .load n sx) →
        ∃ t, exec .forwardedReply s = .next t ∧ exec .landingFaultReport s = .next t)) ∧
    (∀ l, s.arg.late = l → s.arg.n = 2 → s.inPlace l.who l.run → (s.coreAt s.arg.core).fwd = [] →
      ∃ t, exec .forwardedReply s = .next t ∧ exec .divisionResult s = .next t) ∧
    ∀ f : Forward, (s.coreAt s.arg.core).fwd = [f] → s.arg.n = 0 → f.run = s.arg.acc.run →
      let core := s.arg.core
      ∃ t, exec .forwardedReply s = .next t ∧ t.ctxs = s.ctxs ∧ t.cores = s.cores ∧ t.mem = s.mem ∧
        s.CarriesN t core (dieOf f.dest.core) 80 (2 * hops core f.dest.core + 14 * crossings (dieOf core) (dieOf f.dest.core))
          .forwardedReply { s.arg with core := f.dest.core }

/-- R48, R57, R274 and R275: TAKE begins a search; the search takes the head of the deque where a context is free, and writes its
word 2 cycles later, or asks another die where nothing is near. -/
def Claims.Takes : Prop :=
  ∀ (s : State),
    (∀ (d : Reg) (w : Bool),
      let u : Uses := { late := [d] }
      let core := s.who.core
      (s.who.ctx ≠ 0 → ∃ t, exec (.take d w) s = .next t ∧ s.Trapped t 0x04 0) ∧
      (s.who.ctx = 0 → s.Readable u →
        ((s.coreAt core).taking ≠ none → ∃ t, exec (.take d w) s = .next t ∧ s.Waits t 1) ∧
        ((s.coreAt core).taking = none → ∃ t i, exec (.take d w) s = .next t ∧
          let k := { s.coreAt core with
            taking := some { reply := { who := s.who, run := (s.ctx s.who).run, dest := .reg d }, w := w, id := i } }
          (s.setCore core k).Began t u [d] none ∧ (t.ctx s.who).pc = (s.ctx s.who).pc + 8 ∧
          (t.ctx s.who).wait = (if w then .hold i else .none) ∧ (t.ctx s.who).lateOut = (s.ctx s.who).lateOut + 1 ∧
          t.Due s.cycle .takeWakeEvent { core := core }))) ∧
    let core := s.arg.core
    let k := s.coreAt core
    let die := dieOf core
    (k.taking = none → exec .takeWakeEvent s = .next s) ∧
    ∀ g, k.taking = some g →
      (g.busy = true → ∃ t, exec .takeWakeEvent s = .next t ∧ t.ctxs = s.ctxs ∧ t.mem = s.mem ∧
        (t.coreAt core).taking = some { g with stopped := g.stopped || s.arg.n == 1 }) ∧
      (g.busy = false → k.takeReg = none → s.isStaffCore core = false → k.cuts = [] →
        (∃ i, 0 < i ∧ i < 16 ∧ (s.ctx ⟨core, i⟩).life = .gated) → (s.octet (octetOf core)).cloak = [] →
        (∀ q r, k.deque = q :: r → q.prio < 256 → (∀ p ∈ r, p.id ≠ q.id) →
          ∃ t, exec .takeWakeEvent s = .next t ∧ (t.coreAt core).takeReg = some (.pair q) ∧ (t.coreAt core).deque = r ∧
            (t.coreAt core).taking = none ∧ t.mem = s.mem ∧ t.Answers (s.cycle + 2) g.reply ((2 ^ 62 + q.prio * 2 ^ 48) % 2 ^ 64)) ∧
        (k.deque = [] → (s.octet (octetOf core)).queue = [] → (s.die die).queue = [] →
          (∀ p ∈ s.cores, dieOf p.1 = die → p.1 ≠ core → p.2.deque.length < 2) →
          ∃ t, exec .takeWakeEvent s = .next t ∧ t.ctxs = s.ctxs ∧ t.mem = s.mem ∧ (t.coreAt core).takeReg = none ∧
            let d := (die + 1) % 4
            s.CarriesN t core d 16 (14 * crossings die d) .dieAsk { core := core, die := d }))

/-- R50, R59 and R275: START of a pc in a gated context makes it, and answers 0 at its first issue; it answers 1 for context 0, 2 for
a context that it may not start, and 3 without an item in the take register; a running context is saved first. START of a taken
pair gives s1 and s2 the pair's agents, and the pc the rule's entry. -/
def Claims.Starts : Prop :=
  ∀ (s : State) (d : Reg) (a b c : Src) (p : Option (BitVec 8)),
    let core := s.who.core
    let u : Uses := if p = none then { a := some a, late := [d] } else { a := some a, b := some b, c := some c, late := [d] }
    let i := Instr.start d a b c p
    let v := s.vals u
    let x : CtxId := ⟨core, v.a.toNat % 16⟩
    let y := s.ctx x
    let l : Late := { who := s.who, run := (s.ctx s.who).run, dest := .reg d }
    let busy := y.life = .parked ∨ y.life = .trapped ∨ y.life = .finished ∨ y.starting = true ∨ s.isSaving x = true
    let began (s' t : State) : Prop := exec i s = .next t ∧ s'.Began t u [d] none ∧ (t.ctx s.who).pc = (s.ctx s.who).pc + 8 ∧
      (t.ctx s.who).wait = .none ∧ (t.ctx s.who).lateOut = (s.ctx s.who).lateOut + 1
    (s.who.ctx ≠ 0 → ∃ t, exec i s = .next t ∧ s.Trapped t 0x04 0) ∧
    (s.who.ctx = 0 → s.Readable u →
      (x.ctx = 0 → ∃ t, began s t ∧ t.Answers (s.cycle + 2) l 1) ∧
      (x.ctx ≠ 0 → busy → ∃ t, began s t ∧ t.Answers (s.cycle + 2) l 2) ∧
      (x.ctx ≠ 0 → ¬ busy → (s.coreAt core).reaping = none →
        (p = none → (s.coreAt core).takeReg = none → ∃ t, began s t ∧ t.Answers (s.cycle + 2) l 3) ∧
        (∀ n, p = some n → y.life = .gated → ∃ t z, began (s.setCtx x z) t ∧ Ctx.Started z v.b v.c n.toNat (s.cycle + 2) ∧
          t.Answers (s.cycle + 2) l 0) ∧
        (∀ n, p = some n → y.life = .active → ∃ t, exec i s = .next t ∧ t.ctx x = y ∧ t.mem = s.mem ∧
          (∃ v' ∈ (t.octet (octetOf core)).saves, v' = { core := core, ctx := x.ctx, run := y.run, after := .startPc v.b v.c n.toNat l }) ∧
          t.Due s.cycle .contextSaveEnd { c := x, run := y.run }) ∧
        (∀ q s1 s2 r adj entry, p = none → (s.coreAt core).takeReg = some (.pair q) → y.life = .gated →
          s.orderPair core q.a q.b = (s1, s2) →
          let h := s.dword core s1
          let net := h % 65536
          s.desc net ≠ 0 → builtinPair (h / 2 ^ 52 % 4096) (s.dword core s2 / 2 ^ 52 % 4096) = false →
          s.rule core net (h / 2 ^ 52 % 4096) (s.dword core s2 / 2 ^ 52 % 4096) = (r, some (adj, entry)) →
          ∃ t, exec i s = .next t ∧ (t.coreAt core).takeReg = none ∧ t.Answers (s.cycle + 2) l 0 ∧
            let z := t.ctx x
            z.life = .active ∧ z.pc = entry ∧ z.prio = q.prio ∧ z.readyAt = s.cycle + 2 ∧ z.net = BitVec.ofNat 16 net ∧
            ∀ j, j < 32 → rd z.s j 0 = (if j = 1 then s1 else if j = 2 then s2 else 0) ∧ tb z.sFull j = true)))

/-- R49, R276, R325: REAP reports the lowest-numbered context that has stopped, with its cause or exit value, collects it, and gates
it; reap.look leaves it; without one it reports 0, or waits. A late result of a homeroom is written to its register. -/
def Claims.Reaps : Prop :=
  ∀ (s : State),
    (∀ (d b : Reg) (w look : Bool),
      let core := s.who.core
      let u : Uses := { late := [d, b] }
      let i := Instr.reap d b w look
      let l : Late := { who := s.who, run := (s.ctx s.who).run, dest := .reg d }
      let l2 : Late := { who := s.who, run := (s.ctx s.who).run, dest := .reg b }
      let began (s' t : State) : Prop := exec i s = .next t ∧ s'.Began t u [d, b] none ∧ (t.ctx s.who).pc = (s.ctx s.who).pc + 8 ∧
        (t.ctx s.who).lateOut = (s.ctx s.who).lateOut + 1
      let answers (t : State) (w b : Word) : Prop := (t.ctx s.who).wait = .none ∧ t.Due (s.cycle + 2) .homeroomLateResult
        { late := { l with val := w.setWidth 1024 }, late2 := { l2 with val := b.setWidth 1024 }, ok := false }
      let stopped (k : Nat) : Prop := ((s.ctx ⟨core, k⟩).life = .finished ∨ (s.ctx ⟨core, k⟩).life = .trapped) ∧
        ¬ (look = true ∧ (s.ctx ⟨core, k⟩).reported = true)
      (s.who.ctx ≠ 0 → ∃ t, exec i s = .next t ∧ s.Trapped t 0x04 0) ∧
      (s.who.ctx = 0 → s.Readable u → (s.coreAt core).reaping = none → (s.ctx s.who).life ≠ .gated →
        ((∀ k, 0 < k → k < 16 → ¬ stopped k) →
          (w = false → ∃ t, began s t ∧ answers t 0 0) ∧
          (w = true → ∃ t n, (t.ctx s.who).wait = .hold n ∧
            began (s.setCore core { s.coreAt core with reaping := some { reply := l, second := l2, id := n, look := look } }) t)) ∧
        ∀ k, 0 < k → k < 16 → stopped k → (∀ j, 0 < j → j < k → ¬ stopped j) →
          let c : CtxId := ⟨core, k⟩
          let y := s.ctx c
          let word : Word := BitVec.ofNat 64 (if y.life = .trapped then y.frec.cause * 256 + 32 + k else 16 + k)
          let val := if y.life = .trapped then y.frec.pc else y.exitVal
          (look = true → ∃ t, began (s.setCtx c { y with reported := true }) t ∧ answers t word val) ∧
          (look = false → y.sPend = 0 → y.vPend = 0 → y.launch = none →
            let s' := s.setCtx c {}
            ∃ t, began (if y.life = .trapped then s'.setCore core { s.coreAt core with frec := y.frec } else s') t ∧
              answers t word val))) ∧
    (s.arg.n = 1 → (s.coreAt s.arg.core).reaping = none → exec .homeroomLateResult s = .next s) ∧
    ∀ (l : Late) (d : Reg), s.arg.n ≠ 1 → s.arg.late = l → l.dest = .reg d → d.toNat < 56 → s.inPlace l.who l.run →
      (s.ctx l.who).buddy = none →
      (s.arg.ok = true → ∃ t, exec .homeroomLateResult s = .next t ∧ s.Filled t l.who d (l.val.setWidth 64) ∧
        (t.ctx l.who).lateOut = (s.ctx l.who).lateOut - 1 ∧ t.mem = s.mem) ∧
      ∀ (b : Reg) (v : VWord), s.arg.ok = false → s.arg.late2 = { who := l.who, run := l.run, dest := .reg b, val := v } → b.toNat < 56 → d ≠ b →
        ∃ t, exec .homeroomLateResult s = .next t ∧ (t.ctx l.who).lateOut = (s.ctx l.who).lateOut - 1 ∧ t.mem = s.mem ∧
          (d ≠ 0 → t.regVal l.who d 0 = l.val.setWidth 64 ∧ t.regFull l.who d 1 = true) ∧
          (b ≠ 0 → t.regVal l.who b 0 = v.setWidth 64 ∧ t.regFull l.who b 1 = true) ∧
          ∀ r : Reg, r ≠ d → r ≠ b → r.toNat < 56 → t.regVal l.who r 0 = s.regVal l.who r 0 ∧ t.regFull l.who r 1 = s.regFull l.who r 1

/-! ## Roll call -/

/-- R64, R65, R108, R278: ARRIVE waits for its context's stores and for the release of its last one; a member's ARRIVE counts, and
the last arrival of a group sets the release at its span's time; a context outside the group counts nothing. WAIT completes
where gen has flipped since its ARRIVE, and else stays at its pc with its limit; RCGEN and RCPOLL read it. -/
def Claims.RollCall : Prop :=
  ∀ (s : State) (n : BitVec 3),
    let x := s.ctx s.who
    let core := s.who.core
    let k := s.coreAt core
    let die := s.tagDie (dieOf core) n.toNat
    let g := rd (s.die die).tags n.toNat {}
    let cfg := g.cfg.toNat
    let flipped := ∃ b, rd x.arr n.toNat none = some b ∧ b ≠ g.gen
    (x.relaxed ≠ 0 ∨ x.plain = .store → ∃ t, exec (.arrive n) s = .next t ∧ s.Waits t 0) ∧
    (x.relaxed = 0 → x.plain ≠ .store →
      (tagMember g.cfg die s.who = false → ∃ t, exec (.arrive n) s = .next t ∧ s.Passed t x k) ∧
      (tagMember g.cfg die s.who = true → memNat s.who.key g.arrived = true → ∃ t, exec (.arrive n) s = .next t ∧ s.Waits t 0) ∧
      (tagMember g.cfg die s.who = true → memNat s.who.key g.arrived = false →
        ∃ t, exec (.arrive n) s = .next t ∧ s.Passed t { x with arr := wr x.arr n.toNat (some g.gen) } k ∧
          t.die die = { s.die die with tags := wr (s.die die).tags n.toNat { g with arrived := insNat s.who.key g.arrived } } ∧
          (g.arrived.Pairwise (· < ·) → s.who.ctx < 16 →
            (cfg / 2 ^ 62 = 0 → cfg / 2 ^ 56 % 64 + cfg / 2 ^ 44 % 64 ≤ 48 ∧ cfg / 2 ^ 50 % 64 + cfg / 2 ^ 38 % 64 ≤ 40) →
            (∀ c : CtxId, c.core < 7680 → c.ctx < 16 → tagMember g.cfg die c = true → c.key ≠ s.who.key → memNat c.key g.arrived = true) →
            t.Due (s.cycle +
              if cfg / 2 ^ 62 = 0 then 6 + cfg / 2 ^ 38 % 64 + cfg / 2 ^ 44 % 64 else if cfg / 2 ^ 62 = 1 then 94 else 134)
              .rollcallRelease { die := die, n := n.toNat }))) ∧
    (∀ a : Src,
      let u : Uses := { a := some a }
      s.Readable u →
      let limit := if x.left ≠ 0 then x.left else (s.vals u).a.toNat
      let dl := if limit = 0 then 0 else s.cycle + limit
      (flipped → ∃ t, exec (.wait n a) s = .next t ∧ s.Passed t { x with left := 0 } (k.after u)) ∧
      (¬ flipped → ∃ t, exec (.wait n a) s = .next t ∧
        t.ctx s.who = { x with wait := .roll n.toNat dl, left := 0, readyAt := (t.ctx s.who).readyAt, insCount := x.insCount + 1
                               starting := false, seated := false, buddy := (t.ctx s.who).buddy } ∧
        t.coreAt core = k.after u ∧ s.SameElse t ∧ (∀ j, memRead t.mem j = memRead s.mem j) ∧
        (limit ≠ 0 → t.Due dl .waitLimitExpire { c := s.who, run := x.run, n := n.toNat, w := s.word }))) ∧
    ∀ d : Reg, s.Readable { out := [d] } →
      (∃ t, exec (.rcgen n d) s = .next t ∧ s.Wrote t { out := [d] } d
        (BitVec.ofNat 64 ((if g.gen then 1 else 0) +
          (rd x.arr n.toNat none).elim 0 fun b => 4 + if b then 2 else 0)) ((s.ctx s.who).pc + 8)) ∧
      (flipped → ∃ t, exec (.rcpoll n d) s = .next t ∧ s.Wrote t { out := [d] } d 1 ((s.ctx s.who).pc + 8)) ∧
      (¬ flipped → ∃ t, exec (.rcpoll n d) s = .next t ∧ s.Wrote t { out := [d] } d 0 ((s.ctx s.who).pc + 8))

/-- R64, R65, R278 and R391: a release flips gen, on every die whose tag is the group's, empties the group under its pending cfg, and
completes every WAIT of the old
generation; bit 0 of a kick forces a flip; a cfg write holds from the next flip on; a WAIT past its limit traps with 0x19. -/
def Claims.RollCallFlips : Prop :=
  ∀ (s : State), s.arg.n < 8 → s.arg.die < 4 →
    let n := s.arg.n
    let flips (i : Instr) (die : Nat) (forced : Bool) : Prop :=
      let g := rd (s.die die).tags n {}
      ∃ t, exec i s = .next t ∧ t.mem = s.mem ∧ t.cores = s.cores ∧
        (∀ d, d < 4 →
          let h := rd (s.die d).tags n {}
          t.die d = if d = die ∨ s.tagDie d n = die then
              { s.die d with
                tags := wr (s.die d).tags n { cfg := h.pend.getD h.cfg, pend := none, gen := !g.gen, forced := forced, arrived := [] } }
            else s.die d) ∧
        ∀ c : CtxId, c.ctx < 16 →
          let x := s.ctx c
          let mine := (∃ dl, x.wait = .roll n dl) ∧ s.tagDie (dieOf c.core) n = die
          (¬ mine → t.ctx c = x) ∧
          (mine → x.drops = [] → t.ctx c = { x with wait := .none, pc := x.pc + 8 }) ∧
          (mine → x.drops ≠ [] → t.ctx c = { x with wait := .released })
    flips .rollcallRelease s.arg.die false ∧
    (s.arg.v.getLsbD 0 = true → flips .rollcallKick (s.tagDie s.arg.die n) true) ∧
    (s.arg.v.getLsbD 0 = false → exec .rollcallKick s = .next s) ∧
    (∃ t, exec .rollcallCfgWrite s = .next t ∧ t.ctxs = s.ctxs ∧ t.mem = s.mem ∧
      t.die s.arg.die = { s.die s.arg.die with
        tags := wr (s.die s.arg.die).tags n
          { rd (s.die s.arg.die).tags n {} with pend := some (s.arg.v &&& 0xFFFFFFFFFFC00000) } }) ∧
    ∀ dl, s.inPlace s.arg.c s.arg.run →
      let c := s.arg.c
      let x := s.ctx c
      x.wait = .roll n dl → dl ≠ 0 → x.drops = [] →
      (s.cycle < dl → exec .waitLimitExpire s = .next (s.post dl .waitLimitExpire s.arg)) ∧
      (dl ≤ s.cycle → ∃ t, exec .waitLimitExpire s = .next t ∧ t.mem = s.mem ∧ (∀ d : CtxId, d.key ≠ c.key → t.ctx d = s.ctx d) ∧
        t.ctx c = { x with life := .trapped, wait := .none, starting := false, reported := false, relFault := none, stopAt := s.cycle
                           frec := { cause := 0x19, pc := x.pc, word := s.arg.w, ctx := c.ctx } })

/-! ## Pair queues -/

/-- R55, R56, R58 and R396: a pushed pair goes to the near end of its core's deque, and of more than 64 the eight at the far end leave
as a block; blocks move whole between the levels, in the order of age; a pair for a fenced rectangle goes to the die queue, behind those of its
priority. -/
def Claims.PairQueues : Prop :=
  ∀ (s : State),
    (let core := s.arg.core
     let k := s.coreAt core
     k.cuts = [] →
     ((∀ f ∈ s.fences, f.has core = false) → ∃ t q, exec .pairPushArrive s = .next t ∧ t.mem = s.mem ∧ t.ctxs = s.ctxs ∧
       q = { s.arg.item with id := q.id, since := s.cycle } ∧
       (k.deque.length < 64 → t.coreAt core = { k with deque := q :: k.deque }) ∧
       (k.deque.length = 64 → t.coreAt core = { k with deque := q :: k.deque.take 56 } ∧
         ∃ l, l.Perm (k.deque.drop 56) ∧ Spec.aged l ∧ t.Due s.cycle .queueBlockMove { move := .dequeToOctet core, items := l })) ∧
     ((∃ f ∈ s.fences, f.has core = true) → ∃ t q l r, exec .pairPushArrive s = .next t ∧ t.mem = s.mem ∧ t.ctxs = s.ctxs ∧
       q = { s.arg.item with id := q.id, since := s.cycle, ent := q.ent } ∧ (s.die (dieOf core)).queue = l ++ r ∧
       t.die (dieOf core) = { s.die (dieOf core) with queue := l ++ q :: r } ∧
       (∀ p ∈ l, q.prio < p.prio ∨ (q.prio = p.prio ∧ p.ent < q.ent)) ∧ (∀ p ∈ r.head?, p.prio < q.prio ∨ q.ent ≤ p.ent) ∧
       t.Due (s.cycle + 2 ^ 20) .queueAging { aged := .die (dieOf core) q.id, n := s.cycle })) ∧
    (∀ core, s.arg.move = .dequeToOctet core →
      let o := s.octet (octetOf core)
      ∃ t, exec .queueBlockMove s = .next t ∧ t.mem = s.mem ∧ t.ctxs = s.ctxs ∧
        t.octet (octetOf core) = { o with queue := o.queue ++ s.arg.items } ∧
        (512 < (o.queue ++ s.arg.items).length → t.Due s.cycle .queueBlockMove { move := .octetToDie (octetOf core) })) ∧
    (∀ octet, s.arg.move = .octetToDie octet →
      let l := (s.octet octet).queue
      ∃ t, exec .queueBlockMove s = .next t ∧ t.mem = s.mem ∧ t.ctxs = s.ctxs ∧
        t.octet octet = { s.octet octet with queue := l.drop 8 } ∧
        let old (q : QItem) : QItem := { q with ent := 0 }
        ((t.die (octetDie octet)).queue.map old).Perm
          ((l.take 8).map (fun q => old { q with since := s.cycle }) ++ (s.die (octetDie octet)).queue.map old)) ∧
    (∀ octet, s.arg.move = .dieToOctet octet →
      let l := (s.die (octetDie octet)).queue
      ∃ t m, exec .queueBlockMove s = .next t ∧ t.mem = s.mem ∧ t.ctxs = s.ctxs ∧ m.Perm (l.take 8) ∧ Spec.aged m ∧
        (l ≠ [] → t.die (octetDie octet) = { s.die (octetDie octet) with queue := l.drop 8 } ∧
          t.octet octet = { s.octet octet with queue := (s.octet octet).queue ++ m })) ∧
    ∀ core, s.arg.move = .octetToDeque core →
      let o := s.octet (octetOf core)
      ∃ t m, exec .queueBlockMove s = .next t ∧ t.mem = s.mem ∧ t.ctxs = s.ctxs ∧ m.Perm (o.queue.take 8) ∧ Spec.aged m ∧
        (o.queue ≠ [] → t.octet (octetOf core) = { o with queue := o.queue.drop 8 } ∧ s.AtNearEnd t core m)

/-- R57, R58, R140 and R396: a steal takes half of its victim's deque, up to 8 entries, from the far end, and none across a fence; a die
gives the head of its queue; a reply's entries go to the near end of the asker's deque. An entry gains a level of priority for
each 2^20 cycles that it waits, and the gold identifier steps every 1,024 cycles. -/
def Claims.StealsAndAging : Prop :=
  ∀ (s : State),
    let core := s.arg.core
    (let v := s.arg.n
     let l := (s.coreAt v).deque
     let n := min 8 (l.length / 2)
     let time := 2 * hops core v + 14 * crossings (dieOf core) (dieOf v)
     (s.fenced core v = false → ∃ t, exec .stealRequest s = .next t ∧ t.mem = s.mem ∧ t.ctxs = s.ctxs ∧
       t.coreAt v = { s.coreAt v with deque := l.take (l.length - n) } ∧
       s.CarriesN t v (dieOf core) (16 + 16 * n) time .stealReply { core := core, items := l.drop (l.length - n) }) ∧
     (s.fenced core v = true → ∃ t, exec .stealRequest s = .next t ∧ t.cores = s.cores ∧
       s.CarriesN t v (dieOf core) 16 time .stealReply { core := core })) ∧
    (let d := s.arg.die
     let l := (s.die d).queue
     let time := 14 * crossings d (dieOf core)
     (l ≠ [] → ∃ t m, exec .dieAsk s = .next t ∧ t.mem = s.mem ∧ t.ctxs = s.ctxs ∧ m.Perm (l.take 8) ∧ Spec.aged m ∧
       t.die d = { s.die d with queue := l.drop 8 } ∧
       s.Carries t d (dieOf core) true (16 + 16 * m.length) time .stealReply { core := core, items := m }) ∧
     (l = [] → (∀ p ∈ s.cores, dieOf p.1 = d → p.1 ≠ core → p.2.deque.length < 2) →
       ∃ t, exec .dieAsk s = .next t ∧ t.cores = s.cores ∧ s.Carries t d (dieOf core) true 16 time .stealReply { core := core })) ∧
    (s.arg.items ≠ [] → (s.coreAt core).cuts = [] → (s.coreAt core).taking = none →
      ∃ t m, exec .stealReply s = .next t ∧ t.mem = s.mem ∧ t.ctxs = s.ctxs ∧ m.Perm s.arg.items ∧ Spec.aged m ∧
        s.AtNearEnd t core m) ∧
    (∀ die q, s.arg.aged = .die die q.id → q.since = s.arg.n → (s.die die).queue = [q] →
      (255 ≤ q.prio → exec .queueAging s = .next s) ∧
      (q.prio < 255 → ∃ t, exec .queueAging s = .next t ∧ t.mem = s.mem ∧ t.ctxs = s.ctxs ∧
        t.die die = { s.die die with queue := [{ q with prio := q.prio + 1, since := s.cycle }] } ∧
        t.Due (s.cycle + 2 ^ 20) .queueAging { aged := .die die q.id, n := s.cycle })) ∧
    (∀ octet x, s.arg.aged = .cloak octet x.id → x.since = s.arg.n → (s.octet octet).cloak = [x] → x.ready = true → x.prio < 255 →
      ∃ t, exec .queueAging s = .next t ∧ t.mem = s.mem ∧ t.ctxs = s.ctxs ∧
        t.octet octet = { s.octet octet with cloak := [{ x with prio := x.prio + 1, since := s.cycle }] } ∧
        t.Due (s.cycle + 2 ^ 20) .queueAging { aged := .cloak octet x.id, n := s.cycle }) ∧
    ∃ t, exec .goldAdvance s = .next t ∧ t.mem = s.mem ∧ t.ctxs = s.ctxs ∧
      t.die s.arg.die = { s.die s.arg.die with gold := s.arg.die * 1920 + ((s.die s.arg.die).gold + 1) % 1920 } ∧
      t.Due (s.cycle + 1024) .goldAdvance s.arg

/-! ## Control registers, traps and returns -/

/-- R80 to R86, R154, R158, R266, R285, R332 and R372: CSRR writes the register to d; CSRW stores the bits that the register keeps and
changes no other, reads as before elsewhere, and ignores a write to a read-only one; an absent number traps with 0x01, and a
write below its privilege with 0x04. -/
def Claims.ControlRegisters : Prop :=
  ∀ (s : State) (d : Reg) (a b : Src),
    let x := s.ctx s.who
    let core := s.who.core
    (let u : Uses := { a := some a, out := [d] }
     let n := (s.vals u).a.toNat % 4096
     s.Readable u →
     (Spec.absent n → ∃ t, exec (.csrr d a) s = .next t ∧ s.Trapped t 0x01 0) ∧
     ∀ w, (n, w) ∈ Spec.registers s → ∃ t, exec (.csrr d a) s = .next t ∧ s.Wrote t u d w (x.pc + 8)) ∧
    let u : Uses := { a := some a, b := some b }
    let n := (s.vals u).a.toNat % 4096
    let v := (s.vals u).b
    let k := (s.coreAt core).after u
    s.Readable u →
    (Spec.absent n → ∃ t, exec (.csrw a b) s = .next t ∧ s.Trapped t 0x01 0) ∧
    (∀ m p, (n, m, p) ∈ Spec.stored →
      (s.priv s.who < p → ∃ t, exec (.csrw a b) s = .next t ∧ s.Trapped t 0x04 0) ∧
      (p ≤ s.priv s.who → ∃ t, exec (.csrw a b) s = .next t ∧ s.Issued t (x.pc + 8) ∧
        t.csrRead s.who n = some (v &&& m) ∧ (∀ j, j ≠ n → t.csrRead s.who j = s.csrRead s.who j) ∧
        (∀ j, memRead t.mem j = memRead s.mem j) ∧ (∀ c : CtxId, c.key ≠ s.who.key → t.ctx c = s.ctx c) ∧
        (∀ j, j ≠ core → t.coreAt j = s.coreAt j) ∧
        ∀ r : Reg, r.toNat < 55 → t.regVal s.who r 0 = s.regVal s.who r 0 ∧ t.regFull s.who r 1 = s.regFull s.who r 1)) ∧
    (n = 0x001 ∨ (0x044 ≤ n ∧ n < 0x048) ∨ (0x108 ≤ n ∧ n < 0x120) ∨ n = 0x123 →
      ∃ t, exec (.csrw a b) s = .next t ∧ s.Passed t x k) ∧
    ((0x130 ≤ n ∧ n < 0x133) ∨ (0x140 ≤ n ∧ n < 0x150) → ∃ t, exec (.csrw a b) s = .next t ∧ s.Trapped t 0x04 0) ∧
    (n = 0x020 → ∃ t, exec (.csrw a b) s = .next t ∧
      s.Passed t x { k with dctl := if 4 < v.toNat / 2 ^ 25 % 8 then (v &&& 0xFFFFFFFFF1FC0000) ||| (k.dctl &&& 0x0E000000)
                                    else v &&& 0xFFFFFFFFFFFC0000 }) ∧
    (n = 0x029 → 1 ≤ s.priv s.who → ∃ t, exec (.csrw a b) s = .next t ∧
      s.Passed t x { k with weight := if v.toNat % 16 = 0 then 1 else BitVec.ofNat 4 v.toNat }) ∧
    (n = 0x120 → 2 ≤ s.priv s.who → (∀ i, i < 5 → v.toNat / 8 ^ i % 8 ≤ 5) → ∃ t, exec (.csrw a b) s = .next t ∧ s.Passed t x k ∧
      t.die (dieOf core) = { s.die (dieOf core) with rate := v &&& 0x7FFF }) ∧
    (n = 0x000 → ∃ t, exec (.csrw a b) s = .next t ∧ s.Passed t x k ∧
      t.Due s.cycle .statusWrite { c := s.who, run := x.run, v := v }) ∧
    (n = 0x028 → ∃ t, exec (.csrw a b) s = .next t ∧ s.Passed t x k ∧ t.Due s.cycle .rngSeedWrite { core := core, v := v }) ∧
    (2 ≤ s.priv s.who →
      (0x100 ≤ n → n < 0x108 → ∃ t, exec (.csrw a b) s = .next t ∧ s.Passed t x k ∧
        t.Due s.cycle .rollcallCfgWrite { die := dieOf core, n := n - 0x100, v := v }) ∧
      (0x188 ≤ n → n < 0x190 → ∃ t, exec (.csrw a b) s = .next t ∧ s.Passed t x k ∧
        t.Due s.cycle .rollcallKick { die := dieOf core, n := n - 0x188, v := v }))

/-- R81, R86, R158 and R164: a write of status sets rm, but for its reserved codes, and clears the flags written 1; a seed of 0 is 1; a
pass count is at most 240, under which the MATX that wait look for their start, and then one pass a cycle joins or leaves until as
many circulate. -/
def Claims.RegisterWrites : Prop :=
  ∀ (s : State),
    (s.inPlace s.arg.c s.arg.run → ∃ t, exec .statusWrite s = .next t ∧ t.mem = s.mem ∧ t.cores = s.cores ∧
      (∀ c : CtxId, c.key ≠ s.arg.c.key → t.ctx c = s.ctx c) ∧
      let x := s.ctx s.arg.c
      let v := s.arg.v.toNat
      t.ctx s.arg.c = { x with
        rm := if v / 2 ^ 51 % 8 ≤ 4 then BitVec.ofNat 3 (v / 2 ^ 51) else x.rm
        flags := x.flags &&& ~~~BitVec.ofNat 5 (v / 2 ^ 45) }) ∧
    (let seed : BitVec 32 := BitVec.ofNat 32 s.arg.v.toNat
     exec .rngSeedWrite s =
       .next (s.setCore s.arg.core { s.coreAt s.arg.core with rng := if seed = 0 then 1 else seed })) ∧
    let die := s.arg.die
    let d := s.die die
    (s.arg.n = 0 → ∃ t, exec .passCountWrite s = .next t ∧ t.die die = { d with passCount := min 240 (s.arg.v.toNat % 256) } ∧
      t.mem = s.mem ∧ t.ctxs = s.ctxs ∧ t.Due s.cycle .passCountWrite { die := die, n := 1 } ∧
      ∀ o c x, octetDie o = die → c ∈ (s.octet o).mxu.cmds → c.cmd = .matx x → Spec.waiting c x →
        t.Due s.cycle .matxStart { octet := o, id := c.id }) ∧
    (s.arg.n = 1 → (∀ p ∈ s.agenda, p.ev ≠ .passCountWrite) →
      (s.circulating die = d.passCount → exec .passCountWrite s = .next s) ∧
      (s.circulating die < d.passCount → ∃ t p, exec .passCountWrite s = .next t ∧ t.die die = { d with ring := d.ring ++ [p] } ∧
        (p + s.cycle) % 240 = 0 ∧ t.mem = s.mem ∧ t.ctxs = s.ctxs ∧ t.Due (s.cycle + 1) .passCountWrite s.arg) ∧
      (d.passCount < s.circulating die → ∀ l p r, d.ring = l ++ p :: r → (p + s.cycle) % 240 = 0 →
        (∀ q ∈ l, (q + s.cycle) % 240 ≠ 0) →
        ∃ t, exec .passCountWrite s = .next t ∧ t.die die = { d with ring := l ++ r } ∧ t.mem = s.mem ∧ t.ctxs = s.ctxs ∧
          t.Due (s.cycle + 1) .passCountWrite s.arg))

/-- R286, R321 to R325, R331, R337 and R369: TRAP stops its context with cause 0x80 and Reg(a) as the address; a word that is no
instruction stops it with its cause; FREC reads the core's last record. TRET returns a trapped context to rotation, and gives 1
for one that is not; tret.rp issues the stop's poisoned accesses afresh. -/
def Claims.TrapsAndReturns : Prop :=
  ∀ (s : State) (d : Reg) (a b : Src),
    (∃ t, exec .unassignedEncoding s = .next t ∧ s.Trapped t s.arg.cause 0) ∧
    (let u : Uses := { a := some a }
     s.Readable u → ∃ t, exec (.trap a) s = .next t ∧ (∀ j, memRead t.mem j = memRead s.mem j) ∧
       t.coreAt s.who.core = (s.coreAt s.who.core).after u ∧ (∀ c : CtxId, c.key ≠ s.who.key → t.ctx c = s.ctx c) ∧
       t.ctx s.who =
         { s.ctx s.who with
           life := .trapped, wait := .none, starting := false, reported := false, relFault := none, stopAt := s.cycle
           frec := { cause := 0x80, pc := (s.ctx s.who).pc, addr := (s.vals u).a, word := s.word, ctx := s.who.ctx } }) ∧
    (let u : Uses := { a := some a, out := [d] }
     s.Readable u → ∃ t, exec (.frec d a) s = .next t ∧
       s.Wrote t u d (Spec.recordWord (s.coreAt s.who.core).frec ((s.vals u).a.toNat % 4)) ((s.ctx s.who).pc + 8)) ∧
    ∀ rc next : Bool,
      let u : Uses := { a := some a, b := if rc then some b else none, out := [d], need := if rc then 2 else 1 }
      let c : CtxId := if rc then ⟨(s.vals u).b.toNat % 7680, 0⟩ else ⟨s.who.core, (s.vals u).a.toNat % 16⟩
      let x := s.ctx c
      let pc := (s.ctx s.who).pc + 8
      s.Readable u →
      (x.life ≠ .trapped →
        (∃ t, exec (.tret d a b next rc) s = .next t ∧ s.Wrote t u d 1 pc) ∧
        ∃ t, exec (.tretRp d a b rc) s = .next t ∧ s.Wrote t u d 1 pc) ∧
      (x.life = .trapped → (s.coreAt c.core).reaping = none → c.key ≠ s.who.key → x.builtin = none →
        (∃ t, exec (.tret d a b next rc) s = .next t ∧ (s.setCtx c (Spec.resumed x next s.cycle)).Wrote t u d 0 pc) ∧
        (x.frec.cause ≠ 0x17 ∨ x.mixed = true → ∃ t, exec (.tretRp d a b rc) s = .next t ∧ s.Wrote t u d 1 pc) ∧
        (x.frec.cause = 0x17 → x.mixed = false →
          (x.poisoned = [] → ∃ t, exec (.tretRp d a b rc) s = .next t ∧ (s.setCtx c (Spec.resumed x false s.cycle)).Wrote t u d 0 pc) ∧
          ∀ (q : Access) (n : Nat) (sx : Bool) (r : Reg) (e w off : Nat), x.poisoned = [q] → q.kind = .load n sx → q.dest = .reg r →
            0 < r.toNat → r.toNat < 32 → q.rx = false → s.form c.core q.addr = .window e w off → x.buddy = none →
            ∃ (t : State) (p : Access), exec (.tretRp d a b rc) s = .next t ∧ (t.ctx c).life = .active ∧ (t.ctx c).plain = .load ∧
              (t.ctx c).pc = x.pc ∧ t.regPend c r = true ∧ s.Leaves t p ∧ p.kind = q.kind ∧ p.addr = q.addr ∧ p.who = c ∧
              p.dest = q.dest ∧ p.issued = s.cycle ∧ t.mem = s.mem))

/-- R79, R264, R277 and R336: CTXRD reads a register of a bank by its selector, a gated bank as zero with ctx_z set; CTXWR writes one of
a parked or trapped context. -/
def Claims.ContextRegisters : Prop :=
  ∀ (s : State) (d : Reg) (a b c : Src),
    (let u : Uses := { a := some a, b := some b, out := [d], need := 1 }
     let k : CtxId := ⟨s.who.core, (s.vals u).a.toNat % 16⟩
     let sel := (s.vals u).b.toNat % 65536
     let x := s.ctx k
     let gives (w : Word) : Prop := ∃ t, exec (.ctxrd d a b) s = .next t ∧
       (s.setCtx s.who { s.ctx s.who with ctxz := x.life == .gated }).Wrote t u d w ((s.ctx s.who).pc + 8)
     s.Readable u →
     (x.life = .gated → gives 0) ∧
     (x.life ≠ .gated →
       (0 < sel → sel < 32 → gives (rd x.s sel 0)) ∧
       (sel = 0 → gives 0) ∧
       (0x100 ≤ sel → sel < 0x180 → gives ((rd x.v ((sel - 0x100) / 16) 0).extractLsb' (64 * (sel % 16)) 64)) ∧
       (0x200 ≤ sel → sel < 0x204 → gives ((rd x.p (sel - 0x200) 0).setWidth 64)) ∧
       (sel = 0x300 → gives x.pc) ∧ (sel = 0x302 → gives x.wid) ∧ (sel = 0x303 → gives (x.waitLimit.setWidth 64)))) ∧
    let u : Uses := { a := some a, b := some b, c := some c, need := 1 }
    let k : CtxId := ⟨s.who.core, (s.vals u).a.toNat % 16⟩
    let sel := (s.vals u).b.toNat % 65536
    let w := (s.vals u).c
    let x := s.ctx k
    let core := (s.coreAt s.who.core).after u
    let leaves (y : Ctx) : Prop := ∃ t, exec (.ctxwr a b c) s = .next t ∧
      (s.setCtx k y).Passed t ((s.setCtx k y).ctx s.who) core
    s.Readable u →
    (x.life ≠ .parked → x.life ≠ .trapped → ∃ t, exec (.ctxwr a b c) s = .next t ∧ s.Passed t (s.ctx s.who) core) ∧
    (x.life = .parked ∨ x.life = .trapped → k.key ≠ s.who.key → x.buddy = none →
      (0 < sel → sel < 32 → leaves { x with s := wr x.s sel w, sFull := sb x.sFull sel true, sPend := sb x.sPend sel false }) ∧
      (0x200 ≤ sel → sel < 0x204 → leaves { x with p := wr x.p (sel - 0x200) (BitVec.ofNat 32 w.toNat) }) ∧
      (sel = 0x300 → leaves { x with pc := w, qskip := none }) ∧
      (sel = 0x303 → leaves { x with waitLimit := BitVec.ofNat 32 w.toNat }) ∧
      (sel = 0 ∨ sel = 0x302 ∨ sel = 0x304 ∨ 0x305 ≤ sel → leaves x) ∧
      ∀ r j, r < 8 → j < 16 → sel = 0x100 + 16 * r + j → ∃ v : VWord,
        v.extractLsb' (64 * j) 64 = w ∧ (∀ i, i < 16 → i ≠ j → v.extractLsb' (64 * i) 64 = (rd x.v r 0).extractLsb' (64 * i) 64) ∧
        leaves { x with v := wr x.v r v, vFull := sb x.vFull r true, vPend := sb x.vPend r false })

/-! ## The system's instructions -/

/-- R98, R287, R327, R334 and R418: TINV waits until every die has dropped the translations that it names, which writes their counts
back; POST puts a notice on the die's queue, with free values where the spec gives its record none (assumption log 72), and a
PAGE_MAPPED reaches every die's waiters, with the partition and the page size of its word; a kind that the hardware keeps traps with
0x01. -/
def Claims.InvalidationAndPost : Prop :=
  ∀ (s : State) (k : TinvScope) (a b : Src),
    (let u : Uses := { a := some a, b := some b, need := 2 }
     let v := s.vals u
     let x := s.ctx s.who
     let die := dieOf s.who.core
     s.Readable u →
     (∃ t i, exec (.tinv k a b) s = .next t ∧ t.ctx s.who = { x with
         pc := x.pc + 8, wait := .hold i, readyAt := (t.ctx s.who).readyAt, insCount := x.insCount + 1, starting := false
         seated := false, buddy := (t.ctx s.who).buddy } ∧
       t.coreAt s.who.core = (s.coreAt s.who.core).after u ∧ s.SameElse t ∧ (∀ j, memRead t.mem j = memRead s.mem j) ∧
       s.Sent t 64 .tinvComplete { c := s.who, run := x.run, id := i, scope := k, v := v.a, w := v.b }) ∧
     let kind := v.a.toNat % 256
     let word := Config.postField 2 v.a v.b
     let kept := kind = 0x00 ∨ (0x10 ≤ kind ∧ kind < 0x80) ∨ kind = 0xFF
     (kept → ∃ t, exec (.post a b) s = .next t ∧ s.Trapped t 0x01 0) ∧
     (¬ kept → ∃ t, exec (.post a b) s = .next t ∧ s.Passed t x ((s.coreAt s.who.core).after u) ∧
       s.Sent t 20 .noticeArrive
         { die := die
           notice := { kind := kind, die := die, core := s.who.core, ctx := s.who.ctx, value := v.b, pc := Config.postField 0 v.a v.b
                       addr := Config.postField 1 v.a v.b, word := word } } ∧
       (kind = 0x02 → ∀ d, d < 4 → s.Sent t (20 + 24 * crossings die d) .pageMappedWake
         { die := d, v := v.b, n := word.toNat / 2 ^ 4 % 4, w := word }))) ∧
    (s.inPlace s.arg.c s.arg.run → (s.ctx s.arg.c).wait = .hold s.arg.id →
      let part := s.arg.w.toNat % 16
      let off := s.arg.v.toNat % 2 ^ 48
      let drops (e : TlbEnt) : Prop := s.arg.scope = .all ∨ (s.arg.scope = .part ∧ e.part = part) ∨
        (s.arg.scope = .page ∧ e.part = part ∧ e.base ≤ off ∧ off < e.base + e.size)
      ∃ t, exec .tinvComplete s = .next t ∧ t.ctx s.arg.c = { s.ctx s.arg.c with wait := .none } ∧
        (∀ d e, d < 4 → (e ∈ (t.die d).tlb ↔ e ∈ (s.die d).tlb ∧ ¬ drops e)) ∧
        ((∀ d, d < 4 → ∀ e ∈ (s.die d).tlb, e.leaf.getLsbD 57 = false) → t.mem = s.mem))

/-- R287, R396 and R397: ISOL of a rectangle of whole octets of one die, without its own core and the staff's, raises its fence, stops
and restarts what is inside, and counts at its completion word when the slates are read; UNISOL lowers the fence. -/
def Claims.Isolation : Prop :=
  ∀ (s : State) (a b : Src),
    let u : Uses := { a := some a, b := some b, need := 2 }
    let v := (s.vals u).a.toNat
    let col := v / 2 ^ 56 % 128
    let row := v / 2 ^ 49 % 128
    let cols := v / 2 ^ 42 % 128
    let rows := v / 2 ^ 35 % 128
    let whole := col % 4 = 0 ∧ cols % 4 = 0 ∧ row % 2 = 0 ∧ rows % 2 = 0 ∧ 0 < cols ∧ 0 < rows ∧ col + cols ≤ 96 ∧ row + rows ≤ 80 ∧
      col / 48 = (col + cols - 1) / 48 ∧ row / 40 = (row + rows - 1) / 40
    let inside (k : Nat) : Prop := k < 7680 ∧ col ≤ devCol k ∧ devCol k < col + cols ∧ row ≤ devRow k ∧ devRow k < row + rows
    let forbidden := inside s.who.core ∨ ∃ k, inside k ∧ s.isStaffCore k = true
    (s.Readable u →
      (¬ whole → ∃ t, exec (.isol a b) s = .next t ∧ s.Trapped t 0x01 0) ∧
      (whole → forbidden → ∃ t, exec (.isol a b) s = .next t ∧ s.Trapped t 0x04 0) ∧
      (whole → ¬ forbidden → ∃ t f, exec (.isol a b) s = .next t ∧
        t.fences = f :: s.fences.filter (fun g => g.bits != v / 2 ^ 35 % 2 ^ 28) ∧ f.bits = v / 2 ^ 35 % 2 ^ 28 ∧
        (∀ k, f.has k = true ↔ inside k) ∧ (t.ctx s.who).pc = (s.ctx s.who).pc + 8 ∧
        t.Due (s.cycle + 8192) .isolationDone { c := s.who, run := (s.ctx s.who).run, id := f.id } ∧
        ∀ k, inside k → (t.ctx ⟨k, 0⟩).life = .active ∧ (t.coreAt k).deque = [] ∧ (t.octet (octetOf k)).queue = [] ∧
          ∀ i, 0 < i → i < 16 → (t.ctx ⟨k, i⟩).life = .gated)) ∧
    (∀ f, s.fences = [f] → f.id = s.arg.id → s.latent = [] → exec .isolationDone s =
      .next (s.post s.cycle .completionIncrement { count := { addr := f.cw, what := .isol f.id, who := s.arg.c, run := s.arg.run } })) ∧
    let w : Uses := { a := some a, need := 2 }
    s.Readable w → ∃ t, exec (.unisol a) s = .next t ∧ s.Passed t (s.ctx s.who) ((s.coreAt s.who.core).after w) ∧
      t.fences = s.fences.filter fun g => g.bits != (s.vals w).a.toNat / 2 ^ 35 % 2 ^ 28

/-- R67, R68, R287 and R288: CUT waits as ARRIVE does, and begins its core's part; the first marker on a channel makes a core join,
and each marker closes its channel; a core that started the cut records its state once its contexts can be recorded. -/
def Claims.Cuts : Prop :=
  ∀ (s : State) (a b c : Src),
    (let u : Uses := { a := some a, b := some b, c := some c, need := 2 }
     let x := s.ctx s.who
     let core := s.who.core
     let v := s.vals u
     2 ≤ s.priv s.who →
     (x.relaxed ≠ 0 ∨ x.plain = .store → ∃ t, exec (.cut a b c) s = .next t ∧ s.Waits t 0) ∧
     (x.relaxed = 0 → x.plain ≠ .store → s.Readable u →
       (v.b.toNat % 64 ≠ 0 → ∃ t, exec (.cut a b c) s = .next t ∧ s.Trapped t 0x15 v.b) ∧
       (v.b.toNat % 64 = 0 → ∃ t q p, exec (.cut a b c) s = .next t ∧
         q.net = v.a.toNat % 65536 ∧ q.addr = s.homed core v.b ∧ q.cw = s.homed core v.c ∧ q.who = s.who ∧ q.run = x.run ∧
         t.cuts = s.cuts ++ [q] ∧
         p = { id := q.id, first := true, toCome := s.cutSides core ++ [4, 5, 6, 7], stamp := p.stamp } ∧
         s.Passed t x { (s.coreAt core).after u with cuts := (s.coreAt core).cuts ++ [p] } ∧
         ∀ ch, 4 ≤ ch → ch < 9 → t.Due (s.cycle + 1) .cutMarkerArrive { core := core, id := q.id, n := ch }))) ∧
    let core := s.arg.core
    let k := s.coreAt core
    (s.cuts = [] → exec .cutMarkerArrive s = .next s) ∧
    ∀ q, s.cuts = [q] → q.id = s.arg.id →
      (k.cuts = [] → s.arg.n < 4 → ∃ t p, exec .cutMarkerArrive s = .next t ∧ t.mem = s.mem ∧ t.ctxs = s.ctxs ∧
        p = { id := q.id, toCome := (s.cutSides core ++ [4, 5, 6, 7]).filter (· ≠ s.arg.n), stamp := p.stamp } ∧
        t.coreAt core = { k with cuts := [p] }) ∧
      ∀ p, k.cuts = [p] → p.id = q.id →
        (s.arg.n < 4 → ∃ t, exec .cutMarkerArrive s = .next t ∧ t.mem = s.mem ∧ t.ctxs = s.ctxs ∧
          t.coreAt core = { k with cuts := [{ p with toCome := p.toCome.filter (· ≠ s.arg.n) }] }) ∧
        (s.arg.n = 8 → p.first = true → p.taken = none → (∀ i ∈ s.cutCtxs core q.net, s.recordable ⟨core, i⟩ = true) →
          ∃ t, exec .cutMarkerArrive s = .next t ∧ t.mem = s.mem ∧ t.ctxs = s.ctxs ∧
            t.coreAt core = { k with cuts := [{ p with taken := some (s.cutState core q.net) }] } ∧
            (∀ ch j, ch ∈ s.cutSides core → meshNext core ch = some j →
              ∃ e ∈ t.agenda, e.ev = .cutMarkerArrive ∧ e.arg = { core := j, id := q.id, n := (ch + 2) % 4 }) ∧
            t.Due (s.cycle + 1) .cutMarkerArrive { core := core, id := q.id, n := 8 }) ∧
        (s.arg.n = 8 → p.taken ≠ none → p.toCome ≠ [] →
          exec .cutMarkerArrive s = .next (s.post (s.cycle + 1) .cutMarkerArrive { core := core, id := q.id, n := 8 }))

/-- R48 and R264: an instruction below its privilege traps with 0x04 and has no effect: the slate map, CTXRD, CTXWR and TRET need a
homeroom, and the instructions of the system and the reclaims the staff. -/
def Claims.PrivilegeChecks : Prop :=
  ∀ (s : State) (d : Reg) (a b c : Src) (k : TinvScope) (next : Bool),
    let traps (i : Instr) : Prop := ∃ t, exec i s = .next t ∧ s.Trapped t 0x04 0
    (s.priv s.who = 0 → traps (.smap d a b) ∧ traps (.sunmap d a) ∧ traps (.ctxrd d a b) ∧ traps (.ctxwr a b c) ∧
      traps (.tret d a b next false) ∧ traps (.tretRp d a b false)) ∧
    (s.priv s.who < 2 → traps (.sunmapRc d a) ∧ traps (.tret d a b next true) ∧ traps (.tretRp d a b true) ∧ traps (.tinv k a b) ∧
      traps (.post a b) ∧ traps (.isol a b) ∧ traps (.unisol a) ∧ traps (.cut a b c))

/-! ## Messages -/

/-- R273 and R283: ENQR, MSEND and MBULK wait until nothing of their context is outstanding, check their addresses, and send: the
bytes leave for their place as a load's would, and the sender waits. A non-blocking one traps without a seat; a length of zero
sends nothing. -/
def Claims.SendIssues : Prop :=
  ∀ (s : State) (a b c : Src) (fol nb : Bool),
    let x := s.ctx s.who
    let core := s.who.core
    let die := dieOf core
    let quiet := x.plain = .none ∧ x.relaxed = 0
    let seat (q : Nat × Nat) : Prop := (s.isHere q.1 = true ∧ q.2 = die) ∨ (s.sendSide die (s.nodeOf q.1) q.2).idle ≠ []
    let source (v : Word) (n : Nat) : Prop := s.AllowsHere v .load ∧ (∀ k, s.form core v ≠ .remote k) ∧
      s.leavesSlate core ⟨v, n, false⟩ = false
    let sends (i : Instr) (u : Uses) (v : Word) (k : AccKind) : Prop := ∃ t acc, exec i s = .next t ∧ s.Began t u [] none ∧
      (t.ctx s.who).pc = x.pc + 8 ∧ (t.ctx s.who).wait = .hold acc.id ∧ s.Issues acc k v false .none ∧ s.Outstanding t k false ∧
      s.Leaves t acc
    let traps (i : Instr) (k : Nat) (v : Word) : Prop := ∃ t, exec i s = .next t ∧ s.Trapped t k v
    (let i := Instr.enqr a b nb
     let u : Uses := { a := some a, b := some b }
     let v := s.vals u
     let q := (bits v.b.toNat 23 12, 0)
     let k := AccKind.send 64 false 0 (.record (bits v.b.toNat 11 0)) q.1 0
     (¬ quiet → ∃ t, exec i s = .next t ∧ s.Waits t 0) ∧
     (quiet → s.Readable u →
       (v.a.toNat % 64 ≠ 0 → traps i 0x15 v.a) ∧
       (v.a.toNat % 64 = 0 → source v.a 64 → (nb = true → ¬ seat q → traps i 0x31 0) ∧
         ((nb = true → seat q) → x.buddy = none → s.Unlocked v.a k → sends i u v.a k)))) ∧
    ∀ (i : Instr) (cls : Nat) (fol' : Bool),
      (i = .msend a b c nb ∧ cls = 1 ∧ fol' = false) ∨ (i = .mbulk a b c fol nb ∧ cls = 2 ∧ fol' = fol) →
      let u : Uses := { a := some a, b := some b, c := some c }
      let v := s.vals u
      let n := min v.c.toNat 65536
      let q := s.destOf v.b
      let k := AccKind.send n fol' cls (.write (s.homed core v.b)) q.1 q.2
      (¬ quiet → ∃ t, exec i s = .next t ∧ s.Waits t 0) ∧
      (quiet → s.Readable u →
        (n = 0 → ∃ t, exec i s = .next t ∧ s.Passed t x ((s.coreAt core).after u)) ∧
        (n ≠ 0 → (∃ m, s.form core v.a = .remote m) → traps i 0x16 v.a) ∧
        (n ≠ 0 → source v.a n →
          (s.form core v.b ≠ .bad → s.leavesSlate core ⟨v.b, n, true⟩ = true → traps i 0x15 v.b) ∧
          (s.AllowsHere v.b .store → s.leavesSlate core ⟨v.b, n, true⟩ = false →
            (nb = true → ¬ seat q → traps i 0x31 0) ∧
            ((nb = true → seat q) → x.buddy = none → s.Unlocked v.a k → sends i u v.a k))))

/-- R273 and R284: INBOX arms an inbox of its own net with a waiting agent, and traps with 0x04 in another net's; inbox 0 is left as
it is. MSEAT reads the free seats at a destination; with .req it first asks for a block and waits, without an issue slot, and it
issues once the answer has come. -/
def Claims.InboxAndSeats : Prop :=
  ∀ (s : State) (a b : Src) (d : Reg),
    let x := s.ctx s.who
    let core := s.who.core
    (let u : Uses := { a := some a, b := some b }
     let v := s.vals u
     let n := v.a.toNat % 4096
     let k := s.inboxKey n
     let d0 := memReadN s.mem k 8
     let mine := 2 ≤ s.priv s.who ∨ x.net.toNat = d0 / 2 ^ 32 % 65536
     s.Readable u →
       (n = 0 → ∃ t, exec (.inbox a b) s = .next t ∧ s.Passed t x ((s.coreAt core).after u)) ∧
       (n ≠ 0 → ¬ mine → ∃ t, exec (.inbox a b) s = .next t ∧ s.Trapped t 0x04 0) ∧
       (s.Inv → n ≠ 0 → mine → k + 16 ≤ 2 ^ 48 → ∃ t, exec (.inbox a b) s = .next t ∧ s.Issued t (x.pc + 8) ∧
         memReadN t.mem (k + 8) 8 = (s.homed core v.b).toNat ∧
         memReadN t.mem k 8 = d0 + (if d0 / 2 ^ 62 % 2 = 1 then 0 else 2 ^ 62) ∧ s.SameBytesBut t k 16 ∧
         (∀ r : Reg, r.toNat < 55 → t.regVal s.who r 0 = s.regVal s.who r 0))) ∧
    let u : Uses := { a := some a, out := [d] }
    let v := s.vals u
    let die := dieOf core
    let node := s.nodeOf (v.a.toNat % 4096)
    let far := v.a.toNat / 4096 % 4
    ∀ req : Bool, s.Readable u →
      (req = false ∨ x.seated = true → ∃ t, exec (.mseat d a req) s = .next t ∧
        s.Wrote t u d (BitVec.ofNat 64 (s.sendSide die node far).idle.length) (x.pc + 8)) ∧
      (req = true → x.seated = false → ∃ t i, exec (.mseat d a req) s = .next t ∧ t.ctx s.who = { x with wait := .hold i } ∧
        (∀ c : CtxId, c.key ≠ s.who.key → t.ctx c = s.ctx c) ∧ t.cores = s.cores ∧ t.mem = s.mem ∧
        s.Sent t (12 * crossings die far) .seatRequest
          { seat := { die := die, dnode := node, ddie := far, waiter := some { who := s.who, run := x.run } }, n := 2
            die := far, env := { snode := s.node, sdie := die, dnode := node, ddie := far } })

/-- R97, R142 to R147, R273 and R283: the acceptance of a send. On its own die the bytes lie decoded in a slot, and come to
delivery; to another die or node they leave as a message with a seat; without a seat the interface asks for a block and the send
waits, as a class O message does for one of class B with the follow bit that is on its way to another interface of its node. A
core's access to another node leaves as a message that its reply will find, after those that it must follow. -/
def Claims.Acceptance : Prop :=
  ∀ (s : State) (a : Access), s.arg.acc = a → (s.ctx a.who).buddy = none →
    let die := dieOf a.who.core
    (∀ n fol cls body dnode ddie, s.arg.n = 0 → a.kind = .send n fol cls body dnode ddie → a.rx = false → s.Plainly a.who a.run →
      s.NoEffectBit a.who a.run → (s.ctx a.who).wait = .hold a.id →
      let bs := s.arg.frag.data
      let node := s.nodeOf dnode
      let e : Env := { dnode := node, ddie := ddie, cls := cls, fol := fol, body := body, sender := .ctx a.who, acc := a }
      let q := s.sendSide die node ddie
      let rate := s.rate die (trafficOf (s.isHere dnode) cls body)
      let goes (t : State) : Prop := t.ctx a.who = { s.ctx a.who with wait := .none, plain := .none } ∧
        (∀ c : CtxId, c.key ≠ a.who.key → t.ctx c = s.ctx c) ∧ t.mem = s.mem
      (s.Trails die cls node ddie → exec .seatRequest s = .next (s.post (s.cycle + 1) .seatRequest s.arg)) ∧
      (¬ s.Trails die cls node ddie → s.isHere dnode = true → ddie = die → ∃ t y, exec .seatRequest s = .next t ∧ goes t ∧
        (t.die die).slots = (s.die die).slots ++ [y] ∧ y.decoded = true ∧ y.data = bs ∧ y.env.body = body ∧ y.env.cls = cls ∧
        y.env.fol = fol ∧ y.env.sender = .ctx a.who ∧ y.missed = none ∧
        ((∃ i, body = .record i) → s.Sent t 28 .deliver { die := die, id := y.seat }) ∧
        (∀ w, body = .write w → s.Sent t (s.oneWay a.who.core w) .deliver { die := die, id := y.seat })) ∧
      (¬ s.Trails die cls node ddie → ¬ (s.isHere dnode = true ∧ ddie = die) →
        (∀ seat rest, q.idle = seat :: rest → bs.length ≤ 64 * rate.1 * 128 → ∃ t, exec .seatRequest s = .next t ∧ goes t ∧
          s.Accepted t die e rate bs
            (match body with
              | .record _ => 26 + 30 * crossings die ddie
              | _ => 12 * crossings die ddie) seat rest) ∧
        (q.idle = [] → ∃ t, exec .seatRequest s = .next t ∧ t.ctxs = s.ctxs ∧ t.mem = s.mem ∧
          t.Due (s.cycle + 1) .seatRequest s.arg ∧
          (q.asked = false → q.busy.length < 64 → (t.sendSide die node ddie).asked = true ∧
            s.Sent t (12 * crossings die ddie) .seatRequest
              { seat := { die := die, dnode := node, ddie := ddie }, n := 2, die := ddie
                env := { snode := s.node, sdie := die, dnode := node, ddie := ddie } })))) ∧
    (s.arg.n = 1 → s.NoEffectBit a.who a.run →
      let node := bits a.addr.toNat 59 48
      let ddie := State.remoteDie a.who.core a.addr
      let e : Env := { dnode := node, ddie := ddie, cls := 1, body := .request s.seq, sender := .ctx a.who, acc := a }
      (s.FollowsOther a → exec .seatRequest s = .next (s.post (s.cycle + 1) .seatRequest s.arg)) ∧
      ∀ seat rest, ¬ s.FollowsOther a → (s.sendSide die node ddie).idle = seat :: rest → ∃ t, exec .seatRequest s = .next t ∧
        t.ctxs = s.ctxs ∧ t.mem = s.mem ∧ (t.die die).remote = (s.die die).remote ++ [{ tag := s.seq, acc := a }] ∧
        s.Accepted t die e (s.rate die .fo) (natBytes a.addr.toNat 8 ++ a.kind.payload) 0 seat rest)

/-- R146, R284 and R394: a request takes a block of eight free decode slots under a lease, or is declined with none; the answer gives
the sender its seats, and lets a MSEAT that waits for it issue. A lease that has carried nothing for 2^20 cycles ends; one in use
goes on. -/
def Claims.Seats : Prop :=
  ∀ (s : State),
    let die := s.arg.die
    let e := s.arg.env
    let d := s.die die
    let mine := d.leases.filter fun (l : Lease) => l.from' e
    (s.arg.n = 2 → e.dnode = s.node →
      let declined := (∃ l ∈ mine, l.void = true) ∨ 8 ≤ mine.length ∨ ∀ b, b < 512 → ∃ l ∈ d.leases, 8 * b ∈ l.seats
      let answers (t : State) (l : List Nat) : Prop := e.snode = s.node → e.host = false → s.Sent t (12 * crossings die e.sdie) .seatRequest
        { seat := s.arg.seat, n := 3, die := e.sdie, env := e, words := l.map fun i => BitVec.ofNat 64 i }
      (declined → ∃ t, exec .seatRequest s = .next t ∧ (t.die die).leases = d.leases ∧ answers t [] ∧ t.mem = s.mem) ∧
      (¬ declined → ∀ b, b < 512 → (∀ l ∈ d.leases, 8 * b ∉ l.seats) → (∀ k, k < b → ∃ l ∈ d.leases, 8 * k ∈ l.seats) →
        let seats := (List.range 8).map fun i => 8 * b + i
        ∃ t, exec .seatRequest s = .next t ∧ answers t seats ∧ t.mem = s.mem ∧
          (t.die die).leases = { snode := e.snode, sdie := e.sdie, host := e.host, seats := seats, last := s.cycle } :: d.leases ∧
          t.Due (s.cycle + 2 ^ 20) .seatLeaseExpire { die := die, id := 8 * b })) ∧
    (s.arg.n = 3 →
      let r := s.arg.seat
      let x := s.sendSide r.die r.dnode r.ddie
      let now := x.idle ++ s.arg.words.map (·.toNat)
      ∃ t, exec .seatRequest s = .next t ∧ t.mem = s.mem ∧ (t.sendSide r.die r.dnode r.ddie).idle = now ∧
        (t.sendSide r.die r.dnode r.ddie).asked = false ∧ (t.sendSide r.die r.dnode r.ddie).busy = x.busy ∧
        (r.waiter = none → t.ctxs = s.ctxs) ∧
        ∀ (l : Late) i, r.waiter = some l → s.inPlace l.who l.run → (s.ctx l.who).wait = .hold i →
          t.ctx l.who = { s.ctx l.who with wait := .none, seated := true }) ∧
    (s.arg.n = 1 → ∃ t, exec .seatLeaseExpire s = .next t ∧ t.mem = s.mem ∧ t.ctxs = s.ctxs ∧
      (t.sendSide die e.dnode e.ddie).idle = (s.sendSide die e.dnode e.ddie).idle.filter fun i => BitVec.ofNat 64 i ∉ s.arg.words ∨ 2 ^ 64 ≤ i) ∧
    ∀ l, s.arg.n = 0 → d.leases = [l] → s.arg.id ∈ l.seats → l.void = false → (l.host = true → l.sdie = 0) →
      let own := l.snode = s.node
      let q := if l.host then s.hostSide s.node die else s.sendSide l.sdie s.node die
      let used := (∃ y ∈ d.slots, y.seat ∈ l.seats) ∨ (own ∧ ∃ z ∈ q.busy, z.seat ∈ l.seats)
      (s.cycle < l.last + 2 ^ 20 → exec .seatLeaseExpire s = .next (s.post (l.last + 2 ^ 20) .seatLeaseExpire s.arg)) ∧
      (l.last + 2 ^ 20 ≤ s.cycle → used → exec .seatLeaseExpire s = .next (s.post (s.cycle + 2 ^ 20) .seatLeaseExpire s.arg)) ∧
      (l.last + 2 ^ 20 ≤ s.cycle → ¬ used → ∃ t, exec .seatLeaseExpire s = .next t ∧ t.mem = s.mem ∧ t.ctxs = s.ctxs ∧
        (t.die die).leases = [] ∧
        (own → (if l.host then t.hostSide s.node die else t.sendSide l.sdie s.node die).idle = q.idle.filter fun i => i ∉ l.seats))

/-- R143, R145, R147, R148, R392 and R393: a fragment whose link or header check fails, or whose message has been delivered, is
discarded; another goes into its slot, which decodes 2 cycles after it has enough of every stripe, or 8 with a code fragment, and is
given up 2^16 cycles after a fragment that was not the last: its sequence is done, and LOSS tells both ends. On its way a fragment
goes on from the diagonal's second die and from a port's die to its own, and it leaves the device by its port, which takes 2 cycles
for each, 500 cycles later. -/
def Claims.Fragments : Prop :=
  ∀ (s : State),
    let die := s.arg.die
    let f := s.arg.frag
    let e := f.env
    let d := s.die die
    let w := (d.wins.find? fun (y : RecvWin) => y.from' e).getD {}
    let passes := f.linkOk = true ∧ headerCrc f.d0.toNat f.d1.toNat = f.d1.toNat % 65536 ∧ w.disposes e.seq = false
    (∀ p, s.arg.n = 1 → f.port = some p → p < 36 →
      let at' := max s.cycle (rd (s.die (p / 9)).portFree (p % 9) 0) + 2
      ∃ t, exec .fragmentArrive s = .next t ∧ t.mem = s.mem ∧ t.ctxs = s.ctxs ∧ t.outbox = s.outbox ++ [{ f with there := at' + 500 }] ∧
        rd (t.die (p / 9)).portFree (p % 9) 0 = at') ∧
    (2 ≤ s.arg.n → ∃ t, exec .fragmentArrive s = .next t ∧ t.mem = s.mem ∧ t.ctxs = s.ctxs ∧
      s.Sent t (12 * crossings die e.ddie) .fragmentArrive { die := e.ddie, frag := f }) ∧
    (s.arg.n = 0 → ¬ passes → exec .fragmentArrive s = .next s) ∧
    (s.arg.n = 0 → passes →
      let lands (x : DSlot) (now : Nat) : Prop :=
        ∃ t y, exec .fragmentArrive s = .next t ∧ t.mem = s.mem ∧ t.ctxs = s.ctxs ∧ y ∈ (t.die die).slots ∧ y.env = x.env ∧
          y.seat = x.seat ∧ y.frags = x.frags ++ [(f.stripe, f.frag, f.data)] ∧ y.last = now ∧
          (y.whole = true → y.decoded = true ∧ y.data = y.bytes ∧
            t.Due (now + if y.usesCode then 8 else 2) .deliver { die := die, id := e.seat }) ∧
          (y.whole = false → y.decoded = false ∧ t.Due (now + 2 ^ 16) .messageLoss { die := die, id := e.seat, n := now })
      (d.slots = [] → lands { seat := e.seat, env := e } s.cycle) ∧
      ∀ x, d.slots = [x] → x.seat = e.seat → x.from' e = true → x.env.seq = e.seq → x.decoded = false →
        (∀ g ∈ x.frags, ¬ (g.1 = f.stripe ∧ g.2.1 = f.frag)) → x.frags ≠ [] → lands x (max s.cycle (x.last + 1))) ∧
    (d.slots = [] → exec .messageLoss s = .next s) ∧
    (∀ x, d.slots = [x] → x.seat = s.arg.id → (∀ i, x.env.body ≠ .packet i) →
      let m := x.env
      let q := (d.wins.find? fun (y : RecvWin) => y.from' m).getD { snode := m.snode, sdie := m.sdie, host := m.host }
      (x.decoded = true ∨ x.last ≠ s.arg.n → exec .messageLoss s = .next s) ∧
      (x.decoded = false → x.last = s.arg.n → x.seat < 4096 → m.seq < 2 ^ 32 → q.b < 2 ^ 32 → (m.seq + 2 ^ 32 - q.b) % 2 ^ 32 < 64 →
        ∃ t, exec .messageLoss s = .next t ∧ t.mem = s.mem ∧ t.ctxs = s.ctxs ∧ (t.die die).slots = [] ∧
          (∃ z ∈ (t.die die).wins, z.from' m = true ∧ z.disposes m.seq = true) ∧
          s.Sent t 20 .noticeArrive { die := die, notice := { kind := 0x0D, cause := 0x30, die := die
                                                              value := BitVec.ofNat 64 (m.snode * 2 ^ 32 + m.seq), word := BitVec.ofNat 64 m.cls } } ∧
          (m.snode = s.node → m.host = false → ∃ v, s.Sent t (12 * crossings die m.sdie) .lossReport { die := m.sdie, env := m, v := v }))) ∧
    let g := s.arg.env
    let tells (t : State) (node seq : Nat) (v : Word) : Prop := s.Sent t 20 .noticeArrive
      { die := die, notice := { kind := 0x0D, cause := 0x30, die := die, value := BitVec.ofNat 64 (node * 2 ^ 32 + seq % 2 ^ 32), word := v } }
    (s.arg.n = 0 → ∃ t, exec .lossReport s = .next t ∧ t.ctxs = s.ctxs ∧ t.mem = s.mem ∧ tells t g.snode g.seq s.arg.v) ∧
    ∀ z, s.arg.n ≠ 0 → (s.sendSide die g.dnode g.ddie).busy = [z] → z.seat = s.arg.id → z.tag = none →
      ∃ t, exec .lossReport s = .next t ∧ t.ctxs = s.ctxs ∧ t.mem = s.mem ∧ tells t s.node z.seq z.first ∧
        (t.sendSide die g.dnode g.ddie).busy = [] ∧
        (t.sendSide die g.dnode g.ddie).idle = (s.sendSide die g.dnode g.ddie).idle ++ [z.seat]

/-- R113, R149 to R151 and R273: what the delivery of a message on its own die does: its bytes are stored, or a record is taken by its
inbox, which is linked with the waiting agent, pushed as a pair and disarmed; inbox 0 gives it to the launch unit; an inbox that is
not armed keeps it waiting, in the order of delivery. -/
def Claims.Deliveries : Prop :=
  ∀ (s : State) (x : DSlot),
    let die := s.arg.die
    (s.arg.n = 1 → ∀ z, (s.sendSide die s.arg.env.dnode s.arg.env.ddie).busy = [z] → z.seat = s.arg.id →
      ∃ t, exec .deliver s = .next t ∧ t.mem = s.mem ∧ t.ctxs = s.ctxs ∧
        (t.sendSide die s.arg.env.dnode s.arg.env.ddie).busy = [] ∧
        (t.sendSide die s.arg.env.dnode s.arg.env.ddie).idle =
          (s.sendSide die s.arg.env.dnode s.arg.env.ddie).idle ++ [s.arg.id]) ∧
    (s.arg.n = 0 → (s.die die).slots = [] → exec .deliver s = .next s) ∧
    (s.Inv → s.arg.n = 0 → (s.die die).slots = [x] → x.seat = s.arg.id → 4096 ≤ x.seat → x.decoded = true → x.missed = none →
      x.env.snode = s.node → x.env.host = false →
      (∀ i, x.env.body = .record i → x.data.length = 64 →
        let k := s.inboxKey i
        let word (j : Nat) : Nat := bytesNat ((x.data.drop (8 * j)).take 8)
        let d0 := memReadN s.mem k 8
        let d3 := memReadN s.mem (k + 24) 8
        let home := d0 % 8192
        let next := d3 / 65536 % 65536
        let wait := BitVec.ofNat 64 (memReadN s.mem (k + 8) 8)
        let rec' := BitVec.ofNat 64 (memReadN s.mem (k + 16) 8) + BitVec.ofNat 64 (64 * next)
        let armed := d0 / 2 ^ 63 % 2 = 1 ∧ d0 / 2 ^ 62 % 2 = 1
        (i = 0 → ∃ t, exec .deliver s = .next t ∧ t.mem = s.mem ∧ t.ctxs = s.ctxs ∧ (t.die die).slots = [] ∧
          t.Due s.cycle .launchHeaderAccept
            { words := (List.range 8).map fun j => BitVec.ofNat 64 (word j), sender := .ctx x.env.acc.who }) ∧
        (i ≠ 0 → ¬ (armed ∧ s.dword home rec' = 0) → ∃ t y, exec .deliver s = .next t ∧ t.mem = s.mem ∧ t.ctxs = s.ctxs ∧
          (t.die die).slots = [y] ∧ y = { x with stay := y.stay } ∧ y.stay ≠ none ∧ (x.stay ≠ none → y = x) ∧
          t.Due (s.cycle + 1) .deliver { die := die, id := x.seat }) ∧
        ∀ p q, i ≠ 0 → armed → s.dword home rec' = 0 → k + 32 ≤ 2 ^ 47 → p % 64 = 0 → (q + 8 ≤ p ∨ p + 64 ≤ q) →
          (∀ j, j < 8 → s.CellAt home (rec' + BitVec.ofNat 64 (8 * j)) (p + 8 * j)) → s.CellAt home (wait + 8) q →
          (s.arg.slot = true ∨ (s.bankFrom k ≤ s.cycle ∧ s.bankFrom q ≤ s.cycle ∧ ∀ j, j < 8 → s.bankFrom (p + 8 * j) ≤ s.cycle)) →
          cellSt (word 1) = 0 → cellSt (memReadN s.mem q 8) = 0 →
          ∃ t tag, exec .deliver s = .next t ∧ (t.die die).slots = [] ∧
            (∀ j, j < 8 → j ≠ 1 → memReadN t.mem (p + 8 * j) 8 = if j = 0 then word 0 / 65536 * 65536 + d0 / 2 ^ 32 % 65536 else word j) ∧
            Spec.cellIs (memReadN t.mem (p + 8) 8) 1 tag (s.norm home (wait + 8)) ∧
            Spec.cellIs (memReadN t.mem q 8) 1 tag (s.norm home (rec' + 8)) ∧
            memReadN t.mem k 8 = d0 - 2 ^ 62 ∧
            memReadN t.mem (k + 24) 8 / 65536 % 65536 = (next + 1) % (if d3 % 65536 = 0 then 65536 else d3 % 65536) ∧
            ∃ e ∈ t.agenda, e.due = s.cycle ∧ e.ev = .pairPushArrive ∧ e.arg.core = home ∧ e.arg.n = 1 ∧
              e.arg.item.a = s.norm home rec' ∧ e.arg.item.b = s.norm home wait) ∧
      ∀ (a : Word) k, x.env.body = .write a → x.data ≠ [] → x.data.length ≤ 64 - a.toNat % 64 →
        s.enter x.env.acc.who.core x.env.acc.staff 0 a x.data.length .store 1 = .go k s → isSlateKey k = true →
        s.Quiet k x.data.length → s.spanFault x.env.acc.who.core x.env.acc.staff ⟨a, x.data.length, true⟩ = none →
        (s.arg.slot = true ∨ (s.bankFrom k ≤ s.cycle ∧ s.bankFrom (k + x.data.length - 1) ≤ s.cycle)) →
        k % 65536 + x.data.length ≤ 65536 →
        ∃ t, exec .deliver s = .next t ∧ t.ctxs = s.ctxs ∧ (t.die die).slots = [] ∧ s.SameBytesBut t k x.data.length ∧
          ∀ (j : Nat) (h : j < x.data.length), memRead t.mem (k + j) = x.data[j])

/-! ## Launches -/

/-- R51, R52, R64, R141 and R398: a refused header changes nothing, and LAUNCH_REFUSED names its lowest reason and its sender; an
accepted sweep re-stitches its rectangle and sets its route tag where it says so, and its wake reaches each selected core 8 cycles
and one for each column and row later, 12 more for each die boundary. -/
def Claims.LaunchHeaders : Prop :=
  ∀ (s : State),
    let w := s.arg.words
    let f (i hi lo : Nat) : Nat := bits (w.getD i 0).toNat hi lo
    (∀ r, Spec.refuses s w r → (∀ q, q < r → ¬ Spec.refuses s w q) → ∃ t, exec .launchHeaderAccept s = .next t ∧ t.ctxs = s.ctxs ∧
      t.cores = s.cores ∧ t.octets = s.octets ∧ t.dies = s.dies ∧ t.mem = s.mem ∧
      (let c : CtxId := match s.arg.sender with
        | .ctx c => c
        | _ => ⟨0, 0⟩
       let node := match s.arg.sender with
        | .node n => n
        | _ => s.node
       let away := match s.arg.sender with
        | .ctx _ => 0
        | _ => 1
       s.Sent t 20 .noticeArrive
         { die := 0, notice := { kind := 0x0F, core := c.core, ctx := c.ctx, value := w.getD 0 0
                                 word := BitVec.ofNat 64 (r + away * 2 ^ 8 + node % 4096 * 2 ^ 12) } })) ∧
    ((∀ r, ¬ Spec.refuses s w r) → f 0 63 62 = 0 → ∃ t id, exec .launchHeaderAccept s = .next t ∧ t.ctxs = s.ctxs ∧
      t.octets = s.octets ∧ t.mem = s.mem ∧
      (∀ k, Spec.selects w k → t.Due (s.cycle + 8 + devCol k + devRow k + 12 * (dieOf k % 2 + dieOf k / 2)) .launchWake
        { core := k, id := id, words := w }) ∧
      (∀ k, (Spec.selects w k ∧ f 0 50 50 = 1 → t.coreAt k = { s.coreAt k with
          stitch := { shape := f 7 60 59, col := f 1 63 57 % 48, row := f 1 56 50 % 40, ncols := f 1 49 43, nrows := f 1 42 36
                      launch := id } }) ∧
        (¬ (Spec.selects w k ∧ f 0 50 50 = 1) → t.coreAt k = s.coreAt k)) ∧
      (f 0 52 52 = 0 → t.dies = s.dies) ∧
      (f 0 52 52 = 1 → (rd (t.die (f 1 56 50 / 40 * 2 + f 1 63 57 / 48)).tags (f 6 63 61) {}).cfg = BitVec.ofNat 64
        (f 1 63 57 % 48 * 2 ^ 56 + f 1 56 50 % 40 * 2 ^ 50 + f 1 49 43 * 2 ^ 44 + f 1 42 36 * 2 ^ 38 + f 6 60 45 * 2 ^ 22))) ∧
    ∀ k, s.Inv → (∀ r, ¬ Spec.refuses s w r) → f 0 63 62 = 1 → f 0 50 50 = 0 → f 0 52 52 = 0 →
      s.cellKey (coreAtDev (f 1 56 50) (f 1 63 57)) (w.getD 4 0 + 56) = some k → isSlateKey k = true → k % 8 = 0 →
      memReadN s.mem k 8 = 0 →
      ∃ t id, exec .launchHeaderAccept s = .next t ∧ t.ctxs = s.ctxs ∧ t.cores = s.cores ∧
        (∀ c, Spec.selects w c → t.Due (s.cycle + 8 + devCol c + devRow c + 12 * (dieOf c % 2 + dieOf c / 2)) .launchWake
          { core := c, id := id, words := w }) ∧
        let base := bits s.netTable.toNat 47 19 * 2 ^ 19
        (base ≠ 0 → memReadN t.mem (base + 8 * f 0 15 0) 8 = (w.getD 4 0).toNat ∧ s.SameBytesBut t (base + 8 * f 0 15 0) 8) ∧
        (base = 0 → t.mem = s.mem)

/-- R50, R51, R53, R54, R60 and R399: a sweep's wake starts the gated contexts of its mask with the entry, s1 and the identifier of
their rank, whose digits are the levels of the work; it begins the save of one in rotation below its priority; for any other it
writes a ready entry of the core's cloakroom. In a buddy launch the two contexts of a pair name each other, and the right-hand one
runs its partner's share. A net's wake pushes the core's share of the initial pairs. -/
def Claims.LaunchWakes : Prop :=
  ∀ (s : State),
    let w := s.arg.words
    let f (i hi lo : Nat) : Nat := bits (w.getD i 0).toNat hi lo
    let core := s.arg.core
    let prio := f 0 61 54
    let nf := f 2 63 61
    let base (i : Nat) : Nat := ((List.range i).map (Spec.fieldWidth w)).sum
    let levels (i : Nat) : Nat := ((List.range i).map (Spec.extent w)).prod
    let own := if f 0 53 53 = 1 ∧ devCol core % 2 = 1 ∧ hdrHas w (core - 1) = true then core - 1 else core
    let other := if devCol core % 2 = 0 then core + 1 else core - 1
    let paired := f 0 53 53 = 1 ∧ hdrHas w other = true
    let share (j : Nat) (v : Word) : Prop := ∀ i, i < nf → v.toNat / 2 ^ base i % 2 ^ Spec.fieldWidth w i =
      j / levels i % (if i + 1 = nf then 2 ^ Spec.fieldWidth w i else Spec.extent w i)
    (core < 7680 → f 0 63 62 = 0 → 1 ≤ nf → nf ≤ 6 → base nf ≤ 64 → (∀ i, i + 1 < nf → Spec.extent w i ≤ 2 ^ Spec.fieldWidth w i) →
      ∃ t, exec .launchWake s = .next t ∧ t.mem = s.mem ∧
        ∀ k, k < 16 →
          let c : CtxId := ⟨core, k⟩
          let x := s.ctx c
          let restoring := x.starting = true ∧ x.builtin = none ∧ ∃ i, x.wait = .hold i
          let room := x.life = .active ∧ s.isSaving c = false ∧ ¬ restoring ∧ x.prio < prio
          let mine (y : Ctx) : Prop := y.launch = some (hdrTag w s.arg.id) ∧ y.run = launchRun s.arg.id core k ∧
            share (Spec.rank w own k) y.wid ∧ (¬ paired → y.buddy = none) ∧
            (paired → ∃ b, y.buddy = some b ∧ b.even = decide (devCol core % 2 = 0) ∧ b.partner = ⟨other, k⟩ ∧
              b.prun = launchRun s.arg.id other k)
          (f 0 47 32 / 2 ^ k % 2 = 0 → t.ctx c = x) ∧
          (f 0 47 32 / 2 ^ k % 2 = 1 →
            (x.life = .gated →
              Ctx.Started { t.ctx c with buddy := none } (w.getD 4 0) (w.getD 5 0) prio (s.cycle + 2) ∧ mine (t.ctx c)) ∧
            (room → t.ctx c = x ∧ t.isSaving c = true ∧ t.Due s.cycle .contextSaveEnd { c := c, run := x.run } ∧
              ∃ v ∈ (t.octet (octetOf core)).saves, v.core = core ∧ v.ctx = k ∧ v.run = x.run ∧
                ∃ y, v.after = .sweep y ∧ Ctx.Started { y with buddy := none } (w.getD 4 0) (w.getD 5 0) prio 0 ∧ mine y) ∧
            (x.life ≠ .gated → ¬ room → t.ctx c = x ∧ ∃ e ∈ (t.octet (octetOf core)).cloak, e.core = core ∧ e.prio = prio ∧
              e.kind = 0 ∧ e.ready = true ∧ e.c.pc = w.getD 4 0 ∧ e.c.sFull = 0xFFFFFFFF ∧ e.c.waitLimit = 0x100000 ∧
              mine e.c ∧ ∀ j, j < 32 → rd e.c.s j 0 = if j = 1 then w.getD 5 0 else 0))) ∧
    (f 0 63 62 = 1 →
      let d := w.getD 4 0
      let list := BitVec.ofNat 64 (s.dword core (d + 32))
      let n := s.dword core (d + 40) % 2 ^ 32
      let h := (List.range core).countP fun j => hdrHas w j
      let H := (List.range 7680).countP fun j => hdrHas w j
      (n ≤ h → exec .launchWake s = .next s) ∧
      (h < n → n ≤ h + H → (s.coreAt core).deque.length < 64 → ∃ t q, exec .launchWake s = .next t ∧ t.ctxs = s.ctxs ∧ t.mem = s.mem ∧
        (t.coreAt core).deque = q :: (s.coreAt core).deque ∧
        let a := list + BitVec.ofNat 64 (16 * h)
        let addr (v : Nat) : Word := BitVec.ofNat 64 (v / 2 ^ 39 % 4096 * 2 ^ 48 + v % 2 ^ 39 * 32)
        q.prio = s.dword core a / 2 ^ 56 % 256 ∧ q.a = addr (s.dword core a) ∧ q.b = addr (s.dword core (a + 8)) ∧ q.since = s.cycle))

/-! ## The host and the Prefect -/

/-- R21, R114, R146, R152 and R373: the host's accesses follow each other. Reads of BAR 0 return zeros; a whole write of a doorbell
whose inbox is valid and takes the host becomes a record for it, with a seat and a sequence of the host link, and one whose inbox
does not is dropped and counted; a write below dword 7 is kept until it comes. BAR 2 reads and writes device memory, at the die of
its bank. -/
def Claims.HostAccesses : Prop :=
  ∀ (s : State),
    let waits (i : Instr) : Prop := exec i s = .next { s with hostQueue := s.hostQueue ++ [{ ev := i, arg := s.arg }] }
    (s.arg.n = 0 → s.hostQueue ≠ [] → waits .hostDoorbellWrite ∧ waits .hostBar2Access) ∧
    (∀ p n, s.arg.host = .read p n → s.arg.n = 0 → s.hostQueue = [] →
      exec .hostDoorbellWrite s = .next { s with hostOut := s.hostOut ++ [(s.arg.id, List.replicate n 0)] }) ∧
    (∀ i bs, s.arg.host = .write (64 * i) bs → bs.length = 64 → i < 4096 → s.arg.n = 0 → s.hostQueue = [] →
      let d0 := memReadN s.mem (s.inboxKey i) 8
      (d0 / 2 ^ 63 % 2 = 1 ∧ d0 / 2 ^ 61 % 2 = 1 → ∃ t, exec .hostDoorbellWrite s = .next t ∧ t.ctxs = s.ctxs ∧ t.mem = s.mem ∧
        t.dies = s.dies ∧ t.Due s.cycle .seatRequest { n := 7, frag := { data := bs }
                                                       env := { dnode := s.node, host := true, body := .record i, sender := .host } }) ∧
      (¬ (d0 / 2 ^ 63 % 2 = 1 ∧ d0 / 2 ^ 61 % 2 = 1) → ∃ t, exec .hostDoorbellWrite s = .next t ∧ t.ctxs = s.ctxs ∧ t.mem = s.mem ∧
        t.dies = s.dies ∧ t.agenda = s.agenda ∧ t.prefect.dropped = s.prefect.dropped + 1)) ∧
    (∀ i, s.arg.n = 7 → s.arg.env = { dnode := s.node, host := true, body := .record i, sender := .host } →
      let q := s.hostSide s.node 0
      (∀ seat rest, q.idle = seat :: rest → ∃ t y, exec .seatRequest s = .next t ∧ t.ctxs = s.ctxs ∧ t.mem = s.mem ∧
        (t.die 0).slots = (s.die 0).slots ++ [y] ∧ y.decoded = true ∧ y.data = s.arg.frag.data ∧ y.env.body = .record i ∧
        y.env.host = true ∧ y.env.cls = 0 ∧ y.seat = seat ∧ y.env.seq = q.seq ∧ (t.hostSide s.node 0).idle = rest ∧
        (t.hostSide s.node 0).seq = (q.seq + 1) % 2 ^ 32 ∧ s.Sent t 0 .deliver { die := 0, id := seat }) ∧
      (q.idle = [] → 64 ≤ q.busy.length → exec .seatRequest s = .next (s.post (s.cycle + 1) .seatRequest s.arg))) ∧
    (∀ i j bs, s.arg.host = .write (64 * i + 8 * j) bs → bs.length = 8 → j < 7 → i < 4096 → s.arg.n = 0 → s.hostQueue = [] →
      ∃ t, exec .hostDoorbellWrite s = .next t ∧ t = { s with doorbells := t.doorbells } ∧
        ∀ m, m < 8 → dbDword (t.doorbells.get i []) m =
          if m = j then BitVec.ofNat 64 (bytesNat bs) else dbDword (s.doorbells.get i []) m) ∧
    let far (p : Nat) : Nat := p / 2 ^ 38
    let reached (p n : Nat) : Prop := p < 2 ^ 40 ∧ p + n ≤ 2 ^ 40 ∧
      (s.arg.n = 1 ∨ (far p = 0 ∧ (s.arg.n = 4 ∨ (s.arg.n = 0 ∧ s.hostQueue = [])))) ∧
      (s.arg.slot = true ∨ ∀ i, i < n → s.bankFrom (p + i) ≤ s.cycle)
    (∀ p n, s.arg.host = .read p n → p < 2 ^ 40 → p + n ≤ 2 ^ 40 → 0 < far p → s.arg.n = 4 ∨ (s.arg.n = 0 ∧ s.hostQueue = []) → ∃ t lat,
      exec .hostBar2Access s = .next t ∧ t.ctxs = s.ctxs ∧ t.mem = s.mem ∧ 24 * crossings 0 (far p) ≤ lat ∧
      s.Carries t 0 (far p) false 16 lat .hostBar2Access { s.arg with n := 1 }) ∧
    (∀ p bs, s.arg.host = .write p bs → p < 2 ^ 40 → p + bs.length ≤ 2 ^ 40 → 0 < far p → s.arg.n = 4 ∨ (s.arg.n = 0 ∧ s.hostQueue = []) → ∃ t lat,
      exec .hostBar2Access s = .next t ∧ t.ctxs = s.ctxs ∧ t.mem = s.mem ∧ 24 * crossings 0 (far p) ≤ lat ∧
      s.Carries t 0 (far p) false (16 + bs.length) lat .hostBar2Access { s.arg with n := 1 }) ∧
    (∀ p bs, s.arg.host = .write p bs → s.arg.n = 2 →
      exec .hostBar2Access s = .next { s with hostOut := s.hostOut ++ [(s.arg.id, bs)] }) ∧
    (∀ p n, s.arg.host = .read p n → reached p n → s.latent = [] → s.isPoisoned p n = false →
      let bytes := (List.range n).map fun i => memRead s.mem (p + i)
      ∃ t, exec .hostBar2Access s = .next t ∧ t.ctxs = s.ctxs ∧ t.mem = s.mem ∧ t.hostQueue = s.hostQueue.drop 1 ∧
        (far p = 0 → t.hostOut = s.hostOut ++ [(s.arg.id, bytes)]) ∧
        (0 < far p → ∃ lat, 24 * crossings (far p) 0 ≤ lat ∧
          s.Carries t (far p) 0 false (16 + n) lat .hostBar2Access { id := s.arg.id, n := 2, host := .write p bytes })) ∧
    ∀ p bs, s.arg.host = .write p bs → s.Inv → reached p bs.length → bs ≠ [] →
      ∃ t, exec .hostBar2Access s = .next t ∧ t.ctxs = s.ctxs ∧ s.SameBytesBut t p bs.length ∧ t.hostQueue = s.hostQueue.drop 1 ∧
        (∀ (j : Nat) (h : j < bs.length), memRead t.mem (p + j) = bs[j]) ∧
        ∀ i ∈ s.watchHits p bs.length, s.Sent t 20 .noticeArrive
          { die := physDie p, notice := { kind := 0x05, die := physDie p, value := BitVec.ofNat 64 p, word := 0x1000 } }

/-- R158, R159, R160 to R162, R334, R401 and R402: the Prefect's own steps: LINK_RETRAINED; the writes of its registers, where a
rectangle changes only while no context runs that it moves, and a staff octet at the next reset; the pass counts of a sample; an
update's staged image; and its answers to requests. -/
def Claims.PrefectSteps : Prop :=
  ∀ (s : State),
    let f := s.prefect
    let n := s.arg.n
    (∃ t, exec .linkRetrained s = .next t ∧ s.Sent t 20 .noticeArrive
      { die := s.arg.die, notice := { kind := 0x07, die := s.arg.die, value := BitVec.ofNat 64 n } }) ∧
    (n = 0x130 → exec .prefectRegisterWrite s = .next (s.post s.cycle .passCountWrite { die := s.arg.die, v := s.arg.v })) ∧
    (0x140 ≤ n → n < 0x150 →
      let v := s.arg.v &&& 0xFFFFFFF800000000
      let r := wr s.partRect (n - 0x140) v
      let free := ∀ k, k < 7680 → s.partOf k ≠ ({ s with partRect := r } : State).partOf k →
        ∀ i, 0 < i → i < 16 → (s.ctx ⟨k, i⟩).life ≠ .active
      (free → exec .prefectRegisterWrite s = .next { s with partRect := r }) ∧
      (¬ free → ∃ t, exec .prefectRegisterWrite s = .next t ∧ t = { s with prefect := t.prefect } ∧
        (f.log.length < 4096 → t.prefect.log = f.log ++ [(s.cycle, s.arg.die, n)]))) ∧
    (n = 0x132 → s.arg.v.toNat % 256 < 240 →
      exec .prefectRegisterWrite s = .next { s with prefect := { f with cfgPlace := f.cfgPlace.set s.arg.die (s.arg.v.toNat % 256) } }) ∧
    (f.good.length = 4 → f.cfgPass.length = 4 → ∃ t, exec .sensorSample s = .next t ∧ t.ctxs = s.ctxs ∧ t.dies = s.dies ∧ t.mem = s.mem ∧
      ∀ d, d < 4 →
        let x := s.arg.sample
        let count := (s.die d).passCount
        let high := 3600 < x.power ∨ x.hot.getD d false = true
        let low := x.power ≤ 3420 ∧ x.cool.getD d false = true
        (high → 24 < count → t.Due s.cycle .passCountWrite { die := d, v := BitVec.ofNat 64 (max 24 (count - 8)) }) ∧
        (low → t.prefect.good.getD d 0 = f.good.getD d 0 + 1) ∧ (¬ low → t.prefect.good.getD d 0 = 0) ∧
        (¬ high → low → 99 ≤ f.good.getD d 0 → count < f.cfgPass.getD d 216 →
          t.Due s.cycle .passCountWrite { die := d, v := BitVec.ofNat 64 (min (f.cfgPass.getD d 216) (count + 8)) })) ∧
    (let u := s.arg.fw
     ∃ t, exec .firmwareUpdateWrite s = .next t ∧ t = { s with prefect := { f with staged := t.prefect.staged } } ∧
      (∀ i, i < 3 → i ≠ fwIndex u.kind → rd t.prefect.staged i none = rd f.staged i none) ∧
      rd t.prefect.staged (fwIndex u.kind) none = if u.last = true then some u.image else none) ∧
    let q := s.arg.spdm
    let answers (l : List (Nat × List (List Byte))) : Prop :=
      exec .spdmRequest s = .next { s with prefect := { f with answers := f.answers ++ l } }
    let error (k : Nat) : Prop := answers [(0x7F, [[BitVec.ofNat 8 k]])]
    (f.held = 2 → error 0x03) ∧
    (f.held = 1 → q.mctp = false → exec .spdmRequest s = .next s) ∧
    (∀ i, f.held = 1 → q.mctp = true → q.code = .getMeasurements i →
      let d := sha256 (((rd f.active 0 none).map (·.bytes)).getD [])
      answers [(0x60, [d, Config.signature d])]) ∧
    (f.held = 0 →
      (q.code = .getVersion → answers [(0x04, [[0x13]])]) ∧
      (q.code = .keyExchange ∨ q.code = .pskExchange → error 0x07) ∧
      (q.code ≠ .getVersion → q.code ≠ .keyExchange → q.code ≠ .pskExchange → q.v13 = false → error 0x41) ∧
      ∀ i, q.code = .getMeasurements i → q.v13 = true →
        (i = 0 ∨ (5 < i ∧ i ≠ 0xFF) → error 0x01) ∧
        (1 ≤ i → i ≤ 4 → answers [(0x60, [f.measures.getD (i - 1) [], Config.signature (f.measures.getD (i - 1) [])])]) ∧
        (i = 5 → answers [(0x60, [natBytes f.version 4, Config.signature (natBytes f.version 4)])]))

/-! ## Resets (R155 to R157, R163, R386, R395) -/

/-- R89, R155 to R157, R160 and R163: after a power-on or device reset with images that pass, each homeroom is at its die's entry, each
other context is gated, the cores, octets and dies are as reset leaves them, with pass j at octet j, device memory holds the image and
the boot records alone, and host memory is as before; the images' digests are measured, and a device reset keeps the Prefect's log. An
image that does not pass holds the device. -/
def Claims.DeviceResets : Prop :=
  ∀ (s : State), s.Inv →
    let f := s.prefect
    let m := (rd f.active 2 none).getD {}
    (∀ i, i < 3 → rd f.staged i none = none) → (∀ c ∈ m.cells, c.1 < 2 ^ 40) →
    ∀ i, i = Instr.powerOnReset ∨ i = Instr.deviceReset → ∃ t, exec i s = .next t ∧ t.Inv ∧ t.cycle = s.cycle + 1 ∧
      (i = .powerOnReset → t.prefect.boots = 1) ∧ (i = .deviceReset → t.prefect.boots = f.boots + 1) ∧
      t.prefect.active = f.active ∧ t.prefect.version = f.version ∧
      (∀ j, j < 3 → t.prefect.measures.getD j [] = sha256 (((rd f.active j none).map (·.bytes)).getD [])) ∧
      (i = .deviceReset → f.runs 1 = true → t.prefect.log = f.log) ∧
      (∀ a, isHostKey a = true → memRead t.mem a = memRead s.mem a) ∧
      (f.runs 0 = false → t.prefect.held = 1) ∧ (f.runs 0 = true → f.runs 1 = false → t.prefect.held = 2) ∧
      (f.runs 0 = true → f.runs 1 = true → t.prefect.held = 0 ∧
        (∀ k, k < 7680 → t.ctx ⟨k, 0⟩ =
          { Ctx.initial ⟨k, 0⟩ with pc := if t.isStaffCore k then m.staffPc else m.homePc }) ∧
        (∀ k i, k < 7680 → 0 < i → i < 16 → t.ctx ⟨k, i⟩ = {}) ∧ (∀ k, t.coreAt k = Core.initial k) ∧ (∀ o, t.octet o = {}) ∧
        (∀ d, d < 4 → t.Record d ∧
          let n := min 240 (f.cfgPass.getD d 216)
          t.die d = { Die.initial d with passCount := n, ring := (t.die d).ring, staffPlace := f.cfgPlace.getD d 0, ports := (s.die d).ports } ∧
          (t.die d).ring.map t.passAt = List.range n) ∧
        (∀ a, isSlateKey a = true → memRead t.mem a = 0) ∧ t.empty = [] ∧
        rd t.partPtb 0 0 = m.ptb0 &&& 0x0000FFFFFFFFF000 ∧
        ∀ a, a < 2 ^ 40 → (∀ c ∈ m.cells, c.1 ≠ a) → (∀ d, d < 4 → a < d * 2 ^ 38 ∨ d * 2 ^ 38 + 64 ≤ a) → memRead t.mem a = 0)

/-- R89, R156, R163, R386 and R395, where nothing is under way: after a die reset the die's homerooms are at its entry, its other contexts
gated, its cores as reset leaves them and its slates zero and full with their next generations; its pass ring is whole; DIE_RESET
is on its way to every other die; and the other dies' contexts, and device memory but for the image and the die's boot record, are as
before. -/
def Claims.DieResets : Prop :=
  ∀ (s : State), s.Inv →
    let die := s.arg.die
    let m := (rd s.prefect.active 2 none).getD {}
    die < 4 → s.prefect.runtimeOk = true → (∀ c ∈ m.cells, c.1 < 2 ^ 40) → s.agenda = [] → s.packets = [] → s.octets = [] →
    s.parked = [] → (s.die die).passCount ≤ 240 →
    (s.ctxs.map (·.1)).Pairwise (· < ·) →
    s.sleepers = [] → s.cellWaits = [] → s.cuts = [] → (s.die die).slots = [] → (∀ p ∈ s.cores, p.2.fwd = [] ∧ p.2.cuts = []) →
    ∃ t, exec .dieReset s = .next t ∧
      (∀ k, k < 7680 → dieOf k = die →
        (t.ctx ⟨k, 0⟩).life = .active ∧ (t.ctx ⟨k, 0⟩).pc = (if t.isStaffCore k then m.staffPc else m.homePc) ∧
        (∀ i, 0 < i → i < 16 → t.ctx ⟨k, i⟩ = {}) ∧ t.coreAt k = Core.initial k) ∧
      (∀ k i, k < 7680 → i < 16 → dieOf k ≠ die → t.ctx ⟨k, i⟩ = s.ctx ⟨k, i⟩) ∧
      (∀ o, o < 960 → octetDie o = die → (t.octet o).gens = ((s.octet o).gens.map (· + 1)) ∧ (t.octet o).ops = []) ∧
      (∀ a, isSlateKey a = true → octetDie (keyOctet a) = die → memRead t.mem a = 0 ∧ t.full a = true) ∧
      t.Record die ∧ t.prefect.boots = s.prefect.boots + 1 ∧
      (t.die die).passCount = (s.die die).passCount ∧ (t.die die).ring.map t.passAt = List.range (s.die die).passCount ∧
      (∀ d, d < 4 → d ≠ die → s.Sent t (20 + 24 * crossings die d) .noticeArrive
        { die := d, notice := { kind := 0x08, die := die, value := BitVec.ofNat 64 die } }) ∧
      ∀ a, a < 2 ^ 40 → (∀ c ∈ m.cells, c.1 ≠ a) → (a < die * 2 ^ 38 ∨ die * 2 ^ 38 + 64 ≤ a) → memRead t.mem a = memRead s.mem a

/-! ## Buddies (R399, R400) -/

/-- R399 and R400: a comparison waits until both contexts have come to it and nothing is outstanding into them; where their
fingerprints agree each writes its layout to its checkpoint, and where they differ both go on from their checkpoints without the
stores since; the third disagreement stops both with 0x38, and a checkpoint that faults stops both with its cause. -/
def Claims.BuddyComparisons : Prop :=
  ∀ (s : State) (d : CtxId) (b e : Buddy),
    let c := s.arg.c
    let x := s.ctx c
    let y := s.ctx d
    x.buddy = some b → b.partner = d → y.run = b.prun → y.life ≠ .gated → y.buddy = some e → c.key ≠ d.key →
    (b.waits = false ∨ e.waits = false → exec .buddyCompare s = .next s) ∧
    (b.waits = true → e.waits = true →
      let still (z : Ctx) : Prop := z.lateOut = 0 ∧ ((z.plain = .none ∧ z.relaxed = 0) ∨ ∃ g, z.buddy = some g ∧ g.even = false ∧ g.opened ≠ [])
      (¬ (still x ∧ still y) → exec .buddyCompare s = .next (s.post (s.cycle + 1) .buddyCompare s.arg)) ∧
      (still x → still y →
        let anew (z : Ctx) (g : Buddy) (bad : Nat) : Ctx :=
          { z with buddy := some { even := g.even, partner := g.partner, prun := g.prun, bad := bad, passed := true }
                   readyAt := max z.readyAt (s.cycle + 1) }
        (∀ p q, s.Inv → b.fingerprint = e.fingerprint → s.checkpoint c .store = .ok p → s.checkpoint d .store = .ok q →
          (p + 0x540 ≤ q ∨ q + 0x540 ≤ p) → s.Quiet p 0x540 → s.Quiet q 0x540 → b.buf = [] → ∃ t, exec .buddyCompare s = .next t ∧
            (∀ j, j < 0x540 → memRead t.mem (p + j) = (s.layout c).getD j 0 ∧ memRead t.mem (q + j) = (s.layout d).getD j 0) ∧
            (∀ a, (a < p ∨ p + 0x540 ≤ a) → (a < q ∨ q + 0x540 ≤ a) → memRead t.mem a = memRead s.mem a) ∧
            t.ctx c = anew x b 0 ∧ t.ctx d = anew y e 0 ∧
            ∀ k : CtxId, k.key ≠ c.key → k.key ≠ d.key → t.ctx k = s.ctx k) ∧
        (∀ p q, b.fingerprint ≠ e.fingerprint → s.checkpoint c .load = .ok p → s.checkpoint d .load = .ok q →
          let xr := anew (x.ofLayout (memReadL s.mem p 0x540)) b (b.bad + 1)
          let yr := anew (y.ofLayout (memReadL s.mem q 0x540)) e (e.bad + 1)
          (b.bad < 2 → ∃ t, exec .buddyCompare s = .next t ∧ t.mem = s.mem ∧ t.ctx c = xr ∧ t.ctx d = yr) ∧
          (2 ≤ b.bad → ∃ t, exec .buddyCompare s = .next t ∧ t.mem = s.mem ∧ (t.ctx c).life = .trapped ∧ (t.ctx d).life = .trapped ∧
            (t.ctx c).frec = { cause := 0x38, pc := xr.pc, addr := 0, word := BitVec.ofNat 64 (s.dword c.core xr.pc), ctx := c.ctx } ∧
            (t.ctx d).frec = { cause := 0x38, pc := yr.pc, addr := 0, word := BitVec.ofNat 64 (s.dword d.core yr.pc), ctx := d.ctx } ∧
            (t.ctx c).s = xr.s ∧ (t.ctx d).s = yr.s)) ∧
        ∀ k, b.fingerprint = e.fingerprint → s.checkpoint c .store = .error k → ∃ t, exec .buddyCompare s = .next t ∧ t.mem = s.mem ∧
          (t.ctx c).life = .trapped ∧ (t.ctx d).life = .trapped ∧ (t.ctx c).frec.cause = k ∧ (t.ctx d).frec.cause = k))

/-! ## The statements of several instructions or steps together -/

/-- Decoding an encoded instruction gives it back: `Claims.DecodeOfEncode`, `Claims.DrainDecodeOfEncode`. -/
def Obligations.DecodeOfEncode : Prop := Claims.DecodeOfEncode ∧ Claims.DrainDecodeOfEncode

/-- Branches, jumps, LOOP, RDCYC, NOP and the branches on streams: `Claims.ControlResults`, `Claims.StreamBranches`. -/
def Obligations.ControlResults : Prop := Claims.ControlResults ∧ Claims.StreamBranches

/-- END, PAUSE and FENCE: `Claims.EndFinishes`, `Claims.PauseAndFence`. -/
def Obligations.EndsAndPauses : Prop := Claims.EndFinishes ∧ Claims.PauseAndFence

/-- Loads, stores, atomics and full/empty operations issue: `Claims.MemoryIssues`, `Claims.FullEmptyIssues`. -/
def Obligations.MemoryIssues : Prop := Claims.MemoryIssues ∧ Claims.FullEmptyIssues

/-- Loads and stores at their banks: `Claims.LoadsAtBanks`, `Claims.StoresAtBanks`. -/
def Obligations.LoadsAndStoresAtBanks : Prop := Claims.LoadsAtBanks ∧ Claims.StoresAtBanks

/-- Replies, acknowledgements and refusals: `Claims.RepliesEndAccesses`, `Claims.RefusalsStopContexts`. -/
def Obligations.EndsOfAccesses : Prop := Claims.RepliesEndAccesses ∧ Claims.RefusalsStopContexts

/-- Lane-wise arithmetic and its flags: `Claims.VectorArithmetic`, `Claims.LateVectorArithmetic`. -/
def Obligations.VectorArithmetic : Prop := Claims.VectorArithmetic ∧ Claims.LateVectorArithmetic

/-- Reductions, scans, packs and Tint: `Claims.ReductionsAndPacks`, `Claims.IntegerReductions`, `Claims.TintPack`. -/
def Obligations.Reductions : Prop := Claims.ReductionsAndPacks ∧ Claims.IntegerReductions ∧ Claims.TintPack

/-- GSEL and HSIFT: `Claims.ExpertSelection`, `Claims.HeapSiftIssues`. -/
def Obligations.Experts : Prop := Claims.ExpertSelection ∧ Claims.HeapSiftIssues

/-- Claims, counts and mailboxes: `Claims.StreamClaims`, `Claims.StreamCounts`, `Claims.MailboxResults`. -/
def Obligations.StreamRegisters : Prop := Claims.StreamClaims ∧ Claims.StreamCounts ∧ Claims.MailboxResults

/-- STBIND and the engine of a bound stream: `Claims.StreamBinding`, `Claims.StreamMoves`. -/
def Obligations.StreamEngines : Prop := Claims.StreamBinding ∧ Claims.StreamMoves

/-- CPY and CPYR, from issue to the last piece: `Claims.CopyIssues`, `Claims.CopyPieces`. -/
def Obligations.Copies : Prop := Claims.CopyIssues ∧ Claims.CopyPieces

/-- Completion words and CWAIT: `Claims.CompletionIncrements`, `Claims.CompletionWaits`. -/
def Obligations.CompletionWords : Prop := Claims.CompletionIncrements ∧ Claims.CompletionWaits

/-- The slate map and the transfers of slates: `Claims.SlateMap`, `Claims.SlateTransfers`, `Claims.SlateInstalls`. -/
def Obligations.Slates : Prop := Claims.SlateMap ∧ Claims.SlateTransfers ∧ Claims.SlateInstalls

/-- Walks, misses and the wakes of PAGE_MAPPED: `Claims.Walks`, `Claims.PageWakes`. -/
def Obligations.Translation : Prop := Claims.Walks ∧ Claims.PageWakes

/-- Notices in their ring; timed re-tries: `Claims.NoticeRecords`, `Claims.TimedRetries`. -/
def Obligations.NoticesAndRetries : Prop := Claims.NoticeRecords ∧ Claims.TimedRetries

/-- Commands of the matrix unit issue: `Claims.MxuIssues`, `Claims.MatxIssues`. -/
def Obligations.MatrixIssues : Prop := Claims.MxuIssues ∧ Claims.MatxIssues

/-- Commands of the matrix unit are taken, move and end: `Claims.MxuTakes`, `Claims.TilePieces`, `Claims.TileEnds`. -/
def Obligations.MatrixCommands : Prop := Claims.MxuTakes ∧ Claims.TilePieces ∧ Claims.TileEnds

/-- Passes, the array's grants, and the starts of MATX and of cohorts complete, with what they do: `Claims.PassSteps`,
`Claims.MatxStarts`, `Claims.CohortStarts`. -/
def Obligations.MatrixStarts : Prop := Claims.PassSteps ∧ Claims.MatxStarts ∧ Claims.CohortStarts

/-- The blocks and the sums of MATX: `Claims.MatxSums`. -/
def Obligations.MatrixSums : Prop := Claims.MatxSums

/-- Drains, their stores and the end of MATX: `Claims.DrainSteps`, `Claims.MatxEnds`. -/
def Obligations.Drains : Prop := Claims.DrainSteps ∧ Claims.MatxEnds

/-- Net instructions issue; PUSHP: `Claims.NetIssues`, `Claims.PairPushes`. -/
def Obligations.NetAccesses : Prop := Claims.NetIssues ∧ Claims.PairPushes

/-- Splices and built-in rules: `Claims.SpliceSteps`, `Claims.BuiltinRuns`. -/
def Obligations.NetSteps : Prop := Claims.SpliceSteps ∧ Claims.BuiltinRuns

/-- PARK, WAKE, YIELD, START and REAP: `Claims.ParkWakeYield`, `Claims.Starts`, `Claims.Reaps`. -/
def Obligations.ThreadStates : Prop := Claims.ParkWakeYield ∧ Claims.Starts ∧ Claims.Reaps

/-- Saves, restores, migrations and what follows a context: `Claims.Saves`, `Claims.RestoresAndMigrations`, `Claims.ForwardedReplies`. -/
def Obligations.SavesAndMigrations : Prop := Claims.Saves ∧ Claims.RestoresAndMigrations ∧ Claims.ForwardedReplies

/-- TAKE and its search: `Claims.Takes`. -/
def Obligations.Takes : Prop := Claims.Takes

/-- ARRIVE, WAIT, releases and kicks: `Claims.RollCall`, `Claims.RollCallFlips`. -/
def Obligations.RollCalls : Prop := Claims.RollCall ∧ Claims.RollCallFlips

/-- Deques, blocks, steals and aging: `Claims.PairQueues`, `Claims.StealsAndAging`. -/
def Obligations.PairQueues : Prop := Claims.PairQueues ∧ Claims.StealsAndAging

/-- CSRR and CSRW of every register: `Claims.ControlRegisters`. -/
def Obligations.ControlRegisters : Prop := Claims.ControlRegisters

/-- Writes with effects; CTXRD and CTXWR: `Claims.RegisterWrites`, `Claims.ContextRegisters`. -/
def Obligations.RegisterEffects : Prop := Claims.RegisterWrites ∧ Claims.ContextRegisters

/-- Traps, their records, and returns from them: `Claims.TrapsAndReturns`. -/
def Obligations.TrapsAndReturns : Prop := Claims.TrapsAndReturns

/-- TINV and POST: `Claims.InvalidationAndPost`. -/
def Obligations.InvalidationAndPost : Prop := Claims.InvalidationAndPost

/-- ISOL, UNISOL and CUT: `Claims.Isolation`, `Claims.Cuts`. -/
def Obligations.IsolationAndCuts : Prop := Claims.Isolation ∧ Claims.Cuts

/-- Privileged instructions below their privilege: `Claims.PrivilegeChecks`. -/
def Obligations.PrivilegeChecks : Prop := Claims.PrivilegeChecks

/-- ENQR, MSEND, MBULK, INBOX and MSEAT: `Claims.SendIssues`, `Claims.InboxAndSeats`. -/
def Obligations.MessageSends : Prop := Claims.SendIssues ∧ Claims.InboxAndSeats

/-- Acceptance of messages, seats and leases: `Claims.Acceptance`, `Claims.Seats`. -/
def Obligations.MessageAcceptance : Prop := Claims.Acceptance ∧ Claims.Seats

/-- Fragments, losses and deliveries: `Claims.Fragments`, `Claims.Deliveries`. -/
def Obligations.MessageDelivery : Prop := Claims.Fragments ∧ Claims.Deliveries

/-- Launch headers, refused and accepted, and their wakes: `Claims.LaunchHeaders`, `Claims.LaunchWakes`. -/
def Obligations.Launches : Prop := Claims.LaunchHeaders ∧ Claims.LaunchWakes

/-- The host's accesses and the Prefect's steps: `Claims.HostAccesses`, `Claims.PrefectSteps`. -/
def Obligations.HostAndPrefect : Prop := Claims.HostAccesses ∧ Claims.PrefectSteps

/-- Power-on, device and die resets: `Claims.DeviceResets`, `Claims.DieResets`. -/
def Obligations.Resets : Prop := Claims.DeviceResets ∧ Claims.DieResets

/-- Buddy pairs compare, agree and roll back: `Claims.BuddyComparisons`. -/
def Obligations.BuddyComparisons : Prop := Claims.BuddyComparisons

/-! ## The step -/

/-- Nothing of the device is due before the cores issue. -/
def Claims.Idle (s : State) : Prop := s.pipe = none ∧ ∀ p ∈ s.agenda, p.late = false → s.cycle < p.due

/-- A context is the next in turn: its core is, it is ready with no turn to skip, and no context before it in the rotation is
ready (R45, R46). -/
def Claims.InTurn (s : State) (c : CtxId) (k : Nat) : Prop :=
  s.prefect.held = 0 ∧ s.turn = c.core ∧ c.core < 7680 ∧ s.scan ≤ k ∧ k < 16 ∧ c.ctx = ((s.coreAt c.core).rot + 1 + k) % 16 ∧
  s.isReady c = true ∧ (s.ctx c).skips = 0 ∧
  ∀ j, s.scan ≤ j → j < k → s.isReady ⟨c.core, ((s.coreAt c.core).rot + 1 + j) % 16⟩ = false

/-- R45, R46, R170, R188 and R199: a step at which a context is next in turn runs what its fetch gives: the instruction that the word
decodes to, after which an instruction that did not issue leaves the slot to the next of its core and another ends its core's turn;
a fetch that misses leaves the slot to the next too; a word that decodes to none traps; so does a pc that is misaligned. The model
runs a core a step (DESIGN CHOICE, assumption log 1). -/
def Obligations.StepRunsDecoded : Prop :=
  ∀ (s : State) (c : CtxId) (k : Nat), Claims.Idle s → Claims.InTurn s c k →
    let s' : State := { s with turn := c.core, scan := k, who := c }
    (∀ w t i, s'.fetch c = .word w t → decode w = .ok i → (t.ctx c).buddy = none →
      step s = match exec i { t with word := w } with
        | .next u => .next (match (u.ctx u.who).wait with
          | .blocked _ => { u with scan := u.scan + 1 }
          | _ => { u.modCore u.who.core fun x => { x with rot := u.who.ctx } with turn := u.who.core + 1, scan := 0 })
        | .fault e => .fault e
        | .refused e => .refused e) ∧
    (∀ t, s'.fetch c = .drop t → step s = .next { t with turn := c.core, scan := k + 1 }) ∧
    (∀ w t r, s'.fetch c = .word w t → decode w = .error r → c.ctx ≠ 0 → ∃ u, step s = .next u ∧ (u.ctx c).life = .trapped ∧
      (u.ctx c).frec = { cause := r.cause.toNat, pc := (t.ctx c).pc, addr := 0, word := w, ctx := c.ctx }) ∧
    ((s.ctx c).pc.toNat % 8 ≠ 0 → ∃ u, step s = .next u ∧ (u.ctx c).life = .trapped ∧ (u.ctx c).frec.cause = 0x15) ∧
    ∀ w off, (s.ctx c).pc.toNat % 8 = 0 → s.form c.core (s.ctx c).pc = .window c.core w off →
      let e := rd (s.coreAt c.core).win w {}
      let key := slateKey (octetOf c.core) e.slate off
      e.valid = true → (e.own = 1 ∨ e.own = 2) → s.latent = [] → s.isPoisoned key 8 = false →
      s'.fetch c = .word (BitVec.ofNat 64 (memReadN s.mem key 8)) s'

/-- What a step runs when no context is next: a drain word in a pipe, the earliest step of the device that is due, a late one after
the issues of a cycle; otherwise the cycle ends (DESIGN CHOICE, assumption log 1). -/
def Obligations.StepRunsTheDevice : Prop :=
  ∀ (s : State),
    let runs (i : Instr) (u : State) : Prop := step s = match exec i u with
      | .next v => .next v
      | .fault e => .fault e
      | .refused e => .refused e
    (∀ o i, s.pipe = some o → s.pipeWord o = some i → runs i s) ∧
    (∀ p r, s.pipe = none → takeDue s.cycle false s.agenda = some (p, r) → runs p.ev { s with agenda := r, arg := p.arg }) ∧
    (∀ p r, Claims.Idle s → s.turn = 7680 → takeDue s.cycle true s.agenda = some (p, r) →
      runs p.ev { s with agenda := r, arg := p.arg, turn := 7680, scan := 0 }) ∧
    (Claims.Idle s → s.turn = 7680 → (∀ p ∈ s.agenda, s.cycle < p.due) →
      step s = .next { s with cycle := s.cycle + 1, turn := 0, scan := 0 }) ∧
    ∀ late p r, takeDue s.cycle late s.agenda = some (p, r) → p ∈ s.agenda ∧ p.due ≤ s.cycle ∧ p.late = late ∧
      (p :: r).Perm s.agenda ∧
      ∀ q ∈ s.agenda, q.due ≤ s.cycle → q.late = late → p.due < q.due ∨ (p.due = q.due ∧ p.seq ≤ q.seq)

/-- Words written out from the encoding tables decode to what they stand for. -/
def Obligations.DecodedWords : Prop :=
  decode 0x00402400FFFFFFFF = .ok (.movi { d := 9, imm := -1 }) ∧
  decode 0x00061C003FFFFFFE = .ok (.loop { r := 7, e := false } (-2)) ∧
  decode 0x00E403A140000000 = .ok (.qskip 58 { r := 5, e := false }) ∧
  decode 0x0082142006000010 = .ok (.ldx { d := 5, a := { r := 2, e := false }, b := { r := 0, e := false }, off := 16 }) ∧
  decode 0x01A3002140000000 = .ok (.splice { r := 2, e := false } { r := 5, e := false }) ∧
  decode 0x01F1005180000000 = .ok (.csrw { r := 5, e := false } { r := 6, e := false }) ∧
  decode 0x0100298800000000 = .ok (.vadd { lt := .fp32, vd := 1, va := { r := 2, e := false }, vb := { r := 3, e := false }, p := some 0
                                           zm := false, rnd := .rne, sat := false })

/-- Every step keeps the canonical form of memory: addresses strictly rising, and no byte listed that reads zero. -/
def Obligations.MemoryFormKept : Prop := ∀ s t : State, s.Inv → step s = .next t → t.Inv

/-- The state after reset has the canonical form. -/
def Obligations.ResetForm : Prop := State.reset.Inv

/-- R48, R71, R72, R89, R140, R156, R158, R163 and R395: what reset leaves: every homeroom in rotation and every other context gated, every
scalar register full, mailboxes and streams empty, no window valid, slates zero and full, 216 passes on each die's ring, and
partition 0 over the whole device. -/
def Obligations.ResetValues : Prop :=
  let s := State.reset
  (∀ k, k < 7680 → (s.ctx ⟨k, 0⟩).life = .active ∧ ∀ i, 0 < i → i < 16 → (s.ctx ⟨k, i⟩).life = .gated) ∧
  (∀ c : CtxId, (s.ctx c).sFull = 0xFFFFFFFF ∧ (s.ctx c).vFull = 0xFF ∧ (s.ctx c).waitLimit = 0x100000) ∧
  (∀ k, (s.coreAt k).cFull = 0xFFFF ∧ (s.coreAt k).mFull = 0 ∧ (∀ i, i < 8 → (rd (s.coreAt k).q i {}).bound = false ∧
    (rd (s.coreAt k).win i {}).valid = false) ∧ (s.coreAt k).deque = []) ∧
  (∀ a, memRead s.mem a = 0) ∧ (∀ a, s.full a = true) ∧
  (∀ d, (s.die d).passCount = 216 ∧ (s.die d).ring = List.range 216) ∧
  (∀ k, k < 7680 → s.partOf k = 0) ∧ s.cycle = 0
end

