-- ==== Sys2Proof/Laws/State.lean ====
section
/-! SUPPORT. The fields of the state under each update of a table and of the agenda, one lemma each, and the accessors of the
tables under them. -/

namespace Sys2Proof.Machine

/-! ## The updates of tables are replacements -/

@[simp] theorem State.modCtx_eq (s : State) (c : CtxId) (f : Ctx → Ctx) : s.modCtx c f = s.setCtx c (f (s.ctx c)) := rfl
@[simp] theorem State.modCore_eq (s : State) (k : Nat) (f : Core → Core) : s.modCore k f = s.setCore k (f (s.coreAt k)) := rfl
@[simp] theorem State.modOctet_eq (s : State) (o : Nat) (f : Octet → Octet) : s.modOctet o f = s.setOctet o (f (s.octet o)) := rfl
@[simp] theorem State.modDie_eq (s : State) (d : Nat) (f : Die → Die) : s.modDie d f = s.setDie d (f (s.die d)) := rfl


/-! ## setCtx -/

@[simp] theorem State.setCtx_cycle (s : State) (c : CtxId) (x : Ctx) : (s.setCtx c x).cycle = s.cycle := rfl
@[simp] theorem State.setCtx_turn (s : State) (c : CtxId) (x : Ctx) : (s.setCtx c x).turn = s.turn := rfl
@[simp] theorem State.setCtx_scan (s : State) (c : CtxId) (x : Ctx) : (s.setCtx c x).scan = s.scan := rfl
@[simp] theorem State.setCtx_who (s : State) (c : CtxId) (x : Ctx) : (s.setCtx c x).who = s.who := rfl
@[simp] theorem State.setCtx_word (s : State) (c : CtxId) (x : Ctx) : (s.setCtx c x).word = s.word := rfl
@[simp] theorem State.setCtx_arg (s : State) (c : CtxId) (x : Ctx) : (s.setCtx c x).arg = s.arg := rfl
@[simp] theorem State.setCtx_pipe (s : State) (c : CtxId) (x : Ctx) : (s.setCtx c x).pipe = s.pipe := rfl
@[simp] theorem State.setCtx_seq (s : State) (c : CtxId) (x : Ctx) : (s.setCtx c x).seq = s.seq := rfl
@[simp] theorem State.setCtx_fresh (s : State) (c : CtxId) (x : Ctx) : (s.setCtx c x).fresh = s.fresh := rfl
@[simp] theorem State.setCtx_agenda (s : State) (c : CtxId) (x : Ctx) : (s.setCtx c x).agenda = s.agenda := rfl
@[simp] theorem State.setCtx_cores (s : State) (c : CtxId) (x : Ctx) : (s.setCtx c x).cores = s.cores := rfl
@[simp] theorem State.setCtx_octets (s : State) (c : CtxId) (x : Ctx) : (s.setCtx c x).octets = s.octets := rfl
@[simp] theorem State.setCtx_dies (s : State) (c : CtxId) (x : Ctx) : (s.setCtx c x).dies = s.dies := rfl
@[simp] theorem State.setCtx_mem (s : State) (c : CtxId) (x : Ctx) : (s.setCtx c x).mem = s.mem := rfl
@[simp] theorem State.setCtx_empty (s : State) (c : CtxId) (x : Ctx) : (s.setCtx c x).empty = s.empty := rfl
@[simp] theorem State.setCtx_poison (s : State) (c : CtxId) (x : Ctx) : (s.setCtx c x).poison = s.poison := rfl
@[simp] theorem State.setCtx_latent (s : State) (c : CtxId) (x : Ctx) : (s.setCtx c x).latent = s.latent := rfl
@[simp] theorem State.setCtx_wires (s : State) (c : CtxId) (x : Ctx) : (s.setCtx c x).wires = s.wires := rfl
@[simp] theorem State.setCtx_banks (s : State) (c : CtxId) (x : Ctx) : (s.setCtx c x).banks = s.banks := rfl
@[simp] theorem State.setCtx_parked (s : State) (c : CtxId) (x : Ctx) : (s.setCtx c x).parked = s.parked := rfl
@[simp] theorem State.setCtx_cellWaits (s : State) (c : CtxId) (x : Ctx) : (s.setCtx c x).cellWaits = s.cellWaits := rfl
@[simp] theorem State.setCtx_sleepers (s : State) (c : CtxId) (x : Ctx) : (s.setCtx c x).sleepers = s.sleepers := rfl
@[simp] theorem State.setCtx_held (s : State) (c : CtxId) (x : Ctx) : (s.setCtx c x).held = s.held := rfl
@[simp] theorem State.setCtx_heldCounts (s : State) (c : CtxId) (x : Ctx) : (s.setCtx c x).heldCounts = s.heldCounts := rfl
@[simp] theorem State.setCtx_bridges (s : State) (c : CtxId) (x : Ctx) : (s.setCtx c x).bridges = s.bridges := rfl
@[simp] theorem State.setCtx_marked (s : State) (c : CtxId) (x : Ctx) : (s.setCtx c x).marked = s.marked := rfl
@[simp] theorem State.setCtx_netTable (s : State) (c : CtxId) (x : Ctx) : (s.setCtx c x).netTable = s.netTable := rfl
@[simp] theorem State.setCtx_partRect (s : State) (c : CtxId) (x : Ctx) : (s.setCtx c x).partRect = s.partRect := rfl
@[simp] theorem State.setCtx_partPtb (s : State) (c : CtxId) (x : Ctx) : (s.setCtx c x).partPtb = s.partPtb := rfl
@[simp] theorem State.setCtx_fences (s : State) (c : CtxId) (x : Ctx) : (s.setCtx c x).fences = s.fences := rfl
@[simp] theorem State.setCtx_cuts (s : State) (c : CtxId) (x : Ctx) : (s.setCtx c x).cuts = s.cuts := rfl
@[simp] theorem State.setCtx_doorbells (s : State) (c : CtxId) (x : Ctx) : (s.setCtx c x).doorbells = s.doorbells := rfl
@[simp] theorem State.setCtx_hostQueue (s : State) (c : CtxId) (x : Ctx) : (s.setCtx c x).hostQueue = s.hostQueue := rfl
@[simp] theorem State.setCtx_packets (s : State) (c : CtxId) (x : Ctx) : (s.setCtx c x).packets = s.packets := rfl
@[simp] theorem State.setCtx_heldSteps (s : State) (c : CtxId) (x : Ctx) : (s.setCtx c x).heldSteps = s.heldSteps := rfl
@[simp] theorem State.setCtx_txn (s : State) (c : CtxId) (x : Ctx) : (s.setCtx c x).txn = s.txn := rfl
@[simp] theorem State.setCtx_bootAt (s : State) (c : CtxId) (x : Ctx) : (s.setCtx c x).bootAt = s.bootAt := rfl
@[simp] theorem State.setCtx_hostOut (s : State) (c : CtxId) (x : Ctx) : (s.setCtx c x).hostOut = s.hostOut := rfl
@[simp] theorem State.setCtx_outbox (s : State) (c : CtxId) (x : Ctx) : (s.setCtx c x).outbox = s.outbox := rfl
@[simp] theorem State.setCtx_prefect (s : State) (c : CtxId) (x : Ctx) : (s.setCtx c x).prefect = s.prefect := rfl

/-! ## setCore -/

@[simp] theorem State.setCore_cycle (s : State) (k : Nat) (x : Core) : (s.setCore k x).cycle = s.cycle := rfl
@[simp] theorem State.setCore_turn (s : State) (k : Nat) (x : Core) : (s.setCore k x).turn = s.turn := rfl
@[simp] theorem State.setCore_scan (s : State) (k : Nat) (x : Core) : (s.setCore k x).scan = s.scan := rfl
@[simp] theorem State.setCore_who (s : State) (k : Nat) (x : Core) : (s.setCore k x).who = s.who := rfl
@[simp] theorem State.setCore_word (s : State) (k : Nat) (x : Core) : (s.setCore k x).word = s.word := rfl
@[simp] theorem State.setCore_arg (s : State) (k : Nat) (x : Core) : (s.setCore k x).arg = s.arg := rfl
@[simp] theorem State.setCore_pipe (s : State) (k : Nat) (x : Core) : (s.setCore k x).pipe = s.pipe := rfl
@[simp] theorem State.setCore_seq (s : State) (k : Nat) (x : Core) : (s.setCore k x).seq = s.seq := rfl
@[simp] theorem State.setCore_fresh (s : State) (k : Nat) (x : Core) : (s.setCore k x).fresh = s.fresh := rfl
@[simp] theorem State.setCore_agenda (s : State) (k : Nat) (x : Core) : (s.setCore k x).agenda = s.agenda := rfl
@[simp] theorem State.setCore_ctxs (s : State) (k : Nat) (x : Core) : (s.setCore k x).ctxs = s.ctxs := rfl
@[simp] theorem State.setCore_octets (s : State) (k : Nat) (x : Core) : (s.setCore k x).octets = s.octets := rfl
@[simp] theorem State.setCore_dies (s : State) (k : Nat) (x : Core) : (s.setCore k x).dies = s.dies := rfl
@[simp] theorem State.setCore_mem (s : State) (k : Nat) (x : Core) : (s.setCore k x).mem = s.mem := rfl
@[simp] theorem State.setCore_empty (s : State) (k : Nat) (x : Core) : (s.setCore k x).empty = s.empty := rfl
@[simp] theorem State.setCore_poison (s : State) (k : Nat) (x : Core) : (s.setCore k x).poison = s.poison := rfl
@[simp] theorem State.setCore_latent (s : State) (k : Nat) (x : Core) : (s.setCore k x).latent = s.latent := rfl
@[simp] theorem State.setCore_wires (s : State) (k : Nat) (x : Core) : (s.setCore k x).wires = s.wires := rfl
@[simp] theorem State.setCore_banks (s : State) (k : Nat) (x : Core) : (s.setCore k x).banks = s.banks := rfl
@[simp] theorem State.setCore_parked (s : State) (k : Nat) (x : Core) : (s.setCore k x).parked = s.parked := rfl
@[simp] theorem State.setCore_cellWaits (s : State) (k : Nat) (x : Core) : (s.setCore k x).cellWaits = s.cellWaits := rfl
@[simp] theorem State.setCore_sleepers (s : State) (k : Nat) (x : Core) : (s.setCore k x).sleepers = s.sleepers := rfl
@[simp] theorem State.setCore_held (s : State) (k : Nat) (x : Core) : (s.setCore k x).held = s.held := rfl
@[simp] theorem State.setCore_heldCounts (s : State) (k : Nat) (x : Core) : (s.setCore k x).heldCounts = s.heldCounts := rfl
@[simp] theorem State.setCore_bridges (s : State) (k : Nat) (x : Core) : (s.setCore k x).bridges = s.bridges := rfl
@[simp] theorem State.setCore_marked (s : State) (k : Nat) (x : Core) : (s.setCore k x).marked = s.marked := rfl
@[simp] theorem State.setCore_netTable (s : State) (k : Nat) (x : Core) : (s.setCore k x).netTable = s.netTable := rfl
@[simp] theorem State.setCore_partRect (s : State) (k : Nat) (x : Core) : (s.setCore k x).partRect = s.partRect := rfl
@[simp] theorem State.setCore_partPtb (s : State) (k : Nat) (x : Core) : (s.setCore k x).partPtb = s.partPtb := rfl
@[simp] theorem State.setCore_fences (s : State) (k : Nat) (x : Core) : (s.setCore k x).fences = s.fences := rfl
@[simp] theorem State.setCore_cuts (s : State) (k : Nat) (x : Core) : (s.setCore k x).cuts = s.cuts := rfl
@[simp] theorem State.setCore_doorbells (s : State) (k : Nat) (x : Core) : (s.setCore k x).doorbells = s.doorbells := rfl
@[simp] theorem State.setCore_hostQueue (s : State) (k : Nat) (x : Core) : (s.setCore k x).hostQueue = s.hostQueue := rfl
@[simp] theorem State.setCore_packets (s : State) (k : Nat) (x : Core) : (s.setCore k x).packets = s.packets := rfl
@[simp] theorem State.setCore_heldSteps (s : State) (k : Nat) (x : Core) : (s.setCore k x).heldSteps = s.heldSteps := rfl
@[simp] theorem State.setCore_txn (s : State) (k : Nat) (x : Core) : (s.setCore k x).txn = s.txn := rfl
@[simp] theorem State.setCore_bootAt (s : State) (k : Nat) (x : Core) : (s.setCore k x).bootAt = s.bootAt := rfl
@[simp] theorem State.setCore_hostOut (s : State) (k : Nat) (x : Core) : (s.setCore k x).hostOut = s.hostOut := rfl
@[simp] theorem State.setCore_outbox (s : State) (k : Nat) (x : Core) : (s.setCore k x).outbox = s.outbox := rfl
@[simp] theorem State.setCore_prefect (s : State) (k : Nat) (x : Core) : (s.setCore k x).prefect = s.prefect := rfl

/-! ## setOctet -/

@[simp] theorem State.setOctet_cycle (s : State) (o : Nat) (x : Octet) : (s.setOctet o x).cycle = s.cycle := rfl
@[simp] theorem State.setOctet_turn (s : State) (o : Nat) (x : Octet) : (s.setOctet o x).turn = s.turn := rfl
@[simp] theorem State.setOctet_scan (s : State) (o : Nat) (x : Octet) : (s.setOctet o x).scan = s.scan := rfl
@[simp] theorem State.setOctet_who (s : State) (o : Nat) (x : Octet) : (s.setOctet o x).who = s.who := rfl
@[simp] theorem State.setOctet_word (s : State) (o : Nat) (x : Octet) : (s.setOctet o x).word = s.word := rfl
@[simp] theorem State.setOctet_arg (s : State) (o : Nat) (x : Octet) : (s.setOctet o x).arg = s.arg := rfl
@[simp] theorem State.setOctet_pipe (s : State) (o : Nat) (x : Octet) : (s.setOctet o x).pipe = s.pipe := rfl
@[simp] theorem State.setOctet_seq (s : State) (o : Nat) (x : Octet) : (s.setOctet o x).seq = s.seq := rfl
@[simp] theorem State.setOctet_fresh (s : State) (o : Nat) (x : Octet) : (s.setOctet o x).fresh = s.fresh := rfl
@[simp] theorem State.setOctet_agenda (s : State) (o : Nat) (x : Octet) : (s.setOctet o x).agenda = s.agenda := rfl
@[simp] theorem State.setOctet_ctxs (s : State) (o : Nat) (x : Octet) : (s.setOctet o x).ctxs = s.ctxs := rfl
@[simp] theorem State.setOctet_cores (s : State) (o : Nat) (x : Octet) : (s.setOctet o x).cores = s.cores := rfl
@[simp] theorem State.setOctet_dies (s : State) (o : Nat) (x : Octet) : (s.setOctet o x).dies = s.dies := rfl
@[simp] theorem State.setOctet_mem (s : State) (o : Nat) (x : Octet) : (s.setOctet o x).mem = s.mem := rfl
@[simp] theorem State.setOctet_empty (s : State) (o : Nat) (x : Octet) : (s.setOctet o x).empty = s.empty := rfl
@[simp] theorem State.setOctet_poison (s : State) (o : Nat) (x : Octet) : (s.setOctet o x).poison = s.poison := rfl
@[simp] theorem State.setOctet_latent (s : State) (o : Nat) (x : Octet) : (s.setOctet o x).latent = s.latent := rfl
@[simp] theorem State.setOctet_wires (s : State) (o : Nat) (x : Octet) : (s.setOctet o x).wires = s.wires := rfl
@[simp] theorem State.setOctet_banks (s : State) (o : Nat) (x : Octet) : (s.setOctet o x).banks = s.banks := rfl
@[simp] theorem State.setOctet_parked (s : State) (o : Nat) (x : Octet) : (s.setOctet o x).parked = s.parked := rfl
@[simp] theorem State.setOctet_cellWaits (s : State) (o : Nat) (x : Octet) : (s.setOctet o x).cellWaits = s.cellWaits := rfl
@[simp] theorem State.setOctet_sleepers (s : State) (o : Nat) (x : Octet) : (s.setOctet o x).sleepers = s.sleepers := rfl
@[simp] theorem State.setOctet_held (s : State) (o : Nat) (x : Octet) : (s.setOctet o x).held = s.held := rfl
@[simp] theorem State.setOctet_heldCounts (s : State) (o : Nat) (x : Octet) : (s.setOctet o x).heldCounts = s.heldCounts := rfl
@[simp] theorem State.setOctet_bridges (s : State) (o : Nat) (x : Octet) : (s.setOctet o x).bridges = s.bridges := rfl
@[simp] theorem State.setOctet_marked (s : State) (o : Nat) (x : Octet) : (s.setOctet o x).marked = s.marked := rfl
@[simp] theorem State.setOctet_netTable (s : State) (o : Nat) (x : Octet) : (s.setOctet o x).netTable = s.netTable := rfl
@[simp] theorem State.setOctet_partRect (s : State) (o : Nat) (x : Octet) : (s.setOctet o x).partRect = s.partRect := rfl
@[simp] theorem State.setOctet_partPtb (s : State) (o : Nat) (x : Octet) : (s.setOctet o x).partPtb = s.partPtb := rfl
@[simp] theorem State.setOctet_fences (s : State) (o : Nat) (x : Octet) : (s.setOctet o x).fences = s.fences := rfl
@[simp] theorem State.setOctet_cuts (s : State) (o : Nat) (x : Octet) : (s.setOctet o x).cuts = s.cuts := rfl
@[simp] theorem State.setOctet_doorbells (s : State) (o : Nat) (x : Octet) : (s.setOctet o x).doorbells = s.doorbells := rfl
@[simp] theorem State.setOctet_hostQueue (s : State) (o : Nat) (x : Octet) : (s.setOctet o x).hostQueue = s.hostQueue := rfl
@[simp] theorem State.setOctet_packets (s : State) (o : Nat) (x : Octet) : (s.setOctet o x).packets = s.packets := rfl
@[simp] theorem State.setOctet_heldSteps (s : State) (o : Nat) (x : Octet) : (s.setOctet o x).heldSteps = s.heldSteps := rfl
@[simp] theorem State.setOctet_txn (s : State) (o : Nat) (x : Octet) : (s.setOctet o x).txn = s.txn := rfl
@[simp] theorem State.setOctet_bootAt (s : State) (o : Nat) (x : Octet) : (s.setOctet o x).bootAt = s.bootAt := rfl
@[simp] theorem State.setOctet_hostOut (s : State) (o : Nat) (x : Octet) : (s.setOctet o x).hostOut = s.hostOut := rfl
@[simp] theorem State.setOctet_outbox (s : State) (o : Nat) (x : Octet) : (s.setOctet o x).outbox = s.outbox := rfl
@[simp] theorem State.setOctet_prefect (s : State) (o : Nat) (x : Octet) : (s.setOctet o x).prefect = s.prefect := rfl

/-! ## setDie -/

@[simp] theorem State.setDie_cycle (s : State) (d : Nat) (x : Die) : (s.setDie d x).cycle = s.cycle := rfl
@[simp] theorem State.setDie_turn (s : State) (d : Nat) (x : Die) : (s.setDie d x).turn = s.turn := rfl
@[simp] theorem State.setDie_scan (s : State) (d : Nat) (x : Die) : (s.setDie d x).scan = s.scan := rfl
@[simp] theorem State.setDie_who (s : State) (d : Nat) (x : Die) : (s.setDie d x).who = s.who := rfl
@[simp] theorem State.setDie_word (s : State) (d : Nat) (x : Die) : (s.setDie d x).word = s.word := rfl
@[simp] theorem State.setDie_arg (s : State) (d : Nat) (x : Die) : (s.setDie d x).arg = s.arg := rfl
@[simp] theorem State.setDie_pipe (s : State) (d : Nat) (x : Die) : (s.setDie d x).pipe = s.pipe := rfl
@[simp] theorem State.setDie_seq (s : State) (d : Nat) (x : Die) : (s.setDie d x).seq = s.seq := rfl
@[simp] theorem State.setDie_fresh (s : State) (d : Nat) (x : Die) : (s.setDie d x).fresh = s.fresh := rfl
@[simp] theorem State.setDie_agenda (s : State) (d : Nat) (x : Die) : (s.setDie d x).agenda = s.agenda := rfl
@[simp] theorem State.setDie_ctxs (s : State) (d : Nat) (x : Die) : (s.setDie d x).ctxs = s.ctxs := rfl
@[simp] theorem State.setDie_cores (s : State) (d : Nat) (x : Die) : (s.setDie d x).cores = s.cores := rfl
@[simp] theorem State.setDie_octets (s : State) (d : Nat) (x : Die) : (s.setDie d x).octets = s.octets := rfl
@[simp] theorem State.setDie_mem (s : State) (d : Nat) (x : Die) : (s.setDie d x).mem = s.mem := rfl
@[simp] theorem State.setDie_empty (s : State) (d : Nat) (x : Die) : (s.setDie d x).empty = s.empty := rfl
@[simp] theorem State.setDie_poison (s : State) (d : Nat) (x : Die) : (s.setDie d x).poison = s.poison := rfl
@[simp] theorem State.setDie_latent (s : State) (d : Nat) (x : Die) : (s.setDie d x).latent = s.latent := rfl
@[simp] theorem State.setDie_wires (s : State) (d : Nat) (x : Die) : (s.setDie d x).wires = s.wires := rfl
@[simp] theorem State.setDie_banks (s : State) (d : Nat) (x : Die) : (s.setDie d x).banks = s.banks := rfl
@[simp] theorem State.setDie_parked (s : State) (d : Nat) (x : Die) : (s.setDie d x).parked = s.parked := rfl
@[simp] theorem State.setDie_cellWaits (s : State) (d : Nat) (x : Die) : (s.setDie d x).cellWaits = s.cellWaits := rfl
@[simp] theorem State.setDie_sleepers (s : State) (d : Nat) (x : Die) : (s.setDie d x).sleepers = s.sleepers := rfl
@[simp] theorem State.setDie_held (s : State) (d : Nat) (x : Die) : (s.setDie d x).held = s.held := rfl
@[simp] theorem State.setDie_heldCounts (s : State) (d : Nat) (x : Die) : (s.setDie d x).heldCounts = s.heldCounts := rfl
@[simp] theorem State.setDie_bridges (s : State) (d : Nat) (x : Die) : (s.setDie d x).bridges = s.bridges := rfl
@[simp] theorem State.setDie_marked (s : State) (d : Nat) (x : Die) : (s.setDie d x).marked = s.marked := rfl
@[simp] theorem State.setDie_netTable (s : State) (d : Nat) (x : Die) : (s.setDie d x).netTable = s.netTable := rfl
@[simp] theorem State.setDie_partRect (s : State) (d : Nat) (x : Die) : (s.setDie d x).partRect = s.partRect := rfl
@[simp] theorem State.setDie_partPtb (s : State) (d : Nat) (x : Die) : (s.setDie d x).partPtb = s.partPtb := rfl
@[simp] theorem State.setDie_fences (s : State) (d : Nat) (x : Die) : (s.setDie d x).fences = s.fences := rfl
@[simp] theorem State.setDie_cuts (s : State) (d : Nat) (x : Die) : (s.setDie d x).cuts = s.cuts := rfl
@[simp] theorem State.setDie_doorbells (s : State) (d : Nat) (x : Die) : (s.setDie d x).doorbells = s.doorbells := rfl
@[simp] theorem State.setDie_hostQueue (s : State) (d : Nat) (x : Die) : (s.setDie d x).hostQueue = s.hostQueue := rfl
@[simp] theorem State.setDie_packets (s : State) (d : Nat) (x : Die) : (s.setDie d x).packets = s.packets := rfl
@[simp] theorem State.setDie_heldSteps (s : State) (d : Nat) (x : Die) : (s.setDie d x).heldSteps = s.heldSteps := rfl
@[simp] theorem State.setDie_txn (s : State) (d : Nat) (x : Die) : (s.setDie d x).txn = s.txn := rfl
@[simp] theorem State.setDie_bootAt (s : State) (d : Nat) (x : Die) : (s.setDie d x).bootAt = s.bootAt := rfl
@[simp] theorem State.setDie_hostOut (s : State) (d : Nat) (x : Die) : (s.setDie d x).hostOut = s.hostOut := rfl
@[simp] theorem State.setDie_outbox (s : State) (d : Nat) (x : Die) : (s.setDie d x).outbox = s.outbox := rfl
@[simp] theorem State.setDie_prefect (s : State) (d : Nat) (x : Die) : (s.setDie d x).prefect = s.prefect := rfl

/-! ## post -/

@[simp] theorem State.post_cycle (s : State) (t : Nat) (i : Instr) (a : StepArg) : (s.post t i a).cycle = s.cycle := rfl
@[simp] theorem State.post_turn (s : State) (t : Nat) (i : Instr) (a : StepArg) : (s.post t i a).turn = s.turn := rfl
@[simp] theorem State.post_scan (s : State) (t : Nat) (i : Instr) (a : StepArg) : (s.post t i a).scan = s.scan := rfl
@[simp] theorem State.post_who (s : State) (t : Nat) (i : Instr) (a : StepArg) : (s.post t i a).who = s.who := rfl
@[simp] theorem State.post_word (s : State) (t : Nat) (i : Instr) (a : StepArg) : (s.post t i a).word = s.word := rfl
@[simp] theorem State.post_arg (s : State) (t : Nat) (i : Instr) (a : StepArg) : (s.post t i a).arg = s.arg := rfl
@[simp] theorem State.post_pipe (s : State) (t : Nat) (i : Instr) (a : StepArg) : (s.post t i a).pipe = s.pipe := rfl
@[simp] theorem State.post_fresh (s : State) (t : Nat) (i : Instr) (a : StepArg) : (s.post t i a).fresh = s.fresh := rfl
@[simp] theorem State.post_ctxs (s : State) (t : Nat) (i : Instr) (a : StepArg) : (s.post t i a).ctxs = s.ctxs := rfl
@[simp] theorem State.post_cores (s : State) (t : Nat) (i : Instr) (a : StepArg) : (s.post t i a).cores = s.cores := rfl
@[simp] theorem State.post_octets (s : State) (t : Nat) (i : Instr) (a : StepArg) : (s.post t i a).octets = s.octets := rfl
@[simp] theorem State.post_dies (s : State) (t : Nat) (i : Instr) (a : StepArg) : (s.post t i a).dies = s.dies := rfl
@[simp] theorem State.post_mem (s : State) (t : Nat) (i : Instr) (a : StepArg) : (s.post t i a).mem = s.mem := rfl
@[simp] theorem State.post_empty (s : State) (t : Nat) (i : Instr) (a : StepArg) : (s.post t i a).empty = s.empty := rfl
@[simp] theorem State.post_poison (s : State) (t : Nat) (i : Instr) (a : StepArg) : (s.post t i a).poison = s.poison := rfl
@[simp] theorem State.post_latent (s : State) (t : Nat) (i : Instr) (a : StepArg) : (s.post t i a).latent = s.latent := rfl
@[simp] theorem State.post_wires (s : State) (t : Nat) (i : Instr) (a : StepArg) : (s.post t i a).wires = s.wires := rfl
@[simp] theorem State.post_banks (s : State) (t : Nat) (i : Instr) (a : StepArg) : (s.post t i a).banks = s.banks := rfl
@[simp] theorem State.post_parked (s : State) (t : Nat) (i : Instr) (a : StepArg) : (s.post t i a).parked = s.parked := rfl
@[simp] theorem State.post_cellWaits (s : State) (t : Nat) (i : Instr) (a : StepArg) : (s.post t i a).cellWaits = s.cellWaits := rfl
@[simp] theorem State.post_sleepers (s : State) (t : Nat) (i : Instr) (a : StepArg) : (s.post t i a).sleepers = s.sleepers := rfl
@[simp] theorem State.post_held (s : State) (t : Nat) (i : Instr) (a : StepArg) : (s.post t i a).held = s.held := rfl
@[simp] theorem State.post_heldCounts (s : State) (t : Nat) (i : Instr) (a : StepArg) : (s.post t i a).heldCounts = s.heldCounts := rfl
@[simp] theorem State.post_bridges (s : State) (t : Nat) (i : Instr) (a : StepArg) : (s.post t i a).bridges = s.bridges := rfl
@[simp] theorem State.post_marked (s : State) (t : Nat) (i : Instr) (a : StepArg) : (s.post t i a).marked = s.marked := rfl
@[simp] theorem State.post_netTable (s : State) (t : Nat) (i : Instr) (a : StepArg) : (s.post t i a).netTable = s.netTable := rfl
@[simp] theorem State.post_partRect (s : State) (t : Nat) (i : Instr) (a : StepArg) : (s.post t i a).partRect = s.partRect := rfl
@[simp] theorem State.post_partPtb (s : State) (t : Nat) (i : Instr) (a : StepArg) : (s.post t i a).partPtb = s.partPtb := rfl
@[simp] theorem State.post_fences (s : State) (t : Nat) (i : Instr) (a : StepArg) : (s.post t i a).fences = s.fences := rfl
@[simp] theorem State.post_cuts (s : State) (t : Nat) (i : Instr) (a : StepArg) : (s.post t i a).cuts = s.cuts := rfl
@[simp] theorem State.post_doorbells (s : State) (t : Nat) (i : Instr) (a : StepArg) : (s.post t i a).doorbells = s.doorbells := rfl
@[simp] theorem State.post_hostQueue (s : State) (t : Nat) (i : Instr) (a : StepArg) : (s.post t i a).hostQueue = s.hostQueue := rfl
@[simp] theorem State.post_packets (s : State) (t : Nat) (i : Instr) (a : StepArg) : (s.post t i a).packets = s.packets := rfl
@[simp] theorem State.post_heldSteps (s : State) (t : Nat) (i : Instr) (a : StepArg) : (s.post t i a).heldSteps = s.heldSteps := rfl
@[simp] theorem State.post_txn (s : State) (t : Nat) (i : Instr) (a : StepArg) : (s.post t i a).txn = s.txn := rfl
@[simp] theorem State.post_bootAt (s : State) (t : Nat) (i : Instr) (a : StepArg) : (s.post t i a).bootAt = s.bootAt := rfl
@[simp] theorem State.post_hostOut (s : State) (t : Nat) (i : Instr) (a : StepArg) : (s.post t i a).hostOut = s.hostOut := rfl
@[simp] theorem State.post_outbox (s : State) (t : Nat) (i : Instr) (a : StepArg) : (s.post t i a).outbox = s.outbox := rfl
@[simp] theorem State.post_prefect (s : State) (t : Nat) (i : Instr) (a : StepArg) : (s.post t i a).prefect = s.prefect := rfl
@[simp] theorem State.post_seq (s : State) (t : Nat) (i : Instr) (a : StepArg) : (s.post t i a).seq = s.seq + 1 := rfl

/-! ## postLate -/

@[simp] theorem State.postLate_cycle (s : State) (t : Nat) (i : Instr) (a : StepArg) : (s.postLate t i a).cycle = s.cycle := rfl
@[simp] theorem State.postLate_turn (s : State) (t : Nat) (i : Instr) (a : StepArg) : (s.postLate t i a).turn = s.turn := rfl
@[simp] theorem State.postLate_scan (s : State) (t : Nat) (i : Instr) (a : StepArg) : (s.postLate t i a).scan = s.scan := rfl
@[simp] theorem State.postLate_who (s : State) (t : Nat) (i : Instr) (a : StepArg) : (s.postLate t i a).who = s.who := rfl
@[simp] theorem State.postLate_word (s : State) (t : Nat) (i : Instr) (a : StepArg) : (s.postLate t i a).word = s.word := rfl
@[simp] theorem State.postLate_arg (s : State) (t : Nat) (i : Instr) (a : StepArg) : (s.postLate t i a).arg = s.arg := rfl
@[simp] theorem State.postLate_pipe (s : State) (t : Nat) (i : Instr) (a : StepArg) : (s.postLate t i a).pipe = s.pipe := rfl
@[simp] theorem State.postLate_fresh (s : State) (t : Nat) (i : Instr) (a : StepArg) : (s.postLate t i a).fresh = s.fresh := rfl
@[simp] theorem State.postLate_ctxs (s : State) (t : Nat) (i : Instr) (a : StepArg) : (s.postLate t i a).ctxs = s.ctxs := rfl
@[simp] theorem State.postLate_cores (s : State) (t : Nat) (i : Instr) (a : StepArg) : (s.postLate t i a).cores = s.cores := rfl
@[simp] theorem State.postLate_octets (s : State) (t : Nat) (i : Instr) (a : StepArg) : (s.postLate t i a).octets = s.octets := rfl
@[simp] theorem State.postLate_dies (s : State) (t : Nat) (i : Instr) (a : StepArg) : (s.postLate t i a).dies = s.dies := rfl
@[simp] theorem State.postLate_mem (s : State) (t : Nat) (i : Instr) (a : StepArg) : (s.postLate t i a).mem = s.mem := rfl
@[simp] theorem State.postLate_empty (s : State) (t : Nat) (i : Instr) (a : StepArg) : (s.postLate t i a).empty = s.empty := rfl
@[simp] theorem State.postLate_poison (s : State) (t : Nat) (i : Instr) (a : StepArg) : (s.postLate t i a).poison = s.poison := rfl
@[simp] theorem State.postLate_latent (s : State) (t : Nat) (i : Instr) (a : StepArg) : (s.postLate t i a).latent = s.latent := rfl
@[simp] theorem State.postLate_wires (s : State) (t : Nat) (i : Instr) (a : StepArg) : (s.postLate t i a).wires = s.wires := rfl
@[simp] theorem State.postLate_banks (s : State) (t : Nat) (i : Instr) (a : StepArg) : (s.postLate t i a).banks = s.banks := rfl
@[simp] theorem State.postLate_parked (s : State) (t : Nat) (i : Instr) (a : StepArg) : (s.postLate t i a).parked = s.parked := rfl
@[simp] theorem State.postLate_cellWaits (s : State) (t : Nat) (i : Instr) (a : StepArg) : (s.postLate t i a).cellWaits = s.cellWaits := rfl
@[simp] theorem State.postLate_sleepers (s : State) (t : Nat) (i : Instr) (a : StepArg) : (s.postLate t i a).sleepers = s.sleepers := rfl
@[simp] theorem State.postLate_held (s : State) (t : Nat) (i : Instr) (a : StepArg) : (s.postLate t i a).held = s.held := rfl
@[simp] theorem State.postLate_heldCounts (s : State) (t : Nat) (i : Instr) (a : StepArg) : (s.postLate t i a).heldCounts = s.heldCounts := rfl
@[simp] theorem State.postLate_bridges (s : State) (t : Nat) (i : Instr) (a : StepArg) : (s.postLate t i a).bridges = s.bridges := rfl
@[simp] theorem State.postLate_marked (s : State) (t : Nat) (i : Instr) (a : StepArg) : (s.postLate t i a).marked = s.marked := rfl
@[simp] theorem State.postLate_netTable (s : State) (t : Nat) (i : Instr) (a : StepArg) : (s.postLate t i a).netTable = s.netTable := rfl
@[simp] theorem State.postLate_partRect (s : State) (t : Nat) (i : Instr) (a : StepArg) : (s.postLate t i a).partRect = s.partRect := rfl
@[simp] theorem State.postLate_partPtb (s : State) (t : Nat) (i : Instr) (a : StepArg) : (s.postLate t i a).partPtb = s.partPtb := rfl
@[simp] theorem State.postLate_fences (s : State) (t : Nat) (i : Instr) (a : StepArg) : (s.postLate t i a).fences = s.fences := rfl
@[simp] theorem State.postLate_cuts (s : State) (t : Nat) (i : Instr) (a : StepArg) : (s.postLate t i a).cuts = s.cuts := rfl
@[simp] theorem State.postLate_doorbells (s : State) (t : Nat) (i : Instr) (a : StepArg) : (s.postLate t i a).doorbells = s.doorbells := rfl
@[simp] theorem State.postLate_hostQueue (s : State) (t : Nat) (i : Instr) (a : StepArg) : (s.postLate t i a).hostQueue = s.hostQueue := rfl
@[simp] theorem State.postLate_packets (s : State) (t : Nat) (i : Instr) (a : StepArg) : (s.postLate t i a).packets = s.packets := rfl
@[simp] theorem State.postLate_heldSteps (s : State) (t : Nat) (i : Instr) (a : StepArg) : (s.postLate t i a).heldSteps = s.heldSteps := rfl
@[simp] theorem State.postLate_txn (s : State) (t : Nat) (i : Instr) (a : StepArg) : (s.postLate t i a).txn = s.txn := rfl
@[simp] theorem State.postLate_bootAt (s : State) (t : Nat) (i : Instr) (a : StepArg) : (s.postLate t i a).bootAt = s.bootAt := rfl
@[simp] theorem State.postLate_hostOut (s : State) (t : Nat) (i : Instr) (a : StepArg) : (s.postLate t i a).hostOut = s.hostOut := rfl
@[simp] theorem State.postLate_outbox (s : State) (t : Nat) (i : Instr) (a : StepArg) : (s.postLate t i a).outbox = s.outbox := rfl
@[simp] theorem State.postLate_prefect (s : State) (t : Nat) (i : Instr) (a : StepArg) : (s.postLate t i a).prefect = s.prefect := rfl
@[simp] theorem State.postLate_seq (s : State) (t : Nat) (i : Instr) (a : StepArg) : (s.postLate t i a).seq = s.seq + 1 := rfl

/-! ## postIn -/

@[simp] theorem State.postIn_cycle (s : State) (t : Nat) (i : Instr) (a : StepArg) : (s.postIn t i a).cycle = s.cycle := rfl
@[simp] theorem State.postIn_turn (s : State) (t : Nat) (i : Instr) (a : StepArg) : (s.postIn t i a).turn = s.turn := rfl
@[simp] theorem State.postIn_scan (s : State) (t : Nat) (i : Instr) (a : StepArg) : (s.postIn t i a).scan = s.scan := rfl
@[simp] theorem State.postIn_who (s : State) (t : Nat) (i : Instr) (a : StepArg) : (s.postIn t i a).who = s.who := rfl
@[simp] theorem State.postIn_word (s : State) (t : Nat) (i : Instr) (a : StepArg) : (s.postIn t i a).word = s.word := rfl
@[simp] theorem State.postIn_arg (s : State) (t : Nat) (i : Instr) (a : StepArg) : (s.postIn t i a).arg = s.arg := rfl
@[simp] theorem State.postIn_pipe (s : State) (t : Nat) (i : Instr) (a : StepArg) : (s.postIn t i a).pipe = s.pipe := rfl
@[simp] theorem State.postIn_ctxs (s : State) (t : Nat) (i : Instr) (a : StepArg) : (s.postIn t i a).ctxs = s.ctxs := rfl
@[simp] theorem State.postIn_cores (s : State) (t : Nat) (i : Instr) (a : StepArg) : (s.postIn t i a).cores = s.cores := rfl
@[simp] theorem State.postIn_octets (s : State) (t : Nat) (i : Instr) (a : StepArg) : (s.postIn t i a).octets = s.octets := rfl
@[simp] theorem State.postIn_dies (s : State) (t : Nat) (i : Instr) (a : StepArg) : (s.postIn t i a).dies = s.dies := rfl
@[simp] theorem State.postIn_mem (s : State) (t : Nat) (i : Instr) (a : StepArg) : (s.postIn t i a).mem = s.mem := rfl
@[simp] theorem State.postIn_empty (s : State) (t : Nat) (i : Instr) (a : StepArg) : (s.postIn t i a).empty = s.empty := rfl
@[simp] theorem State.postIn_poison (s : State) (t : Nat) (i : Instr) (a : StepArg) : (s.postIn t i a).poison = s.poison := rfl
@[simp] theorem State.postIn_latent (s : State) (t : Nat) (i : Instr) (a : StepArg) : (s.postIn t i a).latent = s.latent := rfl
@[simp] theorem State.postIn_wires (s : State) (t : Nat) (i : Instr) (a : StepArg) : (s.postIn t i a).wires = s.wires := rfl
@[simp] theorem State.postIn_banks (s : State) (t : Nat) (i : Instr) (a : StepArg) : (s.postIn t i a).banks = s.banks := rfl
@[simp] theorem State.postIn_parked (s : State) (t : Nat) (i : Instr) (a : StepArg) : (s.postIn t i a).parked = s.parked := rfl
@[simp] theorem State.postIn_cellWaits (s : State) (t : Nat) (i : Instr) (a : StepArg) : (s.postIn t i a).cellWaits = s.cellWaits := rfl
@[simp] theorem State.postIn_sleepers (s : State) (t : Nat) (i : Instr) (a : StepArg) : (s.postIn t i a).sleepers = s.sleepers := rfl
@[simp] theorem State.postIn_held (s : State) (t : Nat) (i : Instr) (a : StepArg) : (s.postIn t i a).held = s.held := rfl
@[simp] theorem State.postIn_heldCounts (s : State) (t : Nat) (i : Instr) (a : StepArg) : (s.postIn t i a).heldCounts = s.heldCounts := rfl
@[simp] theorem State.postIn_bridges (s : State) (t : Nat) (i : Instr) (a : StepArg) : (s.postIn t i a).bridges = s.bridges := rfl
@[simp] theorem State.postIn_marked (s : State) (t : Nat) (i : Instr) (a : StepArg) : (s.postIn t i a).marked = s.marked := rfl
@[simp] theorem State.postIn_netTable (s : State) (t : Nat) (i : Instr) (a : StepArg) : (s.postIn t i a).netTable = s.netTable := rfl
@[simp] theorem State.postIn_partRect (s : State) (t : Nat) (i : Instr) (a : StepArg) : (s.postIn t i a).partRect = s.partRect := rfl
@[simp] theorem State.postIn_partPtb (s : State) (t : Nat) (i : Instr) (a : StepArg) : (s.postIn t i a).partPtb = s.partPtb := rfl
@[simp] theorem State.postIn_fences (s : State) (t : Nat) (i : Instr) (a : StepArg) : (s.postIn t i a).fences = s.fences := rfl
@[simp] theorem State.postIn_cuts (s : State) (t : Nat) (i : Instr) (a : StepArg) : (s.postIn t i a).cuts = s.cuts := rfl
@[simp] theorem State.postIn_doorbells (s : State) (t : Nat) (i : Instr) (a : StepArg) : (s.postIn t i a).doorbells = s.doorbells := rfl
@[simp] theorem State.postIn_hostQueue (s : State) (t : Nat) (i : Instr) (a : StepArg) : (s.postIn t i a).hostQueue = s.hostQueue := rfl
@[simp] theorem State.postIn_packets (s : State) (t : Nat) (i : Instr) (a : StepArg) : (s.postIn t i a).packets = s.packets := rfl
@[simp] theorem State.postIn_heldSteps (s : State) (t : Nat) (i : Instr) (a : StepArg) : (s.postIn t i a).heldSteps = s.heldSteps := rfl
@[simp] theorem State.postIn_txn (s : State) (t : Nat) (i : Instr) (a : StepArg) : (s.postIn t i a).txn = s.txn := rfl
@[simp] theorem State.postIn_bootAt (s : State) (t : Nat) (i : Instr) (a : StepArg) : (s.postIn t i a).bootAt = s.bootAt := rfl
@[simp] theorem State.postIn_hostOut (s : State) (t : Nat) (i : Instr) (a : StepArg) : (s.postIn t i a).hostOut = s.hostOut := rfl
@[simp] theorem State.postIn_outbox (s : State) (t : Nat) (i : Instr) (a : StepArg) : (s.postIn t i a).outbox = s.outbox := rfl
@[simp] theorem State.postIn_prefect (s : State) (t : Nat) (i : Instr) (a : StepArg) : (s.postIn t i a).prefect = s.prefect := rfl
@[simp] theorem State.postIn_seq (s : State) (t : Nat) (i : Instr) (a : StepArg) : (s.postIn t i a).seq = s.seq + 1 := rfl
@[simp] theorem State.postIn_fresh (s : State) (t : Nat) (i : Instr) (a : StepArg) : (s.postIn t i a).fresh = s.fresh + 1 := rfl

/-! ## The accessors of a table after an update of another, or of the agenda -/

@[simp] theorem State.coreAt_setCtx (s : State) (c : CtxId) (x : Ctx) (j : Nat) : (s.setCtx c x).coreAt j = s.coreAt j := rfl
@[simp] theorem State.octet_setCtx (s : State) (c : CtxId) (x : Ctx) (j : Nat) : (s.setCtx c x).octet j = s.octet j := rfl
@[simp] theorem State.die_setCtx (s : State) (c : CtxId) (x : Ctx) (j : Nat) : (s.setCtx c x).die j = s.die j := rfl
@[simp] theorem State.ctx_setCore (s : State) (k : Nat) (x : Core) (b : CtxId) : (s.setCore k x).ctx b = s.ctx b := rfl
@[simp] theorem State.octet_setCore (s : State) (k : Nat) (x : Core) (j : Nat) : (s.setCore k x).octet j = s.octet j := rfl
@[simp] theorem State.die_setCore (s : State) (k : Nat) (x : Core) (j : Nat) : (s.setCore k x).die j = s.die j := rfl
@[simp] theorem State.ctx_setOctet (s : State) (o : Nat) (x : Octet) (b : CtxId) : (s.setOctet o x).ctx b = s.ctx b := rfl
@[simp] theorem State.coreAt_setOctet (s : State) (o : Nat) (x : Octet) (j : Nat) : (s.setOctet o x).coreAt j = s.coreAt j := rfl
@[simp] theorem State.die_setOctet (s : State) (o : Nat) (x : Octet) (j : Nat) : (s.setOctet o x).die j = s.die j := rfl
@[simp] theorem State.ctx_setDie (s : State) (d : Nat) (x : Die) (b : CtxId) : (s.setDie d x).ctx b = s.ctx b := rfl
@[simp] theorem State.coreAt_setDie (s : State) (d : Nat) (x : Die) (j : Nat) : (s.setDie d x).coreAt j = s.coreAt j := rfl
@[simp] theorem State.octet_setDie (s : State) (d : Nat) (x : Die) (j : Nat) : (s.setDie d x).octet j = s.octet j := rfl
@[simp] theorem State.ctx_post (s : State) (t : Nat) (i : Instr) (a : StepArg) (b : CtxId) : (s.post t i a).ctx b = s.ctx b := rfl
@[simp] theorem State.coreAt_post (s : State) (t : Nat) (i : Instr) (a : StepArg) (j : Nat) : (s.post t i a).coreAt j = s.coreAt j := rfl
@[simp] theorem State.octet_post (s : State) (t : Nat) (i : Instr) (a : StepArg) (j : Nat) : (s.post t i a).octet j = s.octet j := rfl
@[simp] theorem State.die_post (s : State) (t : Nat) (i : Instr) (a : StepArg) (j : Nat) : (s.post t i a).die j = s.die j := rfl
@[simp] theorem State.ctx_postLate (s : State) (t : Nat) (i : Instr) (a : StepArg) (b : CtxId) : (s.postLate t i a).ctx b = s.ctx b := rfl
@[simp] theorem State.coreAt_postLate (s : State) (t : Nat) (i : Instr) (a : StepArg) (j : Nat) : (s.postLate t i a).coreAt j = s.coreAt j := rfl
@[simp] theorem State.octet_postLate (s : State) (t : Nat) (i : Instr) (a : StepArg) (j : Nat) : (s.postLate t i a).octet j = s.octet j := rfl
@[simp] theorem State.die_postLate (s : State) (t : Nat) (i : Instr) (a : StepArg) (j : Nat) : (s.postLate t i a).die j = s.die j := rfl
@[simp] theorem State.ctx_postIn (s : State) (t : Nat) (i : Instr) (a : StepArg) (b : CtxId) : (s.postIn t i a).ctx b = s.ctx b := rfl
@[simp] theorem State.coreAt_postIn (s : State) (t : Nat) (i : Instr) (a : StepArg) (j : Nat) : (s.postIn t i a).coreAt j = s.coreAt j := rfl
@[simp] theorem State.octet_postIn (s : State) (t : Nat) (i : Instr) (a : StepArg) (j : Nat) : (s.postIn t i a).octet j = s.octet j := rfl
@[simp] theorem State.die_postIn (s : State) (t : Nat) (i : Instr) (a : StepArg) (j : Nat) : (s.postIn t i a).die j = s.die j := rfl

/-! ## A table's own entry, and its others -/

@[simp] theorem State.ctx_setCtx_same (s : State) (c : CtxId) (x : Ctx) : (s.setCtx c x).ctx c = x :=
  SMap.get_set_same _ _ _ _
theorem State.ctx_setCtx_other (s : State) (c b : CtxId) (x : Ctx) (h : b.key ≠ c.key) : (s.setCtx c x).ctx b = s.ctx b :=
  SMap.get_set_other _ _ _ _ _ h
@[simp] theorem State.coreAt_setCore_same (s : State) (k : Nat) (x : Core) : (s.setCore k x).coreAt k = x :=
  SMap.get_set_same _ _ _ _
theorem State.coreAt_setCore_other (s : State) (k j : Nat) (x : Core) (h : j ≠ k) : (s.setCore k x).coreAt j = s.coreAt j :=
  SMap.get_set_other _ _ _ _ _ h
@[simp] theorem State.octet_setOctet_same (s : State) (o : Nat) (x : Octet) : (s.setOctet o x).octet o = x :=
  SMap.get_set_same _ _ _ _
theorem State.octet_setOctet_other (s : State) (o j : Nat) (x : Octet) (h : j ≠ o) : (s.setOctet o x).octet j = s.octet j :=
  SMap.get_set_other _ _ _ _ _ h
@[simp] theorem State.die_setDie_same (s : State) (d : Nat) (x : Die) : (s.setDie d x).die d = x :=
  SMap.get_set_same _ _ _ _
theorem State.die_setDie_other (s : State) (d j : Nat) (x : Die) (h : j ≠ d) : (s.setDie d x).die j = s.die j :=
  SMap.get_set_other _ _ _ _ _ h

end Sys2Proof.Machine
end

