-- ==== Sys2Proof/Laws/Operands.lean ====
section
/-! SUPPORT. What reading operands gives, what an issue takes, and what the write of a scalar register and the end of an issue
leave: the lemmas that a statement about an instruction cites instead of unfolding these operations. -/

namespace Sys2Proof.Machine

/-! ## Reading (R170, R341, R73) -/

/-- A register that names itself. -/
theorem ofNat_reg (r : Reg) : BitVec.ofNat 6 r.toNat = r := by simp

/-- No register holds an instruction back whose operands are readable. -/
theorem State.Readable.unblocked {s : State} {u : Uses} (h : s.Readable u) :
    (u.blocks.find? fun b => !s.unblocked s.who b) = none := by
  rw [List.find?_eq_none]
  intro b hb
  simp only [Uses.blocks, List.mem_append, List.mem_map, Option.mem_toList, Option.map_eq_some_iff, List.mem_filter] at hb
  rcases hb with ((((⟨p, hp, rfl⟩ | ⟨v, hv, rfl⟩) | ⟨v, hv, rfl⟩) | ⟨r, hr, rfl⟩) | ⟨v, hv, rfl⟩) | ⟨r, ⟨hr, hq⟩, rfl⟩
  · simp [State.unblocked, h.full p hp]
  · simp [State.unblocked, h.vectorFull v hv]
  · simp [State.unblocked, h.oldFull v hv]
  · simp [State.unblocked, h.notPending r (List.mem_append.2 hr)]
  · simp [State.unblocked, h.vectorNotPending v hv]
  · have hi : 56 ≤ r.toNat := by simpa [isStream] using hq
    simp [State.unblocked, (h.outbound r hr hi).2.2.2]

/-- Readable operands give their values. -/
theorem State.Readable.peek {s : State} {u : Uses} (h : s.Readable u) : s.peek u = .ok (s.vals u) := by
  have hs : s.static u = none := by
    unfold State.static
    rw [if_neg (by have := h.privilege; omega), if_neg]
    simp only [h.code, Bool.not_true, Bool.false_or, Bool.or_eq_true, List.any_eq_true, beq_iff_eq, not_or, not_exists,
      not_and]
    refine ⟨h.notM7, fun r hr => ?_⟩
    have := h.lateReg r hr
    simp [isStream]; omega
  have hf : s.streamFault s.who u = none := by
    unfold State.streamFault
    have h1 : ∀ p ∈ u.reads.filter (fun p => isStream p.1), (s.stream s.who.core p.1).bound = true ∧
        (s.stream s.who.core p.1).owner = some (s.ctx s.who).run ∧ (s.stream s.who.core p.1).outb = false ∧
        countReads u.reads p.1 ≤ (s.stream s.who.core p.1).leftOver := by
      intro p hp
      obtain ⟨hp, hi⟩ := List.mem_filter.1 hp
      obtain ⟨⟨a, b⟩, c, d⟩ := h.inbound p hp (by simpa [isStream] using hi)
      exact ⟨a, b, c, d⟩
    have h2 : ∀ r ∈ u.out.filter isStream, (s.stream s.who.core r).bound = true ∧
        (s.stream s.who.core r).owner = some (s.ctx s.who).run ∧ (s.stream s.who.core r).outb = true ∧
        0 < (s.stream s.who.core r).leftOver := by
      intro r hr
      obtain ⟨hr, hi⟩ := List.mem_filter.1 hr
      obtain ⟨⟨a, b⟩, c, d, -⟩ := h.outbound r hr (by simpa [isStream] using hi)
      exact ⟨a, b, c, d⟩
    dsimp only
    rw [if_neg, if_neg, if_neg, if_neg]
    · simp only [List.any_eq_true, not_exists, not_and, beq_iff_eq]
      intro r hr; have := h2 r hr; omega
    · simp only [List.any_eq_true, not_exists, not_and, decide_eq_true_eq]
      intro p hp; have := h1 p hp; omega
    · simp only [List.any_eq_true, not_exists, not_and]
      intro r hr; simp [h2 r hr]
    · simp only [List.any_eq_true, not_exists, not_and]
      intro p hp; simp [h1 p hp]
  unfold State.peek
  rw [hs]
  simp only [hf]
  rw [if_neg]
  · rw [h.unblocked]
    dsimp only
    congr 1
    unfold State.vals State.readVal
    cases u.dr <;> cases u.a <;> cases u.b <;> rfl
  · simp only [Bool.or_eq_true, List.any_eq_true, not_or, not_exists, not_and, Bool.and_eq_true]
    exact ⟨fun p hp _ => by simp [h.full p hp], fun v hv _ => by simp [h.vectorFull v hv]⟩

/-! ## Fields under the updates of registers -/

@[simp] theorem Ctx.setS_pc (x : Ctx) (i : Nat) (w : Word) : (x.setS i w).pc = x.pc := by unfold Ctx.setS; split <;> rfl
@[simp] theorem Ctx.setS_insCount (x : Ctx) (i : Nat) (w : Word) : (x.setS i w).insCount = x.insCount := by
  unfold Ctx.setS; split <;> rfl
@[simp] theorem Ctx.setS_run (x : Ctx) (i : Nat) (w : Word) : (x.setS i w).run = x.run := by unfold Ctx.setS; split <;> rfl

theorem tb_sb {n : Nat} (m : BitVec n) (i j : Nat) (b : Bool) (h : j < n) :
    tb (sb m i b) j = if i = j then b else tb m j := by
  have h' : (BitVec.ofNat n (2 ^ i)).getLsbD j = decide (i = j) := by
    rw [BitVec.getLsbD_ofNat, Nat.testBit_two_pow]; simp [h]
  unfold tb sb
  cases b
  · simp only [Bool.false_eq_true, if_false, BitVec.getLsbD_and, BitVec.getLsbD_not, h', h]
    split <;> simp_all
  · simp only [if_true, BitVec.getLsbD_or, h']
    split <;> simp_all

theorem tb_sb_same {n : Nat} (m : BitVec n) (i : Nat) (b : Bool) (h : i < n) : tb (sb m i b) i = b := by
  rw [tb_sb m i i b h, if_pos rfl]

theorem tb_sb_other {n : Nat} (m : BitVec n) (i j : Nat) (b : Bool) (h : i ≠ j) : tb (sb m i b) j = tb m j := by
  by_cases hj : j < n
  · rw [tb_sb m i j b hj, if_neg h]
  · unfold tb; rw [BitVec.getLsbD_of_ge _ _ (by omega), BitVec.getLsbD_of_ge _ _ (by omega)]

/-! ## What a read takes (R72, R75) -/

/-- A stream without its first `n` elements. -/
def Stream.popped (q : Stream) (n : Nat) : Stream := { q with buf := q.buf.drop n, done := q.done + n }

/-- What a commit leaves for the streams of a list of places: their elements read are gone; nothing else changes but the
agenda, which has the moves of the streams. -/
structure State.TookQ (s t : State) (u : Uses) (l : List Nat) : Prop where
  device : t = { s with cores := t.cores, agenda := t.agenda, seq := t.seq }
  otherCores : ∀ k, k ≠ s.who.core → t.coreAt k = s.coreAt k
  core : ∃ q, t.coreAt s.who.core = { s.coreAt s.who.core with q := q } ∧
    (∀ i, i ∉ l → rd q i {} = rd (s.coreAt s.who.core).q i {}) ∧
    ∀ i ∈ l, rd q i {} = (rd (s.coreAt s.who.core).q i {}).popped (countReads u.reads (BitVec.ofNat 6 (56 + i)))
  agenda : ∃ new : List Pending, t.agenda = new ++ s.agenda ∧ ∀ p ∈ new, p.ev = .streamElementMove

/-- The step of a commit for one stream. -/
def takeStep (u : Uses) (core : Nat) (s : State) (i : Nat) : State :=
  let n := countReads u.reads (BitVec.ofNat 6 (56 + i))
  if n == 0 then s
  else (s.modCore core fun k =>
    { k with q := wr k.q i (let q := rd k.q i {}; { q with buf := q.buf.drop n, done := q.done + n }) }).post s.cycle
      .streamElementMove { core := core, n := i }

theorem takeStep_took (s : State) (u : Uses) (i : Nat) (hi : i < 8) : s.TookQ (takeStep u s.who.core s i) u [i] := by
  unfold takeStep
  by_cases h : countReads u.reads (BitVec.ofNat 6 (56 + i)) = 0
  · simp only [h, beq_self_eq_true, if_true]
    refine ⟨rfl, fun _ _ => rfl, ⟨(s.coreAt s.who.core).q, rfl, fun _ _ => rfl, fun j hj => ?_⟩, [], rfl, by simp⟩
    obtain rfl : j = i := by simpa using hj
    simp only [Stream.popped, h, List.drop_zero, Nat.add_zero]
  · simp only [beq_iff_eq, h, if_false]
    refine ⟨rfl, fun k hk => ?_, ⟨wr (s.coreAt s.who.core).q i ((rd (s.coreAt s.who.core).q i {}).popped
      (countReads u.reads (BitVec.ofNat 6 (56 + i)))), ?_, ?_, ?_⟩, [_], rfl, by simp⟩
    · simp only [State.coreAt_post, State.modCore_eq]
      exact State.coreAt_setCore_other _ _ _ _ hk
    · simp only [State.coreAt_post, State.modCore_eq, State.coreAt_setCore_same]
      rfl
    · intro j hj; exact rd_wr_other _ _ _ _ _ (by simpa using fun e => hj (by simp [e]))
    · intro j hj
      obtain rfl : j = i := by simpa using hj
      exact rd_wr_same _ _ _ _ hi

theorem State.TookQ.who {s t : State} {u : Uses} {l : List Nat} (h : s.TookQ t u l) : t.who = s.who := by rw [h.device]

theorem takeSteps_took (u : Uses) (l : List Nat) : ∀ (s : State), (∀ i ∈ l, i < 8) → l.Nodup →
    s.TookQ (l.foldl (takeStep u s.who.core) s) u l := by
  induction l with
  | nil => intro s _ _; exact ⟨rfl, fun _ _ => rfl, ⟨_, rfl, fun _ _ => rfl, by simp⟩, [], rfl, by simp⟩
  | cons i l ih =>
    intro s h8 hn
    have h1 := takeStep_took s u i (h8 i (by simp))
    have hn' := List.nodup_cons.1 hn
    have h2 := ih (takeStep u s.who.core s i) (fun j hj => h8 j (by simp [hj])) hn'.2
    rw [h1.who] at h2
    simp only [List.foldl_cons]
    generalize takeStep u s.who.core s i = m at h1 h2
    generalize l.foldl (takeStep u s.who.core) m = t at h2
    obtain ⟨q1, e1, o1, t1⟩ := h1.core
    obtain ⟨q2, e2, o2, t2⟩ := h2.core
    rw [h1.who, e1] at e2
    rw [h1.who, e1] at o2 t2
    refine ⟨?_, ?_, ⟨q2, e2, ?_, ?_⟩, ?_⟩
    · have a := h1.device; have b := h2.device
      rw [b, a]
    · intro k hk
      rw [h2.otherCores k (by rw [h1.who]; exact hk), h1.otherCores k hk]
    · intro j hj
      simp only [List.mem_cons, not_or] at hj
      rw [o2 j hj.2, o1 j (by simpa using hj.1)]
    · intro j hj
      rcases List.mem_cons.1 hj with rfl | hl
      · rw [o2 j hn'.1]; exact t1 j (by simp)
      · have hne : j ∉ [i] := by
          simp only [List.mem_singleton]; rintro rfl; exact hn'.1 hl
        rw [t2 j hl, o1 j hne]
    · obtain ⟨n1, a1, b1⟩ := h1.agenda
      obtain ⟨n2, a2, b2⟩ := h2.agenda
      refine ⟨n2 ++ n1, by rw [a2, a1, List.append_assoc], fun p hp => ?_⟩
      rcases List.mem_append.1 hp with hp | hp
      · exact b2 p hp
      · exact b1 p hp

/-- What a commit leaves: the elements read are gone from their streams, m7 is taken once where it is read, and nothing else
changes but the agenda. -/
structure State.Took (s t : State) (u : Uses) : Prop where
  device : t = { s with cores := t.cores, agenda := t.agenda, seq := t.seq }
  otherCores : ∀ k, k ≠ s.who.core → t.coreAt k = s.coreAt k
  core : ∃ q, t.coreAt s.who.core =
      { (if u.reads.any (fun p => p.1 == 55) then (s.coreAt s.who.core).takeM 7 else s.coreAt s.who.core) with q := q } ∧
    ∀ i, i < 8 → rd q i {} = (rd (s.coreAt s.who.core).q i {}).popped (countReads u.reads (BitVec.ofNat 6 (56 + i)))
  agenda : ∃ new : List Pending, t.agenda = new ++ s.agenda ∧ ∀ p ∈ new, p.ev = .streamElementMove

theorem Core.takeM_q (k : Core) (i : Nat) : (k.takeM i).q = k.q := by
  unfold Core.takeM
  dsimp only
  split
  · split <;> rfl
  · rfl

theorem State.commit_took (s : State) (u : Uses) : s.Took (s.commit u) u := by
  have e : s.commit u = (List.range 8).foldl (takeStep u s.who.core)
      (if u.reads.any (fun p => p.1 == 55) then s.modCore s.who.core fun k => k.takeM 7 else s) := rfl
  rw [e]
  by_cases h : (u.reads.any fun p => p.1 == 55) = true
  · rw [if_pos h]
    have hw : (s.modCore s.who.core fun k => k.takeM 7).who = s.who := rfl
    have h1 := takeSteps_took u (List.range 8) (s.modCore s.who.core fun k => k.takeM 7) (by simp) List.nodup_range
    rw [hw] at h1
    generalize List.foldl (takeStep u s.who.core) _ _ = t at h1
    obtain ⟨q, e1, -, t1⟩ := h1.core
    rw [hw, State.modCore_eq, State.coreAt_setCore_same] at e1
    refine ⟨by rw [h1.device]; rfl, fun k hk => ?_, ⟨q, ?_, fun i hi => ?_⟩, h1.agenda⟩
    · rw [h1.otherCores k hk, State.modCore_eq, State.coreAt_setCore_other _ _ _ _ hk]
    · rw [if_pos h]; exact e1
    · rw [t1 i (by simpa using hi), hw, State.modCore_eq, State.coreAt_setCore_same, Core.takeM_q]
  · rw [if_neg h]
    have h1 := takeSteps_took u (List.range 8) s (by simp) List.nodup_range
    generalize List.foldl (takeStep u s.who.core) _ _ = t at h1
    obtain ⟨q, e1, -, t1⟩ := h1.core
    refine ⟨h1.device, h1.otherCores, ⟨q, ?_, fun i hi => t1 i (by simpa using hi)⟩, h1.agenda⟩
    rw [if_neg h]; exact e1

theorem State.Took.ctx {s t : State} {u : Uses} (h : s.Took t u) (c : CtxId) : t.ctx c = s.ctx c := by
  rw [h.device]; rfl

theorem State.Took.who {s t : State} {u : Uses} (h : s.Took t u) : t.who = s.who := by rw [h.device]
theorem State.Took.cycle {s t : State} {u : Uses} (h : s.Took t u) : t.cycle = s.cycle := by rw [h.device]
theorem State.Took.word {s t : State} {u : Uses} (h : s.Took t u) : t.word = s.word := by rw [h.device]
theorem State.Took.mem {s t : State} {u : Uses} (h : s.Took t u) : t.mem = s.mem := by rw [h.device]

/-! ## The write of a register and the end of an issue -/

/-- What the write of a scalar register leaves in a context. -/
theorem Ctx.setS_s (x : Ctx) (i j : Nat) (w : Word) (hi : i < 32) (hj : j ≠ 0) :
    rd (x.setS i w).s j 0 = if i = j then w else rd x.s j 0 := by
  unfold Ctx.setS
  by_cases h : i = 0
  · simp [h, Ne.symm hj]
  · simp only [beq_iff_eq, h, if_false]
    split
    · subst_vars; exact rd_wr_same _ _ _ _ hi
    · exact rd_wr_other _ _ _ _ _ (by assumption)

theorem Ctx.setS_sFull (x : Ctx) (i j : Nat) (w : Word) (hj : j ≠ 0) (hj' : j < 32) :
    tb (x.setS i w).sFull j = if i = j then true else tb x.sFull j := by
  unfold Ctx.setS
  by_cases h : i = 0
  · simp [h, Ne.symm hj]
  · simp only [beq_iff_eq, h, if_false]
    exact tb_sb _ _ _ _ hj'

theorem Ctx.setS_sPend (x : Ctx) (i j : Nat) (w : Word) (hj : j ≠ 0) (hj' : j < 32) :
    tb (x.setS i w).sPend j = if i = j then false else tb x.sPend j := by
  unfold Ctx.setS
  by_cases h : i = 0
  · simp [h, Ne.symm hj]
  · simp only [beq_iff_eq, h, if_false]
    exact tb_sb _ _ _ _ hj'

theorem Ctx.setS_sPend0 (x : Ctx) (i : Nat) (w : Word) : tb (x.setS i w).sPend 0 = tb x.sPend 0 := by
  unfold Ctx.setS
  by_cases h : i = 0
  · simp [h]
  · simp only [beq_iff_eq, h, if_false]
    exact tb_sb_other _ _ _ _ h

theorem Ctx.setS_frame (x : Ctx) (i : Nat) (w : Word) :
    x.setS i w = { x with s := (x.setS i w).s, sFull := (x.setS i w).sFull, sPend := (x.setS i w).sPend,
                          buddy := (x.setS i w).buddy } := by
  unfold Ctx.setS; split <;> rfl

/-- The end of an issue. -/
theorem State.endAt_ctx (s : State) (pc : Word) : (s.endAt pc).ctx s.who = (s.ctx s.who).issued s.cycle s.word pc := by
  unfold State.endAt; rw [State.modCtx_eq, State.ctx_setCtx_same]

theorem Ctx.issueFrame_issued (x y : Ctx) (h : x.IssueFrame y) (n : Nat) (w pc : Word) : x.IssueFrame (y.issued n w pc) := by
  unfold Ctx.IssueFrame at *
  unfold Ctx.issued Ctx.modBuddy
  rw [h]

theorem Core.takeM_frame (k : Core) (i : Nat) : k.IssueFrame (k.takeM i) := by
  unfold Core.takeM Core.IssueFrame
  dsimp only
  split
  · split <;> rfl
  · rfl

theorem Core.IssueFrame.withQ {k l : Core} (h : k.IssueFrame l) (q : Vector Stream 8) : k.IssueFrame { l with q := q } := by
  unfold Core.IssueFrame at *
  rw [h]

/-- The parts of a core that hold its common registers and mailboxes, but for m7. -/
structure Core.SameRegs (k l : Core) : Prop where
  c : l.c = k.c
  cFull : l.cFull = k.cFull
  cPend : l.cPend = k.cPend
  m : ∀ i, i < 7 → rd l.m i 0 = rd k.m i 0
  mFull : ∀ i, i < 7 → tb l.mFull i = tb k.mFull i
  mPend : ∀ i, i < 7 → tb l.mPend i = tb k.mPend i

theorem Core.takeM_same (k : Core) : k.SameRegs (k.takeM 7) := by
  unfold Core.takeM
  simp only [beq_self_eq_true, if_true]
  split
  · refine ⟨rfl, rfl, rfl, fun _ _ => rfl, fun i hi => ?_, fun _ _ => rfl⟩
    exact tb_sb_other _ _ _ _ (by omega)
  · unfold Core.setM
    refine ⟨rfl, rfl, rfl, fun i hi => ?_, fun i hi => ?_, fun i hi => ?_⟩
    · exact rd_wr_other _ _ _ _ _ (by omega)
    · dsimp only; rw [tb_sb_other _ _ _ _ (by omega), tb_sb_other _ _ _ _ (by omega)]
    · exact tb_sb_other _ _ _ _ (by omega)

/-- The core after a commit. -/
theorem State.Took.regs {s t : State} {u : Uses} (h : s.Took t u) :
    (s.coreAt s.who.core).SameRegs (t.coreAt s.who.core) ∧ (s.coreAt s.who.core).IssueFrame (t.coreAt s.who.core) ∧
    ((∀ p ∈ u.reads, p.1 ≠ 55) → rd (t.coreAt s.who.core).m 7 0 = rd (s.coreAt s.who.core).m 7 0 ∧
      tb (t.coreAt s.who.core).mFull 7 = tb (s.coreAt s.who.core).mFull 7) ∧
    ∀ i, i < 8 → rd (t.coreAt s.who.core).q i {} =
      (rd (s.coreAt s.who.core).q i {}).popped (countReads u.reads (BitVec.ofNat 6 (56 + i))) := by
  obtain ⟨q, e, hq⟩ := h.core
  rw [e]
  by_cases h7 : (u.reads.any fun p => p.1 == 55) = true
  · rw [if_pos h7]
    refine ⟨⟨?_, ?_, ?_, ?_, ?_, ?_⟩, (Core.takeM_frame _ _).withQ q, fun hn => ?_, hq⟩
    · exact (Core.takeM_same _).c
    · exact (Core.takeM_same _).cFull
    · exact (Core.takeM_same _).cPend
    · exact (Core.takeM_same _).m
    · exact (Core.takeM_same _).mFull
    · exact (Core.takeM_same _).mPend
    · obtain ⟨p, hp, h5⟩ := List.any_eq_true.1 h7
      exact absurd (by simpa using h5) (hn p hp)
  · rw [if_neg h7]
    exact ⟨⟨rfl, rfl, rfl, fun _ _ => rfl, fun _ _ => rfl, fun _ _ => rfl⟩, rfl, fun _ => ⟨rfl, rfl⟩, hq⟩

/-- What a state says of a context's scalar registers, from its context and its core. -/
theorem State.reg_congr {s t : State} {c : CtxId} (hx : (t.ctx c).s = (s.ctx c).s ∧ (t.ctx c).sFull = (s.ctx c).sFull ∧
    (t.ctx c).sPend = (s.ctx c).sPend) (hk : (s.coreAt c.core).SameRegs (t.coreAt c.core)) (r : Reg) (hr : r.toNat < 55) :
    t.regVal c r 0 = s.regVal c r 0 ∧ t.regFull c r 1 = s.regFull c r 1 ∧ t.regPend c r = s.regPend c r := by
  obtain ⟨h1, h2, h3⟩ := hx
  refine ⟨?_, ?_, ?_⟩
  · unfold State.regVal
    by_cases h48 : r.toNat < 48
    · simp only [h1, hk.c, h48, if_true]
    · have : rd (t.coreAt c.core).m (r.toNat - 48) 0 = rd (s.coreAt c.core).m (r.toNat - 48) 0 := hk.m _ (by omega)
      have h56 : r.toNat < 56 := by omega
      simp only [h1, hk.c, h48, h56, if_true, if_false, this]
  · unfold State.regFull
    by_cases h48 : r.toNat < 48
    · simp only [h2, hk.cFull, h48, if_true]
    · have := hk.mFull (r.toNat - 48) (by omega)
      have h56 : r.toNat < 56 := by omega
      simp only [h2, hk.cFull, h48, h56, if_true, if_false, this]
  · unfold State.regPend
    by_cases h48 : r.toNat < 48
    · simp only [h3, hk.cPend, h48, if_true]
    · have := hk.mPend (r.toNat - 48) (by omega)
      have h56 : r.toNat < 56 := by omega
      simp only [h3, hk.cPend, h48, h56, if_true, if_false, this]

theorem Reg.eq_of_toNat {r d : Reg} (h : r.toNat = d.toNat) : r = d := BitVec.eq_of_toNat_eq h

/-- The write of a register after a commit, in its four ranges: the context, the core, and the rest. -/
structure State.Stored (m t : State) (d : Reg) (w : Word) : Prop where
  device : t = { m with ctxs := t.ctxs, cores := t.cores, agenda := t.agenda, seq := t.seq }
  contexts : ∀ c : CtxId, c.key ≠ m.who.key → t.ctx c = m.ctx c
  otherCores : ∀ k, k ≠ m.who.core → t.coreAt k = m.coreAt k
  ctx : t.ctx m.who = if d.toNat < 32 then (m.ctx m.who).setS d.toNat w
    else if d.toNat < 56 then (m.ctx m.who).wrote d.toNat (w.setWidth 1024) else m.ctx m.who
  core : t.coreAt m.who.core =
    let k := m.coreAt m.who.core
    if d.toNat < 32 then k else if d.toNat < 48 then k.setC (d.toNat - 32) w
    else if d.toNat < 56 then k.setM (d.toNat - 48) w
    else
      let q := rd k.q (d.toNat - 56) {}
      { k with q := wr k.q (d.toNat - 56) { q with buf := q.buf ++ [q.trim w], done := q.done + 1 } }
  agenda : ∃ new : List Pending, t.agenda = new ++ m.agenda ∧ ∀ p ∈ new, p.ev = .streamElementMove

theorem State.setReg_stored (m : State) (d : Reg) (w : Word) : m.Stored (m.setReg d w) d w := by
  unfold State.setReg
  dsimp only
  by_cases h1 : d.toNat < 32
  · simp only [h1, if_true, State.modCtx_eq]
    refine ⟨rfl, fun c hc => State.ctx_setCtx_other _ _ _ _ hc, fun _ _ => rfl, ?_, ?_, [], rfl, by simp⟩
    · simp only [State.ctx_setCtx_same, h1, if_true]
    · simp only [h1, if_true]; rfl
  · by_cases h2 : d.toNat < 48
    · have h3 : d.toNat < 56 := by omega
      simp only [h1, h2, if_true, if_false, State.modCtx_eq, State.modCore_eq]
      refine ⟨rfl, fun c hc => ?_, fun k hk => ?_, ?_, ?_, [], rfl, by simp⟩
      · rw [State.ctx_setCore, State.ctx_setCtx_other _ _ _ _ hc]
      · rw [State.coreAt_setCore_other _ _ _ _ hk]; rfl
      · simp only [State.ctx_setCore, State.ctx_setCtx_same, h1, h3, if_true, if_false]
      · simp only [State.coreAt_setCore_same, h1, h2, if_true, if_false]; rfl
    · by_cases h3 : d.toNat < 56
      · simp only [h1, h2, h3, if_true, if_false, State.modCtx_eq, State.modCore_eq]
        refine ⟨rfl, fun c hc => ?_, fun k hk => ?_, ?_, ?_, [], rfl, by simp⟩
        · rw [State.ctx_setCore, State.ctx_setCtx_other _ _ _ _ hc]
        · rw [State.coreAt_setCore_other _ _ _ _ hk]; rfl
        · simp only [State.ctx_setCore, State.ctx_setCtx_same, h1, h3, if_true, if_false]
        · simp only [State.coreAt_setCore_same, h1, h2, h3, if_true, if_false]; rfl
      · simp only [h1, h2, h3, if_false, State.modCore_eq]
        refine ⟨rfl, fun c hc => rfl, fun k hk => ?_, ?_, ?_, [_], rfl, by simp⟩
        · rw [State.coreAt_post, State.coreAt_setCore_other _ _ _ _ hk]
        · simp only [State.ctx_post, State.ctx_setCore, h1, h3, if_false]
        · simp only [State.coreAt_post, State.coreAt_setCore_same, h1, h2, h3, if_false]

/-- What an instruction that reads `u` and writes `w` to `d` leaves. -/
theorem State.wrote (s : State) (u : Uses) (d : Reg) (w pc : Word) (h55 : d ≠ 55) :
    s.Wrote (((s.commit u).setReg d w).endAt pc) u d w pc := by
  have hm := s.commit_took u
  generalize s.commit u = m at hm
  have ht := m.setReg_stored d w
  generalize m.setReg d w = t at ht
  have hwm := hm.who
  have hwt : t.who = s.who := by rw [ht.device]; exact hwm
  have hct : t.cycle = s.cycle := by rw [ht.device]; exact hm.cycle
  have hwd : t.word = s.word := by rw [ht.device]; exact hm.word
  obtain ⟨hr, hkf, h7, hq⟩ := hm.regs
  have hcx := ht.ctx
  rw [hwm, hm.ctx] at hcx
  have hk := ht.core
  rw [hwm] at hk
  have hctx : (t.endAt pc).ctx s.who = (t.ctx s.who).issued s.cycle s.word pc := by
    rw [← hwt, State.endAt_ctx, hct, hwd]
  have hcore : ∀ k, (t.endAt pc).coreAt k = t.coreAt k := fun _ => rfl
  have hd55 : d.toNat ≠ 55 := fun h => h55 (BitVec.eq_of_toNat_eq h)
  have hfr : (s.ctx s.who).IssueFrame (t.ctx s.who) := by
    rw [hcx]
    unfold Ctx.IssueFrame
    split
    · rw [Ctx.setS_frame]
    · split <;> rfl
  have hi : ((t.ctx s.who).issued s.cycle s.word pc).s = (t.ctx s.who).s ∧
      ((t.ctx s.who).issued s.cycle s.word pc).sFull = (t.ctx s.who).sFull ∧
      ((t.ctx s.who).issued s.cycle s.word pc).sPend = (t.ctx s.who).sPend := ⟨rfl, rfl, rfl⟩
  have hn : (t.ctx s.who).insCount = (s.ctx s.who).insCount := by
    rw [hcx]
    split
    · simp
    · split <;> rfl
  -- the general registers
  have f1 : ∀ j, j ≠ 0 → j < 32 → rd (t.ctx s.who).s j 0 = (if d.toNat = j then w else rd (s.ctx s.who).s j 0) ∧
      tb (t.ctx s.who).sFull j = (if d.toNat = j then true else tb (s.ctx s.who).sFull j) := by
    intro j h0 h32
    rw [hcx]
    by_cases h : d.toNat < 32
    · simp only [h, if_true]
      exact ⟨Ctx.setS_s _ _ _ _ h h0, Ctx.setS_sFull _ _ _ _ h0 h32⟩
    · have hne : d.toNat ≠ j := by omega
      simp only [h, hne, if_false]
      split <;> exact ⟨rfl, rfl⟩
  have f1p : ∀ j, j < 32 → tb (t.ctx s.who).sPend j = if d.toNat = j ∧ j ≠ 0 then false else tb (s.ctx s.who).sPend j := by
    intro j h32
    rw [hcx]
    by_cases h : d.toNat < 32
    · simp only [h, if_true]
      by_cases h0 : j = 0
      · subst h0; simp [Ctx.setS_sPend0]
      · rw [Ctx.setS_sPend _ _ _ _ h0 h32]; simp [h0]
    · have hne : d.toNat ≠ j := by omega
      simp only [h, hne, if_false, false_and]
      split <;> rfl
  -- the common registers
  have f2 : ∀ i, i < 16 → rd (t.coreAt s.who.core).c i 0 =
        (if d.toNat = 32 + i then w else rd (s.coreAt s.who.core).c i 0) ∧
      tb (t.coreAt s.who.core).cFull i = (if d.toNat = 32 + i then true else tb (s.coreAt s.who.core).cFull i) ∧
      tb (t.coreAt s.who.core).cPend i = (if d.toNat = 32 + i then false else tb (s.coreAt s.who.core).cPend i) := by
    intro i hi
    rw [hk]
    dsimp only
    rw [← hr.c, ← hr.cFull, ← hr.cPend]
    by_cases h1 : d.toNat < 32
    · have hne : d.toNat ≠ 32 + i := by omega
      simp only [h1, hne, if_true, if_false]; first | exact ⟨rfl, rfl, rfl⟩ | simp
    · by_cases h2 : d.toNat < 48
      · simp only [h1, h2, if_true, if_false, Core.setC]
        by_cases he : d.toNat = 32 + i
        · have e : d.toNat - 32 = i := by omega
          simp only [he, if_true, Nat.add_sub_cancel_left]
          exact ⟨rd_wr_same _ _ _ _ hi, tb_sb_same _ _ _ hi, tb_sb_same _ _ _ hi⟩
        · simp only [he, if_false]
          exact ⟨rd_wr_other _ _ _ _ _ (by omega), tb_sb_other _ _ _ _ (by omega), tb_sb_other _ _ _ _ (by omega)⟩
      · have he : d.toNat ≠ 32 + i := by omega
        simp only [h1, h2, he, if_false]
        split <;> exact ⟨rfl, rfl, rfl⟩
  -- the mailboxes but for m7
  have f3 : ∀ i, i < 7 → rd (t.coreAt s.who.core).m i 0 =
        (if d.toNat = 48 + i then w else rd (s.coreAt s.who.core).m i 0) ∧
      tb (t.coreAt s.who.core).mFull i = (if d.toNat = 48 + i then true else tb (s.coreAt s.who.core).mFull i) ∧
      tb (t.coreAt s.who.core).mPend i = (if d.toNat = 48 + i then false else tb (s.coreAt s.who.core).mPend i) := by
    intro i hi
    have e1 := hr.m i hi
    have e2 := hr.mFull i hi
    have e3 := hr.mPend i hi
    rw [hk]
    dsimp only
    rw [← e1, ← e2, ← e3]
    by_cases h1 : d.toNat < 32
    · have hne : d.toNat ≠ 48 + i := by omega
      simp only [h1, hne, if_true, if_false]; first | exact ⟨rfl, rfl, rfl⟩ | simp
    · by_cases h2 : d.toNat < 48
      · have he : d.toNat ≠ 48 + i := by omega
        simp only [h1, h2, he, if_true, if_false]
        exact ⟨rfl, rfl, rfl⟩
      · by_cases h3 : d.toNat < 56
        · simp only [h1, h2, h3, if_true, if_false, Core.setM]
          by_cases he : d.toNat = 48 + i
          · simp only [he, if_true, Nat.add_sub_cancel_left]
            exact ⟨rd_wr_same _ _ _ _ (by omega), tb_sb_same _ _ _ (by omega), tb_sb_same _ _ _ (by omega)⟩
          · simp only [he, if_false]
            exact ⟨rd_wr_other _ _ _ _ _ (by omega), tb_sb_other _ _ _ _ (by omega), tb_sb_other _ _ _ _ (by omega)⟩
        · have he : d.toNat ≠ 48 + i := by omega
          simp only [h1, h2, h3, he, if_false]
          first | exact ⟨rfl, rfl, rfl⟩ | simp
  -- m7
  have f4 : rd (t.coreAt s.who.core).m 7 0 = rd (m.coreAt s.who.core).m 7 0 ∧
      tb (t.coreAt s.who.core).mFull 7 = tb (m.coreAt s.who.core).mFull 7 := by
    rw [hk]
    dsimp only
    by_cases h1 : d.toNat < 32
    · simp only [h1, if_true]; first | exact ⟨rfl, rfl⟩ | simp
    · by_cases h2 : d.toNat < 48
      · simp only [h1, h2, if_true, if_false]; exact ⟨rfl, rfl⟩
      · by_cases h3 : d.toNat < 56
        · simp only [h1, h2, h3, if_true, if_false, Core.setM]
          exact ⟨rd_wr_other _ _ _ _ _ (by omega), tb_sb_other _ _ _ _ (by omega)⟩
        · simp only [h1, h2, h3, if_false]; first | exact ⟨rfl, rfl⟩ | simp
  -- what the accessors say of it
  have g : ∀ r : Reg, r.toNat < 55 → (r ≠ 0 → r = d → (t.endAt pc).regVal s.who r 0 = w ∧
        (t.endAt pc).regFull s.who r 1 = true ∧ (t.endAt pc).regPend s.who r = false) ∧
      (r ≠ d → (t.endAt pc).regVal s.who r 0 = s.regVal s.who r 0 ∧ (t.endAt pc).regFull s.who r 1 = s.regFull s.who r 1 ∧
        (t.endAt pc).regPend s.who r = s.regPend s.who r) := by
    intro r hr55
    have hne : r ≠ d → d.toNat ≠ r.toNat := fun h e => h (BitVec.eq_of_toNat_eq e.symm)
    have h00 : r ≠ 0 → r.toNat ≠ 0 := fun h e => h (BitVec.eq_of_toNat_eq e)
    unfold State.regVal State.regFull State.regPend
    rw [hcore, hctx, hi.1, hi.2.1, hi.2.2]
    by_cases h0 : r.toNat = 0
    · have a := f1p 0 (by omega)
      refine ⟨fun h => absurd h0 (h00 h), fun h => ?_⟩
      have hd0 : d.toNat ≠ 0 := fun e => hne h (by omega)
      simp [h0, a]
    · by_cases h32 : r.toNat < 32
      · obtain ⟨a, b⟩ := f1 _ h0 h32
        have c := f1p _ h32
        simp only [beq_iff_eq, h0, h32, if_true, if_false, a, b, c]
        refine ⟨fun _ h => ?_, fun h => ?_⟩
        · subst h; simp [h0]
        · have := hne h; simp [this]
      · by_cases h48 : r.toNat < 48
        · obtain ⟨a, b, c⟩ := f2 (r.toNat - 32) (by omega)
          have e : 32 + (r.toNat - 32) = r.toNat := by omega
          rw [e] at a b c
          simp only [beq_iff_eq, h0, h32, h48, if_true, if_false, a, b, c]
          refine ⟨fun _ h => ?_, fun h => ?_⟩
          · subst h; simp
          · have := hne h; simp [this]
        · obtain ⟨a, b, c⟩ := f3 (r.toNat - 48) (by omega)
          have e : 48 + (r.toNat - 48) = r.toNat := by omega
          have h56 : r.toNat < 56 := by omega
          rw [e] at a b c
          simp only [beq_iff_eq, h0, h32, h48, h56, if_true, if_false, a, b, c]
          refine ⟨fun _ h => ?_, fun h => ?_⟩
          · subst h; simp
          · have := hne h; simp [this]
  obtain ⟨n1, a1, b1⟩ := hm.agenda
  obtain ⟨n2, a2, b2⟩ := ht.agenda
  exact
    { issued := ⟨by rw [hctx]; rfl, by rw [hctx]; rfl, by rw [hctx]; rfl, by rw [hctx]; unfold Ctx.issued Ctx.modBuddy; rw [← hn]⟩
      same :=
        ⟨by
          have e : t.endAt pc = { t with ctxs := (t.endAt pc).ctxs } := rfl
          have e' := ht.device
          have e'' := hm.device
          rw [e, e', e''],
         fun c hc => by
          have h1 : (t.endAt pc).ctx c = t.ctx c := State.ctx_setCtx_other _ _ _ _ (by rw [hwt]; exact hc)
          rw [h1, ht.contexts c (by rw [hwm]; exact hc), hm.ctx],
         fun k hk' => by rw [hcore, ht.otherCores k (by rw [hwm]; exact hk'), hm.otherCores k hk']⟩
      ctxFrame := by rw [hctx]; exact Ctx.issueFrame_issued _ _ hfr _ _ _
      coreFrame := by
        rw [hcore, hk]
        unfold Core.IssueFrame at *
        dsimp only
        split
        · exact hkf
        · split
          · unfold Core.setC; rw [hkf]
          · split
            · unfold Core.setM; rw [hkf]
            · rw [hkf]
      zero := rfl
      value := fun h0 h56 => (g d (by omega)).1 h0 rfl
      others := fun r hne hr => (g r hr).2 hne
      m7 := fun h => by
        obtain ⟨a, b⟩ := h7 h
        unfold State.regVal State.regFull
        simp only [hcore]
        exact ⟨f4.1.trans a, f4.2.trans b⟩
      streams := fun i hi8 => by
        rw [hcore]
        have hq8 := hq i hi8
        have hb : (BitVec.ofNat 6 (56 + i)).toNat = 56 + i := by
          rw [BitVec.toNat_ofNat, Nat.mod_eq_of_lt (by omega)]
        have hiff : d = BitVec.ofNat 6 (56 + i) ↔ d.toNat = 56 + i :=
          ⟨fun h => by rw [h, hb], fun h => BitVec.eq_of_toNat_eq (by rw [h, hb])⟩
        rw [hk]
        dsimp only
        by_cases h56 : d.toNat < 56
        · have hne : d ≠ BitVec.ofNat 6 (56 + i) := fun e => by rw [hiff] at e; omega
          rw [if_neg hne, if_neg hne]
          have e2 : ∀ k l : Core, (if d.toNat < 32 then k else if d.toNat < 48 then k.setC (d.toNat - 32) w
              else if d.toNat < 56 then k.setM (d.toNat - 48) w else l).q = k.q := by
            intro k l
            by_cases h1 : d.toNat < 32
            · simp [h1]
            · by_cases h2 : d.toNat < 48
              · simp [h1, h2, Core.setC]
              · simp [h1, h2, h56, Core.setM]
          rw [e2, hq8]
          simp [Stream.popped]
        · have h1 : ¬ d.toNat < 32 := by omega
          have h2 : ¬ d.toNat < 48 := by omega
          simp only [h1, h2, h56, if_false]
          by_cases he : d.toNat = 56 + i
          · have e : d.toNat - 56 = i := by omega
            rw [if_pos (hiff.2 he), if_pos (hiff.2 he), e, rd_wr_same _ _ _ _ hi8, hq8]
            exact ⟨rfl, rfl⟩
          · have hne : d ≠ BitVec.ofNat 6 (56 + i) := fun e => he (hiff.1 e)
            rw [if_neg hne, if_neg hne, rd_wr_other _ _ _ _ _ (by omega), hq8]
            simp [Stream.popped]
      bytes := fun a => by
        have e : (t.endAt pc).mem = s.mem := by
          have : (t.endAt pc).mem = t.mem := rfl
          rw [this, ht.device]; exact hm.mem
        rw [e]
      agenda := ⟨n2 ++ n1, by
        have : (t.endAt pc).agenda = t.agenda := rfl
        rw [this, a2, a1, List.append_assoc], fun p hp => by
        rcases List.mem_append.1 hp with hp | hp
        · exact b2 p hp
        · exact b1 p hp⟩ }

theorem SMap.set_set {α : Type} (m : SMap α) (k : Nat) (x y : α) : (m.set k x).set k y = m.set k y := by
  induction m with
  | nil => simp [SMap.set]
  | cons p r ih =>
    obtain ⟨j, z⟩ := p
    by_cases h : j = k
    · simp [SMap.set, h]
    · by_cases h2 : k < j
      · simp [SMap.set, h, h2]
      · simp [SMap.set, h, h2, ih]

/-- A write of s0 leaves nothing that the end of the issue does not. -/
theorem State.endAt_setReg_zero (s : State) (w pc : Word) : (s.setReg 0 w).endAt pc = s.endAt pc := by
  have h : s.setReg 0 w = s.setCtx s.who (s.ctx s.who) := rfl
  rw [h]
  unfold State.endAt
  simp only [State.modCtx_eq, State.setCtx_who, State.setCtx_cycle, State.setCtx_word, State.ctx_setCtx_same]
  unfold State.setCtx
  simp only [SMap.set_set]

/-- An instruction that writes no scalar register. -/
theorem State.wrote_none (s : State) (u : Uses) (w pc : Word) : s.Wrote ((s.commit u).endAt pc) u 0 w pc := by
  rw [← State.endAt_setReg_zero _ w]
  exact s.wrote u 0 w pc (by decide)

/-- An instruction that reads nothing takes nothing. -/
theorem State.commit_none (s : State) (u : Uses) (h : u.reads = []) : s.commit u = s := by
  simp [State.commit, h, countReads, List.range, List.range.loop]

/-- The next pc after a commit and a write is the one that the issue started with. -/
theorem State.setReg_commit_pc (s : State) (u : Uses) (d : Reg) (w : Word) :
    (((s.commit u).setReg d w).ctx ((s.commit u).setReg d w).who).pc = (s.ctx s.who).pc := by
  have hm := s.commit_took u
  generalize s.commit u = m at hm
  have ht := m.setReg_stored d w
  generalize m.setReg d w = t at ht
  have hw : t.who = m.who := by rw [ht.device]
  rw [hw, ht.ctx, hm.who, hm.ctx]
  split
  · simp
  · split <;> rfl

/-- An instruction that computes in its issue cycle. -/
theorem State.compute_wrote (s : State) (u : Uses) (f : Vals → Word) (d : Reg) (h : s.Readable u) (hd : u.out = [d]) :
    s.Wrote (s.compute u f) u d (f (s.vals u)) ((s.ctx s.who).pc + 8) := by
  have e : s.compute u f = ((s.commit u).setReg d (f (s.vals u))).endAt ((s.ctx s.who).pc + 8) := by
    unfold State.compute State.finish
    rw [h.peek]
    simp only [hd, State.setReg_commit_pc]
  rw [e]
  exact s.wrote u d _ _ (h.notM7 d (by simp [hd]))

/-- A branch on operands. -/
theorem State.branchOn_wrote (s : State) (u : Uses) (disp : BitVec 30) (f : Vals → Bool) (w : Word) (h : s.Readable u) :
    s.Wrote (s.branchOn u disp f) u 0 w
      (if f (s.vals u) then branchTarget (s.ctx s.who).pc disp else (s.ctx s.who).pc + 8) := by
  have hc := s.commit_took u
  have e : s.branchOn u disp f = (s.commit u).endAt
      (if f (s.vals u) then branchTarget (s.ctx s.who).pc disp else (s.ctx s.who).pc + 8) := by
    unfold State.branchOn State.branch
    rw [h.peek]
    simp only [hc.who, hc.ctx]
  rw [e]
  exact s.wrote_none u w _

end Sys2Proof.Machine
end

