-- ==== Sys2Proof/Laws/Issue.lean ====
section
/-! SUPPORT. What an instruction leaves that traps or waits at its issue, in the order of its operand checks, and what the issue
of an access leaves: the lemmas that a statement about an instruction cites instead of unfolding these operations. -/

namespace Sys2Proof.Machine

/-! ## Traps and waits (R73, R170, R321 to R325, R341) -/

/-- Waking a homeroom posts steps, and changes nothing else. -/
theorem State.wakeHome_same (s : State) (k : Nat) :
    s.wakeHome k = { s with agenda := (s.wakeHome k).agenda, seq := (s.wakeHome k).seq } := by
  unfold State.wakeHome
  dsimp only
  cases (s.coreAt k).reaping <;> cases (s.coreAt k).taking <;> simp [State.postLate] <;> split <;> rfl

/-- A crossing from a die to itself is none. -/
@[simp] theorem crossings_self (d : Nat) : crossings d d = 0 := by simp [crossings]

/-- A notice of a die is due 20 cycles later, or later under traffic. -/
theorem State.notice_sent (s : State) (die : Nat) (n : Notice) :
    s.Sent (s.notice die n) 20 .noticeArrive { die := die, notice := { n with die := die } } := by
  refine ⟨_, List.mem_cons_self .., ?_, rfl, rfl, Nat.le_refl _⟩
  simp only [crossings_self]
  omega

/-- An instruction that traps at its issue. -/
theorem State.trapHere_trapped (s : State) (cause : Nat) (addr : Word) : s.Trapped (s.trapHere cause addr) cause addr := by
  have e : s.trapHere cause addr =
      if s.who.ctx == 0 then
        (s.setCtx s.who
          { s.ctx s.who with
            life := .trapped, wait := .none, starting := false, reported := false, relFault := none, stopAt := s.cycle
            frec := { cause := cause, pc := (s.ctx s.who).pc, addr := addr, word := s.word, ctx := s.who.ctx } }).notice
          (dieOf s.who.core)
          { kind := 0x09, cause := cause, core := s.who.core, ctx := 0, pc := (s.ctx s.who).pc, addr := addr, word := s.word }
      else
        (s.setCtx s.who
          { s.ctx s.who with
            life := .trapped, wait := .none, starting := false, reported := false, relFault := none, stopAt := s.cycle
            frec := { cause := cause, pc := (s.ctx s.who).pc, addr := addr, word := s.word, ctx := s.who.ctx } }).wakeHome
          s.who.core := rfl
  rw [e]
  constructor
  · constructor
    · split
      · rfl
      · rw [State.wakeHome_same]; rfl
    · intro c hc
      split
      · exact State.ctx_setCtx_other _ _ _ _ hc
      · rw [State.wakeHome_same]; exact State.ctx_setCtx_other _ _ _ _ hc
    · intro k _
      split
      · rfl
      · rw [State.wakeHome_same]; rfl
  · split
    · exact State.ctx_setCtx_same _ _ _
    · rw [State.wakeHome_same]; exact State.ctx_setCtx_same _ _ _
  · intro k
    split
    · rfl
    · rw [State.wakeHome_same]; rfl
  · intro h
    rw [if_pos (by simp [h])]
    exact State.notice_sent _ _ _
  · intro a
    split
    · rfl
    · rw [State.wakeHome_same]; rfl

/-- An instruction that waits for its issue conditions. -/
theorem State.block_waits (s : State) (kind : Nat) : s.Waits (s.block kind) kind := by
  have h : (s.block kind).ctx s.who = { s.ctx s.who with wait := .blocked kind, blockedOn := none, starting := false } :=
    State.ctx_setCtx_same _ _ _
  exact ⟨rfl, fun _ hc => State.ctx_setCtx_other _ _ _ _ hc, by rw [h], by rw [h]; simp⟩

/-- An instruction that waits for a register. -/
theorem State.blockOn_waits (s : State) (b : Block) (hb : s.unblocked s.who b = false) : s.Waits (s.blockOn b) 1 := by
  have h : (s.blockOn b).ctx s.who = { s.ctx s.who with wait := .blocked 1, blockedOn := some b, starting := false } :=
    State.ctx_setCtx_same _ _ _
  exact ⟨rfl, fun _ hc => State.ctx_setCtx_other _ _ _ _ hc, by rw [h], by rw [h]; simpa using hb⟩

/-- A register code that the instruction refuses traps with cause 0x05. -/
theorem State.peek_code {s : State} {u : Uses} (hp : u.need ≤ s.priv s.who) (h : u.CodeBad) :
    s.peek u = .stop (s.trapHere 0x05 0) := by
  have hs : s.static u = some 0x05 := by
    unfold State.static
    rw [if_neg (by omega), if_pos]
    rcases h with h | h
    · simp [h]
    · simp only [Bool.or_eq_true, List.any_eq_true, beq_iff_eq]
      exact .inl (.inr ⟨55, List.mem_append.2 (.inl h), rfl⟩)
  unfold State.peek
  rw [hs]

/-- Without a refused code, and without a late destination, no check stops an instruction before those of its streams. -/
theorem State.static_none {s : State} {u : Uses} (hp : u.need ≤ s.priv s.who) (h : ¬ u.CodeBad)
    (hl : ∀ r ∈ u.late, r ≠ 55 ∧ r.toNat < 56) : s.static u = none := by
  unfold State.static
  rw [if_neg (by omega), if_neg]
  simp only [Uses.CodeBad, not_or, Bool.not_eq_false] at h
  simp only [h.1, Bool.not_true, Bool.false_or, Bool.or_eq_true, List.any_eq_true, beq_iff_eq, not_or, not_exists, not_and,
    List.mem_append]
  refine ⟨?_, fun r hr => ?_⟩
  · rintro r (hr | hr) rfl
    · exact h.2 hr
    · exact (hl _ hr).1 rfl
  · have := (hl r hr).2
    simp [isStream]; omega

/-- A stream register that the context does not hold, or that runs the other way, stops the checks of the streams. -/
theorem State.streamFault_wrong {s : State} {u : Uses} (h : s.StreamWrong u) : s.streamFault s.who u = some 0x0A := by
  have mine : ∀ r : Reg, (!((s.stream s.who.core r).bound && (s.stream s.who.core r).owner == some (s.ctx s.who).run)) = true ↔
      ¬ s.holds r := by
    intro r
    simp only [State.holds, Bool.not_eq_true', Bool.and_eq_false_iff, beq_eq_false_iff_ne, not_and_or, Bool.not_eq_true, ne_eq]
  unfold State.streamFault
  dsimp only
  rcases h with ⟨p, hp, h56, h⟩ | ⟨r, hr, h56, h⟩
  · rw [if_pos]
    simp only [List.any_eq_true, List.mem_filter, Bool.or_eq_true]
    exact ⟨p, ⟨hp, by simpa [isStream] using h56⟩, by rwa [mine]⟩
  · split
    · rfl
    · rw [if_pos]
      simp only [List.any_eq_true, List.mem_filter, Bool.or_eq_true]
      exact ⟨r, ⟨hr, by simpa [isStream] using h56⟩, by rw [mine]; simpa using h⟩

/-- A stream without the elements left stops the checks of the streams that are held in their direction. -/
theorem State.streamFault_over {s : State} {u : Uses} (hw : ¬ s.StreamWrong u) (h : s.StreamOver u) :
    s.streamFault s.who u = some 0x09 := by
  obtain ⟨hi, ho⟩ := not_or.1 hw
  unfold State.streamFault
  dsimp only
  rw [if_neg, if_neg]
  · rcases h with ⟨p, hp, h56, h⟩ | ⟨r, hr, h56, h⟩
    · rw [if_pos]
      simp only [List.any_eq_true, List.mem_filter, decide_eq_true_eq]
      exact ⟨p, ⟨hp, by simpa [isStream] using h56⟩, h⟩
    · split
      · rfl
      · rw [if_pos]
        simp only [List.any_eq_true, List.mem_filter, beq_iff_eq]
        exact ⟨r, ⟨hr, by simpa [isStream] using h56⟩, h⟩
  · simp only [List.any_eq_true, List.mem_filter, Bool.or_eq_true, not_exists, not_and]
    rintro r ⟨hr, h56⟩ hh
    refine ho ⟨r, hr, by simpa [isStream] using h56, ?_⟩
    simp only [State.holds, not_and_or]
    simpa [or_assoc] using hh
  · simp only [List.any_eq_true, List.mem_filter, Bool.or_eq_true, not_exists, not_and]
    rintro p ⟨hp, h56⟩ hh
    refine hi ⟨p, hp, by simpa [isStream] using h56, ?_⟩
    simp only [State.holds, not_and_or]
    simpa [or_assoc] using hh

/-- Streams that are held in their direction with the elements left pass their checks. -/
theorem State.streamFault_none {s : State} {u : Uses} (hw : ¬ s.StreamWrong u) (ho : ¬ s.StreamOver u) :
    s.streamFault s.who u = none := by
  obtain ⟨hi, hx⟩ := not_or.1 hw
  obtain ⟨hy, hz⟩ := not_or.1 ho
  unfold State.streamFault
  dsimp only
  rw [if_neg, if_neg, if_neg, if_neg]
  · simp only [List.any_eq_true, List.mem_filter, beq_iff_eq, not_exists, not_and]
    rintro r ⟨hr, h56⟩ hh
    exact hz ⟨r, hr, by simpa [isStream] using h56, hh⟩
  · simp only [List.any_eq_true, List.mem_filter, decide_eq_true_eq, not_exists, not_and]
    rintro p ⟨hp, h56⟩ hh
    exact hy ⟨p, hp, by simpa [isStream] using h56, hh⟩
  · simp only [List.any_eq_true, List.mem_filter, Bool.or_eq_true, not_exists, not_and]
    rintro r ⟨hr, h56⟩ hh
    refine hx ⟨r, hr, by simpa [isStream] using h56, ?_⟩
    simp only [State.holds, not_and_or]
    simpa [or_assoc] using hh
  · simp only [List.any_eq_true, List.mem_filter, Bool.or_eq_true, not_exists, not_and]
    rintro p ⟨hp, h56⟩ hh
    refine hi ⟨p, hp, by simpa [isStream] using h56, ?_⟩
    simp only [State.holds, not_and_or]
    simpa [or_assoc] using hh

/-- The operand checks of an instruction, in their order (R170, R181, R73, R341). -/
theorem State.peek_stops {s : State} {u : Uses} (hp : u.need ≤ s.priv s.who) (hl : ∀ r ∈ u.late, r ≠ 55 ∧ r.toNat < 56) :
    (u.CodeBad → s.peek u = .stop (s.trapHere 0x05 0)) ∧
    (¬ u.CodeBad → s.StreamWrong u → s.peek u = .stop (s.trapHere 0x0A 0)) ∧
    (¬ u.CodeBad → ¬ s.StreamWrong u → s.StreamOver u → s.peek u = .stop (s.trapHere 0x09 0)) ∧
    (¬ u.CodeBad → ¬ s.StreamWrong u → ¬ s.StreamOver u → s.EmptyTraps u → s.peek u = .stop (s.trapHere 0x08 0)) ∧
    (¬ u.CodeBad → ¬ s.StreamWrong u → ¬ s.StreamOver u → ¬ s.EmptyTraps u → u.vs = [] →
      ((∃ p ∈ u.reads, s.unblocked s.who (.full p.1.toNat (countReads u.reads p.1)) = false) ∨
        ∃ d ∈ u.out ++ u.late, s.regPend s.who d = true) →
      ∃ b, s.unblocked s.who b = false ∧ s.peek u = .stop (s.blockOn b)) := by
  refine ⟨State.peek_code hp, fun h1 h2 => ?_, fun h1 h2 h3 => ?_, fun h1 h2 h3 h4 => ?_, fun h1 h2 h3 h4 hv h5 => ?_⟩ <;>
    unfold State.peek <;> rw [State.static_none hp h1 hl]
  · simp only [State.streamFault_wrong h2]
  · simp only [State.streamFault_over h2 h3]
  · simp only [State.streamFault_none h2 h3]
    rw [if_pos]
    obtain ⟨p, hp, he, hf⟩ := h4
    simp only [Bool.or_eq_true, List.any_eq_true]
    exact .inl ⟨p, hp, by simp [he, hf]⟩
  · simp only [State.streamFault_none h2 h3]
    rw [if_neg]
    · have hb : ∃ b ∈ u.blocks, (!s.unblocked s.who b) = true := by
        rcases h5 with ⟨p, hp, hf⟩ | ⟨d, hd, hf⟩
        · exact ⟨_, by simp only [Uses.blocks, List.mem_append, List.mem_map]
                       exact .inl (.inl (.inl (.inl (.inl ⟨p, hp, rfl⟩)))), by rw [hf]; rfl⟩
        · exact ⟨.pend d.toNat, by simp only [Uses.blocks, List.mem_append, List.mem_map]
                                   exact .inl (.inl (.inr ⟨d, List.mem_append.1 hd, rfl⟩)), by simp [State.unblocked, hf]⟩
      cases hf : u.blocks.find? fun b => !s.unblocked s.who b with
      | none =>
        obtain ⟨b, hb, hn⟩ := hb
        exact absurd hn (List.find?_eq_none.1 hf b hb)
      | some b =>
        have := List.find?_some hf
        exact ⟨b, by simpa using this, rfl⟩
    · simp only [hv, List.any_nil, Bool.or_false, List.any_eq_true, not_exists, not_and]
      intro p hp hh
      simp only [Bool.and_eq_true, beq_iff_eq, Bool.not_eq_true'] at hh
      exact h4 ⟨p, hp, hh.1, hh.2⟩

/-! ## What the issue of an access leaves (R72, R91, R104 to R106) -/

/-- What emptying a late destination leaves: the context's own bank and its buddy's record, and the common registers and mailboxes
of its core. -/
structure State.Emptied (m t : State) (c : CtxId) (late : List Reg) (vlate : Option (BitVec 3)) : Prop where
  device : t = { m with ctxs := t.ctxs, cores := t.cores }
  contexts : ∀ e : CtxId, e.key ≠ c.key → t.ctx e = m.ctx e
  otherCores : ∀ k, k ≠ c.core → t.coreAt k = m.coreAt k
  ctx : t.ctx c = { m.ctx c with sFull := (t.ctx c).sFull, sPend := (t.ctx c).sPend, vFull := (t.ctx c).vFull,
                                 vPend := (t.ctx c).vPend, buddy := (t.ctx c).buddy }
  core : t.coreAt c.core = { m.coreAt c.core with cFull := (t.coreAt c.core).cFull, cPend := (t.coreAt c.core).cPend,
                                                  mFull := (t.coreAt c.core).mFull, mPend := (t.coreAt c.core).mPend }
  buddy : (m.ctx c).buddy = none → (t.ctx c).buddy = none
  zero : tb (t.ctx c).sFull 0 = tb (m.ctx c).sFull 0 ∧ tb (t.ctx c).sPend 0 = tb (m.ctx c).sPend 0
  empty : ∀ r ∈ late, r ≠ 0 → r.toNat < 56 → t.regFull c r 1 = false ∧ t.regPend c r = true
  others : ∀ r : Reg, r ∉ late → r.toNat < 56 → t.regFull c r 1 = m.regFull c r 1 ∧ t.regPend c r = m.regPend c r
  vector : ∀ v ∈ vlate, tb (t.ctx c).vFull v.toNat = false ∧ tb (t.ctx c).vPend v.toNat = true
  vectors : ∀ i, i < 8 → (∀ v ∈ vlate, v.toNat ≠ i) →
    tb (t.ctx c).vFull i = tb (m.ctx c).vFull i ∧ tb (t.ctx c).vPend i = tb (m.ctx c).vPend i

/-- No destination: nothing is emptied. -/
theorem State.emptyDest_none (m : State) (c : CtxId) : m.Emptied (m.emptyDest c .none) c [] none := by
  refine ⟨rfl, fun _ _ => rfl, fun _ _ => rfl, rfl, rfl, id, ⟨rfl, rfl⟩, by simp, fun _ _ _ => ⟨rfl, rfl⟩, by simp, fun _ _ _ => ⟨rfl, rfl⟩⟩

/-- A vector destination empties its register's lanes, and nothing else. -/
theorem State.emptyDest_vec (m : State) (c : CtxId) (v : BitVec 3) (mask : BitVec 32) (keep : Bool) :
    m.Emptied (m.emptyDest c (.vec v mask keep)) c [] (some v) := by
  have hc : (m.emptyDest c (.vec v mask keep)).ctx c = (m.ctx c).clearV v.toNat := State.ctx_setCtx_same _ _ _
  have hv := v.isLt
  constructor
  · rfl
  · intro e he; exact State.ctx_setCtx_other _ _ _ _ he
  · exact fun _ _ => rfl
  · rw [hc]; rfl
  · rfl
  · rw [hc]; intro h; simp [Ctx.clearV, Ctx.awaits, Ctx.modBuddy, h]
  · rw [hc]; exact ⟨rfl, rfl⟩
  · simp
  · intro r _ _
    unfold State.regFull State.regPend
    rw [hc]; exact ⟨rfl, rfl⟩
  · intro u hu
    obtain rfl : v = u := by simpa using hu
    rw [hc]
    exact ⟨tb_sb_same _ _ _ hv, tb_sb_same _ _ _ hv⟩
  · intro i hi h
    rw [hc]
    exact ⟨tb_sb_other _ _ _ _ (h v (by simp)), tb_sb_other _ _ _ _ (h v (by simp))⟩

/-- A scalar destination empties its register, and nothing else. -/
theorem State.emptyDest_reg (m : State) (c : CtxId) (d : Reg) (hd : d.toNat < 56) :
    m.Emptied (m.emptyDest c (.reg d)) c [d] none := by
  unfold State.emptyDest
  dsimp only
  have hne : ∀ r : Reg, r ∉ [d] → r.toNat ≠ d.toNat := fun r hr e => hr (by simp [BitVec.eq_of_toNat_eq e])
  by_cases h1 : d.toNat < 32
  · simp only [h1, if_true]
    have hc : (m.modCtx c fun x => x.clearS d.toNat).ctx c = (m.ctx c).clearS d.toNat := State.ctx_setCtx_same _ _ _
    have hf : ∀ j, j < 32 → tb ((m.ctx c).clearS d.toNat).sFull j = (if j = d.toNat ∧ j ≠ 0 then false else tb (m.ctx c).sFull j) ∧
        tb ((m.ctx c).clearS d.toNat).sPend j = (if j = d.toNat ∧ j ≠ 0 then true else tb (m.ctx c).sPend j) := by
      intro j hj
      unfold Ctx.clearS
      by_cases h0 : d.toNat = 0
      · have : ¬ (j = d.toNat ∧ j ≠ 0) := by omega
        rw [if_neg this, if_neg this, if_pos (by simp [h0])]; exact ⟨rfl, rfl⟩
      · simp only [beq_iff_eq, h0, if_false, Ctx.awaits, Ctx.modBuddy]
        by_cases e : j = d.toNat
        · subst e
          simp only [ne_eq, h0, not_false_iff, and_self, if_true]
          exact ⟨tb_sb_same _ _ _ hj, tb_sb_same _ _ _ hj⟩
        · simp only [e, false_and, if_false]
          exact ⟨tb_sb_other _ _ _ _ (fun h => e h.symm), tb_sb_other _ _ _ _ (fun h => e h.symm)⟩
    constructor
    · rfl
    · intro e he; exact State.ctx_setCtx_other _ _ _ _ he
    · exact fun _ _ => rfl
    · rw [hc]; unfold Ctx.clearS; split <;> rfl
    · rfl
    · rw [hc]; intro h; unfold Ctx.clearS; split <;> simp [Ctx.awaits, Ctx.modBuddy, h]
    · rw [hc, (hf 0 (by omega)).1, (hf 0 (by omega)).2]; simp
    · intro r hr h0 _
      obtain rfl : r = d := by simpa using hr
      have h00 : r.toNat ≠ 0 := fun e => h0 (BitVec.eq_of_toNat_eq e)
      unfold State.regFull State.regPend
      rw [hc]
      simp only [beq_iff_eq, h00, h1, if_true, if_false, hf _ h1]
      simp [h00]
    · intro r hr h56
      have := hne r hr
      unfold State.regFull State.regPend
      rw [hc]
      by_cases h0 : r.toNat = 0
      · simp only [h0, beq_self_eq_true, if_true]; rw [(hf 0 (by omega)).2]; simp
      · by_cases h32 : r.toNat < 32
        · simp only [beq_iff_eq, h0, h32, if_true, if_false, hf _ h32, this, false_and]; exact ⟨trivial, trivial⟩
        · simp only [beq_iff_eq, h0, h32, if_false]; exact ⟨rfl, rfl⟩
    · simp
    · intro i hi _; rw [hc]; unfold Ctx.clearS; split <;> exact ⟨rfl, rfl⟩
  · by_cases h2 : d.toNat < 48
    · simp only [h1, h2, if_true, if_false, State.modCtx_eq, State.modCore_eq, State.coreAt_setCtx]
      have hc : ((m.setCtx c ((m.ctx c).awaits d.toNat)).setCore c.core ((m.coreAt c.core).clearC (d.toNat - 32))).ctx c =
          (m.ctx c).awaits d.toNat := State.ctx_setCtx_same _ _ _
      have hk : ((m.setCtx c ((m.ctx c).awaits d.toNat)).setCore c.core ((m.coreAt c.core).clearC (d.toNat - 32))).coreAt c.core =
          (m.coreAt c.core).clearC (d.toNat - 32) := State.coreAt_setCore_same _ _ _
      constructor
      · rfl
      · intro e he; exact State.ctx_setCtx_other _ _ _ _ he
      · intro k hk; exact State.coreAt_setCore_other _ _ _ _ hk
      · rw [hc]; rfl
      · exact hk.trans (by rw [hk]; rfl)
      · rw [hc]; intro h; simp [Ctx.awaits, Ctx.modBuddy, h]
      · rw [hc]; exact ⟨rfl, rfl⟩
      · intro r hr h0 _
        obtain rfl : r = d := by simpa using hr
        have h00 : r.toNat ≠ 0 := by omega
        unfold State.regFull State.regPend
        simp only [beq_iff_eq, h00, h1, h2, if_true, if_false, hk]
        exact ⟨tb_sb_same _ _ _ (by omega), tb_sb_same _ _ _ (by omega)⟩
      · intro r hr h56
        have := hne r hr
        unfold State.regFull State.regPend
        simp only [hk, hc]
        by_cases h0 : r.toNat = 0
        · simp only [h0, beq_self_eq_true, if_true]; exact ⟨trivial, rfl⟩
        · by_cases h32 : r.toNat < 32
          · simp only [beq_iff_eq, h0, h32, if_true, if_false]; exact ⟨rfl, rfl⟩
          · by_cases h48 : r.toNat < 48
            · simp only [beq_iff_eq, h0, h32, h48, if_true, if_false]
              exact ⟨tb_sb_other _ _ _ _ (by omega), tb_sb_other _ _ _ _ (by omega)⟩
            · simp only [beq_iff_eq, h0, h32, h48, h56, if_true, if_false]; exact ⟨rfl, rfl⟩
      · simp
      · intro i hi _; rw [hc]; exact ⟨rfl, rfl⟩
    · simp only [h1, h2, hd, if_true, if_false, State.modCtx_eq, State.modCore_eq, State.coreAt_setCtx]
      have hc : ((m.setCtx c ((m.ctx c).awaits d.toNat)).setCore c.core ((m.coreAt c.core).clearM (d.toNat - 48))).ctx c =
          (m.ctx c).awaits d.toNat := State.ctx_setCtx_same _ _ _
      have hk : ((m.setCtx c ((m.ctx c).awaits d.toNat)).setCore c.core ((m.coreAt c.core).clearM (d.toNat - 48))).coreAt c.core =
          (m.coreAt c.core).clearM (d.toNat - 48) := State.coreAt_setCore_same _ _ _
      constructor
      · rfl
      · intro e he; exact State.ctx_setCtx_other _ _ _ _ he
      · intro k hk; exact State.coreAt_setCore_other _ _ _ _ hk
      · rw [hc]; rfl
      · exact hk.trans (by rw [hk]; rfl)
      · rw [hc]; intro h; simp [Ctx.awaits, Ctx.modBuddy, h]
      · rw [hc]; exact ⟨rfl, rfl⟩
      · intro r hr h0 _
        obtain rfl : r = d := by simpa using hr
        have h00 : r.toNat ≠ 0 := by omega
        unfold State.regFull State.regPend
        simp only [beq_iff_eq, h00, h1, h2, hd, if_true, if_false, hk]
        exact ⟨tb_sb_same _ _ _ (by omega), tb_sb_same _ _ _ (by omega)⟩
      · intro r hr h56
        have := hne r hr
        unfold State.regFull State.regPend
        simp only [hk, hc]
        by_cases h0 : r.toNat = 0
        · simp only [h0, beq_self_eq_true, if_true]; exact ⟨trivial, rfl⟩
        · by_cases h32 : r.toNat < 32
          · simp only [beq_iff_eq, h0, h32, if_true, if_false]; exact ⟨rfl, rfl⟩
          · by_cases h48 : r.toNat < 48
            · simp only [beq_iff_eq, h0, h32, h48, if_true, if_false]; exact ⟨rfl, rfl⟩
            · simp only [beq_iff_eq, h0, h32, h48, h56, if_true, if_false]
              exact ⟨tb_sb_other _ _ _ _ (by omega), tb_sb_other _ _ _ _ (by omega)⟩
      · simp
      · intro i hi _; rw [hc]; exact ⟨rfl, rfl⟩

/-- The octet of a core lies in the core's die. -/
theorem octetDie_octetOf (c : Nat) : octetDie (octetOf c) = dieOf c := by
  unfold octetDie octetOf rowOf colOf; omega

/-- No gap from a number to itself. -/
theorem gap_self (a : Nat) : gap a a = 0 := by simp [gap]
/-- No hops from an octet to itself. -/
theorem octetHops_self (o : Nat) : octetHops o o = 0 := by simp [octetHops, hops, gap_self]

/-- R91's time to a slate, without its case of the own octet. -/
theorem slateLat_eq (core o : Nat) : slateLat core o = 8 + 4 * octetHops (octetOf core) o + 24 * crossings (dieOf core) (octetDie o) := by
  unfold slateLat
  dsimp only
  split
  · rename_i h
    rw [beq_iff_eq] at h
    subst h
    rw [octetHops_self, octetDie_octetOf, crossings_self]
  · rfl

/-- A posted step is sent with its delay. -/
theorem State.postIn_sent (s : State) (lat : Nat) (ev : Instr) (arg : StepArg) : s.Sent (s.postIn lat ev arg) lat ev arg :=
  ⟨_, List.mem_cons_self .., Nat.le_add_right _ _, rfl, rfl, Nat.le_refl _⟩

/-- Nothing but what posting a step and sending a packet touch has changed. -/
def State.PostsOnly (s t : State) : Prop :=
  t = { s with agenda := t.agenda, seq := t.seq, fresh := t.fresh, packets := t.packets }

theorem State.PostsOnly.trans {s t u : State} (h : s.PostsOnly t) (g : t.PostsOnly u) : s.PostsOnly u := by
  unfold State.PostsOnly at *
  rw [g, h]

/-- A packet on its way posts a step. -/
theorem State.carry_posts (s : State) (src dst : Nat) (cn late : Bool) (len lat : Nat) (ev : Instr) (arg : StepArg) :
    s.PostsOnly (s.carry src dst cn late len lat ev arg) := by
  unfold State.carry
  split
  · split <;> rfl
  · rfl

/-- A class N packet posts a step. -/
theorem State.sendN_posts (s : State) (core dst len lat : Nat) (ev : Instr) (arg : StepArg) :
    s.PostsOnly (s.sendN core dst len lat ev arg) := by
  unfold State.sendN
  dsimp only
  split
  · exact State.carry_posts _ _ _ _ _ _ _ _ _
  · rfl

/-- The packet of an access posts a step. -/
theorem State.carryFor_posts (s : State) (a : Access) (out late : Bool) (lat : Nat) (ev : Instr) (arg : StepArg) :
    s.PostsOnly (s.carryFor a out late lat ev arg) := by
  unfold State.carryFor
  dsimp only
  split
  · exact State.sendN_posts _ _ _ _ _ _ _
  · split <;> exact State.carry_posts _ _ _ _ _ _ _ _ _

/-- The refusal of an access posts steps. -/
theorem State.refuse_posts (s : State) (a : Access) (k : Nat) : s.PostsOnly (s.refuse a k) := by
  unfold State.refuse
  dsimp only
  refine State.PostsOnly.trans ?_ (State.carryFor_posts _ _ _ _ _ _ _)
  split <;> rfl

/-- An access on its way posts steps. -/
theorem State.route_posts (s : State) (a : Access) : s.PostsOnly (s.route a) := by
  unfold State.route
  split
  · exact State.refuse_posts _ _ _
  · split
    · exact State.carryFor_posts _ _ _ _ _ _ _
    · exact State.carryFor_posts _ _ _ _ _ _ _
    · dsimp only
      split
      · exact State.carryFor_posts _ _ _ _ _ _ _
      · rfl
    · rfl
    · exact State.refuse_posts _ _ _

/-- An access on its way changes nothing but what posting does. -/
theorem State.route_same (s : State) (a : Access) :
    s.route a = { s with agenda := (s.route a).agenda, seq := (s.route a).seq, fresh := (s.route a).fresh
                         packets := (s.route a).packets } := s.route_posts a

/-- What a packet leaves. -/
theorem State.carry_carries (s : State) (src dst : Nat) (cn : Bool) (len lat : Nat) (ev : Instr) (arg : StepArg) :
    s.Carries (s.carry src dst cn false len lat ev arg) src dst cn len lat ev arg := by
  unfold State.carry State.Carries
  by_cases h : src = dst ∨ lat < s.crossTime src dst len cn
  · rw [if_pos h, if_pos (by simpa using h)]
    exact State.postIn_sent _ _ _ _
  · rw [if_neg h, if_neg (by simpa using h)]
    exact ⟨_, List.mem_cons_self .., rfl, rfl, rfl, rfl, rfl, rfl, rfl, rfl, _, List.mem_cons_self .., Nat.le_refl _, rfl, rfl,
      Nat.le_succ _⟩

/-- What a class N packet leaves. -/
theorem State.sendN_carries (s : State) (core dst len lat : Nat) (ev : Instr) (arg : StepArg) :
    s.CarriesN (s.sendN core dst len lat ev arg) core dst len lat ev arg := by
  unfold State.sendN State.CarriesN
  dsimp only
  by_cases h : 7680 ≤ core ∨ s.nflits core < 8
  · rw [if_pos h, if_pos (by simpa using h)]
    exact State.carry_carries _ _ _ _ _ _ _ _
  · rw [if_neg h, if_neg (by simpa using h)]
    exact ⟨_, List.mem_cons_self .., rfl, rfl, rfl, rfl, rfl, rfl, rfl, rfl, _, List.mem_cons_self .., Nat.le_refl _, rfl, rfl,
      Nat.le_succ _⟩

/-- An access of a core is on its way to its bank. -/
theorem State.carryFor_departs (s : State) (a : Access) (lat : Nat) :
    s.Departs (s.carryFor a true false (lat / 2) .bankAccess { acc := { a with lat := lat } }) a lat := by
  unfold State.carryFor State.Departs
  dsimp only
  cases hk : a.kind.isSplice
  · exact State.carry_carries _ _ _ _ _ _ _ _
  · exact State.sendN_carries _ _ _ _ _ _ _

/-- No lock holds back an access that meets none. -/
theorem State.Unlocked.memLocked {s : State} {addr : Word} {k : AccKind} (h : s.Unlocked addr k) :
    s.memLocked s.who.core k addr = false := by
  unfold State.memLocked
  dsimp only
  rw [Bool.and_eq_false_iff]
  refine .inr ?_
  rw [Bool.or_eq_false_iff]
  constructor
  · rw [List.any_eq_false]
    intro p hp
    simp only [Bool.and_eq_true, not_and, List.any_eq_true, not_exists, Bool.not_eq_true]
    exact fun _ l hl => (h l hl).1 p hp
  · rw [List.any_eq_false]
    intro x hx
    simp only [Bool.and_eq_true, not_and, List.any_eq_true, not_exists, Bool.not_eq_true]
    exact fun _ l hl => (h l hl).2 x hx

/-- An access leaves for its place. -/
theorem State.route_leaves (s : State) (a : Access) (hb : s.form a.who.core a.addr ≠ .bad)
    (hl : s.memLocked a.who.core a.kind a.addr = false) :
    s.Leaves (s.route a) a := by
  unfold State.Leaves State.route
  dsimp only
  rw [hl, if_neg (by simp)]
  cases h : s.form a.who.core a.addr with
  | window c w off =>
    have e : winLat a.who.core c a.addr = if bits a.addr.toNat 39 38 = 0 then 4
        else 8 + 4 * octetHops (octetOf a.who.core) (octetOf c) + 24 * crossings (dieOf a.who.core) (dieOf c) := by
      unfold winLat
      simp only [beq_iff_eq, slateLat_eq, octetDie_octetOf]
    dsimp only
    rw [← e]
    exact State.carryFor_departs _ _ _
  | handle o sl g off =>
    simp only [← slateLat_eq]; exact State.carryFor_departs _ _ _
  | mem off =>
    dsimp only
    cases ht : s.tlbFind (dieOf a.who.core) (s.partOf a.who.core) off with
    | none => exact State.postIn_sent _ _ _ _
    | some e =>
      have : physLat a.who.core (e.phys off) = 110 + 24 * crossings (dieOf a.who.core)
          (if 2 ^ 46 ≤ e.phys off ∧ e.phys off < 2 ^ 47 then 0 else e.phys off / 2 ^ 36 / 4) := by
        unfold physLat isHostKey physDie; simp only [Bool.and_eq_true, decide_eq_true_eq]
      dsimp only
      rw [← this]
      exact State.carryFor_departs _ _ _
  | remote n => exact State.postIn_sent _ _ _ _
  | bad => exact absurd h hb

/-- What a later sequence number has sent was sent by an earlier one. -/
theorem State.Sent.mono {s f t : State} {lat : Nat} {ev : Instr} {arg : StepArg} (hc : f.cycle = s.cycle) (hs : s.seq ≤ f.seq)
    (h : f.Sent t lat ev arg) : s.Sent t lat ev arg := by
  obtain ⟨p, a, b, c, d, e⟩ := h
  exact ⟨p, a, hc ▸ b, c, d, Nat.le_trans hs e⟩

/-- What a packet leaves for a later sequence number it leaves for an earlier one. -/
theorem State.Carries.mono {s f t : State} {src dst len lat : Nat} {cn : Bool} {ev : Instr} {arg : StepArg}
    (hc : f.cycle = s.cycle) (hd : f.dies = s.dies) (hs : s.seq ≤ f.seq) (h : f.Carries t src dst cn len lat ev arg) :
    s.Carries t src dst cn len lat ev arg := by
  have e : f.crossTime src dst len cn = s.crossTime src dst len cn := by
    unfold State.crossTime State.rate State.die
    rw [hd]
  unfold State.Carries at h ⊢
  rw [e] at h
  split at h
  · rename_i g
    rw [if_pos g]
    exact State.Sent.mono hc hs h
  · rename_i g
    rw [if_neg g]
    obtain ⟨p, hp, h1, h2, h3, h4, h5, h6, h7, h8, h9⟩ := h
    exact ⟨p, hp, h1, h2, h3, h4, h5, h6, h7, h8, State.Sent.mono hc hs h9⟩

/-- What a packet leaves depends on the agenda and the packets alone. -/
theorem State.Carries.congr {s t r : State} {src dst len lat : Nat} {cn : Bool} {ev : Instr} {arg : StepArg}
    (h : t.agenda = r.agenda) (hp : t.packets = r.packets) (hl : s.Carries r src dst cn len lat ev arg) :
    s.Carries t src dst cn len lat ev arg := by
  unfold State.Carries State.Sent at hl ⊢
  rw [h, hp]
  exact hl

/-- What an access that is no splice leaves for a later sequence number it leaves for an earlier one. -/
theorem State.Departs.mono {s f t : State} {a : Access} {lat : Nat} (hk : a.kind.isSplice = false)
    (hf : f = { s with ctxs := f.ctxs, cores := f.cores, agenda := f.agenda, seq := f.seq, fresh := f.fresh })
    (hs : s.seq ≤ f.seq) (h : f.Departs t a lat) : s.Departs t a lat := by
  have e : f.endDie a = s.endDie a := by
    unfold State.endDie State.farDie
    have e1 : f.form a.who.core a.addr = s.form a.who.core a.addr := by rw [hf]; rfl
    rw [e1]
    have e2 : ∀ off, f.tlbFind (dieOf a.who.core) (f.partOf a.who.core) off = s.tlbFind (dieOf a.who.core) (s.partOf a.who.core) off := by
      intro off; rw [hf]; rfl
    simp only [e2]
  unfold State.Departs at h ⊢
  dsimp only at h ⊢
  rw [e] at h
  rw [hk, if_neg (by simp)] at h ⊢
  exact State.Carries.mono (by rw [hf]) (by rw [hf]) hs h

/-- What an access leaves for a later sequence number it leaves for an earlier one. -/
theorem State.Leaves.mono {s f t : State} {a : Access} (hk : a.kind.isSplice = false)
    (hf : f = { s with ctxs := f.ctxs, cores := f.cores, agenda := f.agenda, seq := f.seq, fresh := f.fresh })
    (hs : s.seq ≤ f.seq) (h : f.Leaves t a) : s.Leaves t a := by
  have e1 : f.form a.who.core a.addr = s.form a.who.core a.addr := by rw [hf]; rfl
  have e2 : ∀ off, f.tlbFind (dieOf a.who.core) (f.partOf a.who.core) off = s.tlbFind (dieOf a.who.core) (s.partOf a.who.core) off := by
    intro off; rw [hf]; rfl
  have e3 : ∀ off, f.walk (f.partOf a.who.core) off = s.walk (s.partOf a.who.core) off := by
    intro off; rw [hf]; rfl
  have hc : f.cycle = s.cycle := by rw [hf]
  unfold State.Leaves at h ⊢
  dsimp only at h ⊢
  simp only [e1, e2, e3] at h
  revert h
  cases s.form a.who.core a.addr with
  | window _ _ _ => exact State.Departs.mono hk hf hs
  | handle _ _ _ _ => exact State.Departs.mono hk hf hs
  | mem off =>
    dsimp only
    cases s.tlbFind (dieOf a.who.core) (s.partOf a.who.core) off with
    | none => exact State.Sent.mono hc hs
    | some e => exact State.Departs.mono hk hf hs
  | remote _ => exact State.Sent.mono hc hs
  | bad => exact id

/-- What an access leaves depends on the agenda and the packets alone. -/
theorem State.Leaves.congr {s t r : State} {a : Access} (h : t.agenda = r.agenda) (hp : t.packets = r.packets)
    (hl : s.Leaves r a) : s.Leaves t a := by
  unfold State.Leaves State.Departs State.CarriesN State.Carries State.Sent at hl ⊢
  rw [h, hp]
  exact hl

/-- Committing reads takes no sequence number back. -/
theorem State.commit_seq (s : State) (u : Uses) : s.seq ≤ (s.commit u).seq := by
  have e : s.commit u = (List.range 8).foldl (takeStep u s.who.core)
      (if u.reads.any (fun p => p.1 == 55) then s.modCore s.who.core fun k => k.takeM 7 else s) := rfl
  rw [e]
  have h : ∀ (l : List Nat) (t : State), t.seq ≤ (l.foldl (takeStep u s.who.core) t).seq := by
    intro l
    induction l with
    | nil => exact fun _ => Nat.le_refl _
    | cons i l ih =>
      intro t
      refine Nat.le_trans ?_ (ih _)
      unfold takeStep
      dsimp only
      split
      · exact Nat.le_refl _
      · exact Nat.le_succ _
  refine Nat.le_trans ?_ (h _ _)
  split <;> exact Nat.le_refl _

/-- The access that the issuing context starts. -/
def State.theAccess (m : State) (k : AccKind) (addr : Word) (rx : Bool) (dest : Dest) (ea : Option Word) : Access :=
  let c := m.who
  let x := m.ctx c
  { id := m.seq, run := x.run, who := c, kind := k, addr := addr, rx := rx, dest := dest, pc := x.pc, word := m.word,
    issued := m.cycle, staff := m.priv c == 2, limit := x.waitLimit.toNat, was := m.destFull c dest, ea := ea }

/-- A context with an access of its outstanding (R105, R106). -/
def Ctx.accBegun (x : Ctx) (k : AccKind) (rx : Bool) : Ctx :=
  if k.isCwait then x
  else if rx then { x with relaxed := x.relaxed + 1, relStores := if k.acked then x.relStores + 1 else x.relStores }
  else { x with plain := if k.acked then .store else .load }

/-- What starting an access leaves, in one shape. -/
theorem State.startAccess_started (m : State) (k : AccKind) (addr : Word) (rx : Bool) (dest : Dest) (ea : Option Word) (late : List Reg)
    (vlate : Option (BitVec 3)) (hb : (m.ctx m.who).buddy = none)
    (hd : ∀ m : State, ∀ c, m.Emptied (m.emptyDest c dest) c late vlate) :
    m.startAccess k addr rx dest ea =
      (let e := ({ m with seq := m.seq + 1 } : State).emptyDest m.who dest
       (e.setCtx m.who ((e.ctx m.who).accBegun k rx)).route (m.theAccess k addr rx dest ea)) := by
  unfold State.startAccess
  simp only [State.newId]
  have h : ∀ (x : Ctx), (if k.isCwait then x
    else if rx then { x with relaxed := x.relaxed + 1, relStores := if k.acked then x.relStores + 1 else x.relStores }
    else { x with plain := if k.acked then .store else .load }) = x.accBegun k rx := fun _ => rfl
  have hb' : (({ m with seq := m.seq + 1 } : State).ctx m.who).buddy = none := hb
  have e := (hd { m with seq := m.seq + 1 } m.who).buddy hb
  split
  · rename_i b hx
    exfalso
    have hbb : (m.ctx m.who).buddy = some b := hx
    rw [hb] at hbb; cases hbb
  · rfl


/-- What an access that issues leaves (R72, R104 to R106), at the pc and the wait that its instruction ends with. -/
theorem State.startAccess_began (s : State) (u : Uses) (k : AccKind) (addr : Word) (rx : Bool) (dest : Dest) (ea : Option Word) (late : List Reg)
    (vlate : Option (BitVec 3)) (hb : (s.ctx s.who).buddy = none)
    (hd : ∀ m : State, ∀ c, m.Emptied (m.emptyDest c dest) c late vlate) (hl : ∀ r ∈ late, r.toNat < 55)
    (hbad : s.form s.who.core addr ≠ .bad) (hlk : s.memLocked s.who.core k addr = false) (hk : k.isSplice = false) (pc : Word) (g : Ctx → Ctx) (hg : ∀ x, ∃ w, g x = { x with wait := w })
    (hg0 : ∀ x : Ctx, x.s = (g x).s) :
    let t := ((((s.commit u).startAccess k addr rx dest ea).endAt pc).modCtx s.who g)
    let a := (s.commit u).theAccess k addr rx dest ea
    s.Began t u late vlate ∧ (t.ctx s.who).pc = pc ∧ (∃ y : Ctx, y.wait = .none ∧ (t.ctx s.who).wait = (g y).wait) ∧ s.Issues a k addr rx dest ∧ (k.isCwait = false → s.Outstanding t k rx) ∧ s.Leaves t a := by
  have hm := s.commit_took u
  have hsm := s.commit_seq u
  generalize s.commit u = m at hm hsm
  intro t a
  have hw := hm.who
  have hbm : (m.ctx m.who).buddy = none := by rw [hw, hm.ctx]; exact hb
  have he := hd { m with seq := m.seq + 1 } m.who
  have hmc : ∀ c, ({ m with seq := m.seq + 1 } : State).ctx c = s.ctx c := hm.ctx
  have hmk : ∀ k, ({ m with seq := m.seq + 1 } : State).coreAt k = m.coreAt k := fun _ => rfl
  have ht0 : t = ((m.startAccess k addr rx dest ea).endAt pc).modCtx s.who g := rfl
  rw [State.startAccess_started m k addr rx dest ea late vlate hbm hd] at ht0
  have hed' := he.device
  have hreg : ∀ r : Reg, r.toNat < 55 → ({ m with seq := m.seq + 1 } : State).regFull s.who r 1 = s.regFull s.who r 1 ∧
      ({ m with seq := m.seq + 1 } : State).regPend s.who r = s.regPend s.who r := by
    intro r hr
    have h1 := (State.reg_congr (s := s) (t := m) (c := s.who) (by rw [hm.ctx]; exact ⟨rfl, rfl, rfl⟩) hm.regs.1 r hr).2
    exact h1
  generalize hE : ({ m with seq := m.seq + 1 } : State).emptyDest m.who dest = e at he ht0 hed'
  have hed : e = { m with seq := m.seq + 1, ctxs := e.ctxs, cores := e.cores } := hed'
  clear hed' hE
  generalize hm2 : ({ m with seq := m.seq + 1 } : State) = m2 at he hmc hmk hreg
  dsimp only at ht0
  have ha : m.theAccess k addr rx dest ea = a := rfl
  rw [ha] at ht0
  rw [hw] at he ht0
  have hrs := (e.setCtx s.who ((e.ctx s.who).accBegun k rx)).route_same a
  have hrl := (e.setCtx s.who ((e.ctx s.who).accBegun k rx)).route_leaves a
  generalize hR : (e.setCtx s.who ((e.ctx s.who).accBegun k rx)).route a = r at ht0 hrs hrl
  have hrw : r.who = s.who := by rw [hrs, hed]; exact hw
  have hrc : r.cycle = s.cycle := by rw [hrs, hed]; exact hm.cycle
  have hrd : r.word = s.word := by rw [hrs, hed]; exact hm.word
  have hX : t.ctx s.who = g (((e.ctx s.who).accBegun k rx).issued s.cycle s.word pc) := by
    rw [ht0]
    have h1 : r.ctx s.who = (e.ctx s.who).accBegun k rx := by rw [hrs]; exact State.ctx_setCtx_same _ _ _
    have h2 : (r.endAt pc).ctx s.who = ((e.ctx s.who).accBegun k rx).issued s.cycle s.word pc := by
      rw [← hrw, State.endAt_ctx, hrc, hrd, hrw, h1]
    simp only [State.modCtx_eq, State.ctx_setCtx_same, h2]
  have hother : ∀ c : CtxId, c.key ≠ s.who.key → t.ctx c = s.ctx c := by
    intro c hc
    rw [ht0]
    have h1 : r.ctx c = e.ctx c := by rw [hrs]; exact State.ctx_setCtx_other _ _ _ _ hc
    have h2 : (r.endAt pc).ctx c = r.ctx c := State.ctx_setCtx_other _ _ _ _ (by rw [hrw]; exact hc)
    simp only [State.modCtx_eq]
    rw [State.ctx_setCtx_other _ _ _ _ hc, h2, h1, he.contexts c hc, hmc]
  have hcore : ∀ j, t.coreAt j = e.coreAt j := by
    intro j
    have h1 : r.coreAt j = e.coreAt j := by rw [hrs]; rfl
    rw [ht0, ← h1]; rfl
  obtain ⟨hr, hkf, h7, hq⟩ := hm.regs
  have hec := he.ctx
  rw [hmc] at hec
  have hek := he.core
  rw [hmk] at hek
  have hdev : t = { s with ctxs := t.ctxs, cores := t.cores, agenda := t.agenda, seq := t.seq, fresh := t.fresh
                           packets := t.packets } := by
    have e1 : t = { r with ctxs := t.ctxs } := by rw [ht0]; rfl
    have e2 := hm.device
    rw [e1, hrs, hed, e2]
    rfl
  obtain ⟨w, hgw⟩ := hg (((e.ctx s.who).accBegun k rx).issued s.cycle s.word pc)
  have hwt := congrArg Ctx.wait hX
  rw [hgw] at hX
  have hs : (t.ctx s.who).s = (s.ctx s.who).s := by
    rw [hX]
    have : ((e.ctx s.who).accBegun k rx).s = (e.ctx s.who).s := by unfold Ctx.accBegun; split <;> [rfl; split <;> rfl]
    show ((e.ctx s.who).accBegun k rx).s = _
    rw [this, hec]
  have hsame : ({ s with packets := t.packets } : State).SameElse t :=
    ⟨hdev, hother, fun j hj => by rw [hcore, he.otherCores j hj, hmk, hm.otherCores j hj]; rfl⟩
  have hX' : t.ctx s.who = { ((e.ctx s.who).accBegun k rx).issued s.cycle s.word pc with wait := w } := hX
  have hab : (e.ctx s.who).accBegun k rx = { e.ctx s.who with
      plain := ((e.ctx s.who).accBegun k rx).plain, relaxed := ((e.ctx s.who).accBegun k rx).relaxed
      relStores := ((e.ctx s.who).accBegun k rx).relStores } := by unfold Ctx.accBegun; split <;> [rfl; split <;> rfl]
  have hbits : (t.ctx s.who).sFull = (e.ctx s.who).sFull ∧ (t.ctx s.who).sPend = (e.ctx s.who).sPend ∧
      (t.ctx s.who).vFull = (e.ctx s.who).vFull ∧ (t.ctx s.who).vPend = (e.ctx s.who).vPend := by
    rw [hX', hab]; exact ⟨rfl, rfl, rfl, rfl⟩
  have hfull : ∀ r : Reg, t.regFull s.who r 1 = e.regFull s.who r 1 ∧ t.regPend s.who r = e.regPend s.who r := by
    intro r
    unfold State.regFull State.regPend State.stream
    rw [hbits.1, hbits.2.1, hcore]
    exact ⟨rfl, rfl⟩
  have hkc : (t.coreAt s.who.core).c = (s.coreAt s.who.core).c ∧
      ∀ i, i < 7 → rd (t.coreAt s.who.core).m i 0 = rd (s.coreAt s.who.core).m i 0 := by
    rw [hcore, hek]; exact ⟨hr.c, hr.m⟩
  have hval : ∀ r : Reg, r.toNat < 55 → t.regVal s.who r 0 = s.regVal s.who r 0 := by
    intro r hr55
    unfold State.regVal
    rw [hs, hkc.1]
    by_cases h48 : r.toNat < 48
    · simp only [h48, if_true]
    · have h56 : r.toNat < 56 := by omega
      have := hkc.2 (r.toNat - 48) (by omega)
      simp only [h48, h56, if_true, if_false, this]
  refine ⟨⟨?_, ?_, hsame, ?_, ?_, ?_, ?_, ?_, ?_, ?_, ?_, ?_⟩, ?_, ⟨_, rfl, hwt⟩, ?_, ?_, ?_⟩
  · rw [hX']; rfl
  · rw [hX', hab, hec]; rfl
  · rw [hX', hab, hec]; rfl
  · rw [hcore, hek]; unfold Core.IssueFrame at hkf ⊢; rw [hkf]
  · refine ⟨rfl, rfl⟩
  · intro r hr0 h0
    rw [(hfull r).1, (hfull r).2]
    have h55 := hl r hr0
    have := he.empty r hr0 h0 (by omega)
    exact ⟨hval r h55, this.1, this.2⟩
  · intro r hr0 hr55
    obtain ⟨a1, a2⟩ := he.others r hr0 (by omega)
    obtain ⟨b1, b2⟩ := hreg r hr55
    exact ⟨hval r hr55, by rw [(hfull r).1, a1, b1], by rw [(hfull r).2, a2, b2]⟩
  · intro v hv; rw [hbits.2.2.1, hbits.2.2.2]; exact he.vector v hv
  · intro i hi hv
    rw [hbits.2.2.1, hbits.2.2.2]
    have := he.vectors i hi hv
    rw [hmc] at this
    exact this
  · intro i hi
    refine ⟨_, rfl, ?_⟩
    rw [hcore, hek]
    dsimp only
    rw [hq i hi]
    exact ⟨rfl, rfl⟩
  · intro b; rw [hdev]
  · rw [hX']; rfl
  · have : a = m.theAccess k addr rx dest ea := rfl
    rw [this]
    unfold State.theAccess
    dsimp only
    refine ⟨by rw [hw, hm.ctx], hw, rfl, rfl, rfl, rfl, by rw [hw, hm.ctx], hm.word, hm.cycle, ?_⟩
    dsimp only
    rw [hw]
    have : m.priv s.who = s.priv s.who := by rw [hm.device]; rfl
    rw [this]; rfl
  · intro hcw
    unfold State.Outstanding
    dsimp only
    have hax : (t.ctx s.who).plain = ((e.ctx s.who).accBegun k rx).plain ∧ (t.ctx s.who).relaxed = ((e.ctx s.who).accBegun k rx).relaxed ∧
        (t.ctx s.who).relStores = ((e.ctx s.who).accBegun k rx).relStores := by rw [hX']; exact ⟨rfl, rfl, rfl⟩
    rw [hax.1, hax.2.1, hax.2.2]
    unfold Ctx.accBegun
    rw [hec]
    cases rx <;> simp [hcw]
    split <;> rfl
  · have hf : (e.setCtx s.who ((e.ctx s.who).accBegun k rx)) = { s with
        ctxs := (e.setCtx s.who ((e.ctx s.who).accBegun k rx)).ctxs
        cores := (e.setCtx s.who ((e.ctx s.who).accBegun k rx)).cores
        agenda := (e.setCtx s.who ((e.ctx s.who).accBegun k rx)).agenda
        seq := (e.setCtx s.who ((e.ctx s.who).accBegun k rx)).seq
        fresh := (e.setCtx s.who ((e.ctx s.who).accBegun k rx)).fresh } := by
      have e2 := hm.device
      rw [hed, e2]; rfl
    have hseq : s.seq ≤ (e.setCtx s.who ((e.ctx s.who).accBegun k rx)).seq := by
      have e1 : e.seq = m.seq + 1 := by rw [hed]
      have e2 : (e.setCtx s.who ((e.ctx s.who).accBegun k rx)).seq = e.seq := rfl
      have := hsm
      omega
    have haw : a.who = s.who := hw
    have hform : (e.setCtx s.who ((e.ctx s.who).accBegun k rx)).form a.who.core a.addr = s.form s.who.core addr := by
      rw [hf, haw]; rfl
    have hoct : (e.setCtx s.who ((e.ctx s.who).accBegun k rx)).octet (octetOf a.who.core) = s.octet (octetOf s.who.core) := by
      rw [hf, haw]; rfl
    have hL := hrl (by rw [hform]; exact hbad) (by
      have e : (e.setCtx s.who ((e.ctx s.who).accBegun k rx)).memLocked a.who.core a.kind a.addr =
          s.memLocked s.who.core k addr := by
        rw [hf, haw]; rfl
      rw [e]; exact hlk)
    have hag : t.agenda = r.agenda := by rw [ht0]; rfl
    have hpk : t.packets = r.packets := by rw [ht0]; rfl
    exact State.Leaves.congr hag hpk (State.Leaves.mono hk hf hseq hL)


/-- Starting an access keeps whose turn it is and that context's pc. -/
theorem State.startAccess_who (s : State) (u : Uses) (k : AccKind) (addr : Word) (rx : Bool) (dest : Dest) (ea : Option Word) (late : List Reg)
    (vlate : Option (BitVec 3)) (hb : (s.ctx s.who).buddy = none)
    (hd : ∀ m : State, ∀ c, m.Emptied (m.emptyDest c dest) c late vlate) :
    ((s.commit u).startAccess k addr rx dest ea).who = s.who ∧
      (((s.commit u).startAccess k addr rx dest ea).ctx s.who).pc = (s.ctx s.who).pc := by
  have hm := s.commit_took u
  generalize s.commit u = m at hm
  have hw := hm.who
  have hbm : (m.ctx m.who).buddy = none := by rw [hw, hm.ctx]; exact hb
  have he := hd { m with seq := m.seq + 1 } m.who
  have hmc : ∀ c, ({ m with seq := m.seq + 1 } : State).ctx c = s.ctx c := hm.ctx
  rw [State.startAccess_started m k addr rx dest ea late vlate hbm hd]
  have hed' := he.device
  dsimp only
  rw [State.route_same]
  generalize hE : ({ m with seq := m.seq + 1 } : State).emptyDest m.who dest = e at he hed'
  have hed : e = { m with seq := m.seq + 1, ctxs := e.ctxs, cores := e.cores } := hed'
  refine ⟨by rw [hed]; exact hw, ?_⟩
  show ((e.setCtx m.who ((e.ctx m.who).accBegun k rx)).ctx s.who).pc = _
  rw [hw, State.ctx_setCtx_same]
  have hec := he.ctx
  rw [hw] at hec
  have : ((e.ctx s.who).accBegun k rx).pc = (e.ctx s.who).pc := by unfold Ctx.accBegun; split <;> [rfl; split <;> rfl]
  rw [this, hec]
  show (m.ctx s.who).pc = _
  rw [hm.ctx]

/-- An empty update of the context changes nothing. -/
theorem State.endAt_modCtx_id (x : State) (c : CtxId) (h : x.who = c) (pc : Word) : (x.endAt pc).modCtx c (fun y => y) = x.endAt pc := by
  subst h
  unfold State.endAt
  simp only [State.modCtx_eq, State.ctx_setCtx_same]
  unfold State.setCtx
  simp only [SMap.set_set]

/-- A context with its own wait is itself. -/
theorem Ctx.wait_eta (x : Ctx) : x = { x with wait := x.wait } := rfl

/-- An access whose instruction goes on (R200). -/
theorem State.startAccess_finish (s : State) (u : Uses) (k : AccKind) (addr : Word) (rx : Bool) (dest : Dest) (ea : Option Word) (late : List Reg)
    (vlate : Option (BitVec 3)) (hb : (s.ctx s.who).buddy = none)
    (hd : ∀ m : State, ∀ c, m.Emptied (m.emptyDest c dest) c late vlate) (hl : ∀ r ∈ late, r.toNat < 55)
    (hbad : s.form s.who.core addr ≠ .bad) (hlk : s.memLocked s.who.core k addr = false) (hk : k.isSplice = false) :
    let t := ((s.commit u).startAccess k addr rx dest ea).finish
    let a := (s.commit u).theAccess k addr rx dest ea
    s.Began t u late vlate ∧ (t.ctx s.who).pc = (s.ctx s.who).pc + 8 ∧ (t.ctx s.who).wait = .none ∧ s.Issues a k addr rx dest ∧
      (k.isCwait = false → s.Outstanding t k rx) ∧ s.Leaves t a := by
  obtain ⟨h1, h2⟩ := s.startAccess_who u k addr rx dest ea late vlate hb hd
  have e : ((s.commit u).startAccess k addr rx dest ea).finish =
      (((s.commit u).startAccess k addr rx dest ea).endAt ((s.ctx s.who).pc + 8)).modCtx s.who (fun y => y) := by
    rw [State.endAt_modCtx_id _ _ h1]
    unfold State.finish
    rw [h1, h2]
  have h := s.startAccess_began u k addr rx dest ea late vlate hb hd hl hbad hlk hk ((s.ctx s.who).pc + 8) (fun y => y)
    (fun x => ⟨x.wait, rfl⟩) (fun _ => rfl)
  dsimp only at h ⊢
  rw [e]
  obtain ⟨a, b, ⟨y, hy, hw⟩, c⟩ := h
  exact ⟨a, b, hw.trans hy, c⟩

/-- An access whose instruction stays at its pc for the reply (R202). -/
theorem State.startAccess_stay (s : State) (u : Uses) (k : AccKind) (addr : Word) (rx : Bool) (dest : Dest) (ea : Option Word) (late : List Reg)
    (vlate : Option (BitVec 3)) (w : Wait) (hb : (s.ctx s.who).buddy = none)
    (hd : ∀ m : State, ∀ c, m.Emptied (m.emptyDest c dest) c late vlate) (hl : ∀ r ∈ late, r.toNat < 55)
    (hbad : s.form s.who.core addr ≠ .bad) (hlk : s.memLocked s.who.core k addr = false) (hk : k.isSplice = false) :
    let x := (s.commit u).startAccess k addr rx dest ea
    let t := (x.endAt (x.ctx s.who).pc).modCtx s.who fun y => { y with wait := w }
    let a := (s.commit u).theAccess k addr rx dest ea
    s.Began t u late vlate ∧ (t.ctx s.who).pc = (s.ctx s.who).pc ∧ (t.ctx s.who).wait = w ∧ s.Issues a k addr rx dest ∧
      (k.isCwait = false → s.Outstanding t k rx) ∧ s.Leaves t a := by
  obtain ⟨h1, h2⟩ := s.startAccess_who u k addr rx dest ea late vlate hb hd
  have h := s.startAccess_began u k addr rx dest ea late vlate hb hd hl hbad hlk hk (s.ctx s.who).pc (fun y => { y with wait := w })
    (fun x => ⟨w, rfl⟩) (fun _ => rfl)
  dsimp only at h ⊢
  rw [h2]
  obtain ⟨a, b, ⟨y, hy, hw⟩, c⟩ := h
  exact ⟨a, b, hw, c⟩

/-! ## Issues under their premises -/

/-- The address of a local form is the offset in the core's own slate (R56). -/
theorem localAddr_eq (a : Word) : BitVec.ofNat 64 (0x0FFF0F0000000000 + a.toNat % 2 ^ 19) = localAddr a := by
  unfold localAddr
  apply BitVec.eq_of_toNat_eq
  have h1 : (a &&& 0x7FFFF).toNat = a.toNat % 2^19 := by
    rw [BitVec.toNat_and]; exact Nat.and_two_pow_sub_one_eq_mod _ 19
  rw [BitVec.toNat_or, h1, BitVec.toNat_ofNat]
  have h2 : (0x0FFF0F0000000000 : BitVec 64).toNat = 2^19 * (0x0FFF0F0000000000 / 2^19) := by decide
  rw [h2, ← Nat.two_pow_add_eq_or_of_lt (Nat.mod_lt _ (by decide))]
  omega

/-- An address the core's own window allows raises no exception at its issue (R325). -/
theorem State.ownFault_none {s : State} {a : Word} {n : Need} (h : s.AllowsHere a n) : s.ownFault a n = none ∧ s.form s.who.core a ≠ .bad := by
  unfold State.AllowsHere at h
  unfold State.ownFault State.protect
  cases hf : s.form s.who.core a with
  | bad => rw [hf] at h; exact h.elim
  | window c w off =>
    rw [hf] at h
    refine ⟨?_, by simp⟩
    dsimp only at h ⊢
    split
    · rename_i hc
      simp only [Bool.and_eq_true, beq_iff_eq] at hc
      obtain ⟨h1, h2⟩ := h hc.1 hc.2
      simp [hc.1]
      simp [hc.1] at h1 h2
      simp [h1, h2]
    · rfl
  | _ => exact ⟨rfl, by simp⟩

/-- Readable operands raise no exception before the waits (R321). -/
theorem State.Readable.static {s : State} {u : Uses} (h : s.Readable u) : s.static u = none := by
  have := h.peek
  unfold State.peek at this
  cases hs : s.static u with
  | none => rfl
  | some k => rw [hs] at this; simp at this

/-- An instruction that waits for a condition goes on where its operands are readable and the condition holds. -/
theorem State.waiting_go {s : State} {u : Uses} {ok : Ctx → Bool} {f : Vals → State → State} (h : s.Readable u) (ho : ok (s.ctx s.who) = true) :
    s.waiting u ok f = f (s.vals u) s := by
  unfold State.waiting
  rw [State.Readable.static h, h.peek]
  simp [ho]

/-- What a load, a store or an atomic leaves at its issue where nothing stops it. -/
theorem State.memIssue_issue (s : State) (u : Uses) (rx glob : Bool) (f : Vals → MemReq) (late : List Reg) (vlate : Option (BitVec 3))
    (h : s.Readable u) (hp : (s.ctx s.who).plain = .none) (hr : if rx then (s.ctx s.who).relaxed < 8 else (s.ctx s.who).relaxed = 0)
    (ha : (f (s.vals u)).ea.toNat % (f (s.vals u)).align = 0)
    (hd : ∀ m : State, ∀ c, m.Emptied (m.emptyDest c (f (s.vals u)).dest) c late vlate) (hl : ∀ r ∈ late, r.toNat < 55)
    (hcw : (f (s.vals u)).kind.isCwait = false) (addr : Word) (haddr : addr = if glob then (f (s.vals u)).ea else localAddr (f (s.vals u)).ea)
    (hal : s.AllowsHere addr (f (s.vals u)).kind.need) (hlk : s.memLocked s.who.core (f (s.vals u)).kind addr = false)
    (hk : (f (s.vals u)).kind.isSplice = false) (hb : (s.ctx s.who).buddy = none) :
    ∃ a, s.Began (s.memIssue u rx glob f) u late vlate ∧ ((s.memIssue u rx glob f).ctx s.who).pc = (s.ctx s.who).pc + 8 ∧
      ((s.memIssue u rx glob f).ctx s.who).wait = .none ∧
      s.Issues a (f (s.vals u)).kind addr rx (f (s.vals u)).dest ∧ s.Outstanding (s.memIssue u rx glob f) (f (s.vals u)).kind rx ∧
      s.Leaves (s.memIssue u rx glob f) a := by
  have ho : (if rx then Ctx.relaxedOk else Ctx.quiet) (s.ctx s.who) = true := by
    cases rx <;> simp_all [Ctx.relaxedOk, Ctx.quiet]
  obtain ⟨h1, h2⟩ := State.ownFault_none hal
  have e : s.memIssue u rx glob f = ((s.commit u).startAccess (f (s.vals u)).kind addr rx (f (s.vals u)).dest (some (f (s.vals u)).ea)).finish := by
    unfold State.memIssue
    rw [State.waiting_go h ho]
    dsimp only
    rw [← haddr, h1, if_neg (by simp [ha])]
  obtain ⟨a1, a2, a3, a4, a5, a6⟩ := s.startAccess_finish u (f (s.vals u)).kind addr rx (f (s.vals u)).dest (some (f (s.vals u)).ea) late vlate hb hd hl h2 hlk hk
  rw [e]
  exact ⟨_, a1, a2, a3, a4, a5 hcw, a6⟩

/-- What a full/empty form leaves at its issue where nothing stops it: the context waits for the reply. -/
theorem State.feIssue_issue (s : State) (u : Uses) (glob : Bool) (f : Vals → MemReq) (late : List Reg)
    (h : s.Readable u) (hp : (s.ctx s.who).plain = .none) (hr : (s.ctx s.who).relaxed = 0)
    (ha : (f (s.vals u)).ea.toNat % 8 = 0)
    (hd : ∀ m : State, ∀ c, m.Emptied (m.emptyDest c (f (s.vals u)).dest) c late none) (hl : ∀ r ∈ late, r.toNat < 55)
    (hcw : (f (s.vals u)).kind.isCwait = false) (addr : Word) (haddr : addr = if glob then (f (s.vals u)).ea else localAddr (f (s.vals u)).ea)
    (hsl : bits addr.toNat 47 40 = 0x0F)
    (hal : s.AllowsHere addr (f (s.vals u)).kind.need) (hlk : s.memLocked s.who.core (f (s.vals u)).kind addr = false)
    (hk : (f (s.vals u)).kind.isSplice = false) (hb : (s.ctx s.who).buddy = none) :
    ∃ a, s.Began (s.feIssue u glob f) u late none ∧ ((s.feIssue u glob f).ctx s.who).pc = (s.ctx s.who).pc ∧
      ((s.feIssue u glob f).ctx s.who).wait = .reply a.id ∧
      s.Issues a (f (s.vals u)).kind addr false (f (s.vals u)).dest ∧ s.Outstanding (s.feIssue u glob f) (f (s.vals u)).kind false ∧
      s.Leaves (s.feIssue u glob f) a := by
  have ho : Ctx.quiet (s.ctx s.who) = true := by simp_all [Ctx.quiet]
  obtain ⟨h1, h2⟩ := State.ownFault_none hal
  have e : s.feIssue u glob f =
      ((((s.commit u).startAccess (f (s.vals u)).kind addr false (f (s.vals u)).dest (some (f (s.vals u)).ea)).endAt
        (((s.commit u).startAccess (f (s.vals u)).kind addr false (f (s.vals u)).dest (some (f (s.vals u)).ea)).ctx s.who).pc).modCtx s.who fun y =>
          { y with wait := .reply (s.commit u).seq }) := by
    unfold State.feIssue
    rw [State.waiting_go h ho]
    dsimp only
    rw [← haddr, h1, if_neg (by simp [ha]), if_neg (by simp [inSlateSpace, hsl])]
  obtain ⟨a1, a2, a3, a4, a5, a6⟩ := s.startAccess_stay u (f (s.vals u)).kind addr false (f (s.vals u)).dest (some (f (s.vals u)).ea) late none
    (.reply (s.commit u).seq) hb hd hl h2 hlk hk
  rw [e]
  exact ⟨_, a1, a2, a3, a4, a5 hcw, a6⟩

/-- The late destinations of readable operands are common registers or the context's own, below M7. -/
theorem State.Readable.late_lt {s : State} {u : Uses} (h : s.Readable u) : ∀ r ∈ u.late, r.toNat < 55 := by
  intro r hr
  have h1 := h.lateReg r hr
  have h2 := h.notM7 r (by simp [hr])
  have : r.toNat ≠ 55 := fun e => h2 (BitVec.eq_of_toNat_eq e)
  omega

/-- An address of the slates' range lies in no slice of memory. -/
theorem State.form_slate {s : State} {c : Nat} {addr : Word} (h : bits addr.toNat 47 40 = 0x0F) (off : Nat) : s.form c addr ≠ .mem off := by
  unfold State.form
  simp only [h]
  repeat' (first | (intro h; cases h; done) | split)
  all_goals simp at *

/-- No lock on memory holds back an access to a slate that touches one part and no other cell. -/
theorem State.memLocked_slate {s : State} {c : Nat} {k : AccKind} {addr : Word} (h : bits addr.toNat 47 40 = 0x0F)
    (hp : ∀ p ∈ k.parts, p.1 = 0) (ho : k.others = []) : s.memLocked c k addr = false := by
  unfold State.memLocked
  dsimp only
  rw [ho, Bool.and_eq_false_iff]
  refine .inr ?_
  simp only [List.any_nil, Bool.or_false, List.any_eq_false, Bool.and_eq_true, not_and]
  intro p hm hf
  rw [hp p hm, show addr + BitVec.ofNat 64 0 = addr by simp] at hf
  have := State.form_slate (s := s) (c := c) h
  revert hf
  cases hx : s.form c addr <;> simp
  exact absurd hx (this _)

/-- An instruction whose condition does not hold waits at its issue. -/
theorem State.waiting_block {s : State} {u : Uses} {ok : Ctx → Bool} {f : Vals → State → State} (h : s.Readable u) (ho : ok (s.ctx s.who) = false) :
    s.waiting u ok f = s.block 0 := by
  unfold State.waiting
  rw [State.Readable.static h]
  simp [ho]

/-- An address of no form is refused at its issue (cause 10). -/
theorem State.ownFault_bad {s : State} {a : Word} {n : Need} (h : s.form s.who.core a = .bad) : s.ownFault a n = some 0x10 := by
  unfold State.ownFault; rw [h]

/-- What an access through a window of its own core is refused with: 10 for an invalid window, 11 for the rights. -/
theorem State.ownFault_win {s : State} {a : Word} {n : Need} {w off : Nat} (h : s.form s.who.core a = .window s.who.core w off) (hb : bits a.toNat 39 38 = 0) :
    ((rd (s.coreAt s.who.core).win w {}).valid = false → s.ownFault a n = some 0x10) ∧
    ((rd (s.coreAt s.who.core).win w {}).valid = true → rightsOk (rd (s.coreAt s.who.core).win w {}).own n = false → s.ownFault a n = some 0x11) := by
  constructor
  · intro hv
    unfold State.ownFault State.protect; rw [h]; simp only [hb, hv, beq_self_eq_true, Bool.and_self, if_true, Bool.not_false]
  · intro hv hr
    unfold State.ownFault State.protect; rw [h]; simp only [hb, hv, hr, beq_self_eq_true, Bool.and_self, if_true, Bool.not_true, Bool.false_eq_true, if_false]

/-- A window's address has the slates' form. -/
theorem State.form_win {s : State} {c c' w off : Nat} {addr : Word} (h : s.form c addr = .window c' w off) : bits addr.toNat 47 40 = 0x0F := by
  by_contra hn
  revert h
  unfold State.form
  have : (bits addr.toNat 47 40 != 0x0F) = true := by simpa using hn
  simp only [this, if_true, Bool.false_eq_true, if_false]
  split <;> simp

end Sys2Proof.Machine
end

