-- ==== Sys2Proof/Laws/Memory.lean ====
section
/-! SUPPORT. Memory: every operation keeps the canonical form, a read gives what the last write to its byte left, and a write
leaves every other byte alone. -/

namespace Sys2Proof.Machine

/-! ## The canonical form, as a bound on the first address and a tail -/

/-- The canonical form of a list whose addresses are at least `n`. -/
def Memory.above (n : Nat) : List Host.Cell → Prop
  | [] => True
  | (k, b) :: r => n ≤ k ∧ b ≠ 0 ∧ Memory.above (k + 1) r

theorem Memory.above_mono {m n : Nat} (h : m ≤ n) : ∀ {l : List Host.Cell}, Memory.above n l → Memory.above m l
  | [], _ => trivial
  | (_, _) :: _, ⟨a, b, c⟩ => ⟨h.trans a, b, c⟩

theorem Memory.wf_iff_above (l : List Host.Cell) : Memory.wf l = true ↔ Memory.above 0 l := by
  have key : ∀ (l : List Host.Cell) (k : Nat) (b : Byte), Memory.wf ((k, b) :: l) = true ↔ b ≠ 0 ∧ Memory.above (k + 1) l := by
    intro l
    induction l with
    | nil => intro k b; simp [Memory.wf, Memory.above]
    | cons p r ih =>
      obtain ⟨j, c⟩ := p
      intro k b
      simp only [Memory.wf, Bool.and_eq_true, ih, bne_iff_ne, ne_eq, decide_eq_true_eq, Memory.above]
      constructor
      · rintro ⟨⟨h1, h2⟩, h3⟩; exact ⟨h1, h2, h3⟩
      · rintro ⟨h1, h2, h3⟩; exact ⟨⟨h1, h2⟩, h3⟩
  cases l with
  | nil => simp [Memory.wf, Memory.above]
  | cons p r => obtain ⟨k, b⟩ := p; simp [key, Memory.above]

theorem memPut_above {n k : Nat} {b : Byte} (hb : b ≠ 0) (hk : n ≤ k) :
    ∀ {l : List Host.Cell}, Memory.above n l → Memory.above n (memPut l k b)
  | [], _ => ⟨hk, hb, trivial⟩
  | (j, c) :: r, ⟨h1, h2, h3⟩ => by
    simp only [memPut, beq_iff_eq]
    split
    · rename_i h; subst h; exact ⟨hk, hb, h3⟩
    · split
      · exact ⟨hk, hb, by omega, h2, h3⟩
      · exact ⟨h1, h2, memPut_above hb (by omega) h3⟩

theorem memDel_above {n k : Nat} : ∀ {l : List Host.Cell}, Memory.above n l → Memory.above n (memDel l k)
  | [], h => h
  | (j, c) :: r, ⟨h1, h2, h3⟩ => by
    simp only [memDel, beq_iff_eq]
    split
    · exact Memory.above_mono (by omega) h3
    · split
      · exact ⟨h1, h2, h3⟩
      · exact ⟨h1, h2, memDel_above h3⟩

theorem filter_above {p : Host.Cell → Bool} {n : Nat} :
    ∀ {l : List Host.Cell}, Memory.above n l → Memory.above n (l.filter p)
  | [], h => h
  | (j, c) :: r, ⟨h1, h2, h3⟩ => by
    simp only [List.filter]
    split
    · exact ⟨h1, h2, filter_above h3⟩
    · exact Memory.above_mono (by omega) (filter_above h3)

/-! ## Every memory operation keeps the canonical form -/

@[simp] theorem Memory.wf_nil : Memory.wf [] = true := rfl

theorem memWrite_wf {l : List Host.Cell} (k : Nat) (b : Byte) (h : Memory.wf l = true) : Memory.wf (memWrite l k b) = true := by
  rw [Memory.wf_iff_above] at *
  unfold memWrite
  split
  · exact memDel_above h
  · rename_i hb
    exact memPut_above (by simpa using hb) (Nat.zero_le _) h

theorem memWriteN_wf : ∀ (n : Nat) {l : List Host.Cell} (k v : Nat), Memory.wf l = true → Memory.wf (memWriteN l k n v) = true
  | 0, _, _, _, h => h
  | n + 1, _, k, v, h => memWriteN_wf n (k + 1) (v / 256) (memWrite_wf k _ h)

theorem memWriteL_wf : ∀ (bs : List Byte) {l : List Host.Cell} (k : Nat), Memory.wf l = true → Memory.wf (memWriteL l k bs) = true
  | [], _, _, h => h
  | b :: bs, _, k, h => memWriteL_wf bs (k + 1) (memWrite_wf k b h)

theorem filter_wf {l : List Host.Cell} (p : Host.Cell → Bool) (h : Memory.wf l = true) : Memory.wf (l.filter p) = true := by
  rw [Memory.wf_iff_above] at *
  exact filter_above h

/-! ## Reads after writes -/

theorem memRead_below {n k : Nat} (hk : k < n) : ∀ {l : List Host.Cell}, Memory.above n l → memRead l k = 0
  | [], _ => rfl
  | (j, c) :: r, ⟨h1, _, _⟩ => by
    have : j ≠ k := by omega
    simp [memRead, this, show k < j by omega]

theorem memRead_memPut_same (k : Nat) (b : Byte) : ∀ l : List Host.Cell, memRead (memPut l k b) k = b
  | [] => by simp [memPut, memRead]
  | (j, c) :: r => by
    simp only [memPut]
    split
    · simp [memRead]
    · split
      · simp [memRead]
      · rename_i h1 h2
        simp only [memRead, h1, h2, if_false, Bool.false_eq_true]
        exact memRead_memPut_same k b r

theorem memRead_memPut_other {k a : Nat} (b : Byte) (h : a ≠ k) : ∀ l : List Host.Cell, memRead (memPut l k b) a = memRead l a
  | [] => by simp [memPut, memRead, show k ≠ a from fun e => h e.symm]
  | (j, c) :: r => by
    have hk : (k == a) = false := by simpa using fun e => h e.symm
    simp only [memPut, beq_iff_eq]
    split
    · rename_i e; subst e
      simp [memRead, hk]
    · split
      · by_cases ha : a < k
        · have h1 : j ≠ a := by omega
          have h2 : a < j := by omega
          simp [memRead, hk, ha, h1, h2]
        · simp [memRead, hk, ha]
      · simp only [memRead, memRead_memPut_other b h r]

theorem memRead_memDel_same (k n : Nat) : ∀ {l : List Host.Cell}, Memory.above n l → memRead (memDel l k) k = 0
  | [], _ => rfl
  | (j, c) :: r, ⟨h1, h2, h3⟩ => by
    simp only [memDel, beq_iff_eq]
    split
    · rename_i e; subst e; exact memRead_below (by omega) h3
    · split
      · rename_i e1 e2; simp [memRead, e1, e2]
      · rename_i e1 e2; simp [memRead, e1, e2, memRead_memDel_same k (j + 1) h3]

theorem memRead_memDel_other {k a n : Nat} (h : a ≠ k) : ∀ {l : List Host.Cell}, Memory.above n l →
    memRead (memDel l k) a = memRead l a
  | [], _ => rfl
  | (j, c) :: r, ⟨h1, h2, h3⟩ => by
    simp only [memDel, beq_iff_eq]
    split
    · rename_i e; subst e
      have hj : (j == a) = false := by simpa using fun e => h e.symm
      by_cases ha : a < j
      · simp [memRead, hj, ha, memRead_below (show a < j + 1 by omega) h3]
      · simp [memRead, hj, ha]
    · split
      · rfl
      · simp only [memRead, memRead_memDel_other h h3]

theorem memRead_memWrite_same {l : List Host.Cell} (k : Nat) (b : Byte) (h : Memory.wf l = true) :
    memRead (memWrite l k b) k = b := by
  rw [Memory.wf_iff_above] at h
  unfold memWrite
  split
  · rename_i hb
    rw [memRead_memDel_same k 0 h]
    exact (eq_of_beq hb).symm
  · exact memRead_memPut_same k b l

theorem memRead_memWrite_other {l : List Host.Cell} {k a : Nat} (b : Byte) (ha : a ≠ k) (h : Memory.wf l = true) :
    memRead (memWrite l k b) a = memRead l a := by
  rw [Memory.wf_iff_above] at h
  unfold memWrite
  split
  · exact memRead_memDel_other ha h
  · exact memRead_memPut_other b ha l

theorem memRead_memWriteN_out : ∀ (n : Nat) {l : List Host.Cell} {k a : Nat} (v : Nat), (a < k ∨ k + n ≤ a) →
    Memory.wf l = true → memRead (memWriteN l k n v) a = memRead l a
  | 0, _, _, _, _, _, _ => rfl
  | n + 1, l, k, a, v, ha, h => by
    rw [memWriteN, memRead_memWriteN_out n (v / 256) (by omega) (memWrite_wf k _ h), memRead_memWrite_other _ (by omega) h]

theorem memRead_memWriteN_in : ∀ (n : Nat) {l : List Host.Cell} {k i : Nat} (v : Nat), i < n → Memory.wf l = true →
    memRead (memWriteN l k n v) (k + i) = BitVec.ofNat 8 (v / 256 ^ i)
  | n + 1, l, k, 0, v, _, h => by
    rw [memWriteN, memRead_memWriteN_out n (v / 256) (by omega) (memWrite_wf k _ h), Nat.add_zero,
      memRead_memWrite_same k _ h]
    simp
  | n + 1, l, k, i + 1, v, hi, h => by
    rw [memWriteN, show k + (i + 1) = (k + 1) + i by omega, memRead_memWriteN_in n (v / 256) (by omega) (memWrite_wf k _ h),
      Nat.pow_succ, Nat.div_div_eq_div_mul, Nat.mul_comm 256]

theorem memRead_memWriteL_out : ∀ (bs : List Byte) {l : List Host.Cell} {k a : Nat}, (a < k ∨ k + bs.length ≤ a) →
    Memory.wf l = true → memRead (memWriteL l k bs) a = memRead l a
  | [], _, _, _, _, _ => rfl
  | b :: bs, l, k, a, ha, h => by
    simp only [List.length_cons] at ha
    rw [memWriteL, memRead_memWriteL_out bs (by omega) (memWrite_wf k _ h), memRead_memWrite_other _ (by omega) h]

theorem memRead_memWriteL_in : ∀ (bs : List Byte) {l : List Host.Cell} {k i : Nat} (hi : i < bs.length), Memory.wf l = true →
    memRead (memWriteL l k bs) (k + i) = bs[i]
  | b :: bs, l, k, 0, _, h => by
    rw [memWriteL, memRead_memWriteL_out bs (by omega) (memWrite_wf k _ h), Nat.add_zero, memRead_memWrite_same k _ h]
    simp
  | b :: bs, l, k, i + 1, hi, h => by
    simp only [List.length_cons] at hi
    rw [memWriteL, show k + (i + 1) = (k + 1) + i by omega, memRead_memWriteL_in bs (by omega) (memWrite_wf k _ h)]
    simp

/-! ## The stores of a bank -/

@[simp] theorem State.markFull_mem (s : State) (k n : Nat) : (s.markFull k n).mem = s.mem := rfl
@[simp] theorem State.putN_mem (s : State) (k n v : Nat) : (s.putN k n v).mem = memWriteN s.mem k n v := rfl

theorem State.putL_mem (s : State) (k : Nat) (bs : List Byte) : (s.putL k bs).mem = memWriteL s.mem k bs := by
  unfold State.putL
  split
  · rename_i h
    rw [List.isEmpty_iff.1 h, memWriteL]
  · rfl

/-- The words of a store are full after it (R95). -/
theorem State.markFull_full (s : State) (k n w : Nat) (hk : isSlateKey k = true) (h1 : k / 8 ≤ w) (h2 : w ≤ (k + n - 1) / 8) :
    w ∉ (s.markFull k n).empty := by
  simp [State.markFull, hk, h1, h2]

/-- A store leaves the full/empty bits of other words alone. -/
theorem State.markFull_empty (s : State) (k n w : Nat) (h : ¬(k / 8 ≤ w ∧ w ≤ (k + n - 1) / 8)) :
    (w ∈ (s.markFull k n).empty) ↔ w ∈ s.empty := by
  unfold State.markFull
  split
  · simp; omega
  · rfl

end Sys2Proof.Machine
end

