-- ==== Sys2Proof/Tests/Slice0.lean ====
section
/-! SUPPORT. Tests: ill-formed instructions, words written out from the encodings of the spec, single steps whose results the spec's
tables and examples give, and a witness for the hypotheses of each statement. -/

namespace Sys2Proof.Tests

open Sys2Proof Sys2Proof.Machine

set_option Elab.async false

/-! ## Ill-formed instructions -/

/-- A source without a policy bit. -/
abbrev r (n : Nat) : Src := ⟨BitVec.ofNat 6 n, false⟩
/-- A source that traps when it is empty. -/
abbrev rt (n : Nat) : Src := ⟨BitVec.ofNat 6 n, true⟩
abbrev v (n : Nat) : VSrc := ⟨BitVec.ofNat 3 n, false⟩

theorem test_ill_formed_scalars : ([.br .al (r 1) (r 0) 0, .br .al (r 0) (rt 0) 0, .ishli ⟨1, 64⟩, .ishri ⟨1, 64⟩, .israi ⟨1, 64⟩] : List Instr).all
    (fun i => !i.wf) = true := by decide

theorem test_ill_formed_arithmetic : ([.vadd ⟨.int4, 1, v 2, v 3, none, false, .rne, false⟩, .vsub ⟨.i32, 1, v 2, v 3, none, false, .rz, false⟩,
    .vmul ⟨.fp32, 1, v 2, v 3, none, false, .rne, true⟩, .vmin ⟨.i32, 1, v 2, v 3, none, false, .rne, true⟩,
    .vmax ⟨.e4m3, 1, v 2, v 3, none, false, .rne, false⟩, .vabs ⟨.tn5, 1, v 2, none, false, .rne, false⟩,
    .vneg ⟨.i16, 1, v 2, none, false, .sr, false⟩, .vfma ⟨.i32, 1, v 2, v 3, v 4, none, false, .rne⟩,
    .vfms ⟨.int8, 1, v 2, v 3, v 4, none, false, .rne⟩, .vdiv ⟨.i32, 1, v 2, v 3, none, false, .rne, false⟩,
    .vdiv ⟨.fp32, 1, v 2, v 3, none, false, .rne, true⟩, .vsqrt ⟨.i32, 1, v 2, none, false, .rne, false⟩,
    .vrcp ⟨.fp32, 1, v 2, none, false, .rne, true⟩, .vrsq ⟨.i16, 1, v 2, none, false, .rne, false⟩,
    .vexp2 ⟨.int8, 1, v 2, none, false, .rne, false⟩, .vlog2 ⟨.i32, 1, v 2, none, false, .rne, false⟩] : List Instr).all
    (fun i => !i.wf) = true := by decide

theorem test_ill_formed_lanes : ([.vand ⟨.e3m2, 1, v 2, v 3, none, false⟩, .vor ⟨.tn3, 1, v 2, v 3, none, false⟩,
    .vxor ⟨.int4, 1, v 2, v 3, none, false⟩, .vandn ⟨.e2m1, 1, v 2, v 3, none, false⟩, .vperm ⟨.tn8, 1, v 2, v 3, none, false⟩,
    .vshl ⟨.fp32, 1, v 2, v 3, none, false⟩, .vshr ⟨.fp16, 1, v 2, v 3, none, false⟩, .vsra ⟨.bf16, 1, v 2, v 3, none, false⟩,
    .vsel ⟨.int4, 1, v 2, v 3, 0⟩, .vcmp ⟨true, 0, .un, false, v 1, v 2, none, false⟩, .vcmp ⟨false, 0, .lt, true, v 1, v 2, none, false⟩,
    .vmov ⟨.tn5, 1, v 2, none, false⟩, .vbcast ⟨.int4, 1, r 2, none, false⟩, .vext ⟨.fp32, 32, v 1, 2⟩, .vext ⟨.tn3, 0, v 1, 2⟩,
    .vins ⟨.i16, 64, 1, r 2⟩, .vrot ⟨.e2m1, 1, v 2, r 3, none, false⟩, .vzip ⟨.tn8, 1, v 2, v 3, none, false, false⟩,
    .vunzip ⟨.e3m2, 1, v 2, v 3, none, false, true⟩] : List Instr).all (fun i => !i.wf) = true := by decide

theorem test_ill_formed_reductions : ([.vrsum ⟨.fp32, 1, v 2, none, true, .rne, false⟩, .vrsum ⟨.i32, 1, v 2, none, false, .ru, false⟩,
    .vscan ⟨.e4m3, 1, v 2, none, false, .rne, false⟩, .vrmax ⟨.fp32, 1, v 2, none, false, .rz, false⟩,
    .vrmin ⟨.i32, 1, v 2, none, false, .rne, true⟩, .vrand ⟨.fp32, 1, v 2, none, false, .rne, false⟩,
    .vror ⟨.i32, 1, v 2, none, true, .rne, false⟩, .vcvt ⟨.fp32, .fp16, 1, v 2, none, false, .rne, false⟩,
    .vcvt ⟨.i32, .i32, 1, v 2, none, false, .rz, false⟩, .vpack ⟨.fp32, .fp32, 0, 1, v 2, .rne, false⟩,
    .vpack ⟨.fp16, .fp32, 2, 1, v 2, .rne, false⟩, .vunpk ⟨.fp16, .fp32, 0, 1, v 2, .rne, false⟩,
    .vtpack ⟨.tn5, .i32, 0, 1, v 2, 3, .rne, false⟩, .vtpack ⟨.tn8, .fp16, 2, 1, v 2, 3, .rne, false⟩,
    .vtunpk ⟨.fp32, .fp16, 0, 1, v 2, r 3, .rne, false⟩] : List Instr).all (fun i => !i.wf) = true := by decide

theorem test_ill_formed_system : ([.gsel ⟨false, 7, 2, 2, 0, v 1⟩, .gsel ⟨false, 7, 3, 0, 0, v 1⟩, .gsel ⟨false, 7, 3, 5, 0, v 1⟩,
    .hsift true ⟨1, true⟩ (r 2), .accld ⟨0, r 1, r 2, 0, 192⟩, .accst ⟨0, r 1, r 2, 0, 255⟩, .start 1 (r 2) (r 3) (r 0) none,
    .start 1 (r 2) (r 0) (rt 0) none, .cpyr 1 (r 2) (r 3) (r 4) .and .f32, .cpyr 1 (r 2) (r 3) (r 4) .xor .bf16,
    .tret 1 (r 2) (r 3) false false, .tretRp 1 (r 2) (rt 0) false, .tinv .all (r 1) (r 0), .tinv .all (r 0) (r 1)] : List Instr).all
    (fun i => !i.wf) = true := by decide

/-! ## Words written out from the encodings (the chapters' own tables of words) -/

theorem test_decode_scalar : decode 0x00100C4140000000 = .ok (.iadd ⟨3, r 4, r 5⟩ .wrap) ∧
    decode 0x00402400FFFFFFFF = .ok (.movi ⟨9, 0xFFFFFFFF⟩) ∧
    decode 0x00021400FFFFFFFC = .ok (.br .lt (r 5) (r 0) (-4)) ∧
    decode 0x00061C003FFFFFFE = .ok (.loop (r 7) (-2)) ∧
    decode 0x0001000000000000 = .ok .nop ∧ decode 0x4401000000000000 = .ok .nop := by decide

theorem test_decode_memory : decode 0x02801C2007FFFFF8 = .ok (.ld ⟨7, r 2, r 0, .d, -8, true⟩) ∧
    decode 0x0082142006000010 = .ok (.ldx ⟨5, r 2, r 0, 16⟩) ∧
    decode 0x00981061C6000000 = .ok (.aincb ⟨4, r 6, r 7, true, 0, false⟩) ∧
    decode 0x00E0000000000001 = .ok (.fence true false false) ∧
    decode 0x00E403A140000000 = .ok (.qskip 58 (r 5)) := by decide

theorem test_decode_vector : decode 0x0100298800000000 = .ok (.vadd ⟨.fp32, 1, v 2, v 3, some 0, false, .rne, false⟩) ∧
    decode 0x0103977008000004 = .ok (.vfma ⟨.bf16, 4, v 5, v 6, v 7, none, false, .sr⟩) ∧
    decode 0x0131600000300000 = .ok (.vbcast ⟨.fp32, 3, r 6, none, false⟩) ∧
    decode 0x0153680028280000 = .ok (.vtpack ⟨.tn5, .fp32, 0, 3, v 2, 5, .rne, false⟩) ∧
    decode 0x0160040008020307 = .ok (.gsel ⟨true, 7, 3, 2, 0, v 1⟩) ∧
    decode 0x0161080000380000 = .ok (.hsift false (v 2) (r 7)) ∧
    decode 0x0134610034000000 = .ok (.vperm ⟨.i16, 3, v 0, v 2, none, false⟩) ∧
    decode 0x01321C0030800001 = .ok (.vext ⟨.i32, 1, v 7, 16⟩) := by decide

/-- The chapter's word for this instruction has op 0x03A (DEDUCED, assumption log 48); this one has the op of its own table, 0x13A. -/
theorem test_decode_vldg : decode 0x033A200C00200000 = .ok (.vldg ⟨1, r 4, some 2, false, true⟩) := by decide

theorem test_decode_matrix : decode 0x0180084140000004 = .ok (.tld ⟨2, r 4, r 5, true⟩) ∧ decode 0x01830C0000000000 = .ok (.tzero 3) ∧
    decode 0x0184042000000000 = .ok (.tcopy 1 2) ∧ decode 0x0186144000000000 = .ok (.drainld 5 (r 4)) ∧
    decode 0x0185185250000000 = .ok (.matx ⟨0, 1, 2, 5, r 9, true, .dense, 0, .c1⟩) ∧
    decode 0x0185143246000000 = .ok (.matx ⟨0, 1, 1, 3, r 9, false, .s816, 2, .c1⟩) ∧
    decode 0x0185103240400000 = .ok (.matx ⟨0, 1, 0, 3, r 9, false, .dense, 0, .c4⟩) ∧
    decode 0x01870441400017BF = .ok (.accld ⟨1, r 4, r 5, 63, 47⟩) := by decide

theorem test_decode_drain : decodeDrain 0x81000000 = some (.dldc 1) ∧ decodeDrain 0x10040000 = some (.dadd 0 0 1) ∧
    decodeDrain 0xA0000000 = some (.dmbx false 0) ∧ decodeDrain 0x98000000 = some (.dst 0) ∧
    decodeDrain 0xA8000000 = some .dend := by decide

theorem test_decode_nets_and_threads : decode 0x01A3002140000000 = .ok (.splice (r 2) (r 5)) ∧
    decode 0x01A5008000000000 = .ok (.pref (r 8)) ∧ decode 0x01A6008000000000 = .ok (.unref (r 8)) ∧
    decode 0x01AB003100000001 = .ok (.enqr (r 3) (r 4) true) ∧ decode 0x01A9100000000001 = .ok (.take 4 true) ∧
    decode 0x01C01C3000000001 = .ok (.start 7 (r 3) (r 0) (r 0) none) ∧
    decode 0x01C1100140000003 = .ok (.reap 4 5 true true) ∧ decode 0x01D0000000000003 = .ok (.arrive 3) ∧
    decode 0x01D1006000000003 = .ok (.wait 3 (r 6)) := by decide

theorem test_decode_engines_and_system : decode 0x01D6241080600000 = .ok (.give 9 (r 1) (r 2) (r 3)) ∧
    decode 0x01E1284140C00020 = .ok (.cpyr 10 (r 4) (r 5) (r 6) .add .f32) ∧
    decode 0x01E42020C0800000 = .ok (.cwait 8 (r 2) (r 3) (r 4)) ∧
    decode 0x01F1005180000000 = .ok (.csrw (r 5) (r 6)) := by decide

theorem test_decode_refuses : decode 0x0000000000000000 = .error .unassigned ∧ decode 0x0001000000000001 = .error .reserved ∧
    decode 0xC001000000000000 = .error .badSv ∧ decode 0x0010000000000003 = .error .unassigned := by decide

/-! ## States for witnesses -/

/-- The values of s1 to s6 of the issuing context. -/
def regs (a b c d e f : Word) : Vector Word 32 := wr (wr (wr (wr (wr (wr (Vector.replicate 32 0) 1 a) 2 b) 3 c) 4 d) 5 e) 6 f

/-- A running context. -/
def run1 : Ctx := { run := 9, life := .active, pc := 0x0FFF0F0000000000 }

/-- A state in which a context of core 100 issues. -/
def issue (k : Nat) (x : Ctx) (c : Core) : State := { who := ⟨100, k⟩, ctxs := [(1600 + k, x)], cores := [(100, c)] }

/-- A core whose window 0 holds slate 3 with every right. -/
def core1 : Core := { win := wr (Vector.replicate 8 {}) 0 { valid := true, slate := 3, own := 2, rem := 2 } }

/-- Context 1 with values in its registers. -/
def user (a b c : Word) : State := issue 1 { run1 with s := regs a b c 0 0 0 } core1
/-- The homeroom with values in its registers. -/
def home (a b c : Word) : State := issue 0 { run1 with s := regs a b c 0 0 0 } core1

/-- Whether operands outside the streams can be read. -/
def plainly (s : State) (u : Uses) : Bool :=
  u.need ≤ s.priv s.who && u.codeOk && (u.out ++ u.late).all (fun r => r.toNat < 55 && !s.regPend s.who r) &&
    u.reads.all (fun p => p.1.toNat < 56 && s.regFull s.who p.1 (countReads u.reads p.1)) &&
    u.vs.all (fun v => tb (s.ctx s.who).vFull v.r.toNat) && (u.vdr.all fun v => tb (s.ctx s.who).vFull v.toNat) &&
    (u.vout.all fun v => !tb (s.ctx s.who).vPend v.toNat)

theorem readable_plainly {s : State} {u : Uses} (h : plainly s u = true) : s.Readable u := by
  simp only [plainly, Bool.and_eq_true, decide_eq_true_eq, List.all_eq_true, Bool.not_eq_true'] at h
  obtain ⟨⟨⟨⟨⟨⟨h1, h2⟩, h3⟩, h4⟩, h5⟩, h6⟩, h7⟩ := h
  refine ⟨h1, h2, ?_, ?_, ?_, ?_, ?_, h5, ?_, ?_, ?_⟩
  · intro r hr e; have := (h3 r hr).1; rw [e] at this; exact absurd this (by decide)
  · intro r hr; have := (h3 r (List.mem_append_right _ hr)).1; omega
  · intro p hp hq; have := (h4 p hp).1; omega
  · intro r hr hq; have := (h3 r (List.mem_append_left _ hr)).1; omega
  · intro p hp; exact (h4 p hp).2
  · cases hv : u.vdr with
    | none => simp
    | some v => rw [hv] at h6; simpa using h6
  · intro r hr; exact (h3 r hr).2
  · cases hv : u.vout with
    | none => simp
    | some v => rw [hv] at h7; simpa using h7

/-- Whether an access's issue-cycle checks of its address pass. -/
def allows (s : State) (a : Word) (need : Need) : Bool :=
  match s.form s.who.core a with
  | .bad => false
  | .window c w _ =>
    c != s.who.core || bits a.toNat 39 38 != 0 ||
      (rd (s.coreAt c).win w {}).valid && rightsOk (rd (s.coreAt c).win w {}).own need
  | _ => true

theorem allowsHere_allows {s : State} {a : Word} {need : Need} (h : allows s a need = true) : s.AllowsHere a need := by
  unfold allows at h
  unfold State.AllowsHere
  split <;> simp_all
  intro h1; subst h1; intro h2; simpa [h2] using h

theorem unlocked_none {s : State} {a : Word} {k : AccKind} (h : (s.octet (octetOf s.who.core)).locks = []) : s.Unlocked a k := by
  intro l hl; rw [h] at hl; exact absurd hl (by simp)

/-! ## Witnesses: the scalar tables -/

theorem test_witness_decode : ∃ (i : Instr) (sv ctl w : Nat), sv < 3 ∧ ctl < 16 ∧ encode sv ctl i = some w :=
  ⟨.iadd ⟨3, r 4, r 5⟩ .wrap, 2, 15, _, by decide, by decide, rfl⟩

theorem test_witness_drain_decode : ∃ (i : Instr) (w : Nat), encodeDrain i = some w := ⟨.dadd 1 2 3, _, rfl⟩

theorem test_witness_arithmetic : ∃ (i : Instr) (row : Row) (s : State), Spec.arith i = some row ∧ s.Readable row.uses :=
  ⟨.isel ⟨0, r 1, r 2, r 3⟩, _, user 5 6 0, rfl, readable_plainly (by decide)⟩

theorem test_witness_division : ∃ (i : Instr) (f : R3) (g : Word → Word → Word) (s : State), Spec.division i = some (f, g) ∧
    s.Readable { a := some f.a, b := some f.b, late := [f.d] } :=
  ⟨.irem ⟨4, r 1, r 0⟩, _, _, user 5 0 0, rfl, readable_plainly (by decide)⟩

theorem test_witness_immediate : ∃ (i : Instr) (row : Row) (s : State),
    i.wf = true ∧ Spec.immediate i = some row ∧ s.Readable row.uses :=
  ⟨.israi ⟨2, 63⟩, _, user 5 6 0, by decide, rfl, readable_plainly (by decide)⟩

theorem test_witness_field : ∃ (i : Instr) (row : Row) (s : State), Spec.field i = some row ∧ s.Readable row.uses :=
  ⟨.crc15 ⟨4, r 1, r 2, r 3⟩, _, user 5 6 64, rfl, readable_plainly (by decide)⟩

theorem test_witness_control : ∃ (i : Instr) (row : Row) (s : State),
    Spec.control i = some row ∧ s.Readable row.uses ∧ row.ok (s.vals row.uses) :=
  ⟨.jalr ⟨4, r 1⟩, _, user 0xFFFFFFFFFFFFFFF8 6 64, rfl, readable_plainly (by decide), by decide⟩

/-! ## A stream of each direction -/

/-- A stream of three elements that the run of `run1` holds. -/
def three : Stream := { owner := some 9, bound := true, ns := wr (Vector.replicate 4 1) 0 3 }
/-- A core with an inbound stream in q0 with two elements here and one to come, and an outbound one in q1. -/
def core2 : Core := { core1 with q := wr (wr (Vector.replicate 8 {}) 0 { three with buf := [5, 6] }) 1 { three with outb := true } }
/-- Context 1 of such a core. -/
def streamer : State := issue 1 run1 core2

set_option maxRecDepth 4000 in
theorem test_witness_streams : ∃ (i : Instr) (row : Row) (s : State), Spec.arith i = some row ∧ row.uses.reads.all (fun p => 56 ≤ p.1.toNat) ∧
    56 ≤ row.d.toNat ∧ s.Readable row.uses := by
  refine ⟨.iadd ⟨57, r 56, r 56⟩ .wrap, _, streamer, rfl, by decide, by decide, ?_⟩
  constructor
  · decide
  · decide
  · decide
  · decide
  · unfold State.holds; decide
  · unfold State.holds; decide
  · decide
  · decide
  · decide
  · decide
  · decide

theorem test_witness_code_bad : ∃ (i : Instr) (row : Row), Spec.scalar i = some row ∧ row.uses.CodeBad :=
  ⟨.movi ⟨55, 1⟩, _, rfl, by unfold Uses.CodeBad; decide⟩

theorem test_witness_stream_wrong : ∃ (i : Instr) (row : Row) (s : State),
    Spec.scalar i = some row ∧ ¬ row.uses.CodeBad ∧ s.StreamWrong row.uses :=
  ⟨.iadd ⟨1, r 57, r 2⟩ .wrap, _, streamer, rfl, by unfold Uses.CodeBad; decide, by unfold State.StreamWrong State.holds; decide⟩

theorem test_witness_stream_over : ∃ (i : Instr) (row : Row) (s : State),
    Spec.scalar i = some row ∧ ¬ row.uses.CodeBad ∧ ¬ s.StreamWrong row.uses ∧ s.StreamOver row.uses :=
  ⟨.iadd ⟨1, r 56, r 56⟩ .wrap, _, issue 1 run1 { core1 with q := wr (Vector.replicate 8 {}) 0 { three with done := 2, buf := [6] } }, rfl,
    by unfold Uses.CodeBad; decide, by unfold State.StreamWrong State.holds; decide, by unfold State.StreamOver; decide⟩

theorem test_witness_empty_traps : ∃ (i : Instr) (row : Row) (s : State), Spec.scalar i = some row ∧ ¬ row.uses.CodeBad ∧
    ¬ s.StreamWrong row.uses ∧ ¬ s.StreamOver row.uses ∧ s.EmptyTraps row.uses :=
  ⟨.iadd ⟨1, rt 48, r 2⟩ .wrap, _, user 0 0 0, rfl, by unfold Uses.CodeBad; decide, by unfold State.StreamWrong State.holds; decide,
    by unfold State.StreamOver; decide, by unfold State.EmptyTraps; decide⟩

theorem test_witness_empty_waits : ∃ (i : Instr) (row : Row) (s : State), Spec.scalar i = some row ∧ ¬ row.uses.CodeBad ∧
    ¬ s.StreamWrong row.uses ∧ ¬ s.StreamOver row.uses ∧ ¬ s.EmptyTraps row.uses ∧
    ∃ p ∈ row.uses.reads, s.regFull s.who p.1 (countReads row.uses.reads p.1) = false :=
  ⟨.iadd ⟨1, r 48, r 2⟩ .wrap, _, user 0 0 0, rfl, by unfold Uses.CodeBad; decide, by unfold State.StreamWrong State.holds; decide,
    by unfold State.StreamOver; decide, by unfold State.EmptyTraps; decide, by decide⟩

theorem test_witness_stream_branches : ∃ (s : State) (a b : Reg), 56 ≤ a.toNat ∧ s.holds a ∧ 56 ≤ b.toNat ∧ ¬ s.holds b :=
  ⟨streamer, 56, 58, by decide, by unfold State.holds; decide, by decide, by unfold State.holds; decide⟩

theorem test_witness_end : (∃ s : State, s.who.ctx = 0) ∧
    (∃ s : State, s.who.ctx ≠ 0 ∧ (s.ctx s.who).plain = .store) ∧
    ∃ (s : State) (a : Src), s.who.ctx ≠ 0 ∧ (s.ctx s.who).relaxed = 0 ∧ (s.ctx s.who).plain ≠ .store ∧ s.Readable { a := some a } :=
  ⟨⟨home 0 0 0, rfl⟩, ⟨issue 1 { run1 with plain := .store } {}, by decide, rfl⟩,
    user 1 2 3, r 1, by decide, rfl, by decide, readable_plainly (by decide)⟩

theorem test_witness_pause : ∃ s : State, s.inPlace s.arg.c s.arg.run ∧ (s.ctx s.arg.c).wait = .pause s.arg.n :=
  ⟨{ issue 1 { run1 with wait := .pause 40 } {} with arg := { c := ⟨100, 1⟩, run := 9, n := 40 } },
    by unfold State.inPlace; decide, by decide⟩

/-! ## Witnesses: memory -/

/-- s2 holds the address of a dword of window 0 in handle form. -/
def near : State := user 16 0 8

theorem test_witness_memory : ∃ (i : Instr) (row : MemRow) (s : State), Spec.memory i = some row ∧ s.Readable row.uses ∧
    (s.ctx s.who).plain = .none ∧ (if row.rx then (s.ctx s.who).relaxed < 8 else (s.ctx s.who).relaxed = 0) ∧
    (row.ea (s.vals row.uses)).toNat % row.align = 0 ∧
    s.AllowsHere (row.addr (s.vals row.uses)) (row.kind s (s.vals row.uses)).need ∧
    s.Unlocked (row.addr (s.vals row.uses)) (row.kind s (s.vals row.uses)) ∧ (s.ctx s.who).buddy = none :=
  ⟨.aincb ⟨3, r 1, r 2, true, 0x1FFFFF8, true⟩, _, near, rfl, readable_plainly (by decide), rfl, by decide, by decide,
    allowsHere_allows (by decide), unlocked_none rfl, rfl⟩

theorem test_witness_vector_memory : ∃ (i : Instr) (row : MemRow) (s : State), Spec.memory i = some row ∧ s.Readable row.uses ∧
    row.rx = true ∧ (s.ctx s.who).plain = .none ∧ (s.ctx s.who).relaxed = 7 ∧ (row.ea (s.vals row.uses)).toNat % row.align = 0 ∧
    s.AllowsHere (row.addr (s.vals row.uses)) (row.kind s (s.vals row.uses)).need ∧
    s.Unlocked (row.addr (s.vals row.uses)) (row.kind s (s.vals row.uses)) ∧ (s.ctx s.who).buddy = none :=
  ⟨.vldg ⟨1, r 1, some 2, false, true⟩, _, issue 1 { run1 with s := regs 0x2000 0 0 0 0 0, relaxed := 7 } {}, rfl,
    readable_plainly (by decide), rfl, rfl, rfl, by decide, allowsHere_allows (by decide), unlocked_none rfl, rfl⟩

theorem test_witness_full_empty : ∃ (i : Instr) (row : MemRow) (s : State), Spec.fullEmpty i = some row ∧ s.Readable row.uses ∧
    (s.ctx s.who).plain = .none ∧ (s.ctx s.who).relaxed = 0 ∧ (row.ea (s.vals row.uses)).toNat % 8 = 0 ∧
    bits (row.addr (s.vals row.uses)).toNat 47 40 = 0x0F ∧
    s.AllowsHere (row.addr (s.vals row.uses)) (row.kind s (s.vals row.uses)).need ∧ (s.ctx s.who).buddy = none :=
  ⟨.stx ⟨3, r 1, r 0, 0⟩, _, near, rfl, readable_plainly (by decide), rfl, rfl, by decide, by decide,
    allowsHere_allows (by decide), rfl⟩

theorem test_witness_memory_waits : ∃ (i : Instr) (row : MemRow) (s : State), Spec.memory i = some row ∧
    ¬ ((s.ctx s.who).plain = .none ∧ if row.rx then (s.ctx s.who).relaxed < 8 else (s.ctx s.who).relaxed = 0) ∧ s.Readable row.uses :=
  ⟨.ld ⟨3, r 1, r 0, .d, 0, true⟩, _, issue 1 { run1 with relaxed := 8 } {}, rfl, by decide, readable_plainly (by decide)⟩

/-- An instruction, a state, and what their issue checks read. -/
def checked (i : Instr) (s : State) (row : MemRow) (p : Word → Word → Need → Prop) : Prop :=
  (Spec.memory i = some row ∨ Spec.fullEmpty i = some row) ∧ (s.ctx s.who).plain = .none ∧
  (if row.rx then (s.ctx s.who).relaxed < 8 else (s.ctx s.who).relaxed = 0) ∧ s.Readable row.uses ∧
  p (row.ea (s.vals row.uses)) (row.addr (s.vals row.uses)) (row.kind s (s.vals row.uses)).need

theorem test_witness_misaligned : ∃ i s row, checked i s row fun ea _ _ => ea.toNat % row.align ≠ 0 :=
  ⟨.ld ⟨3, r 1, r 0, .w, 7, false⟩, near, _, .inl rfl, rfl, by decide, readable_plainly (by decide), by decide⟩

theorem test_witness_outside_slates : ∃ i s row, checked i s row fun ea addr _ =>
    ea.toNat % row.align = 0 ∧ Spec.memory i = none ∧ bits addr.toNat 47 40 ≠ 0x0F :=
  ⟨.gldx ⟨3, r 1, r 0, 0⟩, near, _, .inr rfl, rfl, by decide, readable_plainly (by decide), by decide⟩

theorem test_witness_malformed : ∃ i s row, checked i s row fun ea addr _ => ea.toNat % row.align = 0 ∧ s.form s.who.core addr = .bad :=
  ⟨.gld ⟨3, r 1, r 0, .w, 0, false⟩, user 0x0FFF0F0000080000 0 0, _, .inl rfl, rfl, by decide, readable_plainly (by decide), by decide⟩

theorem test_witness_no_window : ∃ i s row, checked i s row fun ea addr _ => ∃ w off,
    ea.toNat % row.align = 0 ∧ s.form s.who.core addr = .window s.who.core w off ∧ bits addr.toNat 39 38 = 0 ∧
    (rd (s.coreAt s.who.core).win w {}).valid = false :=
  ⟨.ld ⟨3, r 1, r 0, .w, 0, false⟩, user 0x10000 0 0, _, .inl rfl, rfl, by decide, readable_plainly (by decide), 1, 0,
    by decide, rfl, by decide, by decide⟩

theorem test_witness_no_right : ∃ i s row, checked i s row fun ea addr need => ∃ w off,
    ea.toNat % row.align = 0 ∧ s.form s.who.core addr = .window s.who.core w off ∧ bits addr.toNat 39 38 = 0 ∧
    (rd (s.coreAt s.who.core).win w {}).valid = true ∧ rightsOk (rd (s.coreAt s.who.core).win w {}).own need = false :=
  ⟨.st ⟨3, r 1, r 0, .w, 0, false⟩, issue 1 run1 { win := wr (Vector.replicate 8 {}) 0 { valid := true, slate := 3, own := 1 } }, _,
    .inl rfl, rfl, by decide, readable_plainly (by decide), 0, 0, by decide, rfl, by decide, by decide, by decide⟩

/-! ## Witnesses: banks -/

/-- An access of context 1 of core 100 to its window 0, at its bank. -/
def acc (k : AccKind) (off : Nat) : Access :=
  { id := 7, run := 9, who := ⟨100, 1⟩, kind := k, addr := BitVec.ofNat 64 (0x0FFF0F0000000000 + off), dest := .reg 1, lat := 4 }
/-- A state in which it comes to its bank. -/
def atBank (a : Access) : State := { near with arg := { acc := a } }

/-- Whether such an access is let on at its slate. -/
def letOn (k : AccKind) (off : Nat) : Bool :=
  let a := acc k off
  let s := atBank a
  !s.degraded 13 3 && !s.watched a (slateKey 13 3 off) && !s.isPoisoned (slateKey 13 3 off) k.size && off < 65536

theorem lands {k : AccKind} {off : Nat} (h : letOn k off = true)
    (g : (atBank (acc k off)).landParts 100 false true (acc k off).addr k.parts k.need k.use =
      .go (slateKey 13 3 off) (atBank (acc k off))) :
    (atBank (acc k off)).Lands (acc k off) (slateKey 13 3 off) (atBank (acc k off)) := by
  simp only [letOn, Bool.and_eq_true, Bool.not_eq_true', decide_eq_true_eq] at h
  obtain ⟨⟨⟨h1, h2⟩, h3⟩, h4⟩ := h
  have e : keyOctet (slateKey 13 3 off) = 13 ∧ keySlate (slateKey 13 3 off) = 3 := by
    simp [keyOctet, keySlate, slateKey]; omega
  refine ⟨rfl, rfl, g, (by decide : 100 < 7680), .inr fun q _ => Nat.zero_le _, .inr ?_, .inr (.inr h2),
    ⟨rfl, by rw [e.1, e.2]; exact h1, h3⟩, ?_⟩
  · intro _; have : ¬ slateKey 13 3 off < 2 ^ 47 := by unfold slateKey; omega
    simp [isHostKey]; omega
  · intro p hp; exact absurd hp (by simp [atBank, near, user, issue])

theorem test_witness_loads_at_banks :
    (∃ (s t : State) (a : Access) (k n : Nat) (sx : Bool), s.arg.acc = a ∧ s.Lands a k t ∧ n ∈ Spec.sizes ∧ a.kind = .load n sx) ∧
    ∃ (s t : State) (a : Access) (k : Nat), s.arg.acc = a ∧ s.Lands a k t ∧ a.kind = .vload :=
  ⟨⟨_, _, acc (.load 8 true) 65528, _, _, _, rfl, lands (by decide) rfl, by decide, rfl⟩,
    ⟨_, _, acc .vload 65408, _, rfl, lands (by decide) rfl, rfl⟩⟩

theorem test_witness_stores_at_banks :
    (∃ (s t : State) (a : Access) (k n : Nat) (d : Word), s.arg.acc = a ∧ s.Lands a k t ∧ n ∈ Spec.sizes ∧ a.kind = .store n d) ∧
    ∃ (s t : State) (a : Access) (k : Nat) (m : BitVec 32) (d : VWord), s.arg.acc = a ∧ s.Lands a k t ∧ a.kind = .vstore m d :=
  ⟨⟨_, _, acc (.store 1 255) 65535, _, _, _, rfl, lands (by decide) rfl, by decide, rfl⟩,
    ⟨_, _, acc (.vstore 0x80000001 5) 0, _, _, _, rfl, lands (by decide) rfl, rfl⟩⟩

theorem test_witness_atomics_at_banks : ∃ (s t : State) (a : Access) (k n : Nat) (op : AtomOp) (x y : Word),
    s.arg.acc = a ∧ s.Lands a k t ∧ isSlateKey k = true ∧ (n = 4 ∨ n = 8) ∧ a.kind = .atomic op n x y ∧
    x.toNat < 2 ^ (8 * n) ∧ y.toNat < 2 ^ (8 * n) :=
  ⟨_, _, acc (.atomic .incb 4 0xFFFFFFFF 0) 4, _, 4, .incb, _, _, rfl, lands (by decide) rfl, by decide, by decide, rfl, by decide, by decide⟩

theorem test_witness_full_words : ∃ (s t : State) (a : Access) (k : Nat), s.arg.acc = a ∧ s.Lands a k t ∧ isSlateKey k = true ∧
    k % 8 = 0 ∧ t.full k = true ∧ a.kind = .ldx :=
  ⟨_, _, acc .ldx 8, _, rfl, lands (by decide) rfl, by decide, by decide, by decide, rfl⟩

theorem test_witness_full_word_read : ∃ (s t : State) (a : Access) (k : Nat), s.arg.acc = a ∧ s.Lands a k t ∧ isSlateKey k = true ∧
    k % 8 = 0 ∧ t.full k = true ∧ (a.kind = .ldf ∨ ∃ d, a.kind = .stx d) :=
  ⟨_, _, acc .ldf 65528, _, rfl, lands (by decide) rfl, by decide, by decide, by decide, .inl rfl⟩

/-- The word at the start of the slate is empty. -/
def hollow (k : AccKind) : State := { atBank (acc k 0) with empty := [slateKey 13 3 0 / 8] }

theorem test_witness_empty_words : ∃ (s t : State) (a : Access) (k : Nat), s.arg.acc = a ∧ s.Lands a k t ∧ isSlateKey k = true ∧
    k % 8 = 0 ∧ t.full k = false ∧ ((∃ d, a.kind = .stx d) ∨ a.kind = .ldf) :=
  ⟨hollow (.stx 5), hollow (.stx 5), acc (.stx 5) 0, slateKey 13 3 0, rfl,
    ⟨rfl, rfl, rfl, by decide, .inr fun q _ => Nat.zero_le _, .inr (by decide), .inr (.inr (by decide)), ⟨rfl, by decide, by decide⟩,
      fun p hp => absurd hp (by simp [hollow, atBank, near, user, issue])⟩, by decide, by decide, by decide, .inl ⟨5, rfl⟩⟩

/-! ## Witnesses: replies -/

/-- A state in which the reply of an access of context 1 has come. -/
def replied (x : Ctx) (a : Access) (c : Nat) : State := { issue 1 x core1 with arg := { acc := a, vec := 77, cause := c } }

theorem plainly_at {x : Ctx} {a : Access} {c : Nat} (h : x.run = 9 ∧ x.life = .active ∧ x.buddy = none ∧ x.drops = [] ∧ x.relFault = none) :
    (replied x a c).Plainly ⟨100, 1⟩ 9 := by
  have e : (replied x a c).ctx ⟨100, 1⟩ = x := rfl
  refine ⟨by decide, ⟨by rw [e]; exact h.1, by rw [e, h.2.1]; decide, rfl⟩, ?_, ?_, ?_, ?_⟩ <;> rw [e]
  · exact h.2.1
  · exact h.2.2.1
  · exact h.2.2.2.1
  · exact h.2.2.2.2

theorem test_witness_replies : ∃ (s : State) (a : Access) (d : Reg), s.arg.acc = a ∧ s.Plainly a.who a.run ∧ d.toNat < 56 ∧
    a.dest = .reg d ∧ a.kind = .ldx ∧ a.rx = false ∧ (s.ctx a.who).wait = .reply a.id :=
  ⟨replied { run1 with plain := .load, wait := .reply 7 } (acc .ldx 8) 0, acc .ldx 8, 1, rfl,
    plainly_at ⟨rfl, rfl, rfl, rfl, rfl⟩, by decide, rfl, rfl, rfl, rfl⟩

theorem test_witness_relaxed_replies : ∃ (s : State) (a : Access) (d : Reg), s.arg.acc = a ∧ s.Plainly a.who a.run ∧ d.toNat < 56 ∧
    a.dest = .reg d ∧ (∃ n sx, a.kind = .load n sx) ∧ a.rx = true :=
  ⟨replied { run1 with relaxed := 1 } { acc (.load 4 true) 8 with rx := true } 0, { acc (.load 4 true) 8 with rx := true }, 1, rfl,
    plainly_at ⟨rfl, rfl, rfl, rfl, rfl⟩, by decide, rfl, ⟨4, true, rfl⟩, rfl⟩

theorem test_witness_acknowledgements : ∃ (s : State) (a : Access), s.arg.acc = a ∧ s.Plainly a.who a.run ∧
    (∃ d, a.kind = .stx d) ∧ a.rx = false ∧ (s.ctx a.who).wait = .reply a.id :=
  ⟨replied { run1 with plain := .store, wait := .reply 7 } (acc (.stx 5) 8) 0, acc (.stx 5) 8, rfl,
    plainly_at ⟨rfl, rfl, rfl, rfl, rfl⟩, ⟨5, rfl⟩, rfl, rfl⟩

theorem test_witness_refusals : ∀ n ∈ [1, 2], ∃ (s : State) (a : Access) (d : Reg), s.arg.acc = a ∧ s.Plainly a.who a.run ∧
    d.toNat < 56 ∧ a.dest = .reg d ∧ (∃ n sx, a.kind = .load n sx) ∧ a.rx = true ∧ (s.ctx a.who).relaxed = n := by
  intro n _
  exact ⟨replied { run1 with relaxed := n } { acc (.load 4 true) 8 with rx := true } 0x11, { acc (.load 4 true) 8 with rx := true }, 1, rfl,
    plainly_at ⟨rfl, rfl, rfl, rfl, rfl⟩, by decide, rfl, ⟨4, true, rfl⟩, rfl, rfl⟩

/-! ## Witnesses: vectors -/

theorem test_witness_lane_moves : ∃ (i : Instr) (row : Spec.LaneRow) (s : State),
    i.wf = true ∧ Spec.lanesTable i = some row ∧ s.Readable row.uses :=
  ⟨.vrot ⟨.i16, 1, v 2, r 3, some 1, false⟩, _, user 1 2 3, by decide, rfl, readable_plainly (by decide)⟩

theorem test_witness_vector_arithmetic : ∃ (i : Instr) (row : Spec.RoundRow) (s : State),
    i.wf = true ∧ Spec.rounding i = some row ∧ s.Readable (Spec.vUses row.vs row.vd row.p row.zm) :=
  ⟨.vcvt ⟨.i32, .fp32, 1, v 2, none, false, .rz, true⟩, _, user 1 2 3, by decide, rfl, readable_plainly (by decide)⟩

theorem test_witness_late_arithmetic : ∃ (i : Instr) (row : Spec.RoundRow) (a b : Nat) (s : State),
    i.wf = true ∧ Spec.roundingLate i = some (row, a, b) ∧ s.Readable (Spec.vUses row.vs row.vd row.p row.zm) :=
  ⟨.vdiv ⟨.fp16, 1, v 2, v 3, some 1, true, .rne, false⟩, _, _, _, user 1 2 3, by decide, rfl, readable_plainly (by decide)⟩

theorem test_witness_late_results : (∃ (s : State) (l : Late) (d : Reg), s.arg.late = l ∧ s.inPlace l.who l.run ∧
      (s.ctx l.who).buddy = none ∧ d.toNat < 56 ∧ l.dest = .reg d) ∧
    ∃ (s : State) (l : Late) (vd : BitVec 3) (d : DivOp) (rest : List DivOp), s.arg.late = l ∧ s.inPlace l.who l.run ∧
      (s.ctx l.who).buddy = none ∧ l.dest = .vec vd 0xFFFFFFFF false ∧ s.arg.core = l.who.core ∧
      (s.coreAt l.who.core).div.drop 1 = d :: rest :=
  ⟨⟨{ user 1 2 3 with arg := { late := { who := ⟨100, 1⟩, run := 9, dest := .reg 47, val := 5 } } }, _, 47, rfl,
      by unfold State.inPlace; decide, rfl, by decide, rfl⟩,
    ⟨{ issue 1 run1 { div := [{}, { cycles := 40 }] } with
        arg := { core := 100, late := { who := ⟨100, 1⟩, run := 9, dest := .vec 7 0xFFFFFFFF false, val := 5 } } }, _, 7, _, _, rfl,
      by unfold State.inPlace; decide, rfl, rfl, rfl, rfl⟩⟩

theorem test_witness_predicates : (∃ (f : VCmpF) (s : State), s.Readable { vs := [f.va, f.vb] }) ∧
    (∃ (i : Instr) (pd : BitVec 2) (g : (BitVec 2 → BitVec 32) → BitVec 32), Spec.predicate i = some (pd, g)) ∧
    ∃ (i : Instr) (row : Row) (s : State), i.wf = true ∧ Spec.vectorScalar i = some row ∧ s.Readable row.uses :=
  ⟨⟨⟨true, 0, .lt, false, v 1, v 2, some 3, true⟩, user 1 2 3, readable_plainly (by decide)⟩, ⟨.pnot 1 2, _, _, rfl⟩,
    .vext ⟨.i16, 5, v 1, 47⟩, _, user 1 2 3, by decide, rfl, readable_plainly (by decide)⟩

theorem test_witness_reductions : (∃ (i : Instr) (u : Uses) (vd : BitVec 3) (f : State → Vals → VRes) (s : State),
      Spec.whole i = some (u, vd, f) ∧ s.Readable u) ∧
    (∃ (i : Instr) (f : VUn) (g : List Int → Int) (h : List Nat → Nat) (signed : Bool) (s : State), i.wf = true ∧
      Spec.reduce i = some (f, g, h, signed) ∧ f.lt.isIntLane = true ∧ f.sat = false ∧ s.Readable { vs := [f.va], vout := some f.vd }) ∧
    ∃ (f : VTPackF) (s : State), (Instr.vtpack f).wf = true ∧ s.Readable { vs := [f.va], vdr := some f.vd, vout := some f.vd, out := [f.s] } :=
  ⟨⟨.vscan ⟨.fp32, 1, v 2, none, false, .rne, false⟩, _, _, _, user 1 2 3, rfl, readable_plainly (by decide)⟩,
    ⟨.vrmax ⟨.i16, 1, v 2, some 0, false, .rne, false⟩, _, _, _, _, user 1 2 3, by decide, rfl, rfl, rfl, readable_plainly (by decide)⟩,
    ⟨.tn5, .fp16, 1, 1, v 2, 3, .rne, false⟩, user 1 2 3, by decide, readable_plainly (by decide)⟩

theorem test_witness_experts : ∃ (f : GselF) (s : State), (Instr.gsel f).wf = true ∧
    (let n := (f.e.toNat + 1024 / (if f.bf then 16 else 32)) / (1024 / (if f.bf then 16 else 32))
     let u : Uses :=
       { vs := (List.range n).map fun i => { r := f.va.r + BitVec.ofNat 3 i, e := f.va.e }, vout := some f.vd
         codeOk := f.va.r.toNat + n ≤ 8 }
     s.Readable u) :=
  ⟨⟨false, 255, 7, 4, 0, v 0⟩, user 1 2 3, by decide, readable_plainly (by decide)⟩

theorem test_witness_heap_sift : (∃ (va : VSrc) (x : Src) (s : State), s.Readable { a := some x, vs := [va] } ∧
      (s.ctx s.who).plain = .none ∧ (s.ctx s.who).relaxed = 0 ∧ 65536 < (s.vals { a := some x, vs := [va] }).a.toNat % 65536 + 72) ∧
    ∃ (x : Src) (s : State), s.Readable { a := some x } ∧ (s.ctx s.who).plain = .none ∧ (s.ctx s.who).relaxed = 0 ∧
      (s.vals { a := some x }).a.toNat % 8 = 0 ∧ (s.vals { a := some x }).a.toNat % 65536 + 72 ≤ 65536 ∧
      s.AllowsHere (BitVec.ofNat 64 (0x0FFF0F0000000000 + (s.vals { a := some x }).a.toNat % 2 ^ 19)) .store ∧
      (s.ctx s.who).buddy = none :=
  ⟨⟨v 1, r 1, user 65472 0 0, readable_plainly (by decide), rfl, rfl, by decide⟩,
    r 1, user 65464 0 0, readable_plainly (by decide), rfl, rfl, by decide, by decide, allowsHere_allows (by decide), rfl⟩

/-! ## Witnesses: streams and mailboxes -/

theorem test_witness_claims : ∃ (s : State) (d e f : Reg), 56 ≤ d.toNat ∧ (s.stream s.who.core d).owner = none ∧
    (s.stream s.who.core e).owner = some (s.ctx s.who).run ∧ (s.stream s.who.core e).bound = true ∧
    (s.stream s.who.core e).counted = false ∧ 56 ≤ f.toNat ∧ (s.stream s.who.core f).owner = some 3 ∧ 3 ≠ (s.ctx s.who).run :=
  ⟨issue 1 run1 { core2 with q := wr core2.q 7 { owner := some 3 } }, 58, 56, 63, by decide, rfl, rfl, rfl, rfl, by decide, rfl, by decide⟩

theorem test_witness_counted : ∃ (s : State) (d : Reg), 56 ≤ d.toNat ∧ (s.stream s.who.core d).owner = some (s.ctx s.who).run ∧
    (s.stream s.who.core d).bound = true ∧ (s.stream s.who.core d).counted = true :=
  ⟨issue 1 run1 { q := wr (Vector.replicate 8 {}) 0 { three with counted := true } }, 56, by decide, rfl, rfl, rfl⟩

theorem test_witness_counts : (∃ (s : State) (a d : Reg), s.Readable { out := [d], codeOk := decide (56 ≤ a.toNat) } ∧
      (s.stream s.who.core a).owner = some (s.ctx s.who).run) ∧
    ∃ (s : State) (a : Reg) (b : Src), s.Readable { b := some b, codeOk := decide (56 ≤ a.toNat) } ∧ 56 ≤ a.toNat ∧ s.holds a ∧
      (s.stream s.who.core a).outb = false ∧ (s.ctx s.who).qskip = none :=
  ⟨⟨streamer, 56, 1, readable_plainly (by decide), rfl⟩,
    streamer, 56, r 1, readable_plainly (by decide), by decide, by unfold State.holds; decide, rfl, rfl⟩

theorem test_witness_mailboxes : ∃ (s : State) (d : Reg), s.Readable { out := [d] } ∧ tb (s.coreAt s.who.core).mFull 7 = true ∧
    tb (s.coreAt s.who.core).mFull 0 = false ∧ (s.coreAt s.who.core).m7q ≠ [] :=
  ⟨issue 1 run1 { mFull := 0x80, m7q := [4] }, 1, readable_plainly (by decide), rfl, rfl, by decide⟩

theorem test_witness_stream_binding : ∃ (s : State) (d : Reg) (a : Src), 56 ≤ d.toNat ∧
    (s.stream s.who.core d).owner = some (s.ctx s.who).run ∧ (s.stream s.who.core d).bound = false ∧
    (let s' := s.modCore s.who.core fun k => { k with q := wr k.q (d.toNat - 56) { owner := (s.stream s.who.core d).owner } }
     s'.Readable { a := some a } ∧ (s.ctx s.who).plain = .none ∧ (s.ctx s.who).relaxed = 0 ∧
     (s'.vals { a := some a }).a.toNat % 8 = 0 ∧ s'.AllowsHere (s'.vals { a := some a }).a .load ∧
     s'.Unlocked (s'.vals { a := some a }).a (.bind (d.toNat - 56)) ∧ (s.ctx s.who).buddy = none) :=
  ⟨issue 1 { run1 with s := regs 0x0FFF0F0000000040 0 0 0 0 0 } { core1 with q := wr (Vector.replicate 8 {}) 7 { owner := some 9 } }, 63, r 1,
    by decide, rfl, rfl, readable_plainly (by decide), rfl, rfl, by decide, allowsHere_allows (by decide), unlocked_none rfl, rfl⟩

/-- Core 100 with a stream in q0, of which an element's step has come. -/
def moving (q : Stream) (a : StepArg) : State := { issue 1 run1 { core1 with q := wr (Vector.replicate 8 {}) 0 q } with arg := { a with core := 100 } }

theorem unpoisoned {s : State} (h : s.poison = []) (k n : Nat) : s.isPoisoned k n = false := by
  simp [State.isPoisoned, h, memNat]

/-- A stream whose next element is the first dword of window 0. -/
def fetching : State := moving { three with who := ⟨100, 1⟩, esz := 3, base := 0x0FFF0F0000000000 } {}

theorem test_witness_stream_moves : ∃ s : State, s.arg.id = 0 ∧ (s.q s.arg.core s.arg.n).bound = true ∧
    (s.q s.arg.core s.arg.n).ending = false ∧ (s.q s.arg.core s.arg.n).stalled = none ∧ (s.q s.arg.core s.arg.n).kind = 0 ∧
    (s.q s.arg.core s.arg.n).outb = false ∧ (s.q s.arg.core s.arg.n).closing = false ∧
    (s.q s.arg.core s.arg.n).moved < (s.q s.arg.core s.arg.n).limit ∧
    (s.q s.arg.core s.arg.n).moved - (s.q s.arg.core s.arg.n).done < 16 ∧
    ∃ ks u, s.elemSide s.arg.core (s.q s.arg.core s.arg.n) ((s.q s.arg.core s.arg.n).addrOf (s.q s.arg.core s.arg.n).moved) 0 = .ok ks u ∧
      u.latent = [] ∧ ∀ k ∈ ks, u.isPoisoned k 1 = false := by
  refine ⟨fetching, rfl, rfl, rfl, rfl, rfl, rfl, rfl, by decide, by decide,
    _, _, rfl, rfl, ?_⟩
  intro k _; exact unpoisoned rfl k 1

theorem test_witness_stream_misses : ∃ (s : State) (p : Word),
    s.elemSide s.arg.core (s.q s.arg.core s.arg.n) ((s.q s.arg.core s.arg.n).addrOf (s.q s.arg.core s.arg.n).moved) 0 = .miss p :=
  ⟨moving { three with who := ⟨100, 1⟩, esz := 3, base := 0x0FFF000000010000 } {}, _, rfl⟩

theorem test_witness_stream_out : ∃ (s : State) (w : Word) (l : List Word), s.arg.id = 0 ∧ (s.q s.arg.core s.arg.n).bound = true ∧
    (s.q s.arg.core s.arg.n).kind = 0 ∧ (s.q s.arg.core s.arg.n).outb = true ∧ (s.q s.arg.core s.arg.n).tsp = true ∧
    (s.q s.arg.core s.arg.n).staff = true ∧ (s.q s.arg.core s.arg.n).skipped = [] ∧ (s.q s.arg.core s.arg.n).buf = w :: l ∧ s.Inv ∧
    ((s.q s.arg.core s.arg.n).addrOf (s.q s.arg.core s.arg.n).moved).toNat % 32768 + 2 ^ (s.q s.arg.core s.arg.n).esz ≤ 32768 :=
  ⟨moving { three with who := ⟨100, 1⟩, esz := 2, outb := true, tsp := true, staff := true, buf := [7], base := 32764 } {}, _, _,
    rfl, rfl, rfl, rfl, rfl, rfl, rfl, rfl, rfl, by decide⟩

/-- A core whose channel 1 holds an element for the stream in q0. -/
def channel : Core :=
  { core1 with q := wr (Vector.replicate 8 {}) 0 { three with kind := 1, ch := 1 }, nbr := wr (Vector.replicate 4 []) 1 [5] }

theorem test_witness_neighbours : (∃ (s : State) (w : Word) (l : List Word) (dst : Nat), (s.q s.arg.core s.arg.n).kind = 1 ∧
      (s.q s.arg.core s.arg.n).outb = true ∧ (s.q s.arg.core s.arg.n).ch < 4 ∧ (s.q s.arg.core s.arg.n).buf = w :: l ∧
      s.neighbour s.arg.core (s.q s.arg.core s.arg.n).ch = some dst ∧
      rd (s.coreAt s.arg.core).nbrOut (s.q s.arg.core s.arg.n).ch 0 < 16) ∧
    ∃ (s : State) (w : Word) (l : List Word), (s.q s.arg.core s.arg.n).bound = true ∧ (s.q s.arg.core s.arg.n).kind = 1 ∧
      (s.q s.arg.core s.arg.n).outb = false ∧ rd (s.coreAt s.arg.core).nbr (s.q s.arg.core s.arg.n).ch [] = w :: l ∧
      (s.q s.arg.core s.arg.n).moved < (s.q s.arg.core s.arg.n).limit ∧ (s.q s.arg.core s.arg.n).buf.length < 16 := by
  refine ⟨⟨moving { three with kind := 1, ch := 1, outb := true, buf := [7] } {}, _, _, _, rfl, rfl, by decide, rfl, rfl, by decide⟩,
    { issue 1 run1 channel with arg := { core := 100 } }, _, _, rfl, rfl, rfl, rfl, by decide, by decide⟩

/-! ## Witnesses: copies and completion words -/

/-- Context 1 with a copy's operands in s1 to s4: its source, its destination, its length and its completion word. -/
def copier (a b c d : Word) (k : Core) : State := issue 1 { run1 with s := regs a b c d 0 0 } k
/-- An address of window 0. -/
def near0 (off : Nat) : Word := BitVec.ofNat 64 (0x0FFF0F0000000000 + off)

/-- The operands of a copy. -/
def cpyUses : Uses := { dr := some 4, a := some (r 1), b := some (r 2), c := some (r 3) }
/-- The operands and premises of a copy of the registers s1 to s4. -/
def copies (s : State) (n : Nat) : Prop :=
  s.Readable cpyUses ∧ (s.ctx s.who).plain = .none ∧
  (s.ctx s.who).relaxed = 0 ∧ ∃ v, v = s.vals cpyUses ∧
    v.c.toNat % 2 ^ 32 = n

theorem test_witness_copies : ∃ s : State, copies s 64 ∧
    (let v := s.vals cpyUses
     let src : Span := ⟨v.a, 64, false⟩
     let dst : Span := ⟨v.b, 64, true⟩
     (s.form 100 v.a ≠ .bad ∧ s.form 100 v.b ≠ .bad ∧ s.form 100 v.d ≠ .bad) ∧
     (s.leavesSlate 100 src = false ∧ s.leavesSlate 100 dst = false) ∧
     (s.spanClosed 100 src = false ∧ s.spanClosed 100 dst = false) ∧
     (s.spanFault 100 false src).or (s.spanFault 100 false dst) = none ∧
     s.lockConflict 100 src = false ∧ s.lockConflict 100 dst = false ∧ s.lockRoom 100 [src, dst] = true) :=
  ⟨copier (near0 0) (near0 65472) 64 (near0 128) core1, ⟨readable_plainly (by decide), rfl, rfl, _, rfl, rfl⟩,
    ⟨by decide, by decide, by decide⟩, ⟨by decide, by decide⟩, ⟨by decide, by decide⟩, by decide, by decide, by decide, by decide⟩

theorem test_witness_copies_beyond : ∃ s : State, copies s 64 ∧
    s.leavesSlate 100 ⟨(s.vals cpyUses).b, 64, true⟩ = true :=
  ⟨copier (near0 0) (near0 65473) 64 (near0 128) core1, ⟨readable_plainly (by decide), rfl, rfl, _, rfl, rfl⟩, by decide⟩

theorem test_witness_copies_without_right : ∃ s : State, copies s 64 ∧
    (s.spanFault 100 false ⟨(s.vals cpyUses).b, 64, true⟩).isSome = true :=
  ⟨copier (near0 0) (near0 0x10000) 64 (near0 128) core1, ⟨readable_plainly (by decide), rfl, rfl, _, rfl, rfl⟩, by decide⟩

theorem test_witness_copies_remote : ∃ (s : State) (m : Nat), copies s 64 ∧ s.form 100 (s.vals cpyUses).a = .remote m :=
  ⟨copier 0x0123000000000000 (near0 0) 64 (near0 128) core1, _, ⟨readable_plainly (by decide), rfl, rfl, _, rfl, rfl⟩, rfl⟩

/-- A copy of octet 13 within slate 3 whose last piece has come. -/
def copying : EngOp :=
  { id := 5, who := ⟨100, 1⟩, run := 9, staff := true, src := near0 0, dst := near0 512, len := 100, pos := 64, cw := near0 128 }

/-- The destination's key of that piece. -/
def copyKey : Nat := slateKey 13 3 576

theorem test_witness_copy_pieces : ∃ (s : State) (op : EngOp) (sk : List Nat) (k : Nat), s.Inv ∧ (s.octet s.arg.octet).ops = [op] ∧
    (s.octet s.arg.octet).fixups = [] ∧ op.moving = true ∧ op.start ≤ s.cycle ∧ op.kind = .cpy ∧ op.staff = true ∧
    s.side op.who op.staff op.id (op.src + BitVec.ofNat 64 op.pos) (min 64 (op.len - op.pos)) 0 = .ok sk s ∧
    s.side op.who op.staff op.id (op.dst + BitVec.ofNat 64 op.pos) (min 64 (op.len - op.pos)) 1 =
      .ok ((List.range (min 64 (op.len - op.pos))).map fun i => k + i) s ∧
    (op.slot = true ∨ ∀ j, (j ∈ sk ∨ (k ≤ j ∧ j < k + min 64 (op.len - op.pos))) → s.bankFrom j ≤ s.cycle) ∧
    sk.length = min 64 (op.len - op.pos) ∧ s.latent = [] ∧
    (∀ j ∈ sk, s.isPoisoned j 1 = false ∧ s.degraded (keyOctet j) (keySlate j) = false) ∧
    s.Quiet k (min 64 (op.len - op.pos)) := by
  refine ⟨{ near with arg := { octet := 13 }, octets := [(13, { ops := [copying] })] }, copying, _, copyKey, rfl, rfl, rfl, rfl, by decide, rfl, rfl,
    rfl, rfl, .inr fun j _ => Nat.zero_le _, rfl, rfl, ?_, ?_⟩
  · intro j hj; refine ⟨unpoisoned rfl j 1, ?_⟩
    revert j; decide
  · intro p hp; exact absurd hp (by simp [near, user, issue])

/-- The increment of a completion word in window 0. -/
def counting : State := { near with arg := { count := { addr := near0 128, what := .engine 13 5, who := ⟨100, 1⟩, run := 9 } } }

theorem test_witness_increments : ∃ (s : State) (c : Count) (o sl k : Nat), s.arg.count = c ∧ (s.coreAt c.who.core).cuts = [] ∧ s.Inv ∧
    (∀ m off, s.form c.who.core c.addr ≠ .remote m ∧ s.form c.who.core c.addr ≠ .mem off) ∧ s.form c.who.core c.addr ≠ .bad ∧
    s.isNacked c.who.core false (s.form c.who.core c.addr) = false ∧ s.slateOf (s.form c.who.core c.addr) = some (o, sl) ∧ o < 960 ∧
    sl < 32 ∧ k = slateKey o sl (c.addr.toNat % 65536) / 8 * 8 ∧ s.NoEffectBit c.who c.run ∧ s.Quiet k 8 := by
  refine ⟨counting, _, 13, 3, _, rfl, rfl, rfl, ?_,
    by decide, by decide, by decide, by decide, by decide, rfl, ?_, ?_⟩
  · intro m off
    have e : counting.form counting.arg.count.who.core counting.arg.count.addr = .window 100 0 128 := rfl
    rw [e]; simp
  · intro x hx; left
    have : x = { run1 with s := regs 16 0 8 0 0 0 } := Option.some.inj (hx.symm.trans rfl)
    rw [this]; rfl
  · intro p hp; exact absurd hp (by simp [counting, near, user, issue])

theorem test_witness_missed_increments : ∃ (s : State) (c : Count) (off : Nat), s.arg.count = c ∧ (s.coreAt c.who.core).cuts = [] ∧
    s.form c.who.core c.addr = .mem off ∧ s.tlbFind (dieOf c.who.core) (s.partOf c.who.core) off = none ∧
    (s.walk (s.partOf c.who.core) off).1 = none :=
  ⟨{ near with arg := { count := { addr := 0x0FFF000000020000, who := ⟨100, 1⟩, run := 9 } } }, _, _, rfl, rfl, rfl, rfl, rfl⟩

/-- The operands of CWAIT, its word in s1. -/
def cwaitUses : Uses := { a := some (r 1), b := some (r 2), c := some (r 3), late := [4] }

theorem test_witness_cwait_outside : ∃ s : State, s.Readable cwaitUses ∧ s.form s.who.core (s.vals cwaitUses).a ≠ .bad ∧
    bits (s.vals cwaitUses).a.toNat 47 40 ≠ 0x0F :=
  ⟨user 0x0FFF000000010000 1 0, readable_plainly (by decide), by decide, by decide⟩

theorem test_witness_cwait : ∀ n ∈ [(0 : Word), 1], ∃ s k m, s = user (near0 128) n 5 ∧ s.Readable cwaitUses ∧
    bits (s.vals cwaitUses).a.toNat 47 40 = 0x0F ∧ s.AllowsHere (s.vals cwaitUses).a .sync ∧ (s.ctx s.who).life = .active ∧
    s.land s.who.core (decide (s.priv s.who = 2)) true (s.vals cwaitUses).a 8 .sync 0 = .go k m ∧
    (Spec.satisfied (memReadN s.mem (k / 8 * 8) 8) ((s.vals cwaitUses).b.toNat % 2 ^ 62) ↔ n = 0) ∧ (s.ctx s.who).buddy = none := by
  intro n hn
  simp only [List.mem_cons, List.not_mem_nil, or_false] at hn
  rcases hn with rfl | rfl
  · exact ⟨_, _, _, rfl, readable_plainly (by decide), by decide, allowsHere_allows (by decide), rfl, rfl, by unfold Spec.satisfied; decide, rfl⟩
  · exact ⟨_, _, _, rfl, readable_plainly (by decide), by decide, allowsHere_allows (by decide), rfl, rfl, by unfold Spec.satisfied; decide, rfl⟩

theorem test_witness_cwait_limit : ∃ (s : State) (who : CtxId) (z : Sleeper) (d : Reg), s.arg.c = who ∧ (s.ctx who).run = s.arg.run ∧
    (s.ctx who).life = .active ∧ (s.ctx who).wait = .cwait s.arg.id ∧ (s.ctx who).drops = [] ∧ (s.ctx who).left = 0 ∧
    s.arg.n ≤ s.cycle ∧ s.sleepers = [z] ∧ z.acc.id = s.arg.id ∧ z.acc.dest = .reg d ∧ 0 < d.toNat ∧ d.toNat < 32 :=
  ⟨{ issue 1 { run1 with wait := .cwait 7 } core1 with
      arg := { c := ⟨100, 1⟩, run := 9, id := 7 }, sleepers := [{ acc := acc (.cwait 1 5) 128 }] }, _, _, 1,
    rfl, rfl, rfl, rfl, rfl, rfl, by decide, rfl, rfl, rfl, by decide, by decide⟩

/-! ## Witnesses: slates -/

/-- SMAP's operands. -/
def smapUses : Uses := { a := some (r 1), b := some (r 2), out := [4], need := 1 }

theorem test_witness_smap : (∃ s : State, s.Readable smapUses ∧ BitVec.ofNat 2 ((s.vals smapUses).a.toNat / 2 ^ 16) = 3) ∧
    (∃ s : State, s.Readable smapUses ∧ BitVec.ofNat 2 ((s.vals smapUses).a.toNat / 2 ^ 16) ≠ 3 ∧
      (rd (s.coreAt s.who.core).win ((s.vals smapUses).b.toNat % 8) {}).valid = true) ∧
    (∃ s : State, s.Readable smapUses ∧ BitVec.ofNat 2 ((s.vals smapUses).a.toNat / 2 ^ 16) ≠ 3 ∧
      (rd (s.coreAt s.who.core).win ((s.vals smapUses).b.toNat % 8) {}).valid = false ∧
      ∃ i j, i < 8 ∧ j < 8 ∧ (rd (s.coreAt (coreOfSeat (octetOf s.who.core) i)).win j {}).valid = true ∧
        (rd (s.coreAt (coreOfSeat (octetOf s.who.core) i)).win j {}).slate = (s.vals smapUses).a.toNat / 2 ^ 26 % 32) ∧
    ∃ s : State, s.Readable smapUses ∧ BitVec.ofNat 2 ((s.vals smapUses).a.toNat / 2 ^ 16) ≠ 3 ∧
      (rd (s.coreAt s.who.core).win ((s.vals smapUses).b.toNat % 8) {}).valid = false ∧
      ¬ ∃ i j, i < 8 ∧ j < 8 ∧ (rd (s.coreAt (coreOfSeat (octetOf s.who.core) i)).win j {}).valid = true ∧
        (rd (s.coreAt (coreOfSeat (octetOf s.who.core) i)).win j {}).slate = (s.vals smapUses).a.toNat / 2 ^ 26 % 32 := by
  refine ⟨⟨home 0x30000 1 0, readable_plainly (by decide), by decide⟩,
    ⟨home 0x14000 0 0, readable_plainly (by decide), by decide, by decide⟩,
    ⟨home 0x0C014000 7 0, readable_plainly (by decide), by decide, by decide, 0, 0, by decide, by decide, by decide, by decide⟩,
    home 0x14000 7 0, readable_plainly (by decide), by decide, by decide, ?_⟩
  have h : ∀ i < 8, ∀ j < 8, ¬ ((rd ((home 0x14000 7 0).coreAt (coreOfSeat (octetOf 100) i)).win j {}).valid = true ∧
      (rd ((home 0x14000 7 0).coreAt (coreOfSeat (octetOf 100) i)).win j {}).slate = 0) := by decide
  rintro ⟨i, j, hi, hj, h1, h2⟩
  exact h i hi j hj ⟨h1, h2⟩

/-- GIVE's operands. -/
def giveUses : Uses := { a := some (r 1), b := some (r 2), c := some (r 3), late := [4] }

theorem test_witness_give : ∀ w ∈ [(0 : Word), 1], ∃ s : State, s = user w 1 7 ∧ s.Readable giveUses ∧ (s.ctx s.who).relaxed = 0 ∧
    (s.ctx s.who).plain ≠ .store ∧ ((rd (s.coreAt 100).win ((s.vals giveUses).a.toNat % 8) {}).valid = true ↔ w = 0) ∧
    (rd (s.coreAt (coreOfSeat 13 ((s.vals giveUses).b.toNat % 8))).win ((s.vals giveUses).c.toNat % 8) {}).valid = false ∧
    (s.octet 13).gives = [] ∧ s.closed 13 3 = false ∧ s.noticeRoom 13 (coreOfSeat 13 ((s.vals giveUses).b.toNat % 8)) = true := by
  intro w hw
  simp only [List.mem_cons, List.not_mem_nil, or_false] at hw
  rcases hw with rfl | rfl
  all_goals exact ⟨_, rfl, readable_plainly (by decide), rfl, by decide, by decide, by decide, rfl, by decide, by decide⟩

theorem test_witness_sunmap : (∃ s : State, s.Readable { a := some (r 1), late := [4], need := 1 } ∧
      (rd (s.coreAt s.who.core).win ((s.vals { a := some (r 1), late := [4], need := 1 }).a.toNat % 8) {}).valid = true ∧
      s.closed (octetOf s.who.core) 3 = false) ∧
    ∃ (s : State) (o sl n off : Nat), s.Readable { a := some (r 1), late := [4], need := 2 } ∧
      s.form s.who.core (s.vals { a := some (r 1), late := [4], need := 2 }).a = .handle o sl n off ∧
      (rd (s.octet o).gens sl 0).toNat = n ∧ (∀ l ∈ (s.octet o).locks, l.slate ≠ some sl) ∧ s.parked = [] :=
  ⟨⟨home 0 0 0, readable_plainly (by decide), by decide, by decide⟩,
    { issue 0 { run1 with s := regs 0x0FFF0F8001A30000 0 0 0 0 0 } core1 with who := ⟨0, 1⟩, ctxs := [(1, { run1 with s := regs 0x0FFF0F8001A30000 0 0 0 0 0 })] },
    13, 3, 0, 0, readable_plainly (by decide), rfl, by decide, by decide, rfl⟩

/-- A transfer of window 0 of core 100 to window 7 of core 101. -/
def transfer : GiveOp := { id := 5, core := 100, win := 0, target := some (101, 7), slate := 3, reply := { who := ⟨100, 1⟩, run := 9, dest := .reg 4 } }

theorem test_witness_installs : ∀ locks ∈ [[], [({ slate := some 3 } : Lock)]], ∃ (s : State) (l : Late) (d : Reg) (g : GiveOp) (dst w : Nat),
    l.dest = .reg d ∧ d.toNat < 55 ∧ s.inPlace l.who l.run ∧ (s.ctx l.who).buddy = none ∧ s.arg.n = 0 ∧ g.reply = l ∧
    (s.octet s.arg.octet).gives = [g] ∧ g.id = s.arg.id ∧ g.slate < 32 ∧ (s.octet s.arg.octet).locks = locks ∧ g.reclaim = false ∧
    g.target = some (dst, w) ∧ dst ≠ g.core ∧ dst ≠ l.who.core ∧ g.win < 8 ∧ w < 8 ∧ tb (s.coreAt dst).mFull 7 = false := by
  intro locks _
  exact ⟨{ near with arg := { octet := 13, id := 5 }, octets := [(13, { gives := [transfer], locks := locks })] }, transfer.reply, 4, transfer, _, _, rfl,
    by decide, ⟨rfl, (by decide : Life.active ≠ .gated), rfl⟩, rfl, rfl, rfl, rfl, rfl, by decide, rfl, rfl, rfl, by decide, by decide,
    by decide, by decide, (by decide : tb (0 : BitVec 8) 7 = false)⟩

theorem test_witness_held_status : ∃ (s : State) (l : Late) (d : Reg) (id : Nat), l.dest = .reg d ∧ d.toNat < 55 ∧
    s.inPlace l.who l.run ∧ (s.ctx l.who).buddy = none ∧ (s.ctx l.who).wait = .hold id ∧ s.arg.n = 1 ∧ s.arg.late = l :=
  ⟨{ issue 1 { run1 with wait := .hold 5 } core1 with arg := { n := 1, late := transfer.reply } }, _, 4, 5, rfl, by decide,
    by unfold State.inPlace; decide, rfl, rfl, rfl, rfl⟩

/-! ## Witnesses: translation and notices -/

/-- The walk of a page of device memory by context 1 of core 100. -/
def walking : Access := { acc (.load 8 false) 0 with addr := 0x0FFF000000000040 }

/-- A die whose translation cache holds that page. -/
def hitting : State := { near with arg := { acc := walking }, dies := [(0, { tlb := [{ size := 65536 }] })] }

/-- A table that maps the page. -/
def mapping : State := { near with arg := { acc := walking }, mem := [(7, 0x80)] }

theorem test_witness_cached_walks : ∃ (s : State) (e : TlbEnt), s.arg.acc = walking ∧ s.tlbFind (dieOf 100) (s.partOf 100) 0x40 = some e :=
  ⟨hitting, { size := 65536 }, rfl, by decide⟩

theorem test_witness_walks : ∃ (s : State) (l : Leaf) (n : Nat), s.arg.acc = walking ∧ s.tlbFind (dieOf 100) (s.partOf 100) 0x40 = none ∧
    s.walk (s.partOf 100) 0x40 = (some l, n) ∧ (s.die (dieOf 100)).tlb.length < 16384 :=
  ⟨mapping, _, _, rfl, rfl, rfl, by decide⟩

theorem test_witness_misses : ∃ (s : State) (n : Nat), s.arg.acc = walking ∧ s.tlbFind (dieOf 100) (s.partOf 100) 0x40 = none ∧
    s.walk (s.partOf 100) 0x40 = (none, n) ∧ walking.who.core < 7680 ∧ s.inPlace walking.who walking.run :=
  ⟨{ near with arg := { acc := walking } }, _, rfl, rfl, rfl, by decide, by unfold State.inPlace; decide⟩

theorem test_witness_wakes : ∃ (s : State) (a : Access) (c : CtxId), s.arg.n = 0 ∧ a ∈ s.held ∧ dieOf a.who.core = s.arg.die ∧
    s.partOf a.who.core = s.arg.w.toNat % 16 ∧
    (a.miss.getD a.addr).toNat % 2 ^ 48 / 2 ^ 16 = s.arg.v.toNat % 2 ^ 48 / 2 ^ 16 ∧ c.ctx < 16 ∧ dieOf c.core = s.arg.die ∧
    s.partOf c.core = s.arg.w.toNat % 16 ∧ (s.ctx c).drops = [0x0FFF000000000040] ∧ (s.ctx c).wait = .none :=
  ⟨{ issue 1 { run1 with drops := [0x0FFF000000000040] } core1 with held := [walking], arg := { v := 0x1234 } }, walking, ⟨100, 1⟩, rfl,
    by decide, rfl, rfl, by decide, by decide, rfl, rfl, rfl, rfl⟩

theorem test_witness_notices : ∃ s : State, 0 < (s.die s.arg.die).staffRing.toNat / 2 ^ 48 % 2 ^ 16 ∧
    (s.die s.arg.die).staffWrite ∉ (s.die s.arg.die).staffBusy ∧ (s.die s.arg.die).staffDrop = 0 ∧ (s.die s.arg.die).staffWait = [] ∧
    s.Inv ∧ (s.die s.arg.die).staffRing.toNat % 2 ^ 48 / 64 * 64 + (s.die s.arg.die).staffWrite * 64 + 64 ≤ 2 ^ 48 :=
  ⟨{ dies := [(0, { staffRing := 0x0002000000001000, staffWrite := 1 })] }, by decide, by decide, rfl, rfl, rfl, by decide⟩

theorem test_witness_full_ring : ∀ kind ∈ [1, 9], ∃ s : State, s.arg.notice.kind = kind ∧
    (s.die s.arg.die).staffWrite ∈ (s.die s.arg.die).staffBusy := by
  intro kind _
  exact ⟨{ dies := [(0, { staffRing := 0x0001000000001000, staffBusy := [0] })], arg := { notice := { kind := kind } } }, rfl,
    (by decide : 0 ∈ [0])⟩

/-- An LDX parked at the start of slate 3. -/
def parkedLdx (tries : Nat) : Parked := { acc := { acc .ldx 0 with key := slateKey 13 3 0, tries := tries } }
/-- Its timed re-try is due. -/
def retrying (tries : Nat) : State :=
  { near with cycle := 256, arg := { id := 7 }, empty := [slateKey 13 3 0 / 8], parked := [parkedLdx tries] }

theorem test_witness_retries (tries : Nat) : (retrying tries).parked = [parkedLdx tries] ∧
    (parkedLdx tries).acc.id = (retrying tries).arg.id ∧ (parkedLdx tries).last + 256 ≤ (retrying tries).cycle ∧
    (parkedLdx tries).acc.kind = .ldx ∧ (parkedLdx tries).acc.key % 8 = 0 ∧ isSlateKey (parkedLdx tries).acc.key = true ∧
    (retrying tries).inPlace (parkedLdx tries).acc.who (parkedLdx tries).acc.run ∧
    ((retrying tries).ctx (parkedLdx tries).acc.who).drops = [] ∧ (retrying tries).full (parkedLdx tries).acc.key = false ∧
    (parkedLdx tries).acc.tries = tries ∧ ((retrying tries).ctx (parkedLdx tries).acc.who).waitLimit = 0x00100000 := by
  have h : (parkedLdx tries).acc.who = ⟨100, 1⟩ := rfl
  have e : (retrying tries).ctx ⟨100, 1⟩ = { run1 with s := regs 16 0 8 0 0 0 } := rfl
  refine ⟨rfl, rfl, (by decide : 0 + 256 ≤ 256), rfl, (by decide : slateKey 13 3 0 % 8 = 0),
    (by decide : isSlateKey (slateKey 13 3 0) = true), ?_, by rw [h, e]; rfl, by simp [State.full, memNat, retrying, parkedLdx], rfl,
    by rw [h, e]; rfl⟩
  rw [h]
  exact ⟨by rw [e]; rfl, by rw [e]; decide, rfl⟩

/-- The rewrite of slate 3 of octet 13 has come to its last word; its bank is free from a cycle on. -/
def rewriting (free : Nat) : State :=
  { arg := { octet := 13, n := 3 }, octets := [(13, { failing := [{ slate := 3, pos := 8191 }] })], banks := [(bankOf (slateKey 13 3 0), free)]
    latent := [.slateWord (slateKey 13 3 65528 / 8) 2, .slateWord (slateKey 13 4 65528 / 8) 2] }

theorem test_witness_rewrites : (∃ f : Failing, ((rewriting 0).octet 13).failing = [f] ∧ f.slate = (rewriting 0).arg.n ∧ f.pos + 1 = 8192 ∧
      f.stays = false ∧ (rewriting 0).bankFrom (slateKey 13 f.slate 0) ≤ (rewriting 0).cycle ∧
      ∃ v b, Latent.slateWord v b ∈ (rewriting 0).latent ∧ v ≠ slateKey 13 f.slate (f.pos * 8) / 8 ∧ 1 < b ∧
        sameStripe v (slateKey 13 f.slate (f.pos * 8) / 8) = true) ∧
    (rewriting 5).cycle < (rewriting 5).bankFrom (slateKey 13 3 0) :=
  ⟨⟨_, rfl, rfl, rfl, rfl, by decide, slateKey 13 4 65528 / 8, 2, by decide, by decide, by decide, by decide⟩, by decide⟩

/-! ## Witnesses: the matrix unit -/

/-- A TLD of tile 0 from the address in s1. -/
def tld : Instr := .tld ⟨0, r 1, r 2, false⟩
/-- A command of core 100 with a number. -/
def command (id : Nat) (k : Cmd) : MxuCmd := { id := id, who := ⟨100, 1⟩, run := 9, staff := true, seat := 0, cmd := k }
/-- Octet 13 with a matrix unit, and context 1 of its first core. -/
def octet13 (m : Mxu) (a : StepArg) : State := { user (near0 0) 0 (near0 128) with arg := { a with octet := 13 }, octets := [(13, { mxu := m })] }

theorem test_witness_commands : ∃ (row : MxuRow) (s : State), Spec.mxu tld = some row ∧ s.Readable row.uses ∧ (s.ctx s.who).plain = .none ∧
    (s.ctx s.who).relaxed = 0 ∧ (Spec.queued s).length < 4 ∧
    (∀ a n, row.addr (s.vals row.uses) = some (a, n) → s.AllowsHere a n) ∧ row.broken s (s.vals row.uses) = none := by
  refine ⟨_, octet13 {} {}, rfl, readable_plainly (by decide), rfl, rfl, by decide, ?_, rfl⟩
  intro a n h
  have h : (near0 0, Need.load) = (a, n) := Option.some.inj h
  rw [← (Prod.mk.inj h).1, ← (Prod.mk.inj h).2]
  exact allowsHere_allows (by decide)

theorem test_witness_full_queue : ∃ (row : MxuRow) (s : State), Spec.mxu tld = some row ∧ s.Readable row.uses ∧ (s.ctx s.who).plain = .none ∧
    (s.ctx s.who).relaxed = 0 ∧ 4 ≤ (Spec.queued s).length :=
  ⟨_, octet13 { cmds := (List.range 4).map fun i => command i (.tzero 0) } {}, rfl, readable_plainly (by decide), rfl, rfl, by decide⟩

theorem test_witness_broken_commands : ∃ (i : Instr) (row : MxuRow) (s : State) (k : Nat), Spec.mxu i = some row ∧ s.Readable row.uses ∧
    (Spec.queued s).length < 4 ∧ row.plain = .none ∧ row.addr (s.vals row.uses) = none ∧ row.broken s (s.vals row.uses) = some k :=
  ⟨.accrel 3, _, octet13 {} {}, _, rfl, readable_plainly (by decide), by decide, rfl, rfl, rfl⟩

/-- A MATX of tiles 0 and 1 into slot 2, under program 63, with its completion word's address in s3. -/
def matx0 : MatxF := ⟨0, 1, 2, 63, r 3, false, .dense, 3, .c1⟩
/-- Its samples. -/
def sampled (s : State) : Matx :=
  { f := matx0, sa := Spec.shape s 0, sb := Spec.shape s 1, ctl := (s.coreAt 100).dctl, out := (s.coreAt 100).dout
    rowp := (s.coreAt 100).drowp, colp := (s.coreAt 100).dcolp, cw := (s.vals { c := some (r 3), codeOk := true }).c }

theorem test_witness_matx : ∃ s : State, s.Readable { c := some (r 3), codeOk := decide ((r 3).r.toNat < 55) } ∧
    (s.ctx s.who).plain = .none ∧ (s.ctx s.who).relaxed = 0 ∧ (Spec.queued s).length < 4 ∧ s.form s.who.core (near0 128) ≠ .bad ∧
    s.matxShapeOk matx0 (sampled s) = true ∧ cohortOk matx0 none = true :=
  ⟨octet13 {} {}, readable_plainly (by decide), rfl, rfl, by decide, by decide, by decide, rfl⟩

theorem test_witness_refused_matx : ∃ s : State, s.matxShapeOk matx0 (sampled s) = false ∧ cohortOk { matx0 with cohort := .c2 } none = false :=
  ⟨{ octet13 {} {} with cores := [(100, { core1 with shape := wr (Vector.replicate 4 0) 1 0xF000000000000000 })] }, by decide, rfl⟩

/-- A program that stores d0. -/
def program : Prog := { valid := true, words := [(encodeDrain (.dst 0)).getD 0, (encodeDrain .dend).getD 0] ++ List.replicate 30 0 }
/-- A MATX that has been taken. -/
def running : Matx := { f := matx0, prog := drainBody program.words, cw := near0 128, m := 1, n := 1 }

theorem test_witness_takes : ∃ (s : State) (c : MxuCmd) (x : Matx), ((List.range 8).findSome? fun seat => s.canTake 13 seat) = some c ∧
    s.arg.octet = 13 ∧ (∀ d ∈ (s.octet 13).mxu.cmds, d.id = c.id → d = c) ∧ c.cmd = .matx x ∧
    (rd (s.octet 13).mxu.progs x.f.drain.toNat {}).valid = true ∧ (rd (s.octet 13).mxu.slots x.f.acc.toNat {}).spoiled = false ∧
    holds (drainBody (rd (s.octet 13).mxu.progs x.f.drain.toNat {}).words) 0x14 = false :=
  ⟨octet13 { progs := wr (Vector.replicate 64 {}) 63 program, cmds := [command 5 (.matx { f := matx0 })] } {}, command 5 (.matx { f := matx0 }),
    { f := matx0 }, by decide, rfl, by decide, rfl, by decide, by decide, by decide⟩

theorem test_witness_nothing_taken : ((List.range 8).findSome? fun seat => (octet13 {} {}).canTake 13 seat) = none := by decide

/-- A transfer of tile 0, whose next piece has come. -/
def moves (k : Cmd) : State := octet13 { cmds := [{ command 5 k with taken := true }] } { id := 5 }

theorem test_witness_tile_pieces : (∃ (s : State) (c : MxuCmd) (rows : Rows) (k : Nat), s.Inv ∧ (s.octet 13).mxu.findCmd s.arg.id = some c ∧
      c.cmd = .tld 0 false (near0 0) 0 {} ∧ c.cmd.rows = some rows ∧ (∀ m, s.form c.who.core (rows.addr c.pos) ≠ .remote m) ∧
      (∀ l ∈ (s.octet 13).locks, l.slate ≠ none) ∧ s.latent = [] ∧ s.isPoisoned k (rows.piece c.pos) = false ∧
      s.isPoisoned (tileKey c.who.core 0 (c.cmd.tileOff c.pos)) (rows.piece c.pos) = false ∧
      s.arg.slot = false ∧ s.land c.who.core c.staff true (rows.addr c.pos) (rows.piece c.pos) .load 0 = .go k s ∧
      s.bankFrom k ≤ s.cycle ∧ s.bankFrom (k + rows.piece c.pos - 1) ≤ s.cycle) ∧
    ∃ (s : State) (c : MxuCmd) (rows : Rows) (k : Nat), (s.octet 13).mxu.findCmd s.arg.id = some c ∧ c.cmd = .tst 0 false (near0 0) 0 {} ∧
      c.cmd.rows = some rows ∧ s.land c.who.core c.staff true (rows.addr c.pos) (rows.piece c.pos) .store 1 = .go k s ∧
      s.bankFrom k ≤ s.cycle ∧ s.bankFrom (k + rows.piece c.pos - 1) ≤ s.cycle ∧ c.staff = true ∧ s.Quiet k (rows.piece c.pos) := by
  refine ⟨⟨moves (.tld 0 false (near0 0) 0 {}), _, _, _, rfl, rfl, rfl, rfl, ?_, by decide, rfl, unpoisoned rfl _ _, unpoisoned rfl _ _, rfl, rfl,
      Nat.zero_le _, Nat.zero_le _⟩, moves (.tst 0 false (near0 0) 0 {}), _, _, _, rfl, rfl, rfl, rfl, Nat.zero_le _, Nat.zero_le _, rfl, ?_⟩
  · intro m
    have e : (moves (.tld 0 false (near0 0) 0 {})).form 100 (near0 0) = .window 100 0 0 := rfl
    exact fun h => by cases e.symm.trans h
  · intro p hp; exact absurd hp (by simp [moves, octet13, user, issue])

theorem octet13_place (m : Mxu) (a : StepArg) : (octet13 m a).inPlace ⟨100, 1⟩ 9 := by
  have e : (octet13 m a).ctx ⟨100, 1⟩ = { run1 with s := regs (near0 0) 0 (near0 128) 0 0 0 } := rfl
  exact ⟨by rw [e]; rfl, by rw [e]; decide, rfl⟩

/-- For each kind of command, the end of one that context 1 issued. -/
theorem test_witness_tile_ends (k : Cmd) : (moves k).Inv ∧
    ((moves k).octet 13).mxu.findCmd (moves k).arg.id = some { command 5 k with taken := true } ∧ (moves k).inPlace ⟨100, 1⟩ 9 ∧
    ((moves k).ctx ⟨100, 1⟩).relFault = none :=
  ⟨rfl, rfl, octet13_place _ _, rfl⟩

/-- Octet 13 with one taken MATX, a pass or none, and the free passes of its die. -/
def passed (x : Matx) (p : Option Nat) (ring : List Nat) (at' : Nat) : State :=
  { moves (.matx x) with
    octets := [(13, { pass := p, mxu := { cmds := [{ command 5 (.matx x) with taken := true }] } })], dies := [(0, { ring := ring })], cycle := at' }

theorem test_witness_passes : (∃ s : State, s.arg.octet = 13 ∧ (s.octet 13).pass = none ∧ (s.octet 13).mxu.wantsPass = true ∧
      (s.die (octetDie 13)).passCount ≠ 0 ∧ (s.die (octetDie 13)).ring = [] ++ 13 :: [20] ∧ (13 + s.cycle + 0) % 240 = 13 % 240) ∧
    (∃ s : State, s.arg.octet = 13 ∧ (s.octet 13).pass = none ∧ (s.octet 13).mxu.wantsPass = true ∧ (s.die (octetDie 13)).passCount ≠ 0 ∧
      (s.die (octetDie 13)).ring ≠ [] ∧ ∀ q ∈ (s.die (octetDie 13)).ring, ¬ (q + s.cycle + 0) % 240 = 13 % 240) ∧
    (∃ s : State, (s.octet 13).pass = some 0 ∧ (s.octet 13).mxu.summing = false ∧ 0 + 4096 ≤ s.cycle) ∧
    ∃ s : State, (s.octet 13).pass = some 5 ∧ (s.octet 13).mxu.summing = false ∧ (s.octet 13).mxu.wantsPass = false :=
  ⟨⟨passed running none [13, 20] 0, rfl, rfl, rfl, by decide, rfl, rfl⟩, ⟨passed running none [20] 0, rfl, rfl, rfl, by decide, by decide, by decide⟩,
    ⟨passed running (some 0) [] 4096, rfl, rfl, by decide⟩, passed { running with failed := true } (some 5) [] 0, rfl, rfl, rfl⟩

/-- A started MATX of one row and one column. -/
def started : Matx := { running with started := true }

theorem test_witness_matx_starts : (∃ (s : State) (c : MxuCmd) (x : Matx), s.matx 13 s.arg.id = some (c, x) ∧ Spec.waiting c x ∧ (s.octet 13).pass = none ∧
      (s.die (octetDie 13)).ring ≠ []) ∧
    (∃ (s : State) (c : MxuCmd) (x : Matx), s.matx 13 s.arg.id = some (c, x) ∧ Spec.waiting c x ∧ (s.octet 13).pass ≠ none ∧ x.f.cohort ≠ .c1) ∧
    (∃ (s : State) (c : MxuCmd) (x : Matx), s.matx 13 s.arg.id = some (c, x) ∧ Spec.waiting c x ∧ (s.octet 13).pass ≠ none ∧ x.f.cohort = .c1 ∧
      Spec.mayStart s 13) ∧
    ∃ (s : State) (c : MxuCmd) (x : Matx), s.matx 13 s.arg.id = some (c, x) ∧ Spec.waiting c x ∧ (s.octet 13).pass ≠ none ∧ x.f.cohort = .c1 ∧
      ¬ Spec.mayStart s 13 := by
  refine ⟨⟨passed running none [20] 0, _, _, rfl, ⟨rfl, rfl, rfl⟩, rfl, by decide⟩,
    ⟨passed { running with f := { matx0 with cohort := .c2 } } (some 0) [] 0, _, _, rfl, ⟨rfl, rfl, rfl⟩, by decide, by decide⟩,
    ⟨passed running (some 0) [] 0, _, _, rfl, ⟨rfl, rfl, rfl⟩, by decide, rfl, by decide, 0, rfl, by decide⟩,
    passed running (some 0) [] 4096, _, _, rfl, ⟨rfl, rfl, rfl⟩, by decide, rfl, ?_⟩
  rintro ⟨-, at', h, h'⟩
  rw [← Option.some.inj h] at h'
  exact absurd h' (by decide)

/-- Seat 0 waits for the array with its first MATX. -/
theorem test_witness_grants (x : Matx) (h : x = running ∨ x = started) : ∃ (c : MxuCmd) (m : Mxu), m = ((passed x (some 0) [] 0).octet 13).mxu ∧
    m.grant = none ∧ m.cmds = [] ++ c :: [] ∧ c.cmd = .matx x ∧ (passed x (some 0) [] 0).matx 13 c.id = some (c, x) ∧
    c.seat = (m.ptr + 0) % 8 ∧ Spec.forArray (passed x (some 0) [] 0) 13 c x := by
  refine ⟨_, _, rfl, rfl, rfl, rfl, rfl, rfl, ?_⟩
  rcases h with rfl | rfl
  · exact .inr ⟨⟨rfl, rfl, rfl⟩, rfl, by decide, 0, rfl, by decide⟩
  · exact .inl ⟨rfl, rfl, by decide⟩

theorem test_witness_granted_start : ∃ a b, running.started = false ∧ running.sa.info = some a ∧ running.sb.info = some b ∧
    (passed running (some 0) [] 0).latent = [] ∧ (passed running (some 0) [] 0).planesBad 100 0 a = false ∧
    (passed running (some 0) [] 0).planesBad 100 1 b = false ∧ running.f.sparse = .dense :=
  ⟨_, _, rfl, rfl, rfl, rfl, by decide, by decide, rfl⟩

/-- A MATX of a cohort of octets 13 and 14. -/
def paired : Matx :=
  { running with
    f := { matx0 with cohort := .c2 }
    launch := some { coh := true, rst := true, cohort := 1, col := devCol 100, row := devRow 100, ncols := 8, nrows := 2 } }
/-- The MATX of its second member, with the shape of its B. -/
def second (sb : TShape) : MxuCmd := { command 6 (.matx { paired with sb := sb }) with taken := true, who := ⟨104, 1⟩ }
/-- The MATX of its first member. -/
def first : MxuCmd := { command 5 (.matx paired) with taken := true }
/-- The first member is taken, and the second is or is not, under a pass or none. -/
def cohort2 (l : List MxuCmd) (p : Option Nat) : State :=
  { moves (.matx paired) with octets := [(13, { pass := some 0, mxu := { cmds := [first] } }), (14, { pass := p, mxu := { cmds := l } })] }

theorem test_witness_cohort_waits : (cohort2 [] none).matx 13 5 = some (first, paired) ∧ paired.started = false ∧ paired.failed = false ∧
    Spec.missing (cohort2 [] none) paired 0 ∧ ¬ Spec.fenced (cohort2 [] none) paired 0 ∧
    Spec.fenced { cohort2 [] none with fences := [{ col := devCol 104, row := devRow 104, ncols := 1, nrows := 1 }] } paired 0 := by
  refine ⟨rfl, rfl, rfl, ⟨(0, 1, none), by decide, rfl⟩, ?_, ?_⟩
  · rintro ⟨t, -, i, j, -, -, f, hf, -⟩
    exact absurd hf List.not_mem_nil
  · exact ⟨_, rfl, 0, 1, by decide, by decide, _, List.mem_singleton.mpr rfl, by decide⟩

theorem cohort2_members (sb : TShape) (p : Option Nat) : (cohort2 [second sb] p).members paired 0 =
    [(0, 0, some (13, first, paired)), (0, 1, some (14, second sb, { paired with sb := sb }))] := rfl

theorem cohort2_in {sb : TShape} {p : Option Nat} {i j o : Nat} {d : MxuCmd} {y : Matx}
    (h : Spec.member (cohort2 [second sb] p) paired 0 i j o d y) :
    (i = 0 ∧ j = 0 ∧ o = 13 ∧ d = first ∧ y = paired) ∨ (i = 0 ∧ j = 1 ∧ o = 14 ∧ d = second sb ∧ y = { paired with sb := sb }) := by
  unfold Spec.member at h
  rw [cohort2_members] at h
  simpa using h

/-- Both members are taken, under a pass each. -/
theorem test_witness_cohorts (p : Option Nat) (hp : p = none ∨ p = some 0) : let s := cohort2 [second {}] p
    s.matx 13 5 = some (first, paired) ∧
    (∀ i j o d y, Spec.member s paired 0 i j o d y → s.matx o d.id = some (d, y) ∧ y.wasKept = false ∧ (p = some 0 → Spec.mayStart s o)) ∧
    (∀ i j i' j' o d d' y y', Spec.member s paired 0 i j o d y → Spec.member s paired 0 i' j' o d' y' → (i', j') = (i, j)) ∧
    ¬ Spec.missing s paired 0 ∧ ¬ Spec.fenced s paired 0 ∧ s.latent = [] ∧ (p = none → ¬ Spec.mayStart s 14) ∧
    ∃ a, paired.sa.info = some a ∧ paired.sb.info = some a ∧ a.cols = a.rows ∧ pairOk a.fmt a.fmt .dense = true ∧ paired.f.sparse = .dense ∧
      s.planesBad 100 0 a = false ∧ s.planesBad 104 1 a = false := by
  refine ⟨rfl, ?_, ?_, ?_, ?_, rfl, ?_, _, rfl, rfl, rfl, by decide, rfl,
    by rcases hp with rfl | rfl <;> decide, by rcases hp with rfl | rfl <;> decide⟩
  · intro i j o d y h
    obtain ⟨rfl, rfl, rfl, rfl, rfl⟩ | ⟨rfl, rfl, rfl, rfl, rfl⟩ := cohort2_in h
    · exact ⟨rfl, rfl, by rintro rfl; exact ⟨by decide, 0, rfl, by decide⟩⟩
    · exact ⟨rfl, rfl, by rintro rfl; exact ⟨by decide, 0, rfl, by decide⟩⟩
  · intro i j i' j' o d d' y y' h h'
    obtain ⟨rfl, rfl, ho, -⟩ | ⟨rfl, rfl, ho, -⟩ := cohort2_in h <;>
      obtain ⟨rfl, rfl, ho', -⟩ | ⟨rfl, rfl, ho', -⟩ := cohort2_in h' <;> first | rfl | omega
  · rintro ⟨m, hm, e⟩
    rw [cohort2_members] at hm
    simp only [List.mem_cons, List.not_mem_nil, or_false] at hm
    rcases hm with rfl | rfl <;> cases e
  · rintro ⟨t, -, i, j, -, -, f, hf, -⟩
    exact absurd hf List.not_mem_nil
  · rintro rfl ⟨-, at', h, -⟩
    cases h

/-- The second member's B has another K than the first member's A. -/
theorem test_witness_cohort_k : ∃ i j oa a xa ob b xb ia ib o d y, Spec.member (cohort2 [second ⟨0x0001000000000000, 0⟩] none) paired 0 i j o d y ∧
    Spec.member (cohort2 [second ⟨0x0001000000000000, 0⟩] none) paired 0 i 0 oa a xa ∧
    Spec.member (cohort2 [second ⟨0x0001000000000000, 0⟩] none) paired 0 0 j ob b xb ∧ xa.sa.info = some ia ∧ xb.sb.info = some ib ∧
    ia.cols * sparseFactor xa.f.sparse ≠ ib.rows :=
  ⟨0, 1, 13, first, paired, 14, _, _, _, _, 14, _, _, .tail _ (.head _), .head _, .tail _ (.head _), rfl, rfl, by decide⟩

theorem test_witness_sums : (∃ (s : State) (c : MxuCmd) (x : Matx), s.matx 13 s.arg.id = some (c, x) ∧ x.failed = true) ∧
    (∃ (s : State) (c : MxuCmd) (x : Matx) (a b : Shape), s.matx 13 s.arg.id = some (c, x) ∧ x.failed = false ∧ x.ia.info = some a ∧
      x.ib.info = some b ∧ a.cols = b.rows ∧ x.sparse = .dense ∧ x.m = a.rows ∧ x.n = b.cols ∧ takeMismatch 13 s.latent = none ∧
      x.blockCount ≤ x.blocks + 1) ∧
    ∀ n, n = 0 ∨ n = 15 → ∃ (s : State) (c : MxuCmd) (x : Matx) (l : List Latent), s.matx 13 s.arg.id = some (c, x) ∧ x.failed = false ∧
      takeMismatch 13 s.latent = some l ∧ (x.replays < (s.octet 13).replayLimit.toNat ↔ n = 0) := by
  refine ⟨⟨moves (.matx { running with failed := true }), _, _, rfl, rfl⟩,
    ⟨moves (.matx started), _, _, _, _, rfl, rfl, rfl, rfl, rfl, rfl, rfl, rfl, rfl, by decide⟩, ?_⟩
  intro n h
  refine ⟨{ moves (.matx { started with replays := n }) with latent := [.block 13 2] }, _, _, _, rfl, rfl, rfl, ?_⟩
  rcases h with rfl | rfl <;> decide

theorem test_witness_sums_end (stores : Bool) : ∃ (s : State) (c : MxuCmd) (x : Matx), s.matx 13 s.arg.id = some (c, x) ∧ x.failed = false ∧
    (holds x.prog 0x13 = true ∨ holds x.prog 0x14 = true ↔ stores = true) :=
  ⟨moves (.matx { started with prog := if stores then running.prog else [] }), _, _, rfl, rfl, by cases stores <;> decide⟩

/-- A started MATX whose segment 0 is in the pipe. -/
def piped (i : Nat) : State :=
  { octet13 { cmds := [{ command 5 (.matx { started with rowp := near0 4, colp := near0 4 }) with taken := true }]
              pipe := { live := true, id := 5, pos := i, d := Vector.replicate 8 [0], dst := some [0] } } {} with pipe := some 13 }

theorem test_witness_drain_words : (∃ (i : Instr) (dd : BitVec 3) (f : Pipe → List Aw40), Spec.drainWord i = some (dd, f)) ∧
    ∃ (s : State) (c : MxuCmd) (x : Matx), s.pipe = some 13 ∧ s.matx 13 (s.octet 13).mxu.pipe.id = some (c, x) ∧ s.latent = [] ∧
      (∃ ec w off, s.form c.who.core (x.rowp + 0) = .window ec w off) ∧
      s.isNacked c.who.core c.staff (s.form c.who.core (x.rowp + 0)) = false ∧
      ∃ k, s.protect c.who.core c.staff (s.form c.who.core (x.rowp + 0)) .load = .ok k ∧ s.isPoisoned k 4 = false :=
  ⟨⟨.dadd 1 2 3, _, _, rfl⟩, piped 0, _, _, rfl, rfl, rfl, ⟨_, _, _, rfl⟩, by decide, _, rfl, unpoisoned rfl _ _⟩

theorem test_witness_drains : (∃ (s : State) (id : Nat) (l : List Nat) (c : MxuCmd) (x : Matx), (s.octet 13).mxu.pipe.live = false ∧
      (s.octet 13).mxu.drains = id :: l ∧ s.matx 13 id = some (c, x) ∧ x.seg < x.segCount ∧ s.arg.n < 4) ∧
    (∃ (s : State) (c : MxuCmd) (x : Matx) (vs : List Aw40), (s.octet 13).mxu.pipe.live = true ∧
      s.matx 13 (s.octet 13).mxu.pipe.id = some (c, x) ∧ (s.octet 13).mxu.pipe.dst = some vs ∧ (s.octet 13).mxu.drains = []) ∧
    ∃ (s : State) (c : MxuCmd) (x : Matx), s.Inv ∧ s.matx s.arg.piece.octet s.arg.piece.matx = some (c, x) ∧ s.arg.n = 1 ∧ c.staff = true ∧
      ∃ k, s.land c.who.core true false s.arg.piece.addr s.arg.piece.bytes.length .store 1 = .go k s ∧
        s.bankFrom k ≤ s.cycle ∧ s.bankFrom (k + s.arg.piece.bytes.length - 1) ≤ s.cycle ∧
        (∀ q ∈ s.octets, ∀ l ∈ q.2.locks, l.slate = none) ∧ s.Quiet k s.arg.piece.bytes.length := by
  refine ⟨⟨octet13 { cmds := [{ command 5 (.matx started) with taken := true }], drains := [5] } {}, 5, [], _, _, rfl, rfl, rfl, by decide, by decide⟩,
    ⟨piped 0, _, _, _, rfl, rfl, rfl, rfl⟩,
    octet13 { cmds := [{ command 5 (.matx started) with taken := true }] }
      { n := 1, piece := { octet := 13, matx := 5, addr := near0 64, bytes := [1, 2, 3, 4] } }, _, _, rfl, rfl, rfl, rfl, _, rfl,
    Nat.zero_le _, Nat.zero_le _, by decide, ?_⟩
  intro p hp; exact absurd hp (by simp [octet13, user, issue])

theorem test_witness_drain_stops : ∃ (s : State) (c : MxuCmd) (x : Matx) (p : StorePiece), s.matx 13 s.arg.id = some (c, x) ∧
    x.walks = [s.arg.v] ∧ x.waitP = [p] ∧ pageAt p.addr = s.arg.v ∧ s.mapped c.who.core s.arg.v = false ∧ s.inPlace c.who c.run ∧
    (s.ctx c.who).life = .active :=
  ⟨octet13 { cmds := [command 5 (.matx { started with walks := [0x0FFF000000010000], waitP := [{ octet := 13, matx := 5, addr := 0x0FFF000000012340 }] })] }
    { id := 5, v := 0x0FFF000000010000 }, _, _, _, rfl, rfl, rfl, by decide, by decide, by unfold State.inPlace; decide, rfl⟩

theorem test_witness_matx_ends : ∃ (s : State) (c : MxuCmd) (x : Matx), s.matx s.arg.octet s.arg.id = some (c, x) ∧ x.sumsDone = true ∧
    x.ended = false ∧ x.stopped = none ∧ x.segCount ≤ x.seg ∧ x.endAt ≤ s.cycle ∧ s.piecesOut s.arg.octet s.arg.id x = false :=
  ⟨octet13 { cmds := [command 5 (.matx { started with sumsDone := true, seg := 1 })] } { id := 5 }, _, _, rfl, rfl, rfl, rfl, by decide, by decide,
    by decide⟩

/-- The increment of the completion word of MATX 5 has come. -/
def ending : State :=
  octet13 { cmds := [command 5 (.matx { started with ended := true })] }
    { id := 5, count := { addr := near0 128, what := .matx 13 5, who := ⟨100, 1⟩, run := 9 } }

theorem test_witness_matx_completions : ∃ (c : MxuCmd) (x : Matx) (sl ec w off k : Nat), ending.matx 13 5 = some (c, x) ∧
    ending.arg.count = { addr := x.cw, err := x.err.isSome, what := .matx 13 c.id, who := c.who, run := c.run } ∧ ending.Inv ∧
    c.id = ending.arg.id ∧ (ending.coreAt c.who.core).cuts = [] ∧ ending.form c.who.core x.cw = .window ec w off ∧
    ending.isNacked c.who.core false (.window ec w off) = false ∧ ending.slateOf (.window ec w off) = some (octetOf ec, sl) ∧ ec < 7680 ∧
    sl < 32 ∧ k = slateKey (octetOf ec) sl (x.cw.toNat % 65536) / 8 * 8 ∧ ending.NoEffectBit c.who c.run ∧ ending.Quiet k 8 ∧
    ending.inPlace c.who c.run ∧ x.failed = false ∧ x.mbxGone = false := by
  refine ⟨_, _, 3, 100, 0, 128, _, rfl, rfl, rfl, rfl, rfl, rfl, by decide, by decide, by decide, by decide, rfl, ?_, ?_,
    by unfold State.inPlace; decide, rfl, rfl⟩
  · intro x hx; left
    have : x = ending.ctx ⟨100, 1⟩ := Option.some.inj (hx.symm.trans rfl)
    rw [this]; rfl
  · intro p hp; exact absurd hp (by simp [ending, octet13, user, issue])

/-! ## Witnesses: nets -/

/-- Net 0 has a descriptor; s1 names the first record of window 0. -/
def netted (x : Ctx) : State :=
  { issue 1 { x with s := regs (near0 0) (near0 32) 0 0 0 0 } core1 with netTable := 0x80000, mem := [(0x80002, 0x09)] }

theorem test_witness_net_accesses : ∃ (row : NetRow) (s : State), Spec.net (.free (r 1)) = some row ∧ s.Readable row.uses ∧
    (s.ctx s.who).plain = .none ∧ (s.ctx s.who).relaxed = 0 ∧ ¬ row.bad (s.vals row.uses) ∧
    (∀ p ∈ row.addrs s (s.vals row.uses), p.1.toNat % p.2 = 0 ∧ s.AllowsHere p.1 row.need) ∧ s.desc (s.ctx s.who).net.toNat ≠ 0 ∧
    s.form s.who.core (row.addr s (s.vals row.uses)) ≠ .bad ∧
    s.Unlocked (row.addr s (s.vals row.uses)) (row.kind s (s.vals row.uses)) ∧ (s.ctx s.who).buddy = none := by
  refine ⟨_, netted run1, rfl, readable_plainly (by decide), rfl, rfl, id, ?_, by decide, by decide, unlocked_none rfl, rfl⟩
  intro p hp
  have hp : p = (near0 0, Spec.recordSize (netted run1) (near0 0)) := List.mem_singleton.mp hp
  rw [hp]
  exact ⟨by decide, allowsHere_allows (by decide)⟩

/-- The record at byte 32 of window 0 has 64 bytes. -/
def longRecord : State := { user (near0 32) (near0 32) 0 with mem := memWriteN [] (slateKey 13 3 32) 8 (2 ^ 46) }

theorem test_witness_long_records : Spec.net (.free (r 1)) ≠ none ∧ longRecord.Readable { a := some (r 1) } ∧
    Spec.recordSize longRecord (near0 32) = 64 ∧ (longRecord.vals { a := some (r 1) }).a.toNat % 64 ≠ 0 :=
  ⟨by simp [Spec.net], readable_plainly (by decide), by decide, by decide⟩

theorem test_witness_net_traps : (∃ (row : NetRow) (s : State), Spec.net (.agent 1 (r 2) (rt 0)) = some row ∧ s.Readable row.uses ∧
      (s.ctx s.who).plain = .none ∧ (s.ctx s.who).relaxed = 0 ∧ row.bad (s.vals row.uses)) ∧
    ∃ (row : NetRow) (s : State), Spec.net (.free (r 1)) = some row ∧ s.Readable row.uses ∧ ¬ row.bad (s.vals row.uses) ∧
      ∃ p ∈ row.addrs s (s.vals row.uses), p.1.toNat % p.2 ≠ 0 :=
  ⟨⟨_, user 0 0 0, rfl, readable_plainly (by decide), rfl, rfl, by decide, by decide⟩, _, user 16 0 0, rfl, readable_plainly (by decide), id,
    (16, 32), List.mem_singleton.mpr rfl, by decide⟩

theorem test_witness_pushes : ∃ s : State, s.Readable { a := some (r 1), b := some (r 2) } ∧
    (s.vals { a := some (r 1), b := some (r 2) }).a.toNat % Spec.recordSize s (s.vals { a := some (r 1), b := some (r 2) }).a = 0 ∧
    (s.vals { a := some (r 1), b := some (r 2) }).b.toNat % Spec.recordSize s (s.vals { a := some (r 1), b := some (r 2) }).b = 0 ∧
    s.AllowsHere (s.vals { a := some (r 1), b := some (r 2) }).a .load ∧ s.AllowsHere (s.vals { a := some (r 1), b := some (r 2) }).b .load ∧
    (s.coreAt s.who.core).deque.length < 64 :=
  ⟨netted run1, readable_plainly (by decide), by decide, by decide, allowsHere_allows (by decide), allowsHere_allows (by decide), by decide⟩

/-- What lets an access on at once: a form of a window of this machine that is open to it, and no lock there. -/
theorem enters {s : State} {core op c i off o sl n use k : Nat} {staff : Bool} {a : Word} {need : Need}
    (f : s.form core a = .window c i off) (l : s.lockedBy op (.window c i off) = false) (b : s.isNacked core staff (.window c i off) = false)
    (w : s.slateOf (.window c i off) = some (o, sl)) (q : s.closed o sl = false) (p : s.protect core staff (.window c i off) need = .ok k)
    (r : (s.octet (keyOctet k)).locks = []) : s.enter core staff op a n need use = .go k s := by
  simp only [State.enter, State.land, State.landParts, f, l, b, w, q, p, Bool.false_or, Bool.false_eq_true, if_false]
  cases h : s.arg.slot <;> simp [r]

/-- A request whose old cell is the first dword of window 0, its fresh cell the second and its peer the third. -/
def request : WireReq :=
  { old := near0 0, new := near0 8, peer := near0 16, tag := 3, acc := { id := 7, run := 9, who := ⟨100, 1⟩, addr := near0 0 } }
/-- A cell holds a word. -/
def celled (off w : Nat) (a : StepArg) : State := { near with mem := memWriteN [] (slateKey 13 3 off) 8 w, arg := { a with wire := request } }

theorem celled_cuts (off w : Nat) (a : StepArg) (c : Nat) : ((celled off w a).coreAt c).cuts = [] := by
  show (SMap.get [(100, core1)] c (Core.initial c)).cuts = []
  unfold SMap.get
  split
  · rfl
  · split <;> rfl

theorem celled_cell (off w : Nat) (a : StepArg) (x : Nat) (hx : x % 8 = 0 ∧ x < 65536)
    (h : (celled off w a).cellKey 100 (near0 x) = some (slateKey 13 3 x))
    (g : (celled off w a).enter 100 ((celled off w a).isStaffCore 100) 0 (near0 x) 8 .fullEmpty 1 = .go (slateKey 13 3 x) (celled off w a)) :
    (celled off w a).CellAt 100 (near0 x) (slateKey 13 3 x) := by
  refine ⟨h, g, unpoisoned rfl _ _, by unfold slateKey; omega, ?_, ?_⟩
  · unfold isSlateKey slateKey; simp only [Bool.and_eq_true, decide_eq_true_eq]; omega
  · intro p hp; exact absurd hp (by simp [celled, near, user, issue])

theorem test_witness_first_steps : ∀ st ∈ [0, 1, 2], ∃ (s : State) (k : Nat), s.Inv ∧ (∀ c, (s.coreAt c).cuts = []) ∧ s.bridges = [] ∧
    s.marked = [] ∧ s.latent = [] ∧ request.join = false ∧ s.arg.wire = request ∧ s.arg.n = 0 ∧ s.CellAt request.acc.who.core request.old k ∧
    s.dword request.acc.who.core request.new / 2 ^ 62 = 0 ∧ memReadN s.mem k 8 / 2 ^ 62 = st := by
  intro st hs
  simp only [List.mem_cons, List.not_mem_nil, or_false] at hs
  rcases hs with rfl | rfl | rfl
  · exact ⟨celled 0 0 {}, _, rfl, celled_cuts _ _ _, rfl, rfl, rfl, rfl, rfl, rfl, celled_cell _ _ _ 0 (by decide) rfl (enters rfl rfl rfl rfl rfl rfl rfl), by decide, by decide⟩
  · exact ⟨celled 0 (2 ^ 62) {}, _, by unfold State.Inv; decide, celled_cuts _ _ _, rfl, rfl, rfl, rfl, rfl, rfl,
      celled_cell _ _ _ 0 (by decide) rfl (enters rfl rfl rfl rfl rfl rfl rfl), by decide, by decide⟩
  · exact ⟨celled 0 (2 ^ 63) {}, _, by unfold State.Inv; decide, celled_cuts _ _ _, rfl, rfl, rfl, rfl, rfl, rfl,
      celled_cell _ _ _ 0 (by decide) rfl (enters rfl rfl rfl rfl rfl rfl rfl), by decide, by decide⟩

/-- A LIVE cell with tag 3 that names the old cell. -/
def peerWord : Nat := mkCell 1 3 false (near0 0)

theorem test_witness_joins : ∃ (s : State) (k n : Nat), s.Inv ∧ (∀ c, (s.coreAt c).cuts = []) ∧ s.arg.wire = request ∧ s.arg.slot = true ∧
    s.CellAt 100 request.peer k ∧ s.CellAt 100 request.new n ∧ k ≠ n ∧ memReadN s.mem k 8 / 2 ^ 62 = 1 ∧
    memReadN s.mem k 8 / 2 ^ 54 % 256 = request.tag ∧ request.tag < 256 ∧ s.sameCell 100 (cellPeer (memReadN s.mem k 8)) request.old = true :=
  ⟨celled 16 peerWord { slot := true }, _, _, by unfold State.Inv; decide, celled_cuts _ _ _, rfl, rfl, celled_cell _ _ _ 16 (by decide) rfl (enters rfl rfl rfl rfl rfl rfl rfl),
    celled_cell _ _ _ 8 (by decide) rfl (enters rfl rfl rfl rfl rfl rfl rfl), by decide, by decide, by decide, by decide, by decide⟩

theorem test_witness_frees : ∃ (s : State) (k : Nat), s.arg.wire = request ∧ s.arg.n = 0 ∧ s.arg.slot = true ∧ s.CellAt 100 s.arg.v k ∧
    s.repointDue 100 s.arg.v = false ∧ memReadN s.mem k 8 / 2 ^ 62 = 2 :=
  ⟨celled 0 (2 ^ 63) { slot := true, v := near0 0 }, _, rfl, rfl, rfl, celled_cell _ _ _ 0 (by decide) rfl (enters rfl rfl rfl rfl rfl rfl rfl), by decide, by decide⟩

theorem test_witness_cell_waits : ∃ (s : State) (z : CellWait) (k : Nat), s.cellWaits = [z] ∧ z.id = s.arg.id ∧ z.req = request ∧
    s.CellAt 100 request.old k ∧ s.dword 100 request.new / 2 ^ 62 = 0 ∧ memReadN s.mem k 8 / 2 ^ 62 = 0 ∧ s.inPlace request.acc.who request.acc.run ∧ z.last + 256 ≤ s.cycle := by
  refine ⟨{ near with cycle := 256, arg := { id := 4 }, cellWaits := [{ id := 4, req := request }] }, _, _, rfl, rfl, rfl,
    ⟨rfl, enters rfl rfl rfl rfl rfl rfl rfl, unpoisoned rfl _ _, by decide, by decide, ?_⟩, by decide, by decide, by unfold State.inPlace; decide, by decide⟩
  intro p hp; exact absurd hp (by simp [near, user, issue])

/-- A context that runs the built-in rule. -/
def built (n : Nat) : State :=
  { issue 1 { run1 with s := regs (near0 0) (near0 32) 0 0 0 0, builtin := some (n, near0 0, near0 32) } core1 with
    arg := { c := ⟨100, 1⟩, run := 9 } }

theorem test_witness_builtin_runs : (∃ (s : State) (c : CtxId) (n : Nat) (p q : Word), s.arg.c = c ∧ (s.ctx c).builtin = some (n, p, q) ∧
      (s.ctx c).run = s.arg.run ∧ (s.ctx c).life = .active ∧ s.isSaving c = false ∧ (s.ctx c).plain = .none ∧ (s.ctx c).relaxed = 0 ∧
      (s.ctx c).drops = [] ∧ n = 3 ∧ (s.ctx c).buddy = none ∧ s.form c.core (rd (s.ctx c).s (n - 2) 0) ≠ .bad ∧
      ∀ l ∈ (s.octet (octetOf c.core)).locks, l.slate ≠ none) ∧
    ∃ (s : State) (c : CtxId) (n : Nat) (p q : Word), s.arg.c = c ∧ (s.ctx c).builtin = some (n, p, q) ∧ 5 ≤ n ∧ (s.ctx c).plain = .none :=
  ⟨⟨built 3, _, _, _, _, rfl, rfl, rfl, rfl, rfl, rfl, rfl, rfl, rfl, rfl, by decide, by decide⟩, built 5, _, _, _, _, rfl, rfl, by decide, rfl⟩

/-! ## Witnesses: threads -/

theorem test_witness_park : (∃ s : State, s.who.ctx ≠ 0 ∧ (s.ctx s.who).life = .active ∧ s.isSaving s.who = false) ∧
    (∃ s : State, s.Readable { a := some (r 1) } ∧ s.who.ctx ≠ 0 ∧ (s.vals { a := some (r 1) }).a.toNat % 16 ≠ s.who.ctx) ∧
    (∃ s : State, s.Readable { a := some (r 1) } ∧ s.who.ctx = 0 ∧ (s.vals { a := some (r 1) }).a.toNat % 16 = 5 ∧
      (s.ctx ⟨100, 5⟩).life = .active ∧ s.isSaving ⟨100, 5⟩ = false) ∧
    ∃ s : State, s.Readable { a := some (r 1) } ∧ s.who.ctx = 0 ∧ (s.vals { a := some (r 1) }).a.toNat % 16 = 5 ∧
      (s.ctx ⟨100, 5⟩).life = .parked ∧ (s.ctx ⟨100, 5⟩).builtin = none ∧ (s.ctx ⟨100, 5⟩).relFault = none := by
  refine ⟨⟨user 0 0 0, by decide, rfl, rfl⟩, ⟨user 2 0 0, readable_plainly (by decide), by decide, by decide⟩,
    ⟨{ home 5 0 0 with ctxs := [(1600, { run1 with s := regs 5 0 0 0 0 0 }), (1605, run1)] }, readable_plainly (by decide), rfl, by decide, rfl, rfl⟩,
    { home 5 0 0 with ctxs := [(1600, { run1 with s := regs 5 0 0 0 0 0 }), (1605, { run1 with life := .parked })] },
    readable_plainly (by decide), rfl, by decide, rfl, rfl, rfl⟩

/-- Context 1 with a save in its octet. -/
def saving (x : Ctx) (v : Save) (a : StepArg) : State :=
  { issue 1 x core1 with arg := { a with c := ⟨100, 1⟩, run := 9 }, octets := [(13, { saves := [v] })] }
/-- Its save. -/
def save1 : Save := { core := 100, ctx := 1, run := 9 }

theorem test_witness_saves : ∀ e ∈ [0, 5], ∃ (s : State) (v : Save), s.saveOf s.arg.c = some v ∧ v.run = s.arg.run ∧
    (s.ctx s.arg.c).life = .active ∧ (s.ctx s.arg.c).run = v.run ∧ v.ends = e ∧ (s.ctx s.arg.c).wait = .none ∧ v.after = .nothing ∧
    (s.ctx s.arg.c).plain = .none ∧ (s.ctx s.arg.c).relaxed = 0 ∧ (s.ctx s.arg.c).lateOut = 0 ∧ (s.ctx s.arg.c).relFault = none ∧
    (s.ctx s.arg.c).drops = [] := by
  intro e he
  simp only [List.mem_cons, List.not_mem_nil, or_false] at he
  rcases he with rfl | rfl
  · exact ⟨saving run1 save1 {}, save1, by decide, by decide, by decide, by decide, rfl, by decide, rfl, by decide, by decide, by decide,
      by decide, by decide⟩
  · exact ⟨saving run1 { save1 with ends := 5 } {}, { save1 with ends := 5 }, by decide, by decide, by decide, by decide, rfl, by decide, rfl,
      by decide, by decide, by decide, by decide, by decide⟩

theorem test_witness_save_kinds : (∃ (s : State) (v : Save) (n dl : Nat), s.saveOf s.arg.c = some v ∧ v.ends ≠ 0 ∧ v.ends ≤ s.cycle ∧
      (s.ctx s.arg.c).wait = .roll n dl ∧ dl ≠ 0) ∧
    (∃ (s : State) (v : Save) (p : Parked), s.saveOf s.arg.c = some v ∧ v.ends = 0 ∧ v.withdrawn = false ∧
      (s.ctx s.arg.c).wait = .reply p.acc.id ∧ s.parked = [p]) ∧
    ∃ (s : State) (a : Access) (d : Reg), s.arg.n = 1 ∧ s.arg.acc = a ∧ a.dest = .reg d ∧ 0 < d.toNat ∧ d.toNat < 32 ∧ a.rx = false ∧
      a.kind = .ldx ∧ (s.ctx s.arg.c).run = a.run ∧ (s.ctx s.arg.c).life ≠ .gated :=
  ⟨⟨{ saving { run1 with wait := .roll 3 90 } { save1 with ends := 21 } {} with cycle := 21 }, _, _, _, rfl, by decide, by decide, rfl, by decide⟩,
    ⟨{ saving { run1 with wait := .reply 7 } save1 {} with parked := [{ acc := acc .ldx 0 }] }, _, _, rfl, rfl, rfl, rfl, rfl⟩,
    saving { run1 with wait := .reply 7 } save1 { n := 1, acc := acc .ldx 0 }, _, 1, rfl, rfl, rfl, by decide, by decide, rfl, rfl, rfl, by decide⟩

theorem test_witness_restores : ∃ (s : State) (x : Saved), (s.ctx s.arg.c).run = s.arg.run ∧
    ((s.octet (octetOf s.arg.c.core)).cloak.find? fun (e : Saved) => e.id == s.arg.id) = some x ∧ x.c.builtin = none ∧ x.c.relFault = none ∧
    x.c.buddy = none :=
  ⟨{ saving run1 save1 { id := 4 } with octets := [(13, { cloak := [{ id := 4, core := 100, c := run1 }] })] }, _, rfl, rfl, rfl, rfl, rfl⟩

theorem test_witness_migrations : ∃ s : State, s.who.ctx ≠ 0 ∧ (s.ctx s.who).relStores = 0 ∧ (s.ctx s.who).plain ≠ .store ∧
    s.Readable { a := some (r 1) } ∧ (s.vals { a := some (r 1) }).a.toNat % 7680 = 7679 ∧ s.isStaffCore 7679 = false ∧
    ∀ i, i < 8 → (rd (s.coreAt s.who.core).q i {}).owner ≠ some (s.ctx s.who).run :=
  ⟨user 7679 0 0, by decide, rfl, by decide, readable_plainly (by decide), by decide, by decide, by decide⟩

theorem test_witness_migration_claims : (∃ s : State, s.isStaffCore ((s.vals { a := some (r 1) }).a.toNat % 7680) = true ∧ s.priv s.who < 2) ∧
    ∃ s : State, (rd (s.coreAt s.who.core).q 0 {}).owner = some (s.ctx s.who).run :=
  ⟨⟨user 0 0 0, by decide, by decide⟩, streamer, rfl⟩

/-- A context on its way to core 100. -/
def arriving (ctxs : SMap Ctx) : State :=
  { arg := { octet := 13, id := 4 }, ctxs := ctxs, octets := [(13, { cloak := [{ id := 4, core := 100, c := run1, kind := 7, ready := false }] })] }

theorem test_witness_arrivals : (∃ (s : State) (x : Saved), ((s.octet s.arg.octet).cloak.find? fun (e : Saved) => e.id == s.arg.id) = some x ∧
      (s.ctx ⟨x.core, 2⟩).life = .gated ∧ ∀ j, 0 < j → j < 2 → (s.ctx ⟨x.core, j⟩).life ≠ .gated) ∧
    ∃ (s : State) (x : Saved), ((s.octet s.arg.octet).cloak.find? fun (e : Saved) => e.id == s.arg.id) = some x ∧
      ∀ k, 0 < k → k < 16 → (s.ctx ⟨x.core, k⟩).life ≠ .gated := by
  refine ⟨⟨arriving [(1601, run1)], _, rfl, rfl, ?_⟩, arriving ((List.range 16).map fun i => (1600 + i, run1)), _, rfl, ?_⟩
  · intro j h1 h2
    have : j = 1 := by omega
    rw [this]; decide
  · have h : ∀ k < 16, ((arriving ((List.range 16).map fun i => (1600 + i, run1))).ctx ⟨100, k⟩).life ≠ .gated := by decide
    exact fun k _ hk => h k hk

theorem test_witness_forwards : (∃ (s : State) (a : Access), s.arg.acc = a ∧ s.Plainly a.who a.run ∧ (s.coreAt s.arg.core).fwd = [] ∧ s.arg.n = 0 ∧
      ∃ n sx, a.kind = .load n sx) ∧
    ∃ (s : State) (f : Forward), (s.coreAt s.arg.core).fwd = [f] ∧ s.arg.n = 0 ∧ f.run = s.arg.acc.run ∧ f.till ≤ s.cycle :=
  ⟨⟨replied run1 (acc (.load 8 false) 0) 0, _, rfl, plainly_at ⟨rfl, rfl, rfl, rfl, rfl⟩, rfl, rfl, 8, false, rfl⟩,
    { cycle := 4096, cores := [(100, { fwd := [{ run := 9, dest := ⟨7679, 1⟩, till := 4096 }] })], arg := { core := 100, acc := acc .ldx 0 } }, _,
    rfl, rfl, rfl, by decide⟩

/-- A homeroom's TAKE looks near its core. -/
def takes (k : Core) (os : SMap Octet) : State := { issue 0 run1 { k with taking := some { id := 3 } } with arg := { core := 100 }, octets := os }

theorem test_witness_take : (∃ s : State, s.who.ctx = 0 ∧ s.Readable { late := [1] } ∧ (s.coreAt s.who.core).taking = none) ∧
    (∃ (s : State) (g : Taking) (q : QItem) (l : List QItem), (s.coreAt s.arg.core).taking = some g ∧ g.busy = false ∧
      (s.coreAt s.arg.core).takeReg = none ∧ s.isStaffCore s.arg.core = false ∧ (s.coreAt s.arg.core).cuts = [] ∧
      (∃ i, 0 < i ∧ i < 16 ∧ (s.ctx ⟨s.arg.core, i⟩).life = .gated) ∧ (s.octet (octetOf s.arg.core)).cloak = [] ∧
      (s.coreAt s.arg.core).deque = q :: l ∧ q.prio < 256 ∧ (s.octet (octetOf s.arg.core)).queue ≠ [] ∧ ∀ p ∈ l, p.id ≠ q.id) ∧
    ∃ (s : State) (g : Taking), (s.coreAt s.arg.core).taking = some g ∧ g.busy = false ∧ (s.coreAt s.arg.core).deque = [] ∧
      (s.octet (octetOf s.arg.core)).queue = [] ∧ (s.die (dieOf s.arg.core)).queue = [] ∧
      ∀ p ∈ s.cores, dieOf p.1 = dieOf s.arg.core → p.1 ≠ s.arg.core → p.2.deque.length < 2 :=
  ⟨⟨home 0 0 0, rfl, readable_plainly (by decide), rfl⟩,
    ⟨takes { deque := [{ id := 1, prio := 255 }, { id := 2 }] } [(13, { queue := [{ id := 3 }] })], _, _, _, rfl, rfl, rfl, by decide, rfl,
      ⟨5, by decide, by decide, rfl⟩, rfl, rfl, by decide, by decide, by decide⟩,
    takes {} [], _, rfl, rfl, rfl, rfl, rfl, by decide⟩

theorem test_witness_starts : ∀ y ∈ [[(1600, { run1 with s := regs 5 64 7 0 0 0 })], [(1600, { run1 with s := regs 5 64 7 0 0 0 }), (1605, run1)]],
    ∃ s : State, s.ctxs = y ∧ s.who.ctx = 0 ∧ s.Readable { a := some (r 1), b := some (r 2), c := some (r 3), late := [4] } ∧
      (s.vals { a := some (r 1), b := some (r 2), c := some (r 3), late := [4] }).a.toNat % 16 = 5 ∧
      ((s.ctx ⟨100, 5⟩).life = .gated ∨ (s.ctx ⟨100, 5⟩).life = .active) ∧ (s.ctx ⟨100, 5⟩).starting = false ∧
      s.isSaving ⟨100, 5⟩ = false ∧ (s.coreAt 100).reaping = none := by
  intro y hy
  simp only [List.mem_cons, List.not_mem_nil, or_false] at hy
  rcases hy with rfl | rfl
  · exact ⟨{ home 0 0 0 with ctxs := _ }, rfl, rfl, readable_plainly (by decide), by decide, by decide, by decide, by decide, rfl⟩
  · exact ⟨{ home 0 0 0 with ctxs := _ }, rfl, rfl, readable_plainly (by decide), by decide, by decide, by decide, by decide, rfl⟩

/-- A homeroom with a pair of two agents of kind 0 in its take register, and the rule of kind 0 against kind 0 in its octet's cache. -/
def paired' : State :=
  { issue 0 { run1 with s := regs 5 0 0 0 0 0 } { core1 with takeReg := some (.pair { a := near0 0, b := near0 32, prio := 9 }) } with
    netTable := 0x80000, mem := [(0x80002, 0x09)], octets := [(13, { rules := [{ entry := 64 }] })] }

theorem test_witness_pair_starts : ∃ (q : QItem) (s1 s2 : Word) (x : State) (adj : BitVec 8) (entry : Word), paired'.who.ctx = 0 ∧
    paired'.Readable { a := some (r 1), late := [4] } ∧ (paired'.coreAt 100).takeReg = some (.pair q) ∧ (paired'.ctx ⟨100, 5⟩).life = .gated ∧
    paired'.orderPair 100 q.a q.b = (s1, s2) ∧ paired'.desc (paired'.dword 100 s1 % 65536) ≠ 0 ∧
    builtinPair (paired'.dword 100 s1 / 2 ^ 52 % 4096) (paired'.dword 100 s2 / 2 ^ 52 % 4096) = false ∧
    paired'.rule 100 (paired'.dword 100 s1 % 65536) (paired'.dword 100 s1 / 2 ^ 52 % 4096) (paired'.dword 100 s2 / 2 ^ 52 % 4096) =
      (x, some (adj, entry)) :=
  ⟨{ a := near0 0, b := near0 32, prio := 9 }, near0 0, near0 32, _, 0, 64, rfl, readable_plainly (by decide), rfl, rfl, by decide, by decide,
    by decide, rfl⟩

theorem test_witness_reaps : (∃ s : State, s.who.ctx = 0 ∧ s.Readable { late := [1, 2] } ∧ (s.coreAt 100).reaping = none ∧
      (s.ctx s.who).life ≠ .gated ∧ ∀ k, 0 < k → k < 16 → (s.ctx ⟨100, k⟩).life ≠ .finished ∧ (s.ctx ⟨100, k⟩).life ≠ .trapped) ∧
    ∃ s : State, s.who.ctx = 0 ∧ s.Readable { late := [1, 2] } ∧ (s.coreAt 100).reaping = none ∧ (s.ctx ⟨100, 15⟩).life = .trapped ∧
      (s.ctx ⟨100, 15⟩).reported = false ∧ (s.ctx ⟨100, 15⟩).sPend = 0 ∧ (s.ctx ⟨100, 15⟩).vPend = 0 ∧ (s.ctx ⟨100, 15⟩).launch = none ∧
      ∀ j, 0 < j → j < 15 → (s.ctx ⟨100, j⟩).life ≠ .finished ∧ (s.ctx ⟨100, j⟩).life ≠ .trapped := by
  refine ⟨⟨home 0 0 0, rfl, readable_plainly (by decide), rfl, by decide, ?_⟩,
    { home 0 0 0 with ctxs := [(1600, run1), (1615, { run1 with life := .trapped })] }, rfl, readable_plainly (by decide), rfl, rfl, rfl, rfl, rfl,
    rfl, ?_⟩
  · have h : ∀ k < 16, ((home 0 0 0).ctx ⟨100, k⟩).life ≠ .finished ∧ ((home 0 0 0).ctx ⟨100, k⟩).life ≠ .trapped := by decide
    exact fun k _ hk => h k hk
  · have h : ∀ k < 15, (SMap.get [(1600, run1), (1615, { run1 with life := .trapped })] (1600 + k) (Ctx.initial ⟨100, k⟩)).life ≠ .finished ∧
        (SMap.get [(1600, run1), (1615, { run1 with life := .trapped })] (1600 + k) (Ctx.initial ⟨100, k⟩)).life ≠ .trapped := by decide
    exact fun k _ hk => h k hk

theorem test_witness_reap_results : ∃ (s : State) (l : Late) (d b : Reg) (x : VWord), s.arg.n ≠ 1 ∧ s.arg.late = l ∧ l.dest = .reg d ∧
    d.toNat < 56 ∧ s.inPlace l.who l.run ∧ (s.ctx l.who).buddy = none ∧ s.arg.ok = false ∧
    s.arg.late2 = { who := l.who, run := l.run, dest := .reg b, val := x } ∧ b.toNat < 56 ∧ d ≠ b :=
  ⟨{ home 0 0 0 with arg := { ok := false, late := { who := ⟨100, 0⟩, run := 9, dest := .reg 1 }, late2 := { who := ⟨100, 0⟩, run := 9, dest := .reg 2 } } },
    _, 1, 2, 0, by decide, rfl, rfl, by decide, by unfold State.inPlace; decide, rfl, rfl, rfl, by decide, by decide⟩

/-! ## Witnesses: the roll call -/

/-- A group of context 1 of core 100 alone, on tag 0 of die 0. -/
def group : Word := BitVec.ofNat 64 (4 * 2 ^ 56 + 2 * 2 ^ 50 + 2 ^ 44 + 2 ^ 38 + 2 ^ 23)
/-- Its only member. -/
def member : State := { user 0 0 0 with dies := [(0, { tags := wr (Vector.replicate 8 {}) 0 { cfg := group } })] }

theorem test_witness_last_arrival : (member.ctx member.who).relaxed = 0 ∧ (member.ctx member.who).plain ≠ .store ∧
    tagMember group 0 member.who = true ∧ (rd (member.die 0).tags 0 {}).arrived = [] ∧ group.toNat / 2 ^ 62 = 0 ∧
    group.toNat / 2 ^ 56 % 64 + group.toNat / 2 ^ 44 % 64 ≤ 48 ∧ group.toNat / 2 ^ 50 % 64 + group.toNat / 2 ^ 38 % 64 ≤ 40 ∧
    ∀ c : CtxId, c.core < 7680 → c.ctx < 16 → tagMember group 0 c = true → c.key = member.who.key := by
  refine ⟨rfl, by decide, by decide, rfl, by decide, by decide, by decide, ?_⟩
  intro c hc hx h
  have h2 : ∀ k < 16, bitAt group.toNat (22 + k) = true → k = 1 := by decide
  have e : tagHas group 0 c.core = (dieOf c.core == 0 && decide (4 ≤ colOf c.core) && decide (colOf c.core < 5) && decide (2 ≤ rowOf c.core) &&
      decide (rowOf c.core < 3)) := rfl
  simp only [tagMember, e, Bool.and_eq_true, beq_iff_eq, decide_eq_true_eq] at h
  obtain ⟨⟨⟨⟨⟨h1, h3⟩, h4⟩, h5⟩, h6⟩, h7⟩ := h
  have := h2 c.ctx hx h7
  unfold dieOf at h1
  unfold colOf at h3 h4
  unfold rowOf at h5 h6
  show c.core * 16 + c.ctx = 100 * 16 + 1
  omega

theorem test_witness_outside_group : tagMember group 0 ⟨100, 2⟩ = false ∧
    ∃ s : State, tagMember (rd (s.die 0).tags 0 {}).cfg 0 s.who = true ∧ memNat s.who.key (rd (s.die 0).tags 0 {}).arrived = true :=
  ⟨by decide, { member with dies := [(0, { tags := wr (Vector.replicate 8 {}) 0 { cfg := group, arrived := [1601] } })] }, by decide, by decide⟩

theorem test_witness_flipped : (∃ (s : State) (b : Bool), s.Readable { a := some (r 1) } ∧ rd (s.ctx s.who).arr 0 none = some b ∧
      b ≠ (rd (s.die 0).tags 0 {}).gen) ∧ ∃ s : State, s.Readable { out := [1] } ∧ rd (s.ctx s.who).arr 0 none = none :=
  ⟨⟨issue 1 { run1 with arr := wr (Vector.replicate 8 none) 0 (some true) } {}, true, readable_plainly (by decide), rfl, by decide⟩,
    user 0 0 0, readable_plainly (by decide), rfl⟩

theorem test_witness_roll_waits : ∃ (s : State) (dl : Nat), s.arg.n < 8 ∧ s.inPlace s.arg.c s.arg.run ∧ (s.ctx s.arg.c).wait = .roll s.arg.n dl ∧
    dl ≠ 0 ∧ (s.ctx s.arg.c).drops = [] ∧ dl ≤ s.cycle :=
  ⟨{ issue 1 { run1 with wait := .roll 7 40 } {} with cycle := 40, arg := { c := ⟨100, 1⟩, run := 9, n := 7 } }, 40, by decide,
    by unfold State.inPlace; decide, rfl, by decide, rfl, by decide⟩

/-! ## Witnesses: pair queues -/

theorem test_witness_full_deque : ∃ s : State, (s.coreAt s.arg.core).cuts = [] ∧ s.fences = [] ∧ (s.coreAt s.arg.core).deque.length = 64 :=
  ⟨{ cores := [(100, { deque := (List.range 64).map fun i => { id := i } })], arg := { core := 100 } }, rfl, rfl, by decide⟩

theorem test_witness_fenced_push : ∃ (s : State) (f : Fence), (s.coreAt s.arg.core).cuts = [] ∧ f ∈ s.fences ∧ f.has s.arg.core = true :=
  ⟨{ fences := [{ col := 4, row := 2, ncols := 4, nrows := 2 }], arg := { core := 100 } }, { col := 4, row := 2, ncols := 4, nrows := 2 }, rfl,
    List.mem_singleton.mpr rfl, by decide⟩

theorem test_witness_blocks : ∃ s : State, s.arg.move = .octetToDeque 100 ∧ (s.octet (octetOf 100)).queue ≠ [] :=
  ⟨{ octets := [(13, { queue := [{ id := 1 }] })], arg := { move := .octetToDeque 100 } }, rfl, by decide⟩

theorem test_witness_steals : (∃ s : State, s.fenced s.arg.core s.arg.n = false) ∧ (∃ s : State, s.fenced s.arg.core s.arg.n = true) ∧
    (∃ s : State, (s.die s.arg.die).queue ≠ []) ∧
    ∃ s : State, s.arg.items ≠ [] ∧ (s.coreAt s.arg.core).cuts = [] ∧ (s.coreAt s.arg.core).taking = none :=
  ⟨⟨{ arg := { core := 100, n := 101 } }, by decide⟩,
    ⟨{ fences := [{ col := 4, row := 2, ncols := 4, nrows := 2 }], arg := { core := 5, n := 101 } }, by decide⟩,
    ⟨{ dies := [(0, { queue := [{ id := 1 }] })] }, by decide⟩, { arg := { core := 100, items := [{ id := 1 }] } }, by decide, rfl, rfl⟩

theorem test_witness_aging : (∃ (s : State) (q : QItem), s.arg.aged = .die 1 q.id ∧ q.since = s.arg.n ∧ (s.die 1).queue = [q] ∧ q.prio = 254) ∧
    ∃ (s : State) (x : Saved), s.arg.aged = .cloak 13 x.id ∧ x.since = s.arg.n ∧ (s.octet 13).cloak = [x] ∧ x.ready = true ∧ x.prio < 255 :=
  ⟨⟨{ dies := [(1, { queue := [{ id := 4, prio := 254 }] })], arg := { aged := .die 1 4 } }, { id := 4, prio := 254 }, rfl, rfl, rfl, rfl⟩,
    { octets := [(13, { cloak := [{ id := 4 }] })], arg := { aged := .cloak 13 4 } }, { id := 4 }, rfl, rfl, rfl, rfl, by decide⟩

/-! ## Witnesses: control registers, traps and the system -/

/-- A staff context with values in its registers. -/
def staff (a b c : Word) : State :=
  { who := ⟨0, 1⟩, ctxs := [(1, { run1 with s := regs a b c 0 0 0 })], cores := [(0, core1)] }

theorem test_witness_csrr : ∀ n ∈ [(0x003 : Word), 0x00F, 0x190, 0xFFF], ∃ s : State, s = user n 0 0 ∧ s.Readable { a := some (r 1), out := [4] } ∧
    Spec.absent ((s.vals { a := some (r 1), out := [4] }).a.toNat % 4096) := by
  intro n hn
  simp only [List.mem_cons, List.not_mem_nil, or_false] at hn
  rcases hn with rfl | rfl | rfl | rfl
  all_goals exact ⟨_, rfl, readable_plainly (by decide), by unfold Spec.absent; decide⟩

theorem test_witness_csrr_values : ∃ (s : State) (w : Word), s.Readable { a := some (r 1), out := [4] } ∧
    ((s.vals { a := some (r 1), out := [4] }).a.toNat % 4096, w) ∈ Spec.registers s := by
  refine ⟨user 2 0 0, 0x00100000, readable_plainly (by decide), ?_⟩
  refine List.mem_of_getElem? (i := 2) (Eq.trans rfl ?_)
  rfl

theorem test_witness_csrw : ∀ n ∈ [(0x160 : Word), 0x001, 0x11F, 0x130, 0x14F, 0x000, 0x020, 0x028, 0x029, 0x107, 0x120, 0x18F],
    ∃ s : State, s = staff n 7 0 ∧ s.Readable { a := some (r 1), b := some (r 2) } ∧ s.priv s.who = 2 ∧
      ∀ i, i < 5 → (s.vals { a := some (r 1), b := some (r 2) }).b.toNat / 8 ^ i % 8 ≤ 7 := by
  intro n hn
  simp only [List.mem_cons, List.not_mem_nil, or_false] at hn
  rcases hn with rfl | rfl | rfl | rfl | rfl | rfl | rfl | rfl | rfl | rfl | rfl | rfl
  all_goals exact ⟨_, rfl, readable_plainly (by decide), by decide, by decide⟩

theorem test_witness_register_writes : (∃ s : State, s.inPlace s.arg.c s.arg.run) ∧
    ∀ p ∈ [[], [12]], ∃ s : State, s.arg.n = 1 ∧ s.agenda = [] ∧ (s.die 0).ring = p ∧ (s.die 0).passCount = 1 ∧ s.cycle = 228 := by
  refine ⟨⟨{ user 0 0 0 with arg := { c := ⟨100, 1⟩, run := 9 } }, by unfold State.inPlace; decide⟩, ?_⟩
  intro p _
  exact ⟨{ cycle := 228, dies := [(0, { ring := p, passCount := 1 })], arg := { n := 1 } }, rfl, rfl, rfl, rfl, rfl⟩

/-- The operands of TRET. -/
def tretUses : Uses := { a := some (r 1), out := [4], need := 1 }

theorem test_witness_returns : (∃ s : State, s.Readable tretUses ∧ (s.ctx ⟨100, (s.vals tretUses).a.toNat % 16⟩).life ≠ .trapped) ∧
    ∃ (s : State) (q : Access) (n : Nat) (sx : Bool) (d : Reg) (e w off : Nat), s.Readable tretUses ∧ (s.vals tretUses).a.toNat % 16 = 5 ∧
      (s.ctx ⟨100, 5⟩).life = .trapped ∧ (s.coreAt 100).reaping = none ∧ (⟨100, 5⟩ : CtxId).key ≠ s.who.key ∧ (s.ctx ⟨100, 5⟩).builtin = none ∧
      (s.ctx ⟨100, 5⟩).frec.cause = 0x17 ∧ (s.ctx ⟨100, 5⟩).mixed = false ∧ (s.ctx ⟨100, 5⟩).poisoned = [q] ∧ q.kind = .load n sx ∧
      q.dest = .reg d ∧ 0 < d.toNat ∧ d.toNat < 32 ∧ q.rx = false ∧ s.form 100 q.addr = .window e w off ∧ (s.ctx ⟨100, 5⟩).buddy = none :=
  ⟨⟨home 5 0 0, readable_plainly (by decide), by decide⟩,
    { home 5 0 0 with ctxs := [(1600, { run1 with s := regs 5 0 0 0 0 0 }), (1605, { run1 with life := .trapped, frec := { cause := 0x17 }, poisoned := [acc (.load 8 false) 0] })] },
    _, _, _, 1, _, _, _, readable_plainly (by decide), by decide, rfl, rfl, by decide, rfl, rfl, rfl, rfl, rfl, rfl, by decide, by decide, rfl, rfl, rfl⟩

theorem test_witness_context_registers : (∃ s : State, s.Readable { a := some (r 1), b := some (r 2), out := [4], need := 1 } ∧
      (s.ctx ⟨100, 5⟩).life ≠ .gated) ∧
    ∃ s : State, s.Readable { a := some (r 1), b := some (r 2), c := some (r 3), need := 1 } ∧
      (s.vals { a := some (r 1), b := some (r 2), c := some (r 3), need := 1 }).a.toNat % 16 = 5 ∧
      (s.vals { a := some (r 1), b := some (r 2), c := some (r 3), need := 1 }).b.toNat % 65536 = 0x100 + 16 * 7 + 15 ∧
      (s.ctx ⟨100, 5⟩).life = .parked ∧ (⟨100, 5⟩ : CtxId).key ≠ s.who.key ∧ (s.ctx ⟨100, 5⟩).buddy = none :=
  ⟨⟨{ home 5 1 0 with ctxs := [(1600, { run1 with s := regs 5 1 0 0 0 0 }), (1605, run1)] }, readable_plainly (by decide), by decide⟩,
    { home 5 0x17F 0 with ctxs := [(1600, { run1 with s := regs 5 0x17F 0 0 0 0 }), (1605, { run1 with life := .parked })] }, readable_plainly (by decide),
    by decide, by decide, rfl, by decide, rfl⟩

theorem test_witness_posts : ∀ n ∈ [(0x00 : Word), 0x0F, 0x10, 0x7F, 0x80, 0xFE, 0xFF, 0x02],
    (staff n 0 0).Readable { a := some (r 1), b := some (r 2), need := 2 } := by
  intro n hn
  simp only [List.mem_cons, List.not_mem_nil, or_false] at hn
  rcases hn with rfl | rfl | rfl | rfl | rfl | rfl | rfl | rfl
  all_goals exact readable_plainly (by decide)

theorem test_witness_invalidations : ∃ s : State, s.inPlace s.arg.c s.arg.run ∧ (s.ctx s.arg.c).wait = .hold s.arg.id ∧
    ∀ d, d < 4 → ∀ e ∈ (s.die d).tlb, e.leaf.getLsbD 57 = false :=
  ⟨{ issue 1 { run1 with wait := .hold 5 } core1 with arg := { c := ⟨100, 1⟩, run := 9, id := 5 } }, by unfold State.inPlace; decide, rfl, by decide⟩

/-- The fields of an isolation rectangle of 4 columns and 2 rows. -/
def rect (col row : Nat) : Word := BitVec.ofNat 64 (col * 2 ^ 56 + row * 2 ^ 49 + 4 * 2 ^ 42 + 2 * 2 ^ 35)

theorem test_witness_isolation : (∃ s : State, s.Readable { a := some (r 1), b := some (r 2), need := 2 } ∧
      (s.vals { a := some (r 1), b := some (r 2), need := 2 }).a.toNat / 2 ^ 56 % 128 % 4 ≠ 0) ∧
    (∃ s : State, s.Readable { a := some (r 1), b := some (r 2), need := 2 } ∧ (s.vals { a := some (r 1), b := some (r 2), need := 2 }).a = rect 0 0 ∧
      s.isStaffCore 0 = true ∧ devCol 0 < 4 ∧ devRow 0 < 2) ∧
    ∃ s : State, s.Readable { a := some (r 1), b := some (r 2), need := 2 } ∧ (s.vals { a := some (r 1), b := some (r 2), need := 2 }).a = rect 92 78 ∧
      s.who.core = 0 ∧ (s.prefect = {} ∧ s.dies = []) :=
  ⟨⟨staff (rect 2 0) 0 0, readable_plainly (by decide), by decide⟩, ⟨staff (rect 0 0) 0 0, readable_plainly (by decide), rfl, by decide, by decide, by decide⟩,
    staff (rect 92 78) 0 0, readable_plainly (by decide), rfl, rfl, rfl, rfl⟩

theorem test_witness_cuts : (∃ s : State, 2 ≤ s.priv s.who ∧ (s.ctx s.who).relaxed = 0 ∧ (s.ctx s.who).plain ≠ .store ∧
      s.Readable { a := some (r 1), b := some (r 2), c := some (r 3), need := 2 } ∧
      (s.vals { a := some (r 1), b := some (r 2), c := some (r 3), need := 2 }).b.toNat % 64 = 0) ∧
    (∃ (s : State) (q : Cut), s.cuts = [q] ∧ q.id = s.arg.id ∧ (s.coreAt s.arg.core).cuts = [] ∧ s.arg.n < 4) ∧
    ∃ (s : State) (q : Cut) (p : CutPart), s.cuts = [q] ∧ q.id = s.arg.id ∧ (s.coreAt s.arg.core).cuts = [p] ∧ p.id = q.id ∧ s.arg.n = 8 ∧
      p.first = true ∧ p.taken = none ∧ ∀ i ∈ s.cutCtxs s.arg.core q.net, s.recordable ⟨s.arg.core, i⟩ = true :=
  ⟨⟨staff 0 64 8, by decide, rfl, by decide, readable_plainly (by decide), by decide⟩,
    ⟨{ cuts := [{ id := 4 }], arg := { core := 100, id := 4, n := 3 } }, { id := 4 }, rfl, rfl, rfl, by decide⟩,
    { cuts := [{ id := 4 }], cores := [(100, { cuts := [{ id := 4, first := true }] })], arg := { core := 100, id := 4, n := 8 } }, { id := 4 },
    { id := 4, first := true }, rfl, rfl, rfl, rfl, rfl, rfl, rfl, by decide⟩

theorem test_witness_privilege : (∃ s : State, s.priv s.who = 0) ∧ ∃ s : State, s.priv s.who = 1 := ⟨⟨user 0 0 0, by decide⟩, home 0 0 0, by decide⟩

/-! ## Witnesses: messages -/

/-- The operands of ENQR and of MSEND. -/
def enqrUses : Uses := { a := some (r 1), b := some (r 2) }
def msendUses : Uses := { a := some (r 1), b := some (r 2), c := some (r 3) }

theorem test_witness_sends : (∃ s : State, (s.ctx s.who).plain = .none ∧ (s.ctx s.who).relaxed = 0 ∧ s.Readable enqrUses ∧
      (s.vals enqrUses).a.toNat % 64 = 0 ∧ s.AllowsHere (s.vals enqrUses).a .load ∧ (∃ c w o, s.form 100 (s.vals enqrUses).a = .window c w o) ∧
      s.leavesSlate 100 ⟨(s.vals enqrUses).a, 64, false⟩ = false ∧ s.isHere (bits (s.vals enqrUses).b.toNat 23 12) = true ∧
      (s.ctx s.who).buddy = none ∧ s.Unlocked (s.vals enqrUses).a (.send 64 false 0 (.record 1) 0xFFF 0)) ∧
    (∃ s : State, s.Readable enqrUses ∧ s.isHere (bits (s.vals enqrUses).b.toNat 23 12) = false ∧
      (s.sendSide 0 (s.nodeOf (bits (s.vals enqrUses).b.toNat 23 12)) 0).idle = []) ∧
    ∃ s : State, s.Readable msendUses ∧ min (s.vals msendUses).c.toNat 65536 = 64 ∧ s.AllowsHere (s.vals msendUses).a .load ∧
      s.leavesSlate 100 ⟨(s.vals msendUses).a, 64, false⟩ = false ∧ s.AllowsHere (s.vals msendUses).b .store ∧
      s.leavesSlate 100 ⟨(s.vals msendUses).b, 64, true⟩ = false :=
  ⟨⟨user (near0 0) 0xFFF001 0, rfl, rfl, readable_plainly (by decide), by decide, allowsHere_allows (by decide), ⟨_, _, _, rfl⟩, by decide, by decide,
      rfl, unlocked_none rfl⟩,
    ⟨user (near0 0) 0x005001 0, readable_plainly (by decide), by decide, by decide⟩,
    user (near0 0) (near0 65472) 64, readable_plainly (by decide), by decide, allowsHere_allows (by decide), by decide, allowsHere_allows (by decide),
    by decide⟩

theorem test_witness_send_checks : (∃ s : State, s.Readable msendUses ∧ (s.vals msendUses).c.toNat = 0) ∧
    (∃ (s : State) (m : Nat), s.Readable msendUses ∧ (s.vals msendUses).c.toNat = 64 ∧ s.form 100 (s.vals msendUses).a = .remote m) ∧
    ∃ s : State, s.Readable msendUses ∧ s.form 100 (s.vals msendUses).b ≠ .bad ∧ s.leavesSlate 100 ⟨(s.vals msendUses).b, 64, true⟩ = true :=
  ⟨⟨user (near0 0) 0 0, readable_plainly (by decide), by decide⟩, ⟨user 0x0005000000000000 0 64, _, readable_plainly (by decide), by decide, rfl⟩,
    user (near0 0) (near0 65473) 64, readable_plainly (by decide), by decide, by decide⟩

theorem test_witness_inboxes : (∃ s : State, s.Readable enqrUses ∧ s.Inv ∧ (s.vals enqrUses).a.toNat % 4096 = 4095 ∧ 2 ≤ s.priv s.who ∧
      s.inboxKey 4095 + 16 ≤ 2 ^ 48) ∧
    (∃ s : State, s.Readable enqrUses ∧ (s.vals enqrUses).a.toNat % 4096 = 1 ∧ s.priv s.who < 2 ∧
      (s.ctx s.who).net.toNat ≠ memReadN s.mem (s.inboxKey 1) 8 / 2 ^ 32 % 65536) ∧
    ∀ b : Bool, ∃ s : State, s.Readable { a := some (r 1), out := [4] } ∧ (s.ctx s.who).seated = b :=
  ⟨⟨staff 4095 0 0, readable_plainly (by decide), rfl, by decide, by decide, by decide⟩,
    ⟨issue 1 { run1 with s := regs 1 0 0 0 0 0, net := 5 } {}, readable_plainly (by decide), by decide, by decide, by decide⟩,
    fun b => ⟨issue 1 { run1 with s := regs 5 0 0 0 0 0, seated := b } core1, by cases b <;> exact readable_plainly (by decide), by cases b <;> rfl⟩⟩

/-- An ENQR whose record has been read, at its die's interface. -/
def sending (dnode ddie : Nat) : Access := acc (.send 64 false 0 (.record 1) dnode ddie) 0
/-- Its acceptance has come. -/
def accepting (dnode ddie : Nat) (q : List SendSide) : State :=
  { issue 1 { run1 with plain := .load, wait := .hold 7 } core1 with
    arg := { acc := sending dnode ddie, frag := { data := List.replicate 64 1 } }, dies := [(0, { sends := q })] }

theorem accepting_plainly (dnode ddie : Nat) (q : List SendSide) : (accepting dnode ddie q).Plainly ⟨100, 1⟩ 9 := by
  have e : (accepting dnode ddie q).ctx ⟨100, 1⟩ = { run1 with plain := .load, wait := .hold 7 } := rfl
  refine ⟨by decide, ⟨by rw [e]; rfl, by rw [e]; decide, rfl⟩, ?_, ?_, ?_, ?_⟩ <;> rw [e] <;> rfl

theorem test_witness_acceptance : (∀ x, (accepting 0xFFF 0 []).runCtx ⟨100, 1⟩ 9 = some x → x.agentRec = 0) ∧
    (accepting 0xFFF 0 []).isHere 0xFFF = true ∧ ((accepting 0xFFF 0 []).ctx ⟨100, 1⟩).wait = .hold (sending 0xFFF 0).id ∧
    (∃ seat rest, ((accepting 5 1 [{ dnode := 5, ddie := 1, idle := [40] }]).sendSide 0 ((accepting 5 1 []).nodeOf 5) 1).idle = seat :: rest) ∧
    ((accepting 5 1 []).sendSide 0 5 1).idle = [] ∧ ((accepting 5 1 []).sendSide 0 5 1).asked = false ∧
    64 ≤ 64 * ((accepting 5 1 []).rate 0 (trafficOf false 0 (.record 1))).1 * 128 := by
  refine ⟨?_, by decide, rfl, ⟨40, [], by decide⟩, by decide, by decide, by decide⟩
  intro x hx
  have : x = { run1 with plain := .load, wait := .hold 7 } := Option.some.inj (hx.symm.trans rfl)
  rw [this]; rfl

/-- Interface 1 of node 5 has a bulk message with the follow bit on its way from this die. -/
def bulkSide : SendSide := { dnode := 5, ddie := 1, busy := [{ seat := 2, fol := true }] }

theorem test_witness_trails : (accepting 5 0 [bulkSide]).Trails 0 0 5 0 ∧ ¬ (accepting 5 1 [bulkSide]).Trails 0 0 5 1 ∧
    ¬ (accepting 0xFFF 0 []).Trails 0 0 0 0 ∧ ¬ (accepting 5 1 [{ dnode := 5, ddie := 1, idle := [40] }]).Trails 0 0 5 1 := by
  refine ⟨⟨rfl, .inl ⟨bulkSide, List.mem_singleton.mpr rfl, rfl, rfl, by decide, _, List.mem_singleton.mpr rfl, rfl⟩⟩, ?_, ?_, ?_⟩
  all_goals (unfold State.Trails; decide)

theorem test_witness_follows : ∃ s : State, s.arg.n = 1 ∧ s.FollowsOther s.arg.acc :=
  ⟨{ near with arg := { n := 1, acc := { acc (.load 8 false) 0 with rx := true } }
               dies := [(0, { remote := [{ acc := { acc (.store 1 0) 24 with id := 6, rx := true } }] })] }, rfl,
    rfl, .inl ⟨_, List.mem_singleton.mpr rfl, rfl, rfl, by decide, by decide, by decide⟩⟩

theorem test_witness_remote_acceptance : ∃ (s : State) (seat : Nat) (rest : List Nat), s.arg.n = 1 ∧ (s.ctx s.arg.acc.who).buddy = none ∧
    ¬ s.FollowsOther s.arg.acc ∧ (s.sendSide 0 (bits s.arg.acc.addr.toNat 59 48) (State.remoteDie 100 s.arg.acc.addr)).idle = seat :: rest :=
  ⟨{ near with arg := { n := 1, acc := { acc (.load 8 false) 0 with addr := 0x0005000000000000 } }, dies := [(0, { sends := [{ dnode := 5, idle := [3] }] })] },
    _, _, rfl, rfl, fun h => absurd h.1 (by decide), rfl⟩

/-- A lease of the first block. -/
def lease : Lease := { seats := [0, 1, 2, 3, 4, 5, 6, 7] }

theorem test_witness_seats : (∃ s : State, s.arg.n = 2 ∧ s.arg.env.dnode = s.node ∧
      ¬ (∃ l ∈ (s.die 0).leases.filter (fun (l : Lease) => l.from' s.arg.env), l.void = true) ∧
      ((s.die 0).leases.filter fun (l : Lease) => l.from' s.arg.env).length < 8 ∧ (∀ l ∈ (s.die 0).leases, 8 * 1 ∉ l.seats) ∧
      ∀ k, k < 1 → ∃ l ∈ (s.die 0).leases, 8 * k ∈ l.seats) ∧
    (∃ s : State, s.arg.n = 2 ∧ ∃ l ∈ (s.die 0).leases.filter (fun (l : Lease) => l.from' s.arg.env), l.void = true) ∧
    (∃ (s : State) (l : Late) (i : Nat), s.arg.n = 3 ∧ s.arg.seat.waiter = some l ∧ s.inPlace l.who l.run ∧ (s.ctx l.who).wait = .hold i) ∧
    (∃ s : State, s.arg.n = 1 ∧ s.arg.words ≠ []) ∧
    (∃ (s : State) (l : Lease), s.arg.n = 0 ∧ (s.die s.arg.die).leases = [l] ∧ s.arg.id ∈ l.seats ∧ l.void = false ∧ l.host = true ∧ l.sdie = 0 ∧
      l.last + 2 ^ 20 ≤ s.cycle ∧ ∃ y ∈ (s.die s.arg.die).slots, y.seat ∈ l.seats) ∧
    ∃ (s : State) (l : Lease), s.arg.n = 0 ∧ (s.die s.arg.die).leases = [l] ∧ s.arg.id ∈ l.seats ∧ l.void = false ∧ l.last + 2 ^ 20 ≤ s.cycle ∧
      (s.die s.arg.die).slots = [] ∧ (s.sendSide l.sdie s.node s.arg.die).busy = [] := by
  refine ⟨⟨{ arg := { n := 2 }, dies := [(0, { leases := [lease] })] }, rfl, rfl, by decide, by decide, by decide, by decide⟩,
    ⟨{ arg := { n := 2 }, dies := [(0, { leases := [{ lease with void := true }] })] }, rfl, by decide⟩,
    ⟨{ issue 1 { run1 with wait := .hold 6 } core1 with arg := { n := 3, seat := { waiter := some { who := ⟨100, 1⟩, run := 9 } } } }, _, 6, rfl, rfl,
      by unfold State.inPlace; decide, rfl⟩, ⟨{ arg := { n := 1, words := [40] } }, rfl, by decide⟩,
    ⟨{ cycle := 2 ^ 20, dies := [(0, { leases := [{ lease with host := true }], slots := [{ seat := 7 }] })] }, { lease with host := true }, rfl, rfl,
      by decide, rfl, rfl, rfl, by decide, _, List.mem_singleton.mpr rfl, by decide⟩,
    { cycle := 2 ^ 20, dies := [(0, { leases := [lease] })] }, lease, rfl, rfl, by decide, rfl, by decide, rfl, rfl⟩

/-- The only fragment of a message of one fragment. -/
def frag1 : Frag := Env.fragment { seat := 3, len := 64 } 0 0 (List.replicate 64 1)

theorem test_witness_fragments : frag1.linkOk = true ∧ headerCrc frag1.d0.toNat frag1.d1.toNat = frag1.d1.toNat % 65536 ∧
    ({} : RecvWin).disposes frag1.env.seq = false ∧
    (∃ s : State, s.arg.n = 1 ∧ ∃ p, s.arg.frag.port = some p ∧ p = 35) ∧ ∃ s : State, 2 ≤ s.arg.n :=
  ⟨rfl, by decide +kernel, by decide, ⟨{ arg := { n := 1, frag := { frag1 with port := some 35 } } }, rfl, _, rfl, rfl⟩, { arg := { n := 3 } }, by decide⟩

/-- The second fragment of a message of two. -/
def frag2 : Frag := { frag1 with env := { frag1.env with k := 2 }, frag := 1 }
/-- The slot of that message. -/
def slot2 : DSlot := { seat := 3, env := { frag1.env with k := 2 }, frags := [(0, 0, [])] }

theorem test_witness_second_fragment : ∃ (s : State) (x : DSlot), s.arg.frag = frag2 ∧ (s.die 0).slots = [x] ∧
    x.seat = frag2.env.seat ∧ x.from' frag2.env = true ∧ x.env.seq = frag2.env.seq ∧ x.decoded = false ∧
    (∀ g ∈ x.frags, ¬ (g.1 = frag2.stripe ∧ g.2.1 = frag2.frag)) ∧ x.frags ≠ [] :=
  ⟨{ arg := { frag := frag2 }, dies := [(0, { slots := [slot2] })] }, slot2, rfl, rfl, rfl, by decide, rfl, rfl, by decide, by decide⟩

theorem test_witness_losses : (∃ (s : State) (x : DSlot), (s.die 0).slots = [x] ∧ x.seat = s.arg.id ∧ x.decoded = false ∧ x.last = s.arg.n ∧
      x.seat < 4096 ∧ x.env.seq = 63 ∧ (∀ i, x.env.body ≠ .packet i) ∧ (s.die 0).wins = []) ∧
    ∃ (s : State) (z : BusySeat), s.arg.n ≠ 0 ∧ (s.sendSide 0 s.arg.env.dnode s.arg.env.ddie).busy = [z] ∧ z.seat = s.arg.id ∧ z.tag = none :=
  ⟨⟨{ arg := { id := 3, n := 5 }, dies := [(0, { slots := [{ seat := 3, env := { seq := 63 }, last := 5 }] })] }, _, rfl, rfl, rfl, rfl, by decide,
      rfl, (by intro i h; cases h), rfl⟩,
    { arg := { n := 1, id := 40 }, dies := [(0, { sends := [{ busy := [{ seat := 40 }] }] })] }, _, by decide, rfl, rfl, rfl⟩

/-- Inbox 1 is armed: its waiting agent is the first record of window 0 of core 100, and its landing record lies 64 bytes on. -/
def armed : List Host.Cell :=
  memWriteN (memWriteN (memWriteN [] 32 8 (2 ^ 63 + 2 ^ 62 + 100)) 40 8 (near0 0).toNat) 48 8 (near0 64).toNat
/-- A message of a record for inbox 1, decoded. -/
def recordSlot (b : MsgBody) (l : List Byte) : DSlot := { seat := 4096, env := { body := b, acc := acc (.send 64 false 0 b 0 0) 0 }, decoded := true, data := l }
def delivering (x : DSlot) (m : List Host.Cell) : State := { near with mem := m, arg := { id := 4096 }, dies := [(0, { slots := [x] })] }

theorem delivering_cell {x : DSlot} {m : List Host.Cell} {a : Word} {off : Nat} (h : off % 8 = 0 ∧ off < 65536)
    (c : (delivering x m).cellKey 100 a = some (slateKey 13 3 off)) (f : (delivering x m).form 100 a = .window 100 0 off)
    (p : (delivering x m).protect 100 ((delivering x m).isStaffCore 100) (.window 100 0 off) .fullEmpty = .ok (slateKey 13 3 off)) :
    (delivering x m).CellAt 100 a (slateKey 13 3 off) := by
  have k : keyOctet (slateKey 13 3 off) = 13 := by unfold keyOctet slateKey; omega
  refine ⟨c, enters f rfl rfl rfl rfl p (by rw [k]; rfl), unpoisoned rfl _ _, by unfold slateKey; omega, ?_, ?_⟩
  · unfold isSlateKey slateKey; simp only [Bool.and_eq_true, decide_eq_true_eq]; omega
  · intro p hp; exact absurd hp (by simp [delivering, near, user, issue])

theorem test_witness_records : ∃ (s : State) (x : DSlot) (p q : Nat), s.Inv ∧ s.arg.n = 0 ∧ (s.die s.arg.die).slots = [x] ∧ x.seat = s.arg.id ∧ 4096 ≤ x.seat ∧
    x.decoded = true ∧ x.missed = none ∧ x.env.snode = s.node ∧ x.env.host = false ∧ x.env.body = .record 1 ∧ x.data.length = 64 ∧
    memReadN s.mem (s.inboxKey 1) 8 / 2 ^ 62 = 3 ∧ memReadN s.mem (s.inboxKey 1) 8 % 8192 = 100 ∧
    s.dword 100 (BitVec.ofNat 64 (memReadN s.mem (s.inboxKey 1 + 16) 8)) = 0 ∧ s.inboxKey 1 + 32 ≤ 2 ^ 47 ∧ p % 64 = 0 ∧ q + 8 ≤ p ∧
    (s.bankFrom (s.inboxKey 1) ≤ s.cycle ∧ s.bankFrom q ≤ s.cycle ∧ ∀ j, j < 8 → s.bankFrom (p + 8 * j) ≤ s.cycle) ∧
    (∀ j, j < 8 → s.CellAt 100 (BitVec.ofNat 64 (memReadN s.mem (s.inboxKey 1 + 16) 8) + BitVec.ofNat 64 (8 * j)) (p + 8 * j)) ∧
    s.CellAt 100 (BitVec.ofNat 64 (memReadN s.mem (s.inboxKey 1 + 8) 8) + 8) q ∧ cellSt (memReadN s.mem q 8) = 0 := by
  refine ⟨delivering (recordSlot (.record 1) (List.replicate 64 0)) armed, recordSlot (.record 1) (List.replicate 64 0), slateKey 13 3 64,
    slateKey 13 3 8, by unfold State.Inv; decide, rfl, rfl, rfl, by decide, rfl, rfl, rfl, rfl, rfl, by decide, by decide, by decide, by decide,
    by decide, by decide, by decide, ⟨by decide, by decide, by decide⟩, ?_, delivering_cell (by decide) (by decide) (by decide) (by decide), by decide⟩
  intro j hj
  have e : slateKey 13 3 64 + 8 * j = slateKey 13 3 (64 + 8 * j) := by unfold slateKey; omega
  rw [e]
  have h : j = 0 ∨ j = 1 ∨ j = 2 ∨ j = 3 ∨ j = 4 ∨ j = 5 ∨ j = 6 ∨ j = 7 := by omega
  rcases h with rfl | rfl | rfl | rfl | rfl | rfl | rfl | rfl
  all_goals exact delivering_cell (by decide) (by decide) (by decide) (by decide)

theorem test_witness_held_record : ∃ (s : State) (x : DSlot), s.arg.n = 0 ∧ (s.die 0).slots = [x] ∧ x.env.body = .record 1 ∧
    memReadN s.mem (s.inboxKey 1) 8 / 2 ^ 63 % 2 = 0 :=
  ⟨delivering (recordSlot (.record 1) (List.replicate 64 0)) [], recordSlot (.record 1) (List.replicate 64 0), rfl, rfl, rfl, by decide⟩

theorem test_witness_writes : ∃ (s : State) (x : DSlot) (a : Word) (k : Nat), (s.die 0).slots = [x] ∧ x.env.body = .write a ∧ x.data = [1, 2, 3, 4] ∧
    x.data.length ≤ 64 - a.toNat % 64 ∧ s.enter x.env.acc.who.core x.env.acc.staff 0 a x.data.length .store 1 = .go k s ∧ isSlateKey k = true ∧
    s.Quiet k x.data.length ∧ s.spanFault x.env.acc.who.core x.env.acc.staff ⟨a, x.data.length, true⟩ = none ∧
    (s.bankFrom k ≤ s.cycle ∧ s.bankFrom (k + x.data.length - 1) ≤ s.cycle) ∧ k % 65536 + x.data.length ≤ 65536 := by
  refine ⟨delivering (recordSlot (.write (near0 60)) [1, 2, 3, 4]) [], recordSlot (.write (near0 60)) [1, 2, 3, 4], near0 60, slateKey 13 3 60, rfl, rfl,
    rfl, by decide, enters (o := 13) (sl := 3) (off := 60) (i := 0) (c := 100) rfl rfl rfl rfl rfl rfl rfl, by decide, ?_, by decide, by decide,
    by decide⟩
  intro p hp; exact absurd hp (by simp [delivering, near, user, issue])

/-! ## Witnesses: launches -/

/-- A sweep of context 1 of core 100 with one field of 4 bits. -/
def sweep : List Word :=
  [BitVec.ofNat 64 (2 * 2 ^ 32 + 7 * 2 ^ 54), BitVec.ofNat 64 (4 * 2 ^ 57 + 2 * 2 ^ 50 + 2 ^ 43 + 2 ^ 36), BitVec.ofNat 64 (2 ^ 61 + 4 * 2 ^ 24), 0,
    0x0FFF0F8001A30000, 5, 0, 0]
/-- A net's launch on the same rectangle, its descriptor at the start of slate 3 of octet 13. -/
def netLaunch : List Word := sweep.set 0 (BitVec.ofNat 64 (2 ^ 62 + 2 * 2 ^ 32))

theorem selects_only (k : Nat) (h : Spec.selects sweep k) : k = 100 := by
  have e1 : bits (sweep.getD 1 0).toNat 63 57 = 4 := by decide
  have e2 : bits (sweep.getD 1 0).toNat 56 50 = 2 := by decide
  have e3 : bits (sweep.getD 1 0).toNat 49 43 = 1 := by decide
  have e4 : bits (sweep.getD 1 0).toNat 42 36 = 1 := by decide
  unfold Spec.selects at h
  simp only [e1, e2, e3, e4, devCol, devRow, dieOf, colOf, rowOf] at h
  omega

theorem test_witness_launch : ¬ (∃ q, q < 11 ∧ Spec.refuses ({} : State) sweep q) ∧ bits (sweep.getD 0 0).toNat 63 62 = 0 ∧
    Spec.selects sweep 100 := by
  refine ⟨?_, by decide, by unfold Spec.selects; decide⟩
  rintro ⟨q, hq, h⟩
  have h0 : q = 0 ∨ q = 1 ∨ q = 2 ∨ q = 3 ∨ q = 4 ∨ q = 5 ∨ q = 6 ∨ q = 7 ∨ q = 8 ∨ q = 9 ∨ q = 10 := by omega
  rcases h0 with rfl | rfl | rfl | rfl | rfl | rfl | rfl | rfl | rfl | rfl | rfl
  · exact h
  · (simp only [Spec.refuses] at h; exact absurd h (by decide))
  · (simp only [Spec.refuses] at h; exact absurd h (by decide))
  · have w : ∀ i < 1, Spec.fieldWidth sweep i ≠ 0 := by decide
    have n : bits (sweep.getD 2 0).toNat 63 61 = 1 := by decide
    simp only [Spec.refuses, n] at h
    rcases h with h | h | ⟨i, hi, h⟩ | h | ⟨i, hi, -⟩
    · exact absurd h (by decide)
    · exact absurd h (by decide)
    · exact w i hi h
    · exact absurd h (by decide)
    · omega
  · (simp only [Spec.refuses] at h; exact absurd h (by decide))
  · obtain ⟨k, hk, hs⟩ := h
    rw [selects_only k hk] at hs
    exact absurd hs (by decide)
  all_goals (simp only [Spec.refuses] at h; exact absurd h (by decide))

theorem test_witness_refused_launch : Spec.refuses ({} : State) (sweep.set 0 0xC000000000000000) 1 ∧
    ∀ q, q < 1 → ¬ Spec.refuses ({} : State) (sweep.set 0 0xC000000000000000) q := by
  refine ⟨by simp only [Spec.refuses]; decide, ?_⟩
  intro q hq
  have : q = 0 := by omega
  rw [this]; exact id

/-- The net's descriptor: 2^4 agents. -/
def described : State := { mem := [(slateKey 13 3 4, 0x20)] }

theorem test_witness_net_launch : ∃ k, described.Inv ∧ bits (netLaunch.getD 0 0).toNat 63 62 = 1 ∧ bits (netLaunch.getD 0 0).toNat 50 50 = 0 ∧
    bits (netLaunch.getD 0 0).toNat 52 52 = 0 ∧ described.cellKey (coreAtDev 2 4) (netLaunch.getD 4 0 + 56) = some k ∧ isSlateKey k = true ∧
    k % 8 = 0 ∧ memReadN described.mem k 8 = 0 ∧ ¬ Spec.refuses described netLaunch 9 :=
  ⟨_, by unfold State.Inv; decide, by decide, by decide, by decide, rfl, by decide, by decide, by decide, by simp only [Spec.refuses]; decide⟩

theorem test_witness_launch_wakes : ∃ (s : State), s.arg.words = sweep ∧ s.arg.core = 100 ∧ bits (sweep.getD 2 0).toNat 63 61 = 1 ∧
    Spec.fieldWidth sweep 0 = 4 ∧ bits (sweep.getD 0 0).toNat 47 32 / 2 ^ 1 % 2 = 1 ∧ (s.ctx ⟨100, 1⟩).life = .gated ∧
    bits (sweep.getD 0 0).toNat 53 53 = 0 :=
  ⟨{ arg := { words := sweep, core := 100 } }, rfl, rfl, by decide, by decide, by decide, by decide, by decide⟩

theorem test_witness_full_cores : ∃ s : State, (s.ctx ⟨100, 1⟩).life = .active ∧ s.isSaving ⟨100, 1⟩ = false ∧ (s.ctx ⟨100, 1⟩).starting = false ∧
    (s.ctx ⟨100, 1⟩).prio < bits (sweep.getD 0 0).toNat 61 54 :=
  ⟨near, rfl, rfl, rfl, by decide⟩

/-- A buddy launch of cores 100 and 101. -/
def buddies : List Word :=
  [BitVec.ofNat 64 (2 * 2 ^ 32 + 2 ^ 53), BitVec.ofNat 64 (4 * 2 ^ 57 + 2 * 2 ^ 50 + 2 * 2 ^ 43 + 2 ^ 36), BitVec.ofNat 64 (2 ^ 61 + 4 * 2 ^ 24), 0, 64, 5, 0, 0]

theorem test_witness_buddy_wakes : ∃ s : State, (s.ctx ⟨101, 1⟩).life = .gated ∧ bits (buddies.getD 0 0).toNat 53 53 = 1 ∧ devCol 101 % 2 = 1 ∧
    hdrHas buddies 100 = true ∧ hdrHas buddies 101 = true ∧ bits (buddies.getD 0 0).toNat 47 32 / 2 ^ 1 % 2 = 1 :=
  ⟨{}, rfl, by decide, by decide, by decide, by decide, by decide⟩

/-- A restore holds the context of the mask, so the launch leaves a ready entry. -/
theorem test_witness_restoring : ∃ s : State, (s.ctx ⟨100, 1⟩).life = .active ∧ (s.ctx ⟨100, 1⟩).starting = true ∧
    (s.ctx ⟨100, 1⟩).builtin = none ∧ (s.ctx ⟨100, 1⟩).wait = .hold 8 :=
  ⟨issue 1 { run1 with starting := true, wait := .hold 8 } {}, rfl, rfl, rfl, rfl⟩

theorem test_witness_net_wakes : ∃ s : State, s.dword 100 (netLaunch.getD 4 0 + 40) % 2 ^ 32 = 1 ∧ (List.range 100).countP (fun j => hdrHas netLaunch j) = 0 ∧
    hdrHas netLaunch 100 = true ∧ (s.coreAt 100).deque = [] :=
  ⟨{ mem := [(slateKey 13 3 40, 1)] }, by decide, by decide, by decide, rfl⟩

/-! ## Witnesses: the host, the Prefect, resets, buddies and the step -/

theorem test_witness_doorbells : ∃ (s : State) (bs : List Byte), s.arg.host = .write (64 * 4095) bs ∧ bs.length = 64 ∧
    memReadN s.mem (s.inboxKey 4095) 8 / 2 ^ 63 % 2 = 1 ∧ memReadN s.mem (s.inboxKey 4095) 8 / 2 ^ 61 % 2 = 1 ∧ s.arg.n = 0 ∧ s.hostQueue = [] :=
  ⟨{ arg := { host := .write (64 * 4095) (List.replicate 64 1) }, mem := [(32 * 4095 + 7, 0xA0)] }, _, rfl, by decide, by decide, by decide, rfl, rfl⟩

theorem test_witness_host_queue : (∃ s : State, s.arg.n = 0 ∧ s.hostQueue ≠ []) ∧
    (∃ (s : State) (bs : List Byte), s.arg.host = .write (64 * 1 + 8 * 6) bs ∧ bs.length = 8 ∧ s.arg.n = 0 ∧ s.hostQueue = []) ∧
    (∃ s : State, s.arg.n = 7 ∧ s.arg.env = { dnode := s.node, host := true, body := .record 1, sender := .host } ∧ (s.hostSide s.node 0).idle = [8]) ∧
    ∃ s : State, s.arg.n = 7 ∧ s.arg.env = { dnode := s.node, host := true, body := .record 1, sender := .host } ∧ (s.hostSide s.node 0).idle = [] ∧
      64 ≤ (s.hostSide s.node 0).busy.length :=
  ⟨⟨{ hostQueue := [{}] }, rfl, by decide⟩, ⟨{ arg := { host := .write 112 (List.replicate 8 1) } }, _, rfl, rfl, rfl, rfl⟩,
    ⟨{ arg := { n := 7, env := { host := true, body := .record 1, sender := .host } }, dies := [(0, { sends := [{ host := true, idle := [8] }] })] },
      rfl, rfl, rfl⟩,
    { arg := { n := 7, env := { host := true, body := .record 1, sender := .host } },
      dies := [(0, { sends := [{ host := true, busy := List.replicate 64 {} }] })] }, rfl, rfl, rfl, by decide⟩

theorem test_witness_host_memory : (∃ (s : State) (p n : Nat), s.arg.host = .read p n ∧ p < 2 ^ 40 ∧ p + n ≤ 2 ^ 40 ∧ s.arg.n = 1 ∧ s.arg.slot = true ∧
      s.latent = [] ∧ s.isPoisoned p n = false ∧ p / 2 ^ 38 = 3) ∧
    (∃ (s : State) (p : Nat) (bs : List Byte), s.arg.host = .write p bs ∧ s.Inv ∧ p < 2 ^ 40 ∧ p + bs.length ≤ 2 ^ 40 ∧ bs ≠ [] ∧ p / 2 ^ 38 = 0 ∧
      s.arg.n = 0 ∧ s.hostQueue = [] ∧ ∀ i, i < bs.length → s.bankFrom (p + i) ≤ s.cycle) ∧
    (∃ (s : State) (p n : Nat), s.arg.host = .read p n ∧ p < 2 ^ 40 ∧ p + n ≤ 2 ^ 40 ∧ 0 < p / 2 ^ 38 ∧ s.arg.n = 0 ∧ s.hostQueue = []) ∧
    ∃ (s : State) (p : Nat) (bs : List Byte), s.arg.host = .write p bs ∧ p < 2 ^ 40 ∧ p + bs.length ≤ 2 ^ 40 ∧ 0 < p / 2 ^ 38 ∧ s.arg.n = 4 :=
  ⟨⟨{ arg := { host := .read (2 ^ 40 - 8) 8, n := 1, slot := true } }, _, _, rfl, by decide, by decide, rfl, rfl, rfl, unpoisoned rfl _ _, by decide⟩,
    ⟨{ arg := { host := .write 16 [1, 2] } }, _, _, rfl, rfl, by decide, by decide, by decide, by decide, rfl, rfl, by decide⟩,
    ⟨{ arg := { host := .read (2 ^ 38) 8 } }, _, _, rfl, by decide, by decide, by decide, rfl, rfl⟩,
    { arg := { host := .write (2 ^ 38) [1], n := 4 } }, _, _, rfl, by decide, by decide, by decide, rfl⟩

theorem test_witness_prefect : (∃ s : State, s.arg.n = 0x14F ∧ ∀ k i, 0 < i → (s.ctx ⟨k, i⟩).life ≠ .active) ∧
    (∃ s : State, s.arg.n = 0x140 ∧ s.partOf 100 ≠ ({ s with partRect := wr s.partRect 0 (s.arg.v &&& 0xFFFFFFFF800000000) } : State).partOf 100 ∧
      (s.ctx ⟨100, 1⟩).life = .active) ∧
    (∃ s : State, s.prefect.good.length = 4 ∧ s.prefect.cfgPass.length = 4 ∧ 3600 < s.arg.sample.power) ∧
    (∃ s : State, s.arg.n = 0x132 ∧ s.arg.v.toNat % 256 = 239) ∧ (∃ s : State, s.prefect.held = 1 ∧ s.arg.spdm.mctp = true ∧
      s.arg.spdm.code = .getMeasurements 1) ∧
    ∃ s : State, s.prefect.held = 0 ∧ s.arg.spdm.code = .getMeasurements 4 ∧ s.arg.spdm.v13 = true := by
  refine ⟨⟨{ arg := { n := 0x14F } }, rfl, ?_⟩, ⟨{ near with partRect := wr near.partRect 1 0x8001828000000000, arg := { n := 0x140 } }, rfl, by decide, rfl⟩,
    ⟨{ arg := { sample := { power := 3601 } } }, rfl, rfl, by decide⟩, ⟨{ arg := { n := 0x132, v := 239 } }, rfl, by decide⟩,
    ⟨{ prefect := { held := 1 }, arg := { spdm := { code := .getMeasurements 1, mctp := true } } }, rfl, rfl, rfl⟩, { arg := { spdm := { code := .getMeasurements 4 } } }, rfl, rfl, rfl⟩
  intro k i hi
  show (Ctx.initial ⟨k, i⟩).life ≠ .active
  have e : (i == 0) = false := by simp; omega
  simp [Ctx.initial, e]

theorem test_witness_device_resets : ∃ s : State, s.Inv ∧ (∀ i, i < 3 → rd s.prefect.staged i none = none) ∧
    (∀ c ∈ ((rd s.prefect.active 2 none).getD {}).cells, c.1 < 2 ^ 40) ∧ s.prefect.runs 0 = true ∧ s.prefect.runs 1 = true :=
  ⟨{ prefect := { active := wr (Vector.replicate 3 (some {})) 2 (some { cells := [(2 ^ 40 - 1, 1)] }) } }, rfl, by decide, by decide, by decide, by decide⟩

theorem test_witness_die_resets : ∃ s : State, s.Inv ∧ s.arg.die = 3 ∧ s.prefect.runtimeOk = true ∧
    (∀ c ∈ ((rd s.prefect.active 2 none).getD {}).cells, c.1 < 2 ^ 40) ∧ s.agenda = [] ∧ s.octets = [] ∧ s.parked = [] ∧
    (s.ctxs.map (·.1)).Pairwise (· < ·) ∧ s.sleepers = [] ∧ s.cellWaits = [] ∧ s.cuts = [] ∧ (s.die 3).slots = [] ∧
    s.packets = [] ∧ (s.die 3).passCount ≤ 240 ∧ ∀ p ∈ s.cores, p.2.fwd = [] ∧ p.2.cuts = [] :=
  ⟨{ near with arg := { die := 3 }, prefect := { measures := [[], [], near.prefect.digest 2] } }, rfl, rfl,
    by unfold Prefect.runtimeOk; exact beq_self_eq_true _, by decide, rfl, rfl, rfl, by decide, rfl, rfl, rfl, rfl, rfl, by decide, by decide⟩

/-- A buddy pair of contexts 1 of cores 100 and 101 that have come to a comparison; each has a slate in its window 7. -/
def pair (l : List (Nat × Option VWord)) : State :=
  let x (even : Bool) (d : CtxId) : Ctx := { run1 with buddy := some { even := even, partner := d, prun := 9, writes := if even then [] else l, waits := true } }
  let k (n : Nat) : Core := { win := wr (Vector.replicate 8 {}) 7 { valid := true, slate := n, own := 2 } }
  { ctxs := [(1601, x true ⟨101, 1⟩), (1617, x false ⟨100, 1⟩)], cores := [(100, k 3), (101, k 4)], arg := { c := ⟨100, 1⟩ } }

theorem test_witness_buddies : ∃ (b e : Buddy) (p q : Nat), ((pair []).ctx ⟨100, 1⟩).buddy = some b ∧ b.partner = ⟨101, 1⟩ ∧
    ((pair []).ctx ⟨101, 1⟩).run = b.prun ∧ ((pair []).ctx ⟨101, 1⟩).life ≠ .gated ∧ ((pair []).ctx ⟨101, 1⟩).buddy = some e ∧ b.waits = true ∧
    e.waits = true ∧ ((pair []).ctx ⟨100, 1⟩).lateOut = 0 ∧ ((pair []).ctx ⟨101, 1⟩).plain = .none ∧ (pair []).Inv ∧ b.fingerprint = e.fingerprint ∧
    (pair []).checkpoint ⟨100, 1⟩ .store = .ok p ∧ (pair []).checkpoint ⟨101, 1⟩ .store = .ok q ∧ p + 0x540 ≤ q ∧ (pair []).parked = [] ∧ b.buf = [] :=
  ⟨_, _, _, _, rfl, rfl, rfl, by decide, rfl, rfl, rfl, rfl, rfl, rfl, rfl, rfl, rfl, by decide, rfl, rfl⟩

/-- The same pair, its odd core having written another value. -/
def odd : State := pair [(1, some 5)]
def evenSide : Buddy := { even := true, partner := ⟨101, 1⟩, prun := 9, waits := true }
def oddSide : Buddy := { even := false, partner := ⟨100, 1⟩, prun := 9, writes := [(1, some 5)], waits := true }

theorem test_differ : evenSide.fingerprint ≠ oddSide.fingerprint := by decide +kernel

theorem test_witness_disagreement : ∃ (b e : Buddy) (p q : Nat), (odd.ctx ⟨100, 1⟩).buddy = some b ∧ (odd.ctx ⟨101, 1⟩).buddy = some e ∧
    b.fingerprint ≠ e.fingerprint ∧ odd.checkpoint ⟨100, 1⟩ .load = .ok p ∧ odd.checkpoint ⟨101, 1⟩ .load = .ok q :=
  ⟨evenSide, oddSide, _, _, rfl, rfl, test_differ, rfl, rfl⟩

/-- Core 100's context 1 is next, with its pc in window 0. -/
def next1 (pc : Word) (m : List Host.Cell) : State :=
  { turn := 100, who := ⟨100, 1⟩, ctxs := [(1600, { run1 with life := .parked }), (1601, { run1 with pc := pc })], cores := [(100, core1)], mem := m }
/-- It comes to a NOP; it comes to the word 0, which is no instruction. -/
def nextNop : State := next1 (near0 0) [(slateKey 13 3 6, 1)]
def nextNone : State := next1 (near0 0) []

theorem next1_fetch (m : List Host.Cell) :
    (next1 (near0 0) m).fetch ⟨100, 1⟩ = .word (BitVec.ofNat 64 (memReadN m (slateKey 13 3 0) 8)) (next1 (near0 0) m) := by
  have f : (next1 (near0 0) m).form 100 (near0 0) = .window 100 0 0 := rfl
  have p : (next1 (near0 0) m).protect 100 ((next1 (near0 0) m).priv ⟨100, 1⟩ == 2) (.window 100 0 0) .load = .ok (slateKey 13 3 0) := rfl
  have k : (next1 (near0 0) m).fetchKey ⟨100, 1⟩ (near0 0) (slateKey 13 3 0) =
      .word (BitVec.ofNat 64 (memReadN m (slateKey 13 3 0) 8)) (next1 (near0 0) m) := rfl
  have e : ((next1 (near0 0) m).ctx ⟨100, 1⟩).pc = near0 0 := rfl
  have a : ((near0 0).toNat % 8 != 0) = false := by decide
  unfold State.fetch
  simp only [e, a, f, p, k]
  rfl

theorem test_witness_turn : ∃ (s : State) (w : Word) (t : State), Claims.Idle s ∧ Claims.InTurn s ⟨100, 1⟩ 0 ∧ s.fetch ⟨100, 1⟩ = .word w t ∧
    decode w = .ok .nop ∧ (t.ctx ⟨100, 1⟩).buddy = none := by
  refine ⟨nextNop, 0x0001000000000000, nextNop, ⟨rfl, fun p hp => absurd hp (by simp [nextNop, next1])⟩,
    ⟨rfl, rfl, by decide, by decide, by decide, rfl, by decide, rfl, fun j _ h => absurd h (by omega)⟩, ?_, by decide, rfl⟩
  exact (next1_fetch _).trans (by rw [show BitVec.ofNat 64 (memReadN [(slateKey 13 3 6, 1)] (slateKey 13 3 0) 8) = 0x0001000000000000 by decide +kernel]; rfl)

/-- Its pc lies in a page that nothing maps. -/
theorem test_witness_fetch_miss : ∃ t : State, (next1 0x0FFF000000001000 []).fetch ⟨100, 1⟩ = .drop t := ⟨_, rfl⟩

theorem test_witness_unassigned : ∃ (w : Word) (t : State) (e : Reject), nextNone.fetch ⟨100, 1⟩ = .word w t ∧ decode w = .error e :=
  ⟨_, _, _, next1_fetch [], rfl⟩

/-- A drain program's DEND is next in octet 13's pipe. -/
def pipedEnd : State :=
  { octet13 { cmds := [{ command 5 (.matx { started with prog := [0xA8000000] }) with taken := true }], pipe := { live := true, id := 5 } } {} with pipe := some 13 }

theorem test_witness_pipe_step : ∃ (s : State) (o : Nat) (i : Instr), s.pipe = some o ∧ s.pipeWord o = some i :=
  ⟨pipedEnd, 13, .dend, rfl, by decide +kernel⟩

/-- Something due; something due after every core's turn; a cycle with nothing due. -/
def due1 : State := { cycle := 5, agenda := [{ due := 5 }] }
def due2 : State := { turn := 7680, agenda := [{ late := true }] }
def due3 : State := { turn := 7680 }

theorem test_witness_due : ∃ (s : State) (p : Pending) (l : List Pending), s.pipe = none ∧ takeDue s.cycle false s.agenda = some (p, l) :=
  ⟨due1, { due := 5 }, [], rfl, by decide +kernel⟩

theorem test_witness_late_due : ∃ (s : State) (p : Pending) (l : List Pending), Claims.Idle s ∧ s.turn = 7680 ∧
    takeDue s.cycle true s.agenda = some (p, l) :=
  ⟨due2, { late := true }, [], ⟨rfl, by simp [due2]⟩, rfl, by decide +kernel⟩

theorem test_witness_cycle_ends : ∃ s : State, Claims.Idle s ∧ s.turn = 7680 ∧ ∀ p ∈ s.agenda, s.cycle < p.due := ⟨due3, ⟨rfl, by simp [due3]⟩, rfl, by simp [due3]⟩

theorem test_witness_memory_form : ∃ s t : State, s.Inv ∧ step s = .next t := ⟨due3, _, rfl, rfl⟩

/-! ## Single steps, with the results of the spec's tables and examples -/

/-- What an instruction leaves in scalar register `d` of the issuing context. -/
def gives (i : Instr) (s : State) (d : Nat) : Word :=
  match exec i s with
  | .next t => rd (t.ctx s.who).s d 0
  | _ => 0
/-- What an instruction leaves the issuing context with. -/
def leaves (i : Instr) (s : State) : Ctx :=
  match exec i s with
  | .next t => t.ctx s.who
  | _ => {}
/-- The value that a late result of an instruction will have, and how many cycles on it comes. -/
def later (i : Instr) (s : State) : List (Nat × Nat) :=
  match exec i s with
  | .next t => t.agenda.map fun p => (p.due - s.cycle, p.arg.late.val.toNat)
  | _ => []

-- R182, R183: a sum wraps modulo 2^64; with `.ss` it is clamped to 2^63 - 1, with `.us` a difference to 0.
theorem test_iadd_wraps : gives (.iadd ⟨4, r 1, r 2⟩ .wrap) (user (BitVec.ofNat 64 (2 ^ 64 - 1)) 2 0) 4 = 1 := by decide +kernel
theorem test_iadd_saturates : gives (.iadd ⟨4, r 1, r 2⟩ .ss) (user 0x7FFFFFFFFFFFFFFF 1 0) 4 = 0x7FFFFFFFFFFFFFFF := by decide +kernel
theorem test_isub_saturates : gives (.isub ⟨4, r 1, r 2⟩ .us) (user 1 2 0) 4 = 0 := by decide +kernel
-- R182: the high half of (-1) * (-1) is 0 signed and 2^64 - 2 unsigned.
theorem test_imulh : gives (.imulh ⟨4, r 1, r 1⟩) (user 0xFFFFFFFFFFFFFFFF 0 0) 4 = 0 := by decide +kernel
theorem test_imulhu : gives (.imulhu ⟨4, r 1, r 1⟩) (user 0xFFFFFFFFFFFFFFFF 0 0) 4 = 0xFFFFFFFFFFFFFFFE := by decide +kernel
-- R182: only b[5:0] counts in a shift; a right shift with copies of bit 63; the operand order of ISUB, IANDN and ISEL.
theorem test_ishl_amount : gives (.ishl ⟨4, r 1, r 2⟩) (user 3 65 0) 4 = 6 := by decide +kernel
theorem test_isra_sign : gives (.isra ⟨4, r 1, r 2⟩) (user 0x8000000000000000 63 0) 4 = 0xFFFFFFFFFFFFFFFF := by decide +kernel
theorem test_irol : gives (.irol ⟨4, r 1, r 2⟩) (user 0x8000000000000001 1 0) 4 = 3 := by decide +kernel
theorem test_isub_order : gives (.isub ⟨4, r 1, r 2⟩ .wrap) (user 5 7 0) 4 = 0xFFFFFFFFFFFFFFFE := by decide +kernel
theorem test_iandn_order : gives (.iandn ⟨4, r 1, r 2⟩) (user 6 2 0) 4 = 4 := by decide +kernel
theorem test_isel_zero : gives (.isel ⟨4, r 1, r 2, r 3⟩) (user 6 2 0) 4 = 2 := by decide +kernel
theorem test_imin_signed : gives (.imin ⟨4, r 1, r 2⟩) (user 0xFFFFFFFFFFFFFFFF 1 0) 4 = 0xFFFFFFFFFFFFFFFF ∧
    gives (.iminu ⟨4, r 1, r 2⟩) (user 0xFFFFFFFFFFFFFFFF 1 0) 4 = 1 := by decide +kernel

-- R184's table: a quotient comes 20 cycles after issue.
theorem test_idiv_rounds : later (.idiv ⟨4, r 1, r 2⟩) (user (BitVec.ofInt 64 (-7)) 2 0) = [(20, 2 ^ 64 - 3)] := by decide +kernel
theorem test_irem_sign : later (.irem ⟨4, r 1, r 2⟩) (user (BitVec.ofInt 64 (-7)) 2 0) = [(20, 2 ^ 64 - 1)] := by decide +kernel
theorem test_idivu : later (.idivu ⟨4, r 1, r 2⟩) (user (BitVec.ofInt 64 (-7)) 2 0) = [(20, 0x7FFFFFFFFFFFFFFC)] := by decide +kernel
theorem test_iremu : later (.iremu ⟨4, r 1, r 2⟩) (user (BitVec.ofInt 64 (-7)) 2 0) = [(20, 1)] := by decide +kernel
theorem test_divide_by_zero : later (.idiv ⟨4, r 1, r 0⟩) (user 9 0 0) = [(20, 2 ^ 64 - 1)] ∧ later (.irem ⟨4, r 1, r 0⟩) (user 9 0 0) = [(20, 9)] ∧
    later (.idivu ⟨4, r 1, r 0⟩) (user 9 0 0) = [(20, 2 ^ 64 - 1)] ∧ later (.iremu ⟨4, r 1, r 0⟩) (user 9 0 0) = [(20, 9)] := by decide +kernel
theorem test_divide_overflow : later (.idiv ⟨4, r 1, r 2⟩) (user 0x8000000000000000 0xFFFFFFFFFFFFFFFF 0) = [(20, 2 ^ 63)] ∧
    later (.irem ⟨4, r 1, r 2⟩) (user 0x8000000000000000 0xFFFFFFFFFFFFFFFF 0) = [(20, 0)] := by decide +kernel

-- R185's example, its parts taken one by one.
theorem test_movi_movhi : gives (.movi ⟨4, 0x0F000003⟩) (user 0 0 0) 4 = 0x0F000003 ∧
    gives (.movhi 4 (r 1) 0x0FFF0F00) (user 0x0F000003 0 0) 4 = 0x0FFF0F000F000003 := by decide +kernel
theorem test_movi_extends : gives (.movi ⟨4, 0xFFFFFFFE⟩) (user 0 0 0) 4 = 0xFFFFFFFFFFFFFFFE := by decide +kernel
theorem test_ishli : gives (.ishli ⟨1, 63⟩) (user 3 0 0) 1 = 0x8000000000000000 := by decide +kernel

-- R186's example reads fields 1 and 2 of the wid 0x103; a signed field of 2 bits holding 3 is -1; BINS keeps the other bits.
theorem test_bextu : gives (.bextu ⟨4, r 1, r 2, r 3⟩) (user 0x103 4 4) 4 = 0 ∧ gives (.bextu ⟨4, r 1, r 2, r 3⟩) (user 0x103 8 8) 4 = 1 := by decide +kernel
theorem test_bext_sign : gives (.bext ⟨4, r 1, r 0, r 3⟩) (user 0x103 0 2) 4 = 0xFFFFFFFFFFFFFFFF := by decide +kernel
theorem test_bins : gives (.bins ⟨1, r 2, r 3, r 3⟩) (user 0xFFFF 0 4) 1 = 0xFF0F := by decide +kernel
theorem test_counts : gives (.clz ⟨4, r 0⟩) (user 0 0 0) 4 = 64 ∧ gives (.ctz ⟨4, r 1⟩) (user 8 0 0) 4 = 3 ∧
    gives (.popc ⟨4, r 1⟩) (user 0xF0F 0 0) 4 = 8 ∧ gives (.bswap ⟨4, r 1⟩) (user 0x0102030405060708 0 0) 4 = 0x0807060504030201 := by decide +kernel

-- R187's worked step, and a check over no bits.
theorem test_crc15 : gives (.crc15 ⟨5, r 1, r 2, r 3⟩) (user 0 2 2) 5 = 0x4EAB := by decide +kernel
theorem test_crc16_none : gives (.crc16 ⟨5, r 1, r 2, r 0⟩) (user 0x12345678 2 2) 5 = 0x5678 := by decide +kernel

-- R189: a taken branch goes to its own address + 8 * disp; one not taken goes on.
theorem test_branch_taken : (leaves (.br .ltu (r 1) (r 2) (BitVec.ofInt 30 (-2))) (user 1 2 0)).pc = near0 0 - 16 := by decide +kernel
theorem test_branch_signed : (leaves (.br .lt (r 1) (r 2) 4) (user 1 0xFFFFFFFFFFFFFFFF 0)).pc = near0 8 := by decide +kernel

-- R203: AINCB adds 1 below its bound and writes nothing at it.
theorem test_aincb_bound : atomNew .incb 8 2 3 0 = 3 ∧ atomNew .incb 8 3 3 0 = 3 := by decide
-- R203: AMIN compares as signed numbers of the width.
theorem test_amin_signed : atomNew .min 4 1 0xFFFFFFFF 0 = 0xFFFFFFFF ∧ atomNew .max 4 1 0xFFFFFFFF 0 = 1 := by decide
-- R197: a loaded byte is zero-extended, or sign-extended with `.s`.
theorem test_load_extends : loadVal 1 0x80 false = 0x80 ∧ loadVal 1 0x80 true = 0xFFFFFFFFFFFFFF80 := by decide
-- R104's example: threshold 1 is not met at 2^62 - 1, nor at 0, and is at 1.
theorem test_cwait_wraps : cwaitDone (2 ^ 62 - 1) 1 = false ∧ cwaitDone 0 1 = false ∧ cwaitDone 1 1 = true := by decide

/-- The sweep of R53's example: contexts 1 to 4 of two columns and two rows of cores, three fields of widths 4, 4 and 8 and extents 4 and 2. -/
def sweep53 : List Word :=
  [BitVec.ofNat 64 (0x1E * 2 ^ 32), BitVec.ofNat 64 (4 * 2 ^ 57 + 2 * 2 ^ 50 + 2 * 2 ^ 43 + 2 * 2 ^ 36),
    BitVec.ofNat 64 (3 * 2 ^ 61 + 4 * 2 ^ 24 + 4 * 2 ^ 30 + 8 * 2 ^ 36), BitVec.ofNat 64 (4 + 2 * 2 ^ 12), 0x0FFF0F8001A30000, 5, 0, 0]

theorem test_sweep_wids : hdrWid sweep53 149 2 = 0x111 ∧ hdrWid sweep53 148 4 = 0x103 := by decide +kernel

-- R156's digests: the example of SHA-256 for the three bytes "abc" that FIPS 180-4's authors give.
theorem test_sha256 : sha256 [0x61, 0x62, 0x63] = natBytes 0xAD1500F261FF10B49C7A1796A36103B02322AE5DDE404141EACF018FBF1678BA 32 := by
  decide +kernel

-- R131's worked example: the generator's step, and 1 + 2^-9 rounded to BF16 from state 1.
theorem test_generator : nextRandom 1 = 0x00042021 := by decide
theorem test_stochastic : roundNarrow .bf16 (.fin false 513 (-9) 1) .sr false 1 = ⟨0x3F81, fInexact, 0x00042021, false⟩ := by decide +kernel

-- R132's worked conversions, under RNE.
theorem test_conversions : (roundNarrow .bf16 (fmtValue .fp32 0x3DCCCCCD) .rne false 1).enc = 0x3DCD ∧
    (roundNarrow .e4m3 (.fin false 300 0 1) .rne false 1).enc = 0x79 ∧ (roundNarrow .e4m3 (.fin false 500 0 1) .rne false 1).enc = 0x7E ∧
    (roundNarrow .e4m3 (.fin false 500 0 1) .rne true 1).enc = 0x7F ∧ (roundNarrow .e5m2 (.fin false 1000 0 1) .rne false 1).enc = 0x64 ∧
    (roundNarrow .e5m2 (.fin false 70000 0 1) .rne true 1).enc = 0x7C ∧ (roundNarrow .e2m1 (.fin false 37 0 10) .rne false 1).enc = 0x6 ∧
    (roundNarrow .int8 (.fin true 401 (-1) 1) .rne false 1).enc = 0x80 ∧ (roundNarrow .int4 .nan .rne true 1).enc = 0 := by decide +kernel

/-- The values of R133's worked block. -/
def block133 : List Machine.Num := [.fin false 3 (-1) 1, .fin true 3 (-2) 1, .fin false 1 (-2) 1, .fin false 1 (-3) 1] ++ List.replicate 12 (.fin false 0 0 1)

theorem test_tint_block : (tintBlock .tn5 block133 .rne false 1).header = 0x7FFE ∧ tintPack .tn5 (tintBlock .tn5 block133 .rne false 1).elems = 0x112CC := by
  decide +kernel

-- R126's worked sums: 1 + 2^-31 is a tie and gives 1; 2^-30 + 1 is exact.
theorem test_sums : roundAW40 ((Machine.Num.fin false 1 0 1).add (.fin false 1 (-31) 1)) = roundAW40 (.fin false 1 0 1) ∧
    roundAW40 ((Machine.Num.fin false 1 (-30) 1).add (.fin false 1 0 1)) = roundAW40 (.fin false 1 0 1) + 1 := by decide +kernel

/-- Context 1 with 1.0 in every FP32 lane of v1. -/
def ones : State := issue 1 { run1 with v := wr (Vector.replicate 8 0) 1 (BitVec.ofNat 1024 (0x3F800000 * ((2 ^ 1024 - 1) / (2 ^ 32 - 1)))) } core1

-- R211: 1.0 + 1.0 in every lane; R220: the sum of 32 ones in every lane.
theorem test_vadd : (rd (leaves (.vadd ⟨.fp32, 2, v 1, v 1, none, false, .rne, false⟩) ones).v 2 0).toNat % 2 ^ 64 = 0x4000000040000000 := by decide +kernel

-- R181: a write to s0 is discarded.
theorem test_zero_register : gives (.movi ⟨0, 7⟩) (user 0 0 0) 0 = 0 := by decide +kernel
theorem test_vrsum : (rd (leaves (.vrsum ⟨.fp32, 2, v 1, none, false, .rne, false⟩) ones).v 2 0).toNat % 2 ^ 64 = 0x4200000042000000 := by decide +kernel

end Sys2Proof.Tests
end

section
/-! SUPPORT. States that have only gone on: their agenda, packets and order numbers have grown. The place of a run, and the sending
sides of the interfaces. -/

namespace Sys2Proof.Machine

/-! ## States that extend another's agenda -/

/-- Time stands still, and the agenda, the packets and the order numbers of `s` have at most grown. -/
structure State.Extends (s t : State) : Prop where
  cycle : t.cycle = s.cycle
  seq : s.seq ≤ t.seq
  agenda : ∀ p ∈ s.agenda, p ∈ t.agenda
  packets : ∀ q ∈ s.packets, q ∈ t.packets

theorem State.Extends.refl (s : State) : s.Extends s := ⟨rfl, Nat.le_refl _, fun _ h => h, fun _ h => h⟩

theorem State.Extends.trans {s t u : State} (h : s.Extends t) (g : t.Extends u) : s.Extends u :=
  ⟨g.cycle.trans h.cycle, h.seq.trans g.seq, fun p hp => g.agenda p (h.agenda p hp), fun q hq => g.packets q (h.packets q hq)⟩

/-- An update of other fields extends the agenda by nothing. -/
theorem State.Extends.of_eq {s t : State} (hc : t.cycle = s.cycle) (hs : t.seq = s.seq) (ha : t.agenda = s.agenda)
    (hp : t.packets = s.packets) : s.Extends t :=
  ⟨hc, hs.ge, fun _ h => ha ▸ h, fun _ h => hp ▸ h⟩

/-- A step that has been sent stays sent. -/
theorem State.Sent.extend {s t u : State} {lat : Nat} {ev : Instr} {arg : StepArg} (h : s.Sent t lat ev arg) (hx : t.Extends u) :
    s.Sent u lat ev arg := by
  obtain ⟨p, hp, hr⟩ := h
  exact ⟨p, hx.agenda p hp, hr⟩

/-- What a later state has sent, an earlier one has. -/
theorem State.Extends.sent {s f t : State} {lat : Nat} {ev : Instr} {arg : StepArg} (hx : s.Extends f) (h : f.Sent t lat ev arg) :
    s.Sent t lat ev arg := h.mono hx.cycle hx.seq

/-- A step that is due stays due. -/
theorem State.Due.extend {t u : State} {due : Nat} {ev : Instr} {arg : StepArg} (h : t.Due due ev arg) (hx : t.Extends u) :
    u.Due due ev arg := by
  obtain ⟨p, hp, hr⟩ := h
  exact ⟨p, hx.agenda p hp, hr⟩

/-- A packet that is on its way stays on its way. -/
theorem State.Carries.extend {s t u : State} {src dst len lat : Nat} {cn : Bool} {ev : Instr} {arg : StepArg}
    (h : s.Carries t src dst cn len lat ev arg) (hx : t.Extends u) : s.Carries u src dst cn len lat ev arg := by
  unfold State.Carries at h ⊢
  split at h <;> rename_i g
  · rw [if_pos g]
    exact State.Sent.extend h hx
  · rw [if_neg g]
    obtain ⟨p, hp, h1, h2, h3, h4, h5, h6, h7, h8, hs⟩ := h
    exact ⟨p, hx.packets p hp, h1, h2, h3, h4, h5, h6, h7, h8, hs.extend hx⟩

/-! ## States that only post steps -/

/-- `t` is `s` with steps posted and packets on their way, and nothing taken back. -/
structure State.Posted (s t : State) : Prop where
  only : s.PostsOnly t
  grows : s.Extends t

theorem State.Posted.refl (s : State) : s.Posted s := ⟨rfl, .refl s⟩

theorem State.Posted.trans {s t u : State} (h : s.Posted t) (g : t.Posted u) : s.Posted u :=
  ⟨h.only.trans g.only, h.grows.trans g.grows⟩

theorem State.Posted.ctxs {s t : State} (h : s.Posted t) : t.ctxs = s.ctxs := by rw [h.only]
theorem State.Posted.mem {s t : State} (h : s.Posted t) : t.mem = s.mem := by rw [h.only]
theorem State.Posted.dies {s t : State} (h : s.Posted t) : t.dies = s.dies := by rw [h.only]
theorem State.Posted.hostQueue {s t : State} (h : s.Posted t) : t.hostQueue = s.hostQueue := by rw [h.only]
theorem State.Posted.hostOut {s t : State} (h : s.Posted t) : t.hostOut = s.hostOut := by rw [h.only]

theorem State.post_posted (s : State) (due : Nat) (ev : Instr) (arg : StepArg) : s.Posted (s.post due ev arg) :=
  ⟨rfl, rfl, Nat.le_succ _, fun _ h => List.mem_cons_of_mem _ h, fun _ h => h⟩

theorem State.postIn_posted (s : State) (lat : Nat) (ev : Instr) (arg : StepArg) : s.Posted (s.postIn lat ev arg) :=
  ⟨rfl, rfl, Nat.le_succ _, fun _ h => List.mem_cons_of_mem _ h, fun _ h => h⟩

theorem State.notice_posted (s : State) (die : Nat) (n : Notice) : s.Posted (s.notice die n) :=
  ⟨rfl, rfl, Nat.le_succ _, fun _ h => List.mem_cons_of_mem _ h, fun _ h => h⟩

/-- A packet that leaves posts a step, and joins the packets where it is coded. -/
theorem State.carry_posted (s : State) (src dst : Nat) (cn : Bool) (len lat : Nat) (ev : Instr) (arg : StepArg) :
    s.Posted (s.carry src dst cn false len lat ev arg) := by
  refine ⟨State.carry_posts _ _ _ _ _ _ _ _ _, ?_⟩
  unfold State.carry
  split
  · exact (State.postIn_posted _ _ _ _).grows
  · exact ⟨rfl, by simp only [State.newId, State.post_seq]; omega, fun _ h => List.mem_cons_of_mem _ h,
      fun _ h => List.mem_cons_of_mem _ h⟩

/-- Steps that each post something post something together. -/
theorem State.foldl_posted {α : Type} {f : State → α → State} (h : ∀ (s : State) (a : α), s.Posted (f s a)) :
    ∀ (l : List α) (s : State), s.Posted (l.foldl f s)
  | [], s => .refl s
  | a :: l, s => (h s a).trans (State.foldl_posted h l (f s a))

/-- A step that is posted is due at its cycle. -/
theorem State.post_due (s : State) (due : Nat) (ev : Instr) (arg : StepArg) : (s.post due ev arg).Due due ev arg :=
  ⟨_, List.mem_cons_self .., rfl, rfl, rfl⟩

/-! ## The place of a run that is where it was -/

/-- A run in life at a context is placed there. -/
theorem State.place_here {s : State} {c : CtxId} {run : Nat} (hr : (s.ctx c).run = run) (hl : (s.ctx c).life ≠ .gated) :
    s.place c run = .at c := by
  unfold State.place
  rw [if_pos (by simp [hr, hl])]

/-- A change of a run at its place is a change of that context. -/
theorem State.modRun_here {s : State} {c : CtxId} {run : Nat} (f : Ctx → Ctx) (hr : (s.ctx c).run = run)
    (hl : (s.ctx c).life ≠ .gated) : s.modRun c run f = s.setCtx c (f (s.ctx c)) := by
  unfold State.modRun
  rw [State.place_here hr hl]
  rfl

/-- Of two replacements of a context the later counts. -/
@[simp] theorem State.setCtx_setCtx (s : State) (c : CtxId) (x y : Ctx) : (s.setCtx c x).setCtx c y = s.setCtx c y := by
  unfold State.setCtx
  simp only [SMap.set_set]

/-- A change of a run touches contexts and cloakrooms alone. -/
theorem State.modRun_frame (s : State) (c : CtxId) (run : Nat) (f : Ctx → Ctx) :
    s.modRun c run f = { s with ctxs := (s.modRun c run f).ctxs, octets := (s.modRun c run f).octets } := by
  unfold State.modRun
  split <;> rfl

/-! ## Sending sides (R146, R147) -/

/-- A sending side towards an interface names that interface. -/
theorem State.sendSide_names (s : State) (die n d : Nat) :
    (s.sendSide die n d).host = false ∧ (s.sendSide die n d).dnode = n ∧ (s.sendSide die n d).ddie = d := by
  unfold State.sendSide
  cases h : (s.die die).sends.find? fun (x : SendSide) => !x.host && x.dnode == n && x.ddie == d with
  | none => exact ⟨rfl, rfl, rfl⟩
  | some x => simpa [and_assoc] using List.find?_some h

/-- The host link's sending side towards a die names that die. -/
theorem State.hostSide_names (s : State) (n d : Nat) :
    (s.hostSide n d).host = true ∧ (s.hostSide n d).dnode = n ∧ (s.hostSide n d).ddie = d := by
  unfold State.hostSide
  cases h : (s.die 0).sends.find? fun (x : SendSide) => x.host && x.dnode == n && x.ddie == d with
  | none => exact ⟨rfl, rfl, rfl⟩
  | some x => simpa [and_assoc] using List.find?_some h

/-- A side that has been replaced is found again. -/
theorem State.sendSide_setSend {s : State} {die n d : Nat} {x : SendSide} (hh : x.host = false) (hn : x.dnode = n) (hd : x.ddie = d) :
    (s.setSend die x).sendSide die n d = x := by
  simp [State.sendSide, State.setSend, hh, hn, hd]

/-- The host link's side that has been replaced is found again. -/
theorem State.hostSide_setSend {s : State} {n d : Nat} {x : SendSide} (hh : x.host = true) (hn : x.dnode = n) (hd : x.ddie = d) :
    (s.setSend 0 x).hostSide n d = x := by
  simp [State.hostSide, State.setSend, hh, hn, hd]

/-- A sending side depends on its die's table alone. -/
theorem State.sendSide_congr {s t : State} {die : Nat} (h : (t.die die).sends = (s.die die).sends) (n d : Nat) :
    t.sendSide die n d = s.sendSide die n d := by
  unfold State.sendSide
  rw [h]

/-- The host link's sending side depends on die 0's table alone. -/
theorem State.hostSide_congr {s t : State} (h : (t.die 0).sends = (s.die 0).sends) (n d : Nat) : t.hostSide n d = s.hostSide n d := by
  unfold State.hostSide
  rw [h]

/-- Replacing a side changes no more of the dies than that table. -/
theorem State.die_setSend (s : State) (die : Nat) (x : SendSide) (d : Nat) :
    (s.setSend die x).die d = { s.die d with sends := ((s.setSend die x).die d).sends } := by
  unfold State.setSend
  by_cases h : d = die
  · subst h; simp
  · rw [State.modDie_eq, State.die_setDie_other _ _ _ _ h]

theorem State.setSend_frame (s : State) (die : Nat) (x : SendSide) : s.setSend die x = { s with dies := (s.setSend die x).dies } := rfl
theorem State.setSend_extends (s : State) (die : Nat) (x : SendSide) : s.Extends (s.setSend die x) := .of_eq rfl rfl rfl rfl

/-- The nodes' numbers depend on die 0's register alone. -/
theorem State.node_congr {s t : State} (h : (t.die 0).node = (s.die 0).node) : t.node = s.node := by
  unfold State.node
  rw [h]

/-- The connected ports depend on the dies' registers alone. -/
theorem State.ports_congr {s t : State} (h : ∀ d, (t.die d).ports = (s.die d).ports) : t.ports = s.ports := by
  unfold State.ports
  simp only [h]

@[simp] theorem State.setSend_node (s : State) (die : Nat) (x : SendSide) : (s.setSend die x).node = s.node :=
  State.node_congr (by rw [State.die_setSend])
@[simp] theorem State.setSend_ports (s : State) (die : Nat) (x : SendSide) : (s.setSend die x).ports = s.ports :=
  State.ports_congr fun d => by rw [State.die_setSend]

end Sys2Proof.Machine

end

section
/-! SUPPORT. How messages leave their die (R142 to R147): the ways of their fragments, and what an acceptance leaves. -/

namespace Sys2Proof.Machine

theorem exec_seatRequest (s : State) : exec .seatRequest s = execSeatRequest s := rfl

/-! ## The fragments of a message leave (R17, R145) -/

/-- The way of a fragment that leaves: the unloaded time of the first of its message, and its step; `none` without a port. -/
def State.wayOf (s : State) (die lat : Nat) (e : Env) (f : Frag) : Option (Nat × StepArg) :=
  if e.dnode = s.node then
    if crossings die e.ddie = 2 then
      some (lat - 12, { die := if f.frag % 2 = 0 then rowMate die else colMate die, n := 3, frag := f })
    else some (lat, { die := e.ddie, frag := f })
  else (s.ports[(e.seq % s.ports.length + f.frag) % s.ports.length]?).map fun p =>
    (12 * crossings die (p / 9), { die := p / 9, n := 1, frag := { f with port := some p } })

/-- A fragment leaves, so many cycles after the first. -/
def leave (q : State × Nat) (w : Option (Nat × StepArg)) : State × Nat :=
  (match w with
    | some (l, a) => q.1.postIn (l + q.2) .fragmentArrive a
    | none => q.1, q.2 + 1)

/-- A message's fragments leave on their ways, in order. -/
theorem State.spray_eq (s : State) (die lat : Nat) (e : Env) (fs : List Frag) :
    s.spray die lat e fs = ((fs.map (s.wayOf die lat e)).foldl leave (s, 0)).1 := by
  unfold State.spray
  rw [List.foldl_map]
  dsimp only
  congr 2
  funext q f
  unfold leave State.wayOf
  by_cases hn : e.dnode = s.node
  · by_cases hc : crossings die e.ddie = 2 <;> simp [hn, hc]
  · cases hp : s.ports[(e.seq % s.ports.length + f.frag) % s.ports.length]? <;> simp [hn]

/-- Fragments that leave one a cycle are each sent, the later ones later. -/
theorem leaves_sent : ∀ (ws : List (Option (Nat × StepArg))) (s : State) (i : Nat),
    s.Posted (ws.foldl leave (s, i)).1 ∧
    ∀ (j l : Nat) (a : StepArg), ws[j]? = some (some (l, a)) → s.Sent (ws.foldl leave (s, i)).1 (l + (i + j)) .fragmentArrive a
  | [], s, i => ⟨.refl s, by simp⟩
  | w :: ws, s, i => by
    have hp : s.Posted (leave (s, i) w).1 := by
      cases w with
      | none => exact .refl s
      | some w => exact State.postIn_posted _ _ _ _
    obtain ⟨ih, ihs⟩ := leaves_sent ws (leave (s, i) w).1 (i + 1)
    refine ⟨hp.trans ih, fun j l a h => ?_⟩
    cases j with
    | zero =>
      obtain rfl : w = some (l, a) := by simpa using h
      exact (State.postIn_sent s (l + i) .fragmentArrive a).extend ih.grows
    | succ j =>
      have := hp.grows.sent (ihs j l a (by simpa using h))
      rwa [show i + 1 + j = i + (j + 1) by omega] at this

/-- Each fragment of a message leaves on its way, a cycle after the one before. -/
theorem State.spray_sent (s : State) (die lat : Nat) (e : Env) (fs : List Frag) :
    s.Posted (s.spray die lat e fs) ∧
    ∀ (j : Nat) f l a, fs[j]? = some f → s.wayOf die lat e f = some (l, a) →
      s.Sent (s.spray die lat e fs) (l + j) .fragmentArrive a := by
  rw [State.spray_eq]
  obtain ⟨hp, hs⟩ := leaves_sent (fs.map (s.wayOf die lat e)) s 0
  refine ⟨hp, fun j f l a hf hw => ?_⟩
  have := hs j l a (by simp [hf, hw])
  rwa [Nat.zero_add] at this

/-! ## Messages are accepted (R145 to R147) -/

/-- What an acceptance leaves of all but its sending side: steps are posted. -/
structure State.AcceptFrame (s t : State) : Prop where
  only : t = { s with agenda := t.agenda, seq := t.seq, fresh := t.fresh, packets := t.packets, dies := t.dies }
  dies : ∀ d, t.die d = { s.die d with sends := (t.die d).sends }
  grows : s.Extends t

/-- A sending side after a message has taken a seat of it. -/
def SendSide.taken (x : SendSide) (rest : List Nat) (z : BusySeat) : SendSide :=
  { x with idle := rest, seq := (x.seq + 1) % 2 ^ 32, busy := x.busy ++ [z] }

/-- A message as it takes a seat and the next sequence of its sending side (R143, R146, R147). -/
def State.stamped (s : State) (die : Nat) (e : Env) (r : Nat × Nat) (len seat : Nat) : Env :=
  { e with snode := s.node, sdie := die, seq := (s.sendSide die e.dnode e.ddie).seq, seat := seat, k := kOf r.1 len, m := r.2, len := len }

/-- With a seat at hand, a message takes it, and its fragments leave. -/
theorem State.sendMessage_eq {s : State} {die : Nat} {e : Env} (r : Nat × Nat) (bs : List Byte) (lat : Nat) {seat : Nat}
    {rest : List Nat} (hh : e.host = false) (hi : (s.sendSide die e.dnode e.ddie).idle = seat :: rest) :
    ∃ z : BusySeat, z.seat = seat ∧ z.seq = (s.sendSide die e.dnode e.ddie).seq ∧ z.fol = (e.cls == 2 && e.fol) ∧
      s.sendMessage die e r bs lat = some ((s.setSend die ((s.sendSide die e.dnode e.ddie).taken rest z)).spray die lat
        (s.stamped die e r bs.length seat) ((s.stamped die e r bs.length seat).fragments bs)) := by
  have hq : s.sideOf die e = s.sendSide die e.dnode e.ddie := by unfold State.sideOf; rw [hh]; rfl
  unfold State.sendMessage
  dsimp only
  rw [hq, hi]
  exact ⟨{ seat := seat, seq := _, first := _, tag := _, fol := _ }, rfl, rfl, rfl, rfl⟩

/-- With a seat at hand, a message is accepted. -/
theorem State.sendMessage_accepted {s : State} {die : Nat} {e : Env} (r : Nat × Nat) (bs : List Byte) (lat : Nat) {seat : Nat}
    {rest : List Nat} (hh : e.host = false) (hi : (s.sendSide die e.dnode e.ddie).idle = seat :: rest) :
    ∃ t, s.sendMessage die e r bs lat = some t ∧ s.Accepted t die e r bs lat seat rest ∧ s.AcceptFrame t := by
  obtain ⟨z, hz, hzs, hzf, he⟩ := State.sendMessage_eq r bs lat hh hi
  generalize hm : s.stamped die e r bs.length seat = m at he
  generalize hv : s.setSend die ((s.sendSide die e.dnode e.ddie).taken rest z) = v at he
  have hseq : m.seq = (s.sendSide die e.dnode e.ddie).seq := by rw [← hm]; rfl
  have hdn : m.dnode = e.dnode := by rw [← hm]; rfl
  have hdd : m.ddie = e.ddie := by rw [← hm]; rfl
  have hx : s.Extends v := hv ▸ State.setSend_extends _ _ _
  have hnode : v.node = s.node := by rw [← hv, State.setSend_node]
  have hports : v.ports = s.ports := by rw [← hv, State.setSend_ports]
  obtain ⟨hp, hs⟩ := v.spray_sent die lat m (m.fragments bs)
  obtain ⟨hqh, hqn, hqd⟩ := s.sendSide_names die e.dnode e.ddie
  have hside : (v.spray die lat m (m.fragments bs)).sendSide die e.dnode e.ddie =
      (s.sendSide die e.dnode e.ddie).taken rest z := by
    rw [State.sendSide_congr (s := v) (by unfold State.die; rw [hp.dies]), ← hv]
    exact State.sendSide_setSend hqh hqn hqd
  refine ⟨_, he, ?_, ?_, fun d => ?_, hx.trans hp.grows⟩
  · unfold State.Accepted
    dsimp only
    rw [hside]
    refine ⟨rfl, rfl, ⟨z, hz, hzs, hzf, rfl⟩, fun j f hf => ?_⟩
    have hf' : (m.fragments bs)[j]? = some f := by rw [← hm]; exact hf
    refine ⟨fun hn hc => hx.sent (hs j f lat _ hf' ?_), fun hn hc => hx.sent (hs j f (lat - 12) _ hf' ?_),
      fun p hn hport => hx.sent (hs j f (12 * crossings die (p / 9)) _ hf' ?_)⟩
    · rw [State.wayOf, hnode, hdn, hdd, if_pos hn, if_neg hc]
    · rw [State.wayOf, hnode, hdn, hdd, if_pos hn, if_pos hc]
    · rw [State.wayOf, hnode, hdn, if_neg hn, hports, hseq, hport]
      rfl
  · rw [hp.only, ← hv]
    rfl
  · have h := State.die_setSend s die ((s.sendSide die e.dnode e.ddie).taken rest z) d
    rw [hv] at h
    have hd : (v.spray die lat m (m.fragments bs)).die d = v.die d := by unfold State.die; rw [hp.dies]
    rw [hd]
    exact h

/-- Without a seat, no message is accepted. -/
theorem State.sendMessage_none {s : State} {die : Nat} {e : Env} (r : Nat × Nat) (bs : List Byte) (lat : Nat)
    (hh : e.host = false) (hi : (s.sendSide die e.dnode e.ddie).idle = []) : s.sendMessage die e r bs lat = none := by
  have hq : s.sideOf die e = s.sendSide die e.dnode e.ddie := by unfold State.sideOf; rw [hh]; rfl
  unfold State.sendMessage
  dsimp only
  rw [hq, hi]

/-- An acceptance still holds when steps have been posted since, and sides have stayed. -/
theorem State.Accepted.extend {s t u : State} {die : Nat} {e : Env} {r : Nat × Nat} {bs : List Byte} {lat seat : Nat} {rest : List Nat}
    (h : s.Accepted t die e r bs lat seat rest) (hx : t.Extends u) (hs : (u.die die).sends = (t.die die).sends) :
    s.Accepted u die e r bs lat seat rest := by
  unfold State.Accepted at h ⊢
  dsimp only at h ⊢
  rw [State.sendSide_congr hs]
  obtain ⟨h1, h2, h3, h4⟩ := h
  refine ⟨h1, h2, h3, fun j f hf => ?_⟩
  obtain ⟨ha, hb, hc⟩ := h4 j f hf
  exact ⟨fun hn hd => (ha hn hd).extend hx, fun hn hd => (hb hn hd).extend hx, fun p hn hp => (hc p hn hp).extend hx⟩

/-- What a later state with the same dies has accepted, an earlier one has. -/
theorem State.Accepted.after {s f t : State} {die : Nat} {e : Env} {r : Nat × Nat} {bs : List Byte} {lat seat : Nat} {rest : List Nat}
    (hx : s.Extends f) (hd : f.dies = s.dies) (h : f.Accepted t die e r bs lat seat rest) : s.Accepted t die e r bs lat seat rest := by
  have hdie : ∀ d, f.die d = s.die d := fun d => by unfold State.die; rw [hd]
  unfold State.Accepted at h ⊢
  dsimp only at h ⊢
  rw [State.sendSide_congr (s := s) (t := f) (by rw [hdie]), State.node_congr (s := s) (t := f) (by rw [hdie]),
    State.ports_congr (s := s) (t := f) fun d => by rw [hdie]] at h
  obtain ⟨h1, h2, h3, h4⟩ := h
  refine ⟨h1, h2, h3, fun j f hf => ?_⟩
  obtain ⟨ha, hb, hc⟩ := h4 j f hf
  exact ⟨fun hn hd => hx.sent (ha hn hd), fun hn hd => hx.sent (hb hn hd), fun p hn hp => hx.sent (hc p hn hp)⟩

/-! ## What a send waits for -/

/-- The order that the interface keeps between a die's messages (R113, R149). -/
theorem State.mustTrail_iff (s : State) (die cls dnode ddie : Nat) :
    s.mustTrail die cls dnode ddie = true ↔ s.Trails die cls dnode ddie := by
  unfold State.mustTrail State.Trails
  simp [and_assoc]

/-- The order that a relaxed access keeps to one before it on another node (R106). -/
theorem State.mustWait_iff (s : State) (a : Access) : s.mustWait a = true ↔ s.FollowsOther a := by
  unfold State.mustWait State.FollowsOther Access.Before
  simp [and_assoc]

/-- Where no effect bit is still to be set, none is. -/
theorem State.NoEffectBit.setEb {s : State} {c : CtxId} {run : Nat} (h : s.NoEffectBit c run) : s.setEb c run = s := by
  unfold State.setEb
  cases hx : s.runCtx c run with
  | none => rfl
  | some x => exact if_pos (by simpa using h x hx)

/-! ## The ways of a send (R146, R147, R265, R273, R283) -/

/-- A sender that waits for its send at its place goes on. -/
theorem State.sendDone_eq {s : State} {a : Access} (hr : (s.ctx a.who).run = a.run) (hl : (s.ctx a.who).life ≠ .gated)
    (hs : (s.ctx a.who).relFault = none) (hk : a.kind.isCwait = false) (hx : a.rx = false) (hw : (s.ctx a.who).wait = .hold a.id) :
    s.sendDone a = s.setCtx a.who { s.ctx a.who with wait := .none, plain := .none } := by
  have hy : ∀ y : Ctx, y.accDone a = { y with plain := .none } := fun y => by unfold Ctx.accDone; rw [hk, hx]; rfl
  obtain ⟨x, he⟩ : ∃ x, x = { s.ctx a.who with wait := .none } := ⟨_, rfl⟩
  obtain ⟨y, hf⟩ : ∃ y, y = { s.ctx a.who with wait := .none, plain := .none } := ⟨_, rfl⟩
  have hxr : x.run = a.run ∧ x.life ≠ .gated := by rw [he]; exact ⟨hr, hl⟩
  have hyr : y.run = a.run ∧ y.life ≠ .gated ∧ y.relFault = none := by rw [hf]; exact ⟨hr, hl, hs⟩
  have h1 : (s.modRun a.who a.run fun y => if y.wait == .hold a.id then { y with wait := .none } else y) = s.setCtx a.who x := by
    rw [State.modRun_here _ hr hl, if_pos (by rw [hw]; exact beq_self_eq_true _), he]
  have h2 : (s.setCtx a.who x).modRun a.who a.run (fun y => y.accDone a) = s.setCtx a.who y := by
    rw [State.modRun_here _ (by rw [State.ctx_setCtx_same]; exact hxr.1) (by rw [State.ctx_setCtx_same]; exact hxr.2),
      State.ctx_setCtx_same, State.setCtx_setCtx, hy, he, hf]
  have h3 : (s.setCtx a.who y).place a.who a.run = .at a.who :=
    State.place_here (by rw [State.ctx_setCtx_same]; exact hyr.1) (by rw [State.ctx_setCtx_same]; exact hyr.2.1)
  have h4 : (s.setCtx a.who y).settle a.who = s.setCtx a.who y := by
    unfold State.settle
    rw [State.ctx_setCtx_same]
    simp only [hyr.2.2]
  unfold State.sendDone State.accEnd
  rw [h1, h2, ← hf]
  dsimp only
  rw [h3]
  exact h4

/-- A request for a block goes out where none is out and fewer than 64 seats are held. -/
theorem State.askSeats_sent {s : State} {r : SeatReq} (ha : (s.sendSide r.die r.dnode r.ddie).asked = false)
    (hn : (s.sendSide r.die r.dnode r.ddie).idle.length + (s.sendSide r.die r.dnode r.ddie).busy.length < 64) :
    ((s.askSeats r).sendSide r.die r.dnode r.ddie).asked = true ∧
    s.Sent (s.askSeats r) (12 * crossings r.die r.ddie) .seatRequest
      { seat := r, n := 2, die := r.ddie, env := { snode := s.node, sdie := r.die, dnode := r.dnode, ddie := r.ddie } } := by
  obtain ⟨hh, hd, he⟩ := s.sendSide_names r.die r.dnode r.ddie
  unfold State.askSeats
  dsimp only
  rw [if_neg (by simp only [ha, Bool.false_or, decide_eq_true_eq]; omega)]
  refine ⟨?_, (State.setSend_extends _ _ _).sent (State.postIn_sent _ _ _ _)⟩
  have := State.sendSide_setSend (s := s) (die := r.die) (x := { s.sendSide r.die r.dnode r.ddie with asked := true }) hh hd he
  exact congrArg SendSide.asked this

/-- A request for a block changes no more than the sending sides and the agenda. -/
theorem State.askSeats_frame (s : State) (r : SeatReq) :
    (s.askSeats r).ctxs = s.ctxs ∧ (s.askSeats r).mem = s.mem := by
  unfold State.askSeats
  dsimp only
  split <;> exact ⟨rfl, rfl⟩

end Sys2Proof.Machine

end

section
/-! The acceptance of sends and of accesses to other nodes (R97, R106, R113, R142 to R147, R273, R283). -/

namespace Sys2Proof.Machine

/-- The sender of an access goes on, with its access done; other contexts and memory are as before. -/
def State.GoesOn (s t : State) (a : Access) : Prop :=
  t.ctx a.who = { s.ctx a.who with wait := .none, plain := .none } ∧ (∀ c : CtxId, c.key ≠ a.who.key → t.ctx c = s.ctx c) ∧
    t.mem = s.mem

/-- A send whose messages are accepted: its sender waits for it, plainly at its place. -/
structure State.Sending (s : State) (a : Access) : Prop where
  plainly : s.Plainly a.who a.run
  noCwait : a.kind.isCwait = false
  noRx : a.rx = false
  wait : (s.ctx a.who).wait = .hold a.id

/-- Once its messages are accepted, a sender goes on. -/
theorem State.Sending.goesOn {s t : State} {a : Access} (h : s.Sending a) (hc : t.ctxs = s.ctxs) (hm : t.mem = s.mem) :
    s.GoesOn (t.sendDone a) a ∧ (∀ d, (t.sendDone a).die d = t.die d) ∧ t.Extends (t.sendDone a) := by
  obtain ⟨⟨_, ⟨hr, hl, _⟩, _, _, _, hs⟩, hk, hx, hw⟩ := h
  have e : ∀ c, t.ctx c = s.ctx c := fun c => by unfold State.ctx; rw [hc]
  rw [State.sendDone_eq (by rw [e]; exact hr) (by rw [e]; exact hl) (by rw [e]; exact hs) hk hx (by rw [e]; exact hw), e]
  exact ⟨⟨State.ctx_setCtx_same _ _ _, fun c h => (State.ctx_setCtx_other _ _ _ _ h).trans (e c), hm⟩, fun _ => rfl, .of_eq rfl rfl rfl rfl⟩

/-- A message that does not leave its die lies decoded in a slot, and comes to delivery (R145). -/
theorem State.sendOwn_slot (s : State) (die : Nat) (e : Env) (bs : List Byte) (lat : Nat) :
    let t := s.sendOwn die e bs lat
    t.ctxs = s.ctxs ∧ t.mem = s.mem ∧ ∃ y : DSlot, (t.die die).slots = (s.die die).slots ++ [y] ∧ y.decoded = true ∧ y.data = bs ∧
      y.env.body = e.body ∧ y.env.cls = e.cls ∧ y.env.fol = e.fol ∧ y.env.sender = e.sender ∧ y.missed = none ∧
      s.Sent t lat .deliver { die := die, id := y.seat } := by
  refine ⟨rfl, rfl, { seat := 4096 + s.seq, env := { e with snode := s.node, sdie := die, len := bs.length, seat := 4096 + s.seq, seq := s.seq }
                      order := s.seq, decoded := true, data := bs }, ?_, rfl, rfl, rfl, rfl, rfl, rfl, rfl, ?_⟩
  · unfold State.sendOwn
    rw [State.die_postIn, State.modDie_eq, State.die_setDie_same]
    rfl
  · exact ⟨_, List.mem_cons_self .., Nat.le_add_right _ _, rfl, rfl, Nat.le_succ _⟩

/-- A sender on its own die goes on, and its message lies in a slot. -/
theorem State.Sending.sendOwn_done {s : State} {a : Access} (h : s.Sending a) (die : Nat) (e : Env) (bs : List Byte) (lat : Nat) :
    let t := (s.sendOwn die e bs lat).sendDone a
    s.GoesOn t a ∧ ∃ y : DSlot, (t.die die).slots = (s.die die).slots ++ [y] ∧ y.decoded = true ∧ y.data = bs ∧
      y.env.body = e.body ∧ y.env.cls = e.cls ∧ y.env.fol = e.fol ∧ y.env.sender = e.sender ∧ y.missed = none ∧
      s.Sent t lat .deliver { die := die, id := y.seat } := by
  obtain ⟨hc, hm, y, hy, h1, h2, h3, h4, h5, h6, h7, h8⟩ := s.sendOwn_slot die e bs lat
  obtain ⟨hg, hdies, hext⟩ := h.goesOn hc hm
  exact ⟨hg, y, by rw [hdies, hy], h1, h2, h3, h4, h5, h6, h7, h8.extend hext⟩

section
variable {s : State} {a : Access} {bs : List Byte} {fol : Bool} {cls : Nat} {body : MsgBody} {dnode ddie : Nat}

/-- A message that must follow another waits a cycle (R113). -/
theorem State.acceptSend_trails (hb : s.NoEffectBit a.who a.run) (h : s.Trails (dieOf a.who.core) cls (s.nodeOf dnode) ddie) :
    s.acceptSend a bs fol cls body dnode ddie = s.post (s.cycle + 1) .seatRequest s.arg := by
  unfold State.acceptSend
  simp only [hb.setEb]
  rw [if_pos ((State.mustTrail_iff _ _ _ _ _).2 h)]

/-- On its own die, a message is accepted without a seat, and lies decoded in a slot. -/
theorem State.acceptSend_own (hs : s.Sending a) (hb : s.NoEffectBit a.who a.run)
    (h : ¬ s.Trails (dieOf a.who.core) cls (s.nodeOf dnode) ddie) (hh : s.isHere dnode = true) (hd : ddie = dieOf a.who.core) :
    ∃ lat t, (∀ i, body = .record i → lat = 28) ∧ (∀ w, body = .write w → lat = s.oneWay a.who.core w) ∧
      s.acceptSend a bs fol cls body dnode ddie = t ∧ s.GoesOn t a ∧
      ∃ y : DSlot, (t.die (dieOf a.who.core)).slots = (s.die (dieOf a.who.core)).slots ++ [y] ∧ y.decoded = true ∧ y.data = bs ∧
        y.env.body = body ∧ y.env.cls = cls ∧ y.env.fol = fol ∧ y.env.sender = .ctx a.who ∧ y.missed = none ∧
        s.Sent t lat .deliver { die := dieOf a.who.core, id := y.seat } := by
  unfold State.acceptSend
  simp only [hb.setEb]
  rw [if_neg (by rwa [State.mustTrail_iff]), if_pos (by unfold State.needsSeat; simp [hh, hd])]
  refine ⟨_, _, ?_, ?_, rfl, hs.sendOwn_done _ _ _ _⟩
  · exact fun i hi => by rw [hi]
  · exact fun w hw => by rw [hw]

variable (ho : ¬ (s.isHere dnode = true ∧ ddie = dieOf a.who.core))
include ho

/-- A message that leaves its die goes when it has a seat, and its sender goes on (R146). -/
theorem State.acceptSend_seat (hs : s.Sending a) (hb : s.NoEffectBit a.who a.run)
    (h : ¬ s.Trails (dieOf a.who.core) cls (s.nodeOf dnode) ddie)
    (hl : bs.length ≤ maxMessage (s.rate (dieOf a.who.core) (trafficOf (s.isHere dnode) cls body)).1) {seat : Nat} {rest : List Nat}
    (hi : (s.sendSide (dieOf a.who.core) (s.nodeOf dnode) ddie).idle = seat :: rest) :
    ∃ lat t, (∀ i, body = .record i → lat = 26 + 30 * crossings (dieOf a.who.core) ddie) ∧
      ((∀ i, body ≠ .record i) → lat = 12 * crossings (dieOf a.who.core) ddie) ∧
      s.acceptSend a bs fol cls body dnode ddie = t ∧ s.GoesOn t a ∧
      s.Accepted t (dieOf a.who.core)
        { dnode := s.nodeOf dnode, ddie := ddie, cls := cls, fol := fol, body := body, sender := .ctx a.who, acc := a }
        (s.rate (dieOf a.who.core) (trafficOf (s.isHere dnode) cls body)) bs lat seat rest := by
  have hn : s.needsSeat (dieOf a.who.core) dnode ddie = true := by
    unfold State.needsSeat
    rwa [Bool.not_eq_true', ← Bool.not_eq_true, Bool.and_eq_true, beq_iff_eq]
  unfold State.acceptSend
  simp only [hb.setEb]
  rw [if_neg (by rwa [State.mustTrail_iff]), if_neg (by simp [hn]), List.take_of_length_le hl, List.drop_eq_nil_of_le hl]
  choose t ht hacc hf using fun lat => State.sendMessage_accepted (s.rate (dieOf a.who.core) (trafficOf (s.isHere dnode) cls body)) bs lat
    (e := { dnode := s.nodeOf dnode, ddie := ddie, cls := cls, fol := fol, body := body, sender := .ctx a.who, acc := a }) rfl hi
  rw [ht]
  have hg := fun lat => hs.goesOn (t := t lat) (by rw [(hf lat).only]) (by rw [(hf lat).only])
  refine ⟨_, _, fun i hr => by rw [hr], fun hr => ?_, rfl, (hg _).1,
    (hacc _).extend (hg _).2.2 (congrArg Die.sends ((hg _).2.1 _))⟩
  cases body with
  | record i => exact absurd rfl (hr i)
  | _ => rfl

/-- A message that leaves its die and has no seat waits, and a block is asked for (R146). -/
theorem State.acceptSend_ask (hb : s.NoEffectBit a.who a.run) (h : ¬ s.Trails (dieOf a.who.core) cls (s.nodeOf dnode) ddie)
    (hi : (s.sendSide (dieOf a.who.core) (s.nodeOf dnode) ddie).idle = []) :
    s.acceptSend a bs fol cls body dnode ddie =
      (s.askSeats { die := dieOf a.who.core, dnode := s.nodeOf dnode, ddie := ddie }).post (s.cycle + 1) .seatRequest s.arg := by
  have hn : s.needsSeat (dieOf a.who.core) dnode ddie = true := by
    unfold State.needsSeat
    rwa [Bool.not_eq_true', ← Bool.not_eq_true, Bool.and_eq_true, beq_iff_eq]
  unfold State.acceptSend
  simp only [hb.setEb]
  rw [if_neg (by rwa [State.mustTrail_iff]), if_neg (by simp [hn]), State.sendMessage_none _ _ _ rfl hi]

end

/-! ## An access that leaves for another node (R97, R106) -/

/-- An access that must follow another waits a cycle. -/
theorem State.sendRemote_follows {s : State} {a : Access} (h : s.FollowsOther a) :
    s.sendRemote a = s.post (s.cycle + 1) .seatRequest s.arg := by
  unfold State.sendRemote
  rw [if_pos ((State.mustWait_iff _ _).2 h)]

/-- With a seat, an access to another node leaves as a message, and its reply will find it by its tag. -/
theorem State.sendRemote_seat {s : State} {a : Access} (hb : s.NoEffectBit a.who a.run) (h : ¬ s.FollowsOther a) {seat : Nat}
    {rest : List Nat}
    (hi : (s.sendSide (dieOf a.who.core) (bits a.addr.toNat 59 48) (State.remoteDie a.who.core a.addr)).idle = seat :: rest) :
    let die := dieOf a.who.core
    let t := s.sendRemote a
    t.ctxs = s.ctxs ∧ t.mem = s.mem ∧ (t.die die).remote = (s.die die).remote ++ [{ tag := s.seq, acc := a }] ∧
      s.Accepted t die { dnode := bits a.addr.toNat 59 48, ddie := State.remoteDie a.who.core a.addr, cls := 1, body := .request s.seq
                         sender := .ctx a.who, acc := a } (s.rate die .fo) (natBytes a.addr.toNat 8 ++ a.kind.payload) 0 seat rest := by
  obtain ⟨f, hf⟩ : ∃ f : State, f = { s with seq := s.seq + 1 } := ⟨_, rfl⟩
  have hx : s.Extends f := by rw [hf]; exact ⟨rfl, Nat.le_succ _, fun _ h => h, fun _ h => h⟩
  have hd : f.dies = s.dies := by rw [hf]
  have he : ∀ d, f.die d = s.die d := fun d => by unfold State.die; rw [hd]
  have hi' : (f.sendSide (dieOf a.who.core) (bits a.addr.toNat 59 48) (State.remoteDie a.who.core a.addr)).idle = seat :: rest := by
    rw [State.sendSide_congr (s := s) (t := f) (by rw [he])]
    exact hi
  obtain ⟨t, ht, hacc, hfr⟩ := State.sendMessage_accepted (s := f) (f.rate (dieOf a.who.core) .fo)
    (natBytes a.addr.toNat 8 ++ a.kind.payload) 0
    (e := { dnode := bits a.addr.toNat 59 48, ddie := State.remoteDie a.who.core a.addr, cls := 1, body := .request s.seq
            sender := .ctx a.who, acc := a }) rfl hi'
  have hsend : s.sendRemote a =
      t.modDie (dieOf a.who.core) fun d => { d with remote := d.remote ++ [{ tag := s.seq, acc := a }] } := by
    unfold State.sendRemote
    rw [if_neg (by rwa [State.mustWait_iff])]
    simp only [hb.setEb, ite_self, State.newId, ← hf, ht]
  have hr : f.rate (dieOf a.who.core) .fo = s.rate (dieOf a.who.core) .fo := by unfold State.rate; rw [he]
  have hacc' := State.Accepted.after hx hd hacc
  dsimp only
  rw [hsend]
  refine ⟨?_, ?_, ?_, (hr ▸ hacc').extend (.of_eq rfl rfl rfl rfl) ?_⟩
  · rw [State.modDie_eq, State.setDie_ctxs, hfr.only, hf]
  · rw [State.modDie_eq, State.setDie_mem, hfr.only, hf]
  · rw [State.modDie_eq, State.die_setDie_same, hfr.dies, he]
  · rw [State.modDie_eq, State.die_setDie_same]

/-! ## The claim about acceptance -/

theorem acceptance_claim : Claims.Acceptance := by
  rintro s a rfl _
  refine ⟨?_, ?_⟩
  · intro n fol cls body dnode ddie hn hk hx hp hb hw
    have he : exec .seatRequest s =
        .next (s.acceptSend s.arg.acc s.arg.frag.data fol cls body dnode ddie) := by
      rw [exec_seatRequest]
      unfold execSeatRequest
      simp only [hn, hk]
    have hs : s.Sending s.arg.acc := ⟨hp, by rw [hk]; rfl, hx, hw⟩
    rw [he]
    refine ⟨fun ht => ?_, fun ht hh hd => ?_, fun ht ho => ⟨fun seat rest hi hl => ?_, fun hi => ?_⟩⟩
    · rw [State.acceptSend_trails hb ht]
    · obtain ⟨lat, t, hrec, hwr, hacc, hg, y, hy, h1, h2, h3, h4, h5, h6, h7, h8⟩ :=
        State.acceptSend_own (bs := s.arg.frag.data) (fol := fol) (body := body) hs hb ht hh hd
      refine ⟨t, y, by rw [hacc], hg, hy, h1, h2, h3, h4, h5, h6, h7, fun ⟨i, hi⟩ => ?_, fun w hi => ?_⟩
      · rwa [hrec i hi] at h8
      · rwa [hwr w hi] at h8
    · obtain ⟨lat, t, hrec, hoth, hacc, hg, ha⟩ := State.acceptSend_seat (fol := fol) ho hs hb ht hl hi
      refine ⟨t, by rw [hacc], hg, ?_⟩
      cases body with
      | record i => rwa [hrec i rfl] at ha
      | _ => rwa [hoth (by simp)] at ha
    · have hx := State.post_posted (s.askSeats { die := dieOf s.arg.acc.who.core, dnode := s.nodeOf dnode, ddie := ddie })
        (s.cycle + 1) .seatRequest s.arg
      obtain ⟨hc, hm⟩ := s.askSeats_frame { die := dieOf s.arg.acc.who.core, dnode := s.nodeOf dnode, ddie := ddie }
      rw [State.acceptSend_ask ho hb ht hi]
      refine ⟨_, rfl, hc, hm, State.post_due _ _ _ _, fun ha hl => ?_⟩
      obtain ⟨h1, h2⟩ := State.askSeats_sent (r := { die := dieOf s.arg.acc.who.core, dnode := s.nodeOf dnode, ddie := ddie }) ha
        (by rw [hi]; simpa using hl)
      exact ⟨h1, h2.extend hx.grows⟩
  · intro hn hb
    have he : exec .seatRequest s = .next (s.sendRemote s.arg.acc) := by
      rw [exec_seatRequest]
      unfold execSeatRequest
      simp only [hn]
    rw [he]
    refine ⟨fun hf => by rw [State.sendRemote_follows hf], fun seat rest hf hi => ?_⟩
    exact ⟨_, rfl, State.sendRemote_seat hb hf hi⟩

end Sys2Proof.Machine

end

section
/-! Blocks of seats: their requests, answers and leases (R146, R284, R394). -/

namespace Sys2Proof.Machine

theorem exec_seatLeaseExpire (s : State) : exec .seatLeaseExpire s = execSeatLeaseExpire s := rfl

/-! ## Requests for blocks (R146, R394) -/

/-- The blocks that a source interface has leased from a die. -/
def Die.leased (d : Die) (e : Env) : List Lease := d.leases.filter fun (l : Lease) => l.from' e

/-- A die's lease of a block to a source interface. -/
def State.leaseTo (s : State) (e : Env) (seats : List Nat) : Lease :=
  { snode := e.snode, sdie := e.sdie, host := e.host, seats := seats, last := s.cycle }

/-- A die has no free block when every block is leased. -/
theorem Die.freeBlock_none {d : Die} (h : ∀ b, b < 512 → ∃ l ∈ d.leases, 8 * b ∈ l.seats) : d.freeBlock = none := by
  unfold Die.freeBlock
  rw [List.find?_eq_none]
  intro b hb
  simpa using h b (by simpa using hb)

/-- The block that a die leases is its lowest free one. -/
theorem Die.freeBlock_some {d : Die} {b : Nat} (hb : b < 512) (hf : ∀ l ∈ d.leases, 8 * b ∉ l.seats)
    (hl : ∀ k, k < b → ∃ l ∈ d.leases, 8 * k ∈ l.seats) : d.freeBlock = some b := by
  unfold Die.freeBlock
  rw [List.find?_range_eq_some]
  exact ⟨by simpa using hf, by simpa using hb, fun k hk => by simpa using hl k hk⟩

/-- A request of a reset sender, of one with eight blocks, or of any where none is free, is declined. -/
theorem State.grantSeats_declined {s : State} {die : Nat} {e : Env}
    (h : (∃ l ∈ (s.die die).leased e, l.void = true) ∨ 8 ≤ ((s.die die).leased e).length ∨
      ∀ b, b < 512 → ∃ l ∈ (s.die die).leases, 8 * b ∈ l.seats) : s.grantSeats die e = (s, []) := by
  unfold State.grantSeats
  dsimp only
  split
  · rfl
  · rename_i hn
    rcases h with h | h | h
    · exact absurd (Bool.or_eq_true_iff.2 (.inl (List.any_eq_true.2 h))) hn
    · exact absurd (Bool.or_eq_true_iff.2 (.inr (decide_eq_true h))) hn
    · rw [Die.freeBlock_none h]

/-- Another request takes the lowest free block. -/
theorem State.grantSeats_granted {s : State} {die : Nat} {e : Env} {b : Nat} (hv : ¬ ∃ l ∈ (s.die die).leased e, l.void = true)
    (h8 : ¬ 8 ≤ ((s.die die).leased e).length) (hf : (s.die die).freeBlock = some b) :
    s.grantSeats die e = ((s.setDie die { s.die die with leases := s.leaseTo e ((List.range 8).map fun i => 8 * b + i) :: (s.die die).leases }).post
      (s.cycle + 2 ^ 20) .seatLeaseExpire { die := die, id := 8 * b }, (List.range 8).map fun i => 8 * b + i) := by
  unfold State.grantSeats
  dsimp only
  rw [if_neg, hf]
  · rfl
  · rw [Bool.or_eq_true, List.any_eq_true, decide_eq_true_eq]
    exact not_or.2 ⟨hv, h8⟩

/-- What a request for a block does at its destination: the answer leaves for a sender of this device. -/
theorem exec_seatRequest_grant {s : State} (hn : s.arg.n = 2) (hd : s.arg.env.dnode = s.node) :
    let g := s.grantSeats s.arg.die s.arg.env
    let e := s.arg.env
    ∃ t, exec .seatRequest s = .next t ∧ g.1.Posted t ∧ (e.snode = s.node → e.host = false →
      g.1.Sent t (12 * crossings s.arg.die e.sdie) .seatRequest
        { seat := s.arg.seat, n := 3, die := e.sdie, env := e, words := g.2.map fun i => BitVec.ofNat 64 i }) := by
  dsimp only
  rw [exec_seatRequest]
  unfold execSeatRequest
  simp only [hn]
  rw [if_neg (by simp [hd])]
  split
  · rename_i h
    refine ⟨_, rfl, .refl _, fun h1 h2 => ?_⟩
    simp [h1, h2] at h
  · exact ⟨_, rfl, State.postIn_posted _ _ _ _, fun _ _ => State.postIn_sent _ _ _ _⟩

/-- A change of a run at its place leaves dies and memory. -/
theorem State.seatAnswer_frame (s : State) (l : Late) : (s.seatAnswer l).mem = s.mem ∧ (s.seatAnswer l).dies = s.dies := by
  unfold State.seatAnswer
  rw [State.modRun_frame]
  exact ⟨rfl, rfl⟩

/-- The answer lets a MSEAT that waits for it at its place issue. -/
theorem State.seatAnswer_waiter {s : State} {l : Late} {i : Nat} (hr : (s.ctx l.who).run = l.run) (hl : (s.ctx l.who).life ≠ .gated)
    (hw : (s.ctx l.who).wait = .hold i) : (s.seatAnswer l).ctx l.who = { s.ctx l.who with wait := .none, seated := true } := by
  unfold State.seatAnswer
  rw [State.modRun_here _ hr hl, State.ctx_setCtx_same, hw]

/-- A sending side with the seats of an answer. -/
def SendSide.answered (x : SendSide) (l : List Nat) : SendSide := { x with idle := x.idle ++ l, asked := false }

/-- What the answer does at the sender: its side takes the seats, and a MSEAT that waits for it may go on. -/
theorem exec_seatRequest_answer {s : State} (hn : s.arg.n = 3) :
    let r := s.arg.seat
    let v := s.setSend r.die ((s.sendSide r.die r.dnode r.ddie).answered (s.arg.words.map (·.toNat)))
    exec .seatRequest s = .next (r.waiter.elim v v.seatAnswer) := by
  dsimp only
  rw [exec_seatRequest]
  unfold execSeatRequest
  simp only [hn]
  cases s.arg.seat.waiter <;> rfl

/-! ## Leases (R146, R394) -/

/-- The sending side of this device that holds the seats of a lease. -/
def State.holder (s : State) (die : Nat) (l : Lease) : SendSide :=
  if l.host then s.hostSide s.node die else s.sendSide l.sdie s.node die

/-- Whether a lease is in use: a message lies in a slot of it, or is on its way in a seat of it from this device. -/
def State.leaseUsed (s : State) (die : Nat) (l : Lease) : Bool :=
  ((s.die die).slots.any fun (y : DSlot) => l.seats.contains y.seat) ||
    (l.snode == s.node && (s.holder die l).busy.any fun (z : BusySeat) => l.seats.contains z.seat)

theorem State.leaseUsed_iff (s : State) (die : Nat) (l : Lease) : s.leaseUsed die l = true ↔
    (∃ y ∈ (s.die die).slots, y.seat ∈ l.seats) ∨ (l.snode = s.node ∧ ∃ z ∈ (s.holder die l).busy, z.seat ∈ l.seats) := by
  unfold State.leaseUsed
  simp

/-- A die without its leases: they have ended. -/
def Die.unleased (d : Die) : Die := { d with leases := [] }

/-- A sending side with no more of its free seats than a test keeps. -/
def SendSide.keeping (x : SendSide) (p : Nat → Bool) : SendSide := { x with idle := x.idle.filter p }

/-- What becomes of a die's only lease: it is looked at again later, or ends. -/
theorem exec_seatLeaseExpire_eq {s : State} {l : Lease} (hn : s.arg.n = 0) (hl : (s.die s.arg.die).leases = [l])
    (hid : s.arg.id ∈ l.seats) (hv : l.void = false) :
    let v := s.setDie s.arg.die (s.die s.arg.die).unleased
    exec .seatLeaseExpire s = .next (
      if s.cycle < l.last + 2 ^ 20 then s.post (l.last + 2 ^ 20) .seatLeaseExpire s.arg
      else if s.leaseUsed s.arg.die l then s.post (s.cycle + 2 ^ 20) .seatLeaseExpire s.arg
      else if l.snode == s.node then v.setSend l.sdie ((s.holder s.arg.die l).keeping fun i => !l.seats.contains i) else v) := by
  have hf : [l].filter (fun (m : Lease) => !m.seats.contains s.arg.id) = [] := by simp [hid]
  rw [exec_seatLeaseExpire]
  unfold execSeatLeaseExpire
  simp only [hn, hl, hf]
  rw [if_neg (by decide), List.find?_cons_of_pos (by simpa using hid)]
  simp only [hv, Bool.not_false, Bool.true_and, Bool.false_eq_true, if_false]
  split
  · rfl
  · split
    · rename_i hu
      rw [if_pos (show s.leaseUsed s.arg.die l = true from hu)]
    · rename_i hu
      rw [if_neg (show ¬ s.leaseUsed s.arg.die l = true from hu)]
      split <;> rfl

/-- The seats that another node's interface takes back. -/
theorem exec_seatLeaseExpire_back {s : State} (hn : s.arg.n = 1) :
    exec .seatLeaseExpire s = .next (s.setSend s.arg.die ((s.sendSide s.arg.die s.arg.env.dnode s.arg.env.ddie).keeping
      fun i => !(s.arg.words.any fun w => w.toNat == i))) := by
  rw [exec_seatLeaseExpire]
  unfold execSeatLeaseExpire
  simp only [hn]
  exact if_pos rfl

/-- A number is that of a word in a list exactly where it fits a word and its word is there. -/
theorem any_toNat_eq (ws : List Word) (i : Nat) :
    (!(ws.any fun w => w.toNat == i)) = decide (BitVec.ofNat 64 i ∉ ws ∨ 2 ^ 64 ≤ i) := by
  rw [Bool.eq_iff_iff, Bool.not_eq_true', ← Bool.not_eq_true, List.any_eq_true, decide_eq_true_eq, ← Nat.not_lt, ← not_and_or, not_iff_not]
  constructor
  · rintro ⟨w, hw, h⟩
    obtain rfl := eq_of_beq h
    exact ⟨by simpa using hw, w.isLt⟩
  · rintro ⟨hw, h⟩
    exact ⟨_, hw, by rw [BitVec.toNat_ofNat, Nat.mod_eq_of_lt h, beq_self_eq_true]⟩

/-! ## The claim about seats -/

theorem seats_claim : Claims.Seats := by
  intro s
  refine ⟨fun hn hd => ⟨fun h => ?_, fun h b hb hf hl => ?_⟩, fun hn => ?_, fun hn => ?_,
    fun l hn hl hid hv hh => ⟨fun h => ?_, fun h hu => ?_, fun h hu => ?_⟩⟩
  · obtain ⟨t, ht, hp, ha⟩ := exec_seatRequest_grant hn hd
    rw [State.grantSeats_declined h] at hp ha
    exact ⟨t, ht, by unfold State.die; rw [hp.dies], ha, hp.mem⟩
  · obtain ⟨t, ht, hp, ha⟩ := exec_seatRequest_grant hn hd
    obtain ⟨hv, h'⟩ := not_or.1 h
    rw [State.grantSeats_granted hv (not_or.1 h').1 (Die.freeBlock_some hb hf hl)] at hp ha
    generalize hu : s.setDie s.arg.die _ = u at hp ha
    have hx : s.Extends u := hu ▸ .of_eq rfl rfl rfl rfl
    have hg := u.post_posted (s.cycle + 2 ^ 20) .seatLeaseExpire { die := s.arg.die, id := 8 * b }
    refine ⟨t, ht, fun h1 h2 => (hx.trans hg.grows).sent (ha h1 h2), ?_, ?_, (State.post_due _ _ _ _).extend hp.grows⟩
    · rw [hp.mem, hg.mem, ← hu, State.setDie_mem]
    · unfold State.die
      rw [hp.dies, hg.dies, ← hu]
      exact congrArg Die.leases (State.die_setDie_same _ _ _)
  · obtain ⟨hh, hd, he⟩ := s.sendSide_names s.arg.seat.die s.arg.seat.dnode s.arg.seat.ddie
    rw [exec_seatRequest_answer hn]
    generalize hq : (s.sendSide _ _ _).answered _ = q
    have hside : (s.setSend s.arg.seat.die q).sendSide s.arg.seat.die s.arg.seat.dnode s.arg.seat.ddie = q := by
      rw [← hq]
      exact State.sendSide_setSend hh hd he
    cases hw : s.arg.seat.waiter with
    | none =>
      refine ⟨_, rfl, rfl, ?_, ?_, ?_, fun _ => rfl, fun l i h => nomatch hw.symm.trans h⟩
        <;> dsimp only [Option.elim] <;> rw [hside, ← hq] <;> rfl
    | some l =>
      obtain ⟨hm, hdies⟩ := (s.setSend s.arg.seat.die q).seatAnswer_frame l
      have hside' : ((s.setSend s.arg.seat.die q).seatAnswer l).sendSide s.arg.seat.die s.arg.seat.dnode s.arg.seat.ddie = q :=
        (State.sendSide_congr (by unfold State.die; rw [hdies]) _ _).trans hside
      refine ⟨_, rfl, hm, ?_, ?_, ?_, fun h => (nomatch hw.symm.trans h), fun m i h hp hwait => ?_⟩
      · rw [Option.elim, hside', ← hq]; rfl
      · rw [Option.elim, hside', ← hq]; rfl
      · rw [Option.elim, hside', ← hq]; rfl
      · obtain rfl : l = m := Option.some.inj (hw.symm.trans h)
        exact State.seatAnswer_waiter (s := s.setSend s.arg.seat.die q) hp.1 hp.2.1 hwait
  · obtain ⟨hh, hd, he⟩ := s.sendSide_names s.arg.die s.arg.env.dnode s.arg.env.ddie
    rw [exec_seatLeaseExpire_back hn]
    refine ⟨_, rfl, rfl, rfl, ?_⟩
    rw [State.sendSide_setSend (x := SendSide.keeping _ _) hh hd he]
    simp only [SendSide.keeping, any_toNat_eq]
  · rw [exec_seatLeaseExpire_eq hn hl hid hv, if_pos h]
  · rw [exec_seatLeaseExpire_eq hn hl hid hv, if_neg (by omega), if_pos ((State.leaseUsed_iff _ _ _).2 hu)]
  · rw [exec_seatLeaseExpire_eq hn hl hid hv, if_neg (by omega), if_neg (fun h => hu ((State.leaseUsed_iff _ _ _).1 h))]
    have hq : (s.holder s.arg.die l).host = l.host ∧ (s.holder s.arg.die l).dnode = s.node ∧ (s.holder s.arg.die l).ddie = s.arg.die := by
      unfold State.holder
      cases l.host
      · exact s.sendSide_names _ _ _
      · exact s.hostSide_names _ _
    generalize hx : (s.holder s.arg.die l).keeping _ = x
    by_cases hm : l.snode = s.node
    · rw [if_pos (by simpa using hm)]
      refine ⟨_, rfl, rfl, rfl, ?_, fun _ => ?_⟩
      · rw [State.die_setSend]
        exact congrArg Die.leases (State.die_setDie_same _ _ _)
      · have hxq : x.host = l.host ∧ x.dnode = s.node ∧ x.ddie = s.arg.die := hx ▸ hq
        have hside : ∀ v : State, (if l.host then (v.setSend l.sdie x).hostSide s.node s.arg.die
            else (v.setSend l.sdie x).sendSide l.sdie s.node s.arg.die) = x := by
          intro v
          split
          · rename_i hl
            rw [hh hl]
            exact State.hostSide_setSend (hxq.1.trans hl) hxq.2.1 hxq.2.2
          · rename_i hl
            exact State.sendSide_setSend (hxq.1.trans (by simpa using hl)) hxq.2.1 hxq.2.2
        rw [hside, ← hx]
        simp [SendSide.keeping, State.holder]
    · rw [if_neg (by simpa using hm)]
      exact ⟨_, rfl, rfl, rfl, congrArg Die.leases (State.die_setDie_same _ _ _), fun h => absurd h hm⟩
/-- Settles O48, from what an acceptance leaves of its sending side and what a block of seats goes through. -/
theorem messageAcceptance : Obligations.MessageAcceptance := ⟨acceptance_claim, seats_claim⟩

end Sys2Proof.Machine

end

section
/-! SUPPORT. Bytes and numbers, and the stores of the host (R114, R152). -/

namespace Sys2Proof.Machine

/-! ## Bytes and their number -/

/-- Bytes that fit their number come back from it. -/
theorem natBytes_bytesNat : ∀ bs : List Byte, natBytes (bytesNat bs) bs.length = bs
  | [] => rfl
  | b :: bs => by
    have h : BitVec.ofNat 8 (b.toNat + 256 * bytesNat bs) = b := BitVec.eq_of_toNat_eq (by rw [BitVec.toNat_ofNat]; omega)
    rw [List.length_cons, bytesNat, natBytes, h, show (b.toNat + 256 * bytesNat bs) / 256 = bytesNat bs by omega,
      natBytes_bytesNat bs]

/-- The number of bytes is bounded by how many they are. -/
theorem bytesNat_lt : ∀ bs : List Byte, bytesNat bs < 256 ^ bs.length
  | [] => by decide
  | b :: bs => by
    have := bytesNat_lt bs
    rw [List.length_cons, bytesNat, Nat.pow_succ]
    omega

/-- A dword's eight bytes come back from it. -/
theorem natBytes_dword {bs : List Byte} (h : bs.length = 8) : natBytes (BitVec.ofNat 64 (bytesNat bs)).toNat 8 = bs := by
  have := bytesNat_lt bs
  rw [h] at this
  rw [BitVec.toNat_ofNat, Nat.mod_eq_of_lt (by simpa using this)]
  conv_lhs => rw [← h]
  exact natBytes_bytesNat bs

/-- Bytes are those of their groups of eight. -/
theorem flatMap_eights (bs : List Byte) : ∀ n, (List.range n).flatMap (fun j => (bs.drop (8 * j)).take 8) = bs.take (8 * n)
  | 0 => rfl
  | n + 1 => by
    rw [List.range_succ, List.flatMap_append, flatMap_eights bs n, List.flatMap_singleton, Nat.mul_succ, List.take_add]

/-! ## The dwords of a doorbell (R152) -/

/-- A write that covers a dword gives it its bytes. -/
theorem mergeDword_covered {old : Word} {base off : Nat} {data : List Byte} (h1 : off ≤ base) (h2 : base + 8 ≤ off + data.length) :
    mergeDword old base off data = BitVec.ofNat 64 (bytesNat ((data.drop (base - off)).take 8)) := by
  unfold mergeDword
  congr 2
  apply List.ext_getElem
  · simp only [List.length_map, List.length_range, List.length_take, List.length_drop]
    omega
  · intro j hj _
    have hj : j < 8 := by simpa using hj
    have hd : base + j - off < data.length := by omega
    simp only [List.getElem_map, List.getElem_range, List.getElem_take, List.getElem_drop]
    rw [if_pos (by simp; omega), List.getD_eq_getElem?_getD, List.getElem?_eq_getElem hd, Option.getD_some]
    congr 1
    omega

/-- A dword of what a list of numbered dwords has for each number is what it has for its own. -/
theorem dbDword_filterMap (g : Nat → Option (Nat × Word)) (hg : ∀ j p, g j = some p → p.1 = j) (m : Nat) :
    ∀ n, dbDword ((List.range n).filterMap g) m = if m < n then ((g m).map (·.2)).getD 0 else 0 := by
  have hp : ∀ n, ((List.range n).filterMap g).find? (fun p => p.1 == m) = if m < n then g m else none := by
    intro n
    induction n with
    | zero => rfl
    | succ n ih =>
      rw [List.range_succ, List.filterMap_append, List.find?_append, ih, List.filterMap_cons, List.filterMap_nil]
      rcases Nat.lt_trichotomy m n with h | h | h
      · rw [if_pos h, if_pos (by omega)]
        cases hgm : g m with
        | some p => rfl
        | none =>
          cases hgn : g n with
          | none => rfl
          | some p => simp [hg n p hgn, show n ≠ m by omega]
      · subst h
        rw [if_neg (by omega), if_pos (by omega)]
        cases hgm : g m with
        | none => rfl
        | some p => simp [hg m p hgm]
      · rw [if_neg (by omega), if_neg (by omega)]
        cases hgn : g n with
        | none => rfl
        | some p => simp [hg n p hgn, show n ≠ m by omega]
  intro n
  unfold dbDword
  rw [hp]
  split <;> rfl

/-- Whether a write reaches a dword of a doorbell. -/
def doorbellHit (i off len j : Nat) : Bool := off < 64 * i + 8 * j + 8 && 64 * i + 8 * j < off + len

/-- What has accumulated at a doorbell after a write. -/
def doorbellNew (old : List (Nat × Word)) (i off : Nat) (data : List Byte) : List (Nat × Word) :=
  (List.range 8).filterMap fun j =>
    if doorbellHit i off data.length j then some (j, mergeDword (dbDword old j) (64 * i + 8 * j) off data)
    else old.find? fun p => p.1 == j

/-- Each dword of a doorbell is merged with the write that reaches it, and stays as it is under another. -/
theorem dbDword_doorbellNew (old : List (Nat × Word)) (i off : Nat) (data : List Byte) {m : Nat} (hm : m < 8) :
    dbDword (doorbellNew old i off data) m =
      if doorbellHit i off data.length m then mergeDword (dbDword old m) (64 * i + 8 * m) off data else dbDword old m := by
  unfold doorbellNew
  rw [dbDword_filterMap, if_pos hm]
  · split <;> rfl
  · intro j p h
    split at h
    · rw [← Option.some.inj h]
    · simpa using List.find?_some h

/-- A write below dword 7 is kept. -/
theorem State.doorbell_kept {s : State} {i off : Nat} {data : List Byte} (h : doorbellHit i off data.length 7 = false) :
    s.doorbell i off data = { s with doorbells := s.doorbells.set i (doorbellNew (s.doorbells.get i []) i off data) } := by
  unfold State.doorbell
  exact if_pos (show (!doorbellHit i off data.length 7) = true by rw [h]; rfl)

/-- A write of dword 7 makes what has accumulated a record, or is dropped and counted. -/
theorem State.doorbell_rung {s : State} {i off : Nat} {data : List Byte} (h : doorbellHit i off data.length 7 = true) :
    let u : State := { s with doorbells := s.doorbells.set i [] }
    let bytes := (List.range 8).flatMap fun j => natBytes (dbDword (doorbellNew (s.doorbells.get i []) i off data) j).toNat 8
    s.doorbell i off data =
      if bitAt (memReadN s.mem (s.inboxKey i) 8) 63 && bitAt (memReadN s.mem (s.inboxKey i) 8) 61 then
        u.post s.cycle .seatRequest
          { n := 7, env := { dnode := s.node, host := true, cls := 0, body := .record i, sender := .host }, frag := { data := bytes } }
      else { u with prefect := { s.prefect with dropped := s.prefect.dropped + 1 } } := by
  unfold State.doorbell
  dsimp only
  rw [if_neg (by unfold doorbellHit at h; rw [h]; simp)]
  unfold State.rd8
  rw [show State.inboxKey { s with doorbells := s.doorbells.set i [] } i = s.inboxKey i from rfl]
  cases bitAt (memReadN s.mem (s.inboxKey i) 8) 63 && bitAt (memReadN s.mem (s.inboxKey i) 8) 61 <;> rfl

/-- A write within one doorbell reaches that doorbell. -/
theorem State.hostBar0_one {s : State} {i off : Nat} {data : List Byte} (h1 : 64 * i ≤ off) (h2 : off + data.length ≤ 64 * i + 64)
    (hd : 0 < data.length) (hi : i < 4096) : s.hostBar0 off data = s.doorbell i off data := by
  have he : data.isEmpty = false := by simpa [List.isEmpty_iff] using List.ne_nil_of_length_pos hd
  unfold State.hostBar0
  dsimp only
  rw [if_neg (by simp [he]), show off / 64 = i by omega, show (off + data.length - 1) / 64 + 1 - i = 1 by omega]
  simp [hi]

/-- The record that a whole write to a doorbell makes has the bytes of the write. -/
theorem doorbellNew_whole (old : List (Nat × Word)) (i : Nat) {bs : List Byte} (hl : bs.length = 64) :
    ((List.range 8).flatMap fun j => natBytes (dbDword (doorbellNew old i (64 * i) bs) j).toNat 8) = bs := by
  have h : ∀ j ∈ List.range 8, natBytes (dbDword (doorbellNew old i (64 * i) bs) j).toNat 8 = (bs.drop (8 * j)).take 8 := by
    intro j hj
    have hj : j < 8 := List.mem_range.1 hj
    rw [dbDword_doorbellNew _ _ _ _ hj, if_pos (by unfold doorbellHit; simp; omega), mergeDword_covered (by omega) (by omega),
      Nat.add_sub_cancel_left]
    exact natBytes_dword (by rw [List.length_take, List.length_drop]; omega)
  rw [List.flatMap_congr h, flatMap_eights, List.take_of_length_le (by omega)]

end Sys2Proof.Machine

end

section
/-! The host's accesses (R21, R114, R146, R152, R373). -/

namespace Sys2Proof.Machine

theorem exec_hostDoorbellWrite (s : State) : exec .hostDoorbellWrite s = execHostDoorbellWrite s := rfl
theorem exec_hostBar2Access (s : State) : exec .hostBar2Access s = execHostBar2Access s := rfl

/-! ## BAR 0 (R114, R152) -/

/-- An access of the host to BAR 0 follows what it has posted before. -/
theorem exec_hostDoorbellWrite_waits {s : State} (hn : s.arg.n = 0) (hq : s.hostQueue ≠ []) :
    exec .hostDoorbellWrite s = .next (s.hostWaits .hostDoorbellWrite) := by
  rw [exec_hostDoorbellWrite]
  unfold execHostDoorbellWrite
  rw [if_pos (by simpa [hn, List.isEmpty_iff] using hq)]

/-- An access of the host to BAR 2 follows what it has posted before. -/
theorem exec_hostBar2Access_waits {s : State} (hn : s.arg.n = 0) (hq : s.hostQueue ≠ []) :
    exec .hostBar2Access s = .next (s.hostWaits .hostBar2Access) := by
  rw [exec_hostBar2Access]
  unfold execHostBar2Access
  simp only [hn]
  rw [if_pos (by simpa [List.isEmpty_iff] using hq)]

/-- A read of BAR 0 gives zeros. -/
theorem exec_hostDoorbellWrite_read {s : State} {p n : Nat} (hn : s.arg.n = 0) (hq : s.hostQueue = []) (hr : s.arg.host = .read p n) :
    exec .hostDoorbellWrite s = .next { s with hostOut := s.hostOut ++ [(s.arg.id, List.replicate n 0)] } := by
  rw [exec_hostDoorbellWrite]
  unfold execHostDoorbellWrite
  simp only [hn, hq, hr]
  rfl

/-- A doorbell keeps the operands of the step. -/
theorem State.doorbell_arg (s : State) (i off : Nat) (data : List Byte) : (s.doorbell i off data).arg = s.arg := by
  cases h : doorbellHit i off data.length 7 with
  | false => rw [State.doorbell_kept h]
  | true =>
    rw [State.doorbell_rung h]
    split <;> rfl

/-- A write within one doorbell that nothing of the host goes before reaches it. -/
theorem exec_hostDoorbellWrite_one {s : State} {i off : Nat} {bs : List Byte} (hn : s.arg.n = 0) (hq : s.hostQueue = [])
    (hw : s.arg.host = .write off bs) (h1 : 64 * i ≤ off) (h2 : off + bs.length ≤ 64 * i + 64) (hd : 0 < bs.length) (hi : i < 4096) :
    exec .hostDoorbellWrite s = .next (s.doorbell i off bs) := by
  rw [exec_hostDoorbellWrite]
  unfold execHostDoorbellWrite
  simp only [hn, hq, hw, State.hostBar0_one h1 h2 hd hi, State.doorbell_arg]
  rfl

section
variable {s : State} {i : Nat} {bs : List Byte}

/-- The host's records for an inbox leave by the host link's side towards die 0. -/
theorem State.sideOf_host {e : Env} (hh : e.host = true) (hn : e.dnode = s.node) (hd : e.ddie = 0) :
    s.sideOf 0 e = s.hostSide s.node 0 := by
  unfold State.sideOf
  rw [if_pos hh, hn, hd]

/-- A sender that has a free seat, or 64 messages on their way, asks for no block. -/
theorem State.leaseNow_none {s : State} {die : Nat} {e : Env} (h : (s.sideOf die e).idle ≠ [] ∨ 64 ≤ (s.sideOf die e).busy.length) :
    s.leaseNow die e = s := by
  unfold State.leaseNow
  dsimp only
  rw [if_pos]
  simpa [List.isEmpty_iff] using h

/-- A record of the host takes a seat of the host link at die 0, and a sequence of its own (R146, R152). -/
theorem State.hostRecord_seat {seat : Nat} {rest : List Nat} (hi : (s.hostSide s.node 0).idle = seat :: rest) :
    let e : Env := { dnode := s.node, host := true, body := .record i, sender := .host }
    let q := s.hostSide s.node 0
    let t := s.hostRecord e bs
    t.ctxs = s.ctxs ∧ t.mem = s.mem ∧ (∃ y : DSlot, (t.die 0).slots = (s.die 0).slots ++ [y] ∧ y.decoded = true ∧ y.data = bs ∧
      y.env.body = .record i ∧ y.env.host = true ∧ y.env.cls = 0 ∧ y.seat = seat ∧ y.env.seq = q.seq) ∧
      t.hostSide s.node 0 = q.taken rest { seat := seat, seq := q.seq } ∧ s.Sent t 0 .deliver { die := 0, id := seat } := by
  obtain ⟨hh, hn, hd'⟩ := s.hostSide_names s.node 0
  have hl : s.leaseNow 0 { dnode := s.node, host := true, body := .record i, sender := .host } = s :=
    State.leaseNow_none (.inl (by rw [State.sideOf_host rfl rfl rfl, hi]; simp))
  dsimp only
  unfold State.hostRecord
  dsimp only
  rw [hl, State.sideOf_host rfl rfl rfl, hi]
  dsimp only [State.newId]
  generalize hx : ({ s.hostSide s.node 0 with idle := rest, seq := _, busy := _ } : SendSide) = x
  generalize hf : ({ s with seq := s.seq + 1 } : State) = f
  have hd : ∀ d, f.die d = s.die d := fun d => by rw [← hf]; rfl
  have hside : (f.setSend 0 x).hostSide s.node 0 = x := by
    rw [← hx]
    exact State.hostSide_setSend hh hn hd'
  refine ⟨by rw [← hf]; rfl, by rw [← hf]; rfl, ⟨
    { seat := seat
      env := { dnode := s.node, host := true, body := .record i, sender := .host, snode := f.node, sdie := 0,
               seq := (s.hostSide s.node 0).seq, seat := seat, len := bs.length }
      order := s.seq, decoded := true, data := bs }, ?_, rfl, rfl, rfl, rfl, rfl, rfl, rfl⟩, ?_, ?_⟩
  · rw [State.die_postIn, State.modDie_eq, State.die_setDie_same, State.die_setSend, hd]
  · rw [State.hostSide_congr (s := f.setSend 0 x) (by rw [State.die_postIn, State.modDie_eq, State.die_setDie_same]), hside, ← hx]
    rfl
  · exact ⟨_, List.mem_cons_self .., by rw [← hf]; exact Nat.le_add_right _ _, rfl, rfl, by rw [← hf]; exact Nat.le_succ _⟩

/-- Without a seat, and with 64 records on their way, a record of the host waits. -/
theorem State.hostRecord_waits (hi : (s.hostSide s.node 0).idle = []) (hb : 64 ≤ (s.hostSide s.node 0).busy.length) :
    s.hostRecord { dnode := s.node, host := true, body := .record i, sender := .host } bs = s.post (s.cycle + 1) .seatRequest s.arg := by
  have hl : s.leaseNow 0 { dnode := s.node, host := true, body := .record i, sender := .host } = s :=
    State.leaseNow_none (.inr (by rwa [State.sideOf_host rfl rfl rfl]))
  unfold State.hostRecord
  dsimp only
  rw [hl, State.sideOf_host rfl rfl rfl, hi]

end

/-! ## BAR 2 (R21, R114, R152) -/

/-- A host's access of `n` bytes from `p` lies in device memory. -/
theorem HostOp.span_read {p n : Nat} (h : p + n ≤ 2 ^ 40) : (HostOp.read p n).span = (p, n) := by
  unfold HostOp.span
  simp only [Prod.mk.injEq, true_and]
  omega

theorem HostOp.span_write {p : Nat} {bs : List Byte} (h : p + bs.length ≤ 2 ^ 40) : (HostOp.write p bs).span = (p, bs.length) := by
  unfold HostOp.span
  simp only [Prod.mk.injEq, true_and]
  omega

/-- The die of a byte of device memory. -/
theorem physDie_mod {p : Nat} (h : p < 2 ^ 40) : physDie p % 4 = p / 2 ^ 38 := by
  unfold physDie
  omega

/-- The unloaded time of a host's packet is no shorter than its way. -/
theorem State.le_hostLat (s : State) (src dst n : Nat) : 24 * crossings src dst ≤ s.hostLat src dst n := by
  unfold State.hostLat
  omega

/-- The bytes of a host's access that cross to the die of its bank beside its header. -/
def HostOp.carried (h : HostOp) : Nat :=
  match h with
  | .read _ _ => 0
  | .write _ _ => h.span.2

/-- An access of the host whose turn has come, or that nothing of the host goes before, takes its turn at die 0 or crosses to the
die of its bank. -/
theorem exec_hostBar2Access_goes {s : State} (hn : s.arg.n = 4 ∨ (s.arg.n = 0 ∧ s.hostQueue = [])) :
    ∃ u : State, u = { s with hostQueue := u.hostQueue } ∧ u.hostQueue.drop 1 = s.hostQueue.drop 1 ∧
      exec .hostBar2Access s = .next (if physDie s.arg.host.span.1 % 4 = 0 then u.hostTurn
        else u.carry 0 (physDie s.arg.host.span.1 % 4) false false (16 + s.arg.host.carried)
          (u.hostLat 0 (physDie s.arg.host.span.1 % 4) s.arg.host.carried) .hostBar2Access { s.arg with n := 1 }) := by
  rw [exec_hostBar2Access]
  unfold execHostBar2Access
  rcases hn with hn | ⟨hn, hq⟩
  · refine ⟨s, rfl, rfl, ?_⟩
    simp only [hn]
    by_cases h : physDie s.arg.host.span.1 % 4 = 0
    · simp only [h]; rfl
    · simp only [beq_eq_false_iff_ne.2 h, if_neg h]; rfl
  · refine ⟨s.hostWaits .hostBar2Access, rfl, by simp [State.hostWaits, hq], ?_⟩
    simp only [hn, hq]
    by_cases h : physDie s.arg.host.span.1 % 4 = 0
    · simp only [h]; rfl
    · simp only [beq_eq_false_iff_ne.2 h, if_neg h]; rfl

/-- An access of the host to the bank of another die crosses to that die. -/
theorem exec_hostBar2Access_crosses {s : State} {p n : Nat} (hs : s.arg.host.span = (p, n)) (hp : p < 2 ^ 40) (hf : 0 < p / 2 ^ 38)
    (hn : s.arg.n = 4 ∨ (s.arg.n = 0 ∧ s.hostQueue = [])) :
    ∃ t lat, exec .hostBar2Access s = .next t ∧ t.ctxs = s.ctxs ∧ t.mem = s.mem ∧ 24 * crossings 0 (p / 2 ^ 38) ≤ lat ∧
      s.Carries t 0 (p / 2 ^ 38) false (16 + s.arg.host.carried) lat .hostBar2Access { s.arg with n := 1 } := by
  obtain ⟨u, hu, _, he⟩ := exec_hostBar2Access_goes hn
  rw [hs, physDie_mod hp, if_neg (by omega)] at he
  have hc := u.carry_posted 0 (p / 2 ^ 38) false (16 + s.arg.host.carried) (u.hostLat 0 (p / 2 ^ 38) s.arg.host.carried)
    .hostBar2Access { s.arg with n := 1 }
  refine ⟨_, u.hostLat 0 (p / 2 ^ 38) s.arg.host.carried, he, by rw [hc.ctxs, hu], by rw [hc.mem, hu], u.le_hostLat _ _ _, ?_⟩
  exact (State.carry_carries u _ _ _ _ _ _ _).mono (by rw [hu]) (by rw [hu]) (by rw [hu])

/-- The next access of the host is posted. -/
theorem State.hostNext_posted (s : State) : s.Posted s.hostNext := by
  unfold State.hostNext
  split
  · exact .refl s
  · exact State.post_posted _ _ _ _

/-- Once an access of the host has been performed, it leaves the queue, and the next is posted. -/
theorem State.hostDone_leaves (s : State) :
    s.hostDone.ctxs = s.ctxs ∧ s.hostDone.mem = s.mem ∧ s.hostDone.hostOut = s.hostOut ∧
      s.hostDone.hostQueue = s.hostQueue.drop 1 ∧ s.Extends s.hostDone := by
  have h : ({ s with hostQueue := s.hostQueue.drop 1 } : State).Posted s.hostDone := State.hostNext_posted _
  exact ⟨h.ctxs, h.mem, h.hostOut, h.hostQueue,
    State.Extends.trans (t := { s with hostQueue := s.hostQueue.drop 1 }) (.of_eq rfl rfl rfl rfl) h.grows⟩

/-- A bank whose keys are all free takes an operation now (R94). -/
theorem State.bankTakes_now {s : State} {ks : List Nat} (h : ∀ k ∈ ks, s.bankFrom k ≤ s.cycle) : (s.bankTakes ks).1 = s.cycle := by
  have hf : ∀ l : List Nat, (∀ k ∈ l, s.bankFrom k ≤ s.cycle) → l.foldl (fun c k => max c (s.bankFrom k)) s.cycle = s.cycle := by
    intro l
    induction l with
    | nil => exact fun _ => rfl
    | cons k l ih =>
      intro hl
      rw [List.foldl_cons, Nat.max_eq_left (hl k (List.mem_cons_self ..))]
      exact ih fun j hj => hl j (List.mem_cons_of_mem _ hj)
  unfold State.bankTakes
  exact hf _ fun k hk => h k (List.mem_filter.1 hk).1

/-- An access of the host that has its banks is performed at once. -/
theorem State.hostTurn_now {s : State} {p n : Nat} (hs : s.arg.host.span = (p, n))
    (hb : s.arg.slot = true ∨ ∀ i, i < n → s.bankFrom (p + i) ≤ s.cycle) :
    ∃ u : State, u = { s with banks := u.banks } ∧ s.hostTurn = u.hostPerform.hostDone := by
  have hf : s.arg.slot = false → (s.bankTakes ((List.range ((n + 255) / 256)).map (fun i => p + 256 * i) ++
      if n == 0 then [] else [p + n - 1])).1 = s.cycle := by
    intro hslot
    have hb : ∀ i, i < n → s.bankFrom (p + i) ≤ s.cycle := hb.resolve_left (by simp [hslot])
    refine State.bankTakes_now fun k hk => ?_
    rcases List.mem_append.1 hk with hk | hk
    · obtain ⟨i, hi, rfl⟩ := List.mem_map.1 hk
      exact hb _ (by have := List.mem_range.1 hi; omega)
    · split at hk
      · simp at hk
      · rename_i h0
        have h0 : n ≠ 0 := by simpa using h0
        obtain rfl : k = p + n - 1 := by simpa using hk
        rw [show p + n - 1 = p + (n - 1) by omega]
        exact hb _ (by omega)
  unfold State.hostTurn
  rw [hs]
  dsimp only
  rw [if_neg]
  · exact ⟨{ s with banks := _ }, rfl, rfl⟩
  · rw [Bool.and_eq_true, Bool.not_eq_true', decide_eq_true_eq]
    rintro ⟨h1, h2⟩
    rw [hf h1] at h2
    exact absurd h2 (Nat.lt_irrefl _)

/-- An access that has reached the die of its bank, and has its banks, is performed and leaves the queue. -/
theorem exec_hostBar2Access_performs {s : State} {p n : Nat} (hs : s.arg.host.span = (p, n)) (hp : p < 2 ^ 40)
    (hn : s.arg.n = 1 ∨ (p / 2 ^ 38 = 0 ∧ (s.arg.n = 4 ∨ (s.arg.n = 0 ∧ s.hostQueue = []))))
    (hb : s.arg.slot = true ∨ ∀ i, i < n → s.bankFrom (p + i) ≤ s.cycle) :
    ∃ u : State, u = { s with banks := u.banks, hostQueue := u.hostQueue } ∧ u.hostQueue.drop 1 = s.hostQueue.drop 1 ∧
      exec .hostBar2Access s = .next u.hostPerform.hostDone := by
  rcases hn with hn | ⟨hf, hn⟩
  · obtain ⟨u, hu, he⟩ := State.hostTurn_now hs hb
    refine ⟨u, by rw [hu], by rw [hu], ?_⟩
    rw [← he, exec_hostBar2Access]
    unfold execHostBar2Access
    simp only [hn]
  · obtain ⟨v, hv, hq, he⟩ := exec_hostBar2Access_goes hn
    obtain ⟨u, hu, ht⟩ := State.hostTurn_now (s := v) (p := p) (n := n) (by rw [hv]; exact hs) (by rw [hv]; exact hb)
    refine ⟨u, by rw [hu, hv], by rw [hu]; exact hq, ?_⟩
    rw [he, hs, physDie_mod hp, if_pos hf, ht]

/-! ## What a host's access does at its bank -/

/-- Without latent errors, a read of device memory meets none. -/
theorem State.meetErrors_none {s : State} {p n : Nat} (hl : s.latent = []) (hp : isSlateKey p = false) : (s.meetErrors p n).1 = s := by
  unfold State.meetErrors
  simp [hl, hp]

/-- A sound read of the host is answered with its bytes. -/
theorem State.hostPerform_read {s : State} {p n : Nat} (hr : s.arg.host = .read p n) (hp : p < 2 ^ 40) (hn : p + n ≤ 2 ^ 40)
    (hl : s.latent = []) (hs : s.isPoisoned p n = false) :
    s.hostPerform = s.hostAnswer (p / 2 ^ 38) p (memReadL s.mem p n) := by
  unfold State.hostPerform
  rw [hr, HostOp.span_read hn]
  dsimp only
  rw [State.meetErrors_none hl (by unfold isSlateKey; simp; omega), hs, physDie_mod hp]
  rfl

/-- What the answer to a host's read leaves. -/
theorem State.hostAnswer_leaves (s : State) (die p : Nat) (bytes : List Byte) :
    let t := s.hostAnswer die p bytes
    t.ctxs = s.ctxs ∧ t.mem = s.mem ∧ t.hostQueue = s.hostQueue ∧ s.Extends t ∧
      (die = 0 → t.hostOut = s.hostOut ++ [(s.arg.id, bytes)]) ∧
      (0 < die → s.Carries t die 0 false (16 + bytes.length) (s.hostLat die 0 bytes.length) .hostBar2Access
        { id := s.arg.id, n := 2, host := .write p bytes }) := by
  unfold State.hostAnswer
  split
  · rename_i h
    have h : die = 0 := by simpa using h
    exact ⟨rfl, rfl, rfl, .of_eq rfl rfl rfl rfl, fun _ => rfl, fun h' => by omega⟩
  · rename_i h
    have h : die ≠ 0 := by simpa using h
    have hc := s.carry_posted die 0 false (16 + bytes.length) (s.hostLat die 0 bytes.length) .hostBar2Access
      { id := s.arg.id, n := 2, host := .write p bytes }
    exact ⟨hc.ctxs, hc.mem, hc.hostQueue, hc.grows, fun h' => absurd h' h, fun _ => State.carry_carries _ _ _ _ _ _ _ _⟩

/-- A match that has been told is not told again. -/
theorem State.postWatch_cons (s : State) (p i : Nat) (hits seen : List Nat) (a word : Word) :
    s.postWatch p (i :: hits) seen a word =
      if memNat (physDie p * 8 + i) seen then s.postWatch p hits seen a word
      else (s.notice (physDie p) { kind := 0x05, value := a, word := word }).postWatch p hits (insNat (physDie p * 8 + i) seen) a word := by
  unfold State.postWatch
  rw [List.foldl_cons]
  dsimp only
  split <;> rfl

/-- The matches of an operation post notices. -/
theorem State.postWatch_posted (p : Nat) (a word : Word) : ∀ (hits seen : List Nat) (s : State),
    s.Posted (s.postWatch p hits seen a word).1
  | [], _, s => .refl s
  | i :: hits, seen, s => by
    rw [State.postWatch_cons]
    split
    · exact State.postWatch_posted p a word hits seen s
    · exact (State.notice_posted _ _ _).trans (State.postWatch_posted p a word hits _ _)

/-- An operation that has met no match before tells the first, and with it what every match would tell. -/
theorem State.postWatch_sent (s : State) (p : Nat) {hits : List Nat} (a word : Word) (h : hits ≠ []) :
    s.Sent (s.postWatch p hits [] a word).1 20 .noticeArrive
      { die := physDie p, notice := { kind := 0x05, die := physDie p, value := a, word := word } } := by
  obtain ⟨i, l, rfl⟩ := List.exists_cons_of_ne_nil h
  rw [State.postWatch_cons, if_neg (by simp [memNat])]
  exact (State.notice_sent _ _ _).extend (State.postWatch_posted _ _ _ _ _ _).grows

/-- Waits on a cell that a write lets try again post steps. -/
theorem State.wakeCells_posted (s : State) (w : Nat) : s.Posted (s.wakeCells w) := by
  unfold State.wakeCells
  exact State.foldl_posted (fun _ _ => State.post_posted _ _ _ _) _ _

/-- A write outside the slates lets the waits on its cells go on. -/
theorem State.afterWrite_posted {s : State} {k : Nat} (n : Nat) (hk : isSlateKey k = false) : s.Posted (s.afterWrite k n) := by
  unfold State.afterWrite
  refine State.foldl_posted (fun s w => ?_) _ _
  dsimp only
  rw [if_neg (by simp [hk])]
  exact State.wakeCells_posted _ _

/-- A store outside the slates, of bytes, changes storage and posts steps. -/
theorem State.storeL_device {s : State} {k : Nat} {bs : List Byte} (hk : isSlateKey k = false) (hb : bs ≠ []) :
    let t := s.storeL k bs
    t.ctxs = s.ctxs ∧ t.mem = memWriteL s.mem k bs ∧ t.hostQueue = s.hostQueue ∧ s.Extends t := by
  have he : bs.isEmpty = false := by simpa [List.isEmpty_iff] using hb
  have hp : s.putL k bs = ({ s with mem := memWriteL s.mem k bs } : State).markFull k bs.length := by
    unfold State.putL
    rw [if_neg (by simp [he])]
  unfold State.storeL
  dsimp only
  rw [if_neg (by simp [he])]
  have ha := State.afterWrite_posted (s := s.putL k bs) bs.length hk
  refine ⟨by rw [ha.ctxs, hp]; rfl, by rw [ha.mem, State.putL_mem], by rw [ha.hostQueue, hp]; rfl, .trans ?_ ha.grows⟩
  rw [hp]
  exact .of_eq rfl rfl rfl rfl

/-- A write of the host to device memory stores its bytes, and tells the watchpoints that it matches (R152, R373). -/
theorem State.hostPerform_write {s : State} {p : Nat} {bs : List Byte} (hw : s.arg.host = .write p bs) (hp : p < 2 ^ 40)
    (hn : p + bs.length ≤ 2 ^ 40) (hb : bs ≠ []) :
    let t := s.hostPerform
    t.ctxs = s.ctxs ∧ t.mem = memWriteL s.mem p bs ∧ t.hostQueue = s.hostQueue ∧ s.Extends t ∧
      ∀ i ∈ s.watchHits p bs.length, s.Sent t 20 .noticeArrive
        { die := physDie p, notice := { kind := 0x05, die := physDie p, value := BitVec.ofNat 64 p, word := 0x1000 } } := by
  have he : s.hostPerform = (s.postWatch p (s.watchHits p bs.length) [] (BitVec.ofNat 64 p) 0x1000).1.storeL p bs := by
    unfold State.hostPerform
    rw [hw, HostOp.span_write hn]
    dsimp only
    rw [List.take_length]
  have hpost := State.postWatch_posted p (BitVec.ofNat 64 p) 0x1000 (s.watchHits p bs.length) [] s
  obtain ⟨hc, hm, hq, hx⟩ := State.storeL_device (s := (s.postWatch p (s.watchHits p bs.length) [] (BitVec.ofNat 64 p) 0x1000).1)
    (k := p) (by unfold isSlateKey; simp; omega) hb
  dsimp only
  rw [he]
  exact ⟨hc.trans hpost.ctxs, hm.trans (by rw [hpost.mem]), hq.trans hpost.hostQueue, hpost.grows.trans hx,
    fun i hi => (State.postWatch_sent s p _ _ (List.ne_nil_of_mem hi)).extend hx⟩

/-! ## The claim about the host -/

theorem hostAccesses_claim : Claims.HostAccesses := by
  intro s
  have hrec : ∀ {i}, s.arg.n = 7 → s.arg.env = { dnode := s.node, host := true, body := .record i, sender := .host } →
      exec .seatRequest s = .next (s.hostRecord { dnode := s.node, host := true, body := .record i, sender := .host } s.arg.frag.data) := by
    intro i hn he
    rw [exec_seatRequest]
    unfold execSeatRequest
    simp only [hn, he]
  refine ⟨fun hn hq => ⟨?_, ?_⟩, fun p n hr hn hq => ?_, fun i bs hw hl hi hn hq => ⟨fun h => ?_, fun h => ?_⟩,
    fun i hn he => ⟨fun seat rest hi => ?_, fun hi hb => ?_⟩, fun i j bs hw hl hj hi hn hq => ?_,
    fun p n hr hp hpn hf hn => ?_, fun p bs hw hp hpn hf hn => ?_, fun p bs hw hn => ?_, fun p n hr hreach hlat hpo => ?_,
    fun p bs hw hinv hreach hb => ?_⟩
  · exact exec_hostDoorbellWrite_waits hn hq
  · exact exec_hostBar2Access_waits hn hq
  · exact exec_hostDoorbellWrite_read hn hq hr
  · rw [exec_hostDoorbellWrite_one hn hq hw (Nat.le_refl _) (by omega) (by omega) hi,
      State.doorbell_rung (by unfold doorbellHit; simp; omega), doorbellNew_whole _ _ hl, if_pos (by simpa [bitAt] using h)]
    exact ⟨_, rfl, rfl, rfl, rfl, State.post_due _ _ _ _⟩
  · rw [exec_hostDoorbellWrite_one hn hq hw (Nat.le_refl _) (by omega) (by omega) hi,
      State.doorbell_rung (by unfold doorbellHit; simp; omega), if_neg (by simpa [bitAt] using h)]
    exact ⟨_, rfl, rfl, rfl, rfl, rfl, rfl⟩
  · obtain ⟨hc, hm, ⟨y, hy, h1, h2, h3, h4, h5, h6, h7⟩, hside, hs⟩ := State.hostRecord_seat (i := i) (bs := s.arg.frag.data) hi
    rw [hrec hn he]
    exact ⟨_, y, rfl, hc, hm, hy, h1, h2, h3, h4, h5, h6, h7, by rw [hside]; rfl, by rw [hside]; rfl, hs⟩
  · rw [hrec hn he, State.hostRecord_waits hi hb]
  · have hk : doorbellHit i (64 * i + 8 * j) bs.length 7 = false := by unfold doorbellHit; simp; omega
    rw [exec_hostDoorbellWrite_one hn hq hw (by omega) (by omega) (by omega) hi, State.doorbell_kept hk]
    refine ⟨_, rfl, rfl, fun m hm => ?_⟩
    dsimp only
    rw [SMap.get_set_same, dbDword_doorbellNew _ _ _ _ hm]
    by_cases h : m = j
    · subst h
      rw [if_pos (by unfold doorbellHit; simp; omega), if_pos rfl, mergeDword_covered (Nat.le_refl _) (by omega), Nat.sub_self,
        List.drop_zero, List.take_of_length_le (by omega)]
    · rw [if_neg (by unfold doorbellHit; simp; omega), if_neg h]
  · have := exec_hostBar2Access_crosses (by rw [hr, HostOp.span_read hpn]) hp hf hn
    rwa [hr] at this
  · have := exec_hostBar2Access_crosses (by rw [hw, HostOp.span_write hpn]) hp hf hn
    rw [hw, show (HostOp.write p bs).carried = bs.length by unfold HostOp.carried; rw [HostOp.span_write hpn]] at this
    exact this
  · rw [exec_hostBar2Access]
    unfold execHostBar2Access
    simp only [hn, hw]
  · obtain ⟨hp, hpn, htime, hbank⟩ := hreach
    obtain ⟨u, hu, hq, he⟩ := exec_hostBar2Access_performs (by rw [hr, HostOp.span_read hpn]) hp htime hbank
    have hx : s.Extends u := .of_eq (by rw [hu]) (by rw [hu]) (by rw [hu]) (by rw [hu])
    obtain ⟨hc, hm, hqa, hxa, h0, hfar⟩ := u.hostAnswer_leaves (p / 2 ^ 38) p (memReadL u.mem p n)
    rw [← State.hostPerform_read (by rw [hu]; exact hr) hp hpn (by rw [hu]; exact hlat) (by rw [hu]; exact hpo)] at hc hm hqa hxa h0 hfar
    obtain ⟨hcd, hmd, hod, hqd, hxd⟩ := u.hostPerform.hostDone_leaves
    refine ⟨_, he, by rw [hcd, hc, hu], by rw [hmd, hm, hu], by rw [hqd, hqa, hq], fun hf => ?_,
      fun hf => ⟨_, u.le_hostLat (p / 2 ^ 38) 0 n, ?_⟩⟩
    · rw [hod, h0 hf, hu]; rfl
    · have hlen : (memReadL u.mem p n).length = n := by simp [memReadL]
      have hc := hfar hf
      rw [hlen, show u.mem = s.mem by rw [hu], show u.arg = s.arg by rw [hu]] at hc
      exact (State.Carries.mono (by rw [hu]) (by rw [hu]) (by rw [hu]) hc).extend hxd
  · obtain ⟨hp, hpn, htime, hbank⟩ := hreach
    obtain ⟨u, hu, hq, he⟩ := exec_hostBar2Access_performs (by rw [hw, HostOp.span_write hpn]) hp htime hbank
    have hx : s.Extends u := .of_eq (by rw [hu]) (by rw [hu]) (by rw [hu]) (by rw [hu])
    obtain ⟨hc, hm, hqa, hxa, hs⟩ := State.hostPerform_write (s := u) (by rw [hu]; exact hw) hp hpn hb
    obtain ⟨hcd, hmd, _, hqd, hxd⟩ := u.hostPerform.hostDone_leaves
    have hmem : u.hostPerform.hostDone.mem = memWriteL s.mem p bs := by rw [hmd, hm, hu]
    refine ⟨_, he, by rw [hcd, hc, hu], fun x hx => ?_, by rw [hqd, hqa, hq], fun j hj => ?_, fun i hi => ?_⟩
    · rw [hmem]
      exact memRead_memWriteL_out bs hx hinv
    · rw [hmem]
      exact memRead_memWriteL_in bs hj hinv
    · exact hx.sent ((hs i (by rw [hu]; exact hi)).extend hxd)

end Sys2Proof.Machine

end

section
/-! The Prefect's own steps (R158 to R162, R334, R401, R402). -/

namespace Sys2Proof.Machine

theorem exec_linkRetrained (s : State) : exec .linkRetrained s = execLinkRetrained s := rfl
theorem exec_prefectRegisterWrite (s : State) : exec .prefectRegisterWrite s = execPrefectRegisterWrite s := rfl
theorem exec_sensorSample (s : State) : exec .sensorSample s = execSensorSample s := rfl
theorem exec_firmwareUpdateWrite (s : State) : exec .firmwareUpdateWrite s = execFirmwareUpdateWrite s := rfl
theorem exec_spdmRequest (s : State) : exec .spdmRequest s = execSpdmRequest s := rfl

/-! ## Registers (R158, R159) -/

/-- The contexts of a core other than its homeroom, as the model numbers them. -/
theorem all_range_succ_iff (n : Nat) (p : Nat → Bool) :
    (List.range n).all (fun i => p (i + 1)) = true ↔ ∀ i, 0 < i → i < n + 1 → p i = true := by
  simp only [List.all_eq_true, List.mem_range]
  constructor
  · intro h i h0 hi
    obtain ⟨j, rfl⟩ := Nat.exists_eq_succ_of_ne_zero (Nat.ne_of_gt h0)
    exact h j (by omega)
  · exact fun h i hi => h (i + 1) (Nat.succ_pos i) (by omega)

/-- A rectangle may change where each core that changes its partition runs its homeroom alone. -/
theorem State.rectFree_iff (s : State) (n : Nat) (v : Word) :
    s.rectFree n v = true ↔ ∀ k, k < 7680 → s.partOf k ≠ ({ s with partRect := wr s.partRect n v } : State).partOf k →
      ∀ i, 0 < i → i < 16 → (s.ctx ⟨k, i⟩).life ≠ .active := by
  have hc : ∀ k, ((List.range 15).all fun i => (s.ctx ⟨k, i + 1⟩).life != .active) = true ↔
      ∀ i, 0 < i → i < 16 → (s.ctx ⟨k, i⟩).life ≠ .active := fun k => by
    rw [all_range_succ_iff 15 fun i => (s.ctx ⟨k, i⟩).life != .active]
    simp only [bne_iff_ne]
  unfold State.rectFree
  dsimp only
  rw [List.all_eq_true]
  refine forall_congr' fun k => ?_
  rw [List.mem_range, Bool.or_eq_true, hc k, beq_iff_eq, or_iff_not_imp_left]

/-- A line of the log that has room joins it. -/
theorem State.prefectLog_room {s : State} (die value : Nat) (h : s.prefect.log.length < 4096) :
    (s.prefectLog die value).prefect.log = s.prefect.log ++ [(s.cycle, die, value)] := by
  unfold State.prefectLog
  dsimp only
  rw [if_neg (by simp; omega)]

section
variable {s : State}

theorem exec_prefectRegisterWrite_passCount (hn : s.arg.n = 0x130) :
    exec .prefectRegisterWrite s = .next (s.post s.cycle .passCountWrite { die := s.arg.die, v := s.arg.v }) := by
  rw [exec_prefectRegisterWrite]
  unfold execPrefectRegisterWrite
  simp only [hn]
  rfl

theorem exec_prefectRegisterWrite_rect (h1 : 0x140 ≤ s.arg.n) (h2 : s.arg.n < 0x150) :
    exec .prefectRegisterWrite s = .next (if s.rectFree (s.arg.n - 0x140) (s.arg.v &&& 0xFFFFFFF800000000)
      then { s with partRect := wr s.partRect (s.arg.n - 0x140) (s.arg.v &&& 0xFFFFFFF800000000) } else s.prefectLog s.arg.die s.arg.n) := by
  rw [exec_prefectRegisterWrite]
  unfold execPrefectRegisterWrite
  dsimp only
  rw [if_neg (by rw [beq_iff_eq]; omega), if_pos (by simp; omega)]

theorem exec_prefectRegisterWrite_place (hn : s.arg.n = 0x132) (hv : s.arg.v.toNat % 256 < 240) :
    exec .prefectRegisterWrite s = .next { s with prefect := { s.prefect with
      cfgPlace := s.prefect.cfgPlace.set s.arg.die (s.arg.v.toNat % 256) } } := by
  rw [exec_prefectRegisterWrite]
  unfold execPrefectRegisterWrite
  dsimp only
  rw [if_neg (by simp [hn]), if_neg (by simp [hn]), if_pos (by simp [hn]), if_pos hv]

end

/-! ## Samples of the sensors (R162) -/

/-- The samples in a row that a die's readings have been below their limits. -/
def State.goodAfter (s : State) (x : Sample) (d : Nat) : Nat :=
  if x.power ≤ 3420 && x.cool.getD d false then s.prefect.good.getD d 0 + 1 else 0

/-- The pass count that a sample asks for. -/
def State.countAfter (s : State) (x : Sample) (d : Nat) : Nat :=
  let count := (s.die d).passCount
  let goal := s.prefect.cfgPass.getD d 216
  if 3600 < x.power || x.hot.getD d false then (if count ≤ 24 then count else max 24 (count - 8))
  else if 100 ≤ s.goodAfter x d && count < goal then min goal (count + 8) else count

/-- `t` is `s` after samples: the Prefect has counted and logged, and steps have been posted. -/
structure State.Samples (s t : State) : Prop where
  only : t = { s with prefect := { s.prefect with good := t.prefect.good, log := t.prefect.log }, agenda := t.agenda, seq := t.seq }
  grows : s.Extends t

theorem State.Samples.refl (s : State) : s.Samples s := ⟨rfl, .refl s⟩

theorem State.Samples.trans {s t u : State} (h : s.Samples t) (g : t.Samples u) : s.Samples u := by
  refine ⟨?_, h.grows.trans g.grows⟩
  have hg := g.only
  rw [h.only] at hg
  exact hg

theorem State.Samples.arg {s t : State} (h : s.Samples t) : t.arg = s.arg := by rw [h.only]

theorem State.Samples.cycle {s t : State} (h : s.Samples t) : t.cycle = s.cycle := by rw [h.only]

theorem State.Samples.dies {s t : State} (h : s.Samples t) : t.dies = s.dies := by rw [h.only]

theorem State.Samples.die {s t : State} (h : s.Samples t) (d : Nat) : t.die d = s.die d := by
  unfold State.die
  rw [h.dies]

/-- The count of good samples rests on the die's count before alone. -/
theorem State.goodAfter_congr {s t : State} {d : Nat} (x : Sample) (hg : t.prefect.good.getD d 0 = s.prefect.good.getD d 0) :
    t.goodAfter x d = s.goodAfter x d := by
  unfold State.goodAfter
  rw [hg]

/-- What a sample asks for a die rests on that die's count of good samples alone. -/
theorem State.Samples.countAfter {s t : State} (h : s.Samples t) {d : Nat} (x : Sample)
    (hg : t.prefect.good.getD d 0 = s.prefect.good.getD d 0) : t.countAfter x d = s.countAfter x d := by
  unfold State.countAfter
  rw [State.goodAfter_congr x hg, h.only]
  rfl

/-- A die's sample counts, and where it asks for another pass count, logs it and writes it. -/
theorem State.sampleDie_eq (s : State) (x : Sample) (d : Nat) :
    s.sampleDie x d =
      let t : State := { s with prefect := { s.prefect with good := s.prefect.good.set d (s.goodAfter x d) } }
      if s.countAfter x d = (s.die d).passCount then t
      else (t.prefectLog d (s.countAfter x d)).post s.cycle .passCountWrite { die := d, v := BitVec.ofNat 64 (s.countAfter x d) } := by
  have h : ∀ (a b : Nat) (t u : State), (if (a == b) = true then t else u) = if a = b then t else u := fun a b t u => by
    simp only [beq_iff_eq]
  exact h _ _ _ _

theorem State.sampleDie_samples (s : State) (x : Sample) (d : Nat) : s.Samples (s.sampleDie x d) := by
  rw [State.sampleDie_eq]
  dsimp only
  split
  · exact ⟨rfl, .of_eq rfl rfl rfl rfl⟩
  · exact ⟨rfl, rfl, Nat.le_succ _, fun _ h => List.mem_cons_of_mem _ h, fun _ h => h⟩

theorem State.sampleDie_good (s : State) (x : Sample) (d : Nat) :
    (s.sampleDie x d).prefect.good = s.prefect.good.set d (s.goodAfter x d) := by
  rw [State.sampleDie_eq]
  dsimp only
  split <;> rfl

/-- A sample that asks for another pass count writes it. -/
theorem State.sampleDie_due {s : State} {x : Sample} {d : Nat} (h : s.countAfter x d ≠ (s.die d).passCount) :
    (s.sampleDie x d).Due s.cycle .passCountWrite { die := d, v := BitVec.ofNat 64 (s.countAfter x d) } := by
  rw [State.sampleDie_eq]
  dsimp only
  rw [if_neg h]
  exact State.post_due _ _ _ _

/-- The samples of the dies `l`. -/
def State.sampleDies (s : State) (l : List Nat) : State := l.foldl (fun s d => s.sampleDie s.arg.sample d) s

theorem State.sampleDies_cons (s : State) (d : Nat) (l : List Nat) :
    s.sampleDies (d :: l) = (s.sampleDie s.arg.sample d).sampleDies l := rfl

theorem State.sampleDies_samples (l : List Nat) : ∀ s : State, s.Samples (s.sampleDies l) := by
  induction l with
  | nil => exact .refl
  | cons d l ih => exact fun s => (s.sampleDie_samples _ d).trans (ih _)

theorem State.sampleDie_good_other (s : State) (x : Sample) {d e : Nat} (h : e ≠ d) :
    (s.sampleDie x e).prefect.good.getD d 0 = s.prefect.good.getD d 0 := by
  rw [State.sampleDie_good, List.getD_eq_getElem?_getD, List.getElem?_set_ne h, List.getD_eq_getElem?_getD]

theorem State.sampleDies_good_other {d : Nat} (l : List Nat) :
    ∀ s : State, d ∉ l → (s.sampleDies l).prefect.good.getD d 0 = s.prefect.good.getD d 0 := by
  induction l with
  | nil => exact fun _ _ => rfl
  | cons e l ih =>
    intro s hd
    rw [List.mem_cons, not_or] at hd
    rw [State.sampleDies_cons, ih _ hd.2, State.sampleDie_good_other _ _ (Ne.symm hd.1)]

/-- Each die's sample counts as it would alone, and writes what it would write alone. -/
theorem State.sampleDies_each {d : Nat} (l : List Nat) : ∀ s : State, l.Nodup → d ∈ l → d < s.prefect.good.length →
    (s.sampleDies l).prefect.good.getD d 0 = s.goodAfter s.arg.sample d ∧
      (s.countAfter s.arg.sample d ≠ (s.die d).passCount → (s.sampleDies l).Due s.cycle .passCountWrite
        { die := d, v := BitVec.ofNat 64 (s.countAfter s.arg.sample d) }) := by
  induction l with
  | nil => exact fun _ _ h => nomatch h
  | cons e l ih =>
    intro s hl hd hlen
    obtain ⟨he, hl⟩ := List.nodup_cons.1 hl
    have hs := s.sampleDie_samples s.arg.sample e
    rw [State.sampleDies_cons]
    by_cases h : e = d
    · subst h
      refine ⟨?_, fun hc => (State.sampleDie_due hc).extend (State.sampleDies_samples l _).grows⟩
      rw [State.sampleDies_good_other l _ he, State.sampleDie_good, List.getD_eq_getElem?_getD,
        List.getElem?_set_self hlen, Option.getD_some]
    · have hg := s.sampleDie_good_other s.arg.sample h
      have hi := ih (s.sampleDie s.arg.sample e) hl ((List.mem_cons.1 hd).resolve_left (Ne.symm h))
        (by rw [State.sampleDie_good, List.length_set]; exact hlen)
      rwa [hs.arg, State.goodAfter_congr _ hg, hs.countAfter _ hg, hs.cycle, hs.die] at hi

/-- Readings above a limit take 8 passes, down to 24. -/
theorem State.countAfter_high {s : State} {x : Sample} {d : Nat} (h : 3600 < x.power ∨ x.hot.getD d false = true)
    (hc : 24 < (s.die d).passCount) : s.countAfter x d = max 24 ((s.die d).passCount - 8) := by
  unfold State.countAfter
  dsimp only
  rw [if_pos (by rwa [Bool.or_eq_true, decide_eq_true_eq]), if_neg (by omega)]

/-- The hundredth good sample in a row gives 8 passes, up to the configured count. -/
theorem State.countAfter_low {s : State} {x : Sample} {d : Nat} (h : ¬ (3600 < x.power ∨ x.hot.getD d false = true))
    (hg : 100 ≤ s.goodAfter x d) (hc : (s.die d).passCount < s.prefect.cfgPass.getD d 216) :
    s.countAfter x d = min (s.prefect.cfgPass.getD d 216) ((s.die d).passCount + 8) := by
  unfold State.countAfter
  dsimp only
  rw [if_neg (by rwa [Bool.or_eq_true, decide_eq_true_eq]), if_pos (by simp only [Bool.and_eq_true, decide_eq_true_eq]; exact ⟨hg, hc⟩)]

theorem State.goodAfter_low {s : State} {x : Sample} {d : Nat} (h : x.power ≤ 3420 ∧ x.cool.getD d false = true) :
    s.goodAfter x d = s.prefect.good.getD d 0 + 1 := by
  unfold State.goodAfter
  rw [if_pos (by rwa [Bool.and_eq_true, decide_eq_true_eq])]

theorem State.goodAfter_not_low {s : State} {x : Sample} {d : Nat} (h : ¬ (x.power ≤ 3420 ∧ x.cool.getD d false = true)) :
    s.goodAfter x d = 0 := by
  unfold State.goodAfter
  rw [if_neg (by rwa [Bool.and_eq_true, decide_eq_true_eq])]

/-! ## Updates and requests (R160, R161, R401, R402) -/

theorem fwIndex_lt (k : FwKind) : fwIndex k < 3 := by cases k <;> decide

/-- The Prefect answers a request with `r`. -/
def State.SpdmAnswers (s : State) (r : Nat × List (List Byte)) : Prop :=
  exec .spdmRequest s = .next { s with prefect := { s.prefect with answers := s.prefect.answers ++ [r] } }

section
variable {s : State}

/-- A device that runs answers as the Prefect answers. -/
theorem State.answers_running {r : Nat × List (List Byte)} (hh : s.prefect.held = 0) (hr : s.prefect.answer s.arg.spdm = r) : s.SpdmAnswers r := by
  unfold State.SpdmAnswers
  rw [exec_spdmRequest]
  unfold execSpdmRequest
  simp only [hh, hr]
  rfl

/-- A device that is held answers what its hold allows. -/
theorem State.answers_held {r : Nat × List (List Byte)} (hh : s.prefect.held ≠ 0)
    (hr : s.prefect.heldAnswer s.arg.spdm = some r) : s.SpdmAnswers r := by
  unfold State.SpdmAnswers
  rw [exec_spdmRequest]
  unfold execSpdmRequest
  dsimp only
  rw [if_pos (by simpa using hh), hr]

/-- A request that a held device does not take leaves no trace. -/
theorem exec_spdmRequest_held_none (hh : s.prefect.held ≠ 0) (hr : s.prefect.heldAnswer s.arg.spdm = none) :
    exec .spdmRequest s = .next s := by
  rw [exec_spdmRequest]
  unfold execSpdmRequest
  dsimp only
  rw [if_pos (by simpa using hh), hr]

end

section
variable {f : Prefect} {q : SpdmReq}

/-- A device held for its staff runtime stack is busy. -/
theorem Prefect.heldAnswer_busy (hh : f.held = 2) : f.heldAnswer q = some (spdmError 0x03) := by
  unfold Prefect.heldAnswer
  rw [if_pos (by rw [hh]; rfl)]

/-- A device held for its Prefect's image takes requests on MCTP alone. -/
theorem Prefect.heldAnswer_unanswered (hh : f.held = 1) (hm : q.mctp = false) : f.heldAnswer q = none := by
  unfold Prefect.heldAnswer
  rw [if_neg (by rw [hh]; decide), if_pos (by rw [hm]; rfl)]

/-- A device held for its Prefect's image measures that image alone. -/
theorem Prefect.heldAnswer_measure {i : Nat} (hh : f.held = 1) (hm : q.mctp = true) (hq : q.code = .getMeasurements i) :
    f.heldAnswer q = some (0x60, [f.digest 0, Config.signature (f.digest 0)]) := by
  unfold Prefect.heldAnswer
  simp [hh, hm, hq]

/-- A request of a version below 1.3, but for GET_VERSION and the key exchanges, is refused for its version. -/
theorem Prefect.answer_old (h1 : q.code ≠ .getVersion) (h2 : q.code ≠ .keyExchange) (h3 : q.code ≠ .pskExchange) (hv : q.v13 = false) :
    f.answer q = spdmError 0x41 := by
  unfold Prefect.answer
  split
  next h => exact absurd h h1
  next h => exact absurd h h2
  next h => exact absurd h h3
  next => rw [hv]; rfl

theorem Prefect.answer_measure_one {i : Nat} (hq : q.code = .getMeasurements i) (hv : q.v13 = true) (h1 : 1 ≤ i) (h5 : i ≤ 5) :
    f.answer q = (0x60, [f.block i, Config.signature (f.block i)]) := by
  unfold Prefect.answer
  simp [hq, hv, h1, h5]

theorem Prefect.answer_measure_other {i : Nat} (hq : q.code = .getMeasurements i) (hv : q.v13 = true) (hi : i = 0 ∨ (5 < i ∧ i ≠ 0xFF)) :
    f.answer q = spdmError 0x01 := by
  have h : ¬ (1 ≤ i ∧ i ≤ 5) := by omega
  have hff : i ≠ 255 := by omega
  unfold Prefect.answer
  simp [hq, hv, h, hff]

end

/-! ## The claim about the Prefect -/

theorem prefectSteps_claim : Claims.PrefectSteps := by
  intro s
  refine ⟨⟨_, exec_linkRetrained s, s.notice_sent _ _⟩, exec_prefectRegisterWrite_passCount, fun h1 h2 => ⟨fun hf => ?_, fun hf => ?_⟩,
    exec_prefectRegisterWrite_place, fun hg _ => ?_, ⟨_, exec_firmwareUpdateWrite s, rfl, fun i hi hne => ?_, ?_⟩,
    fun hh => ?_, fun hh hm => ?_, fun i hh hm hq => ?_, fun hh => ⟨fun hq => ?_, fun hq => ?_, fun h1 h2 h3 hv => ?_,
      fun i hq hv => ⟨fun hi => ?_, fun h1 h4 => ?_, fun hi => ?_⟩⟩⟩
  · rw [exec_prefectRegisterWrite_rect h1 h2, if_pos ((s.rectFree_iff _ _).2 hf)]
  · rw [exec_prefectRegisterWrite_rect h1 h2, if_neg (mt (s.rectFree_iff _ _).1 hf)]
    exact ⟨_, rfl, rfl, s.prefectLog_room _ _⟩
  · have hs := State.sampleDies_samples (List.range 4) s
    refine ⟨s.sampleDies (List.range 4), exec_sensorSample s, by rw [hs.only], by rw [hs.only], by rw [hs.only], fun d hd => ?_⟩
    obtain ⟨hgood, hdue⟩ := State.sampleDies_each (List.range 4) s List.nodup_range (List.mem_range.2 hd) (by omega)
    refine ⟨fun hhigh hc => ?_, fun hlow => hgood.trans (State.goodAfter_low hlow), fun hlow => hgood.trans (State.goodAfter_not_low hlow),
      fun hhigh hlow h99 hc => ?_⟩
    · rw [State.countAfter_high hhigh hc] at hdue
      exact hdue (by omega)
    · rw [State.countAfter_low hhigh (by rw [State.goodAfter_low hlow]; omega) hc] at hdue
      exact hdue (by omega)
  · exact rd_wr_other _ _ _ _ _ (Ne.symm hne)
  · exact rd_wr_same _ _ _ _ (fwIndex_lt _)
  · exact State.answers_held (by omega) (Prefect.heldAnswer_busy hh)
  · exact exec_spdmRequest_held_none (by omega) (Prefect.heldAnswer_unanswered hh hm)
  · exact State.answers_held (by omega) (Prefect.heldAnswer_measure hh hm hq)
  · exact State.answers_running hh (by unfold Prefect.answer; rw [hq])
  · exact State.answers_running hh (by unfold Prefect.answer; rcases hq with hq | hq <;> rw [hq] <;> rfl)
  · exact State.answers_running hh (Prefect.answer_old h1 h2 h3 hv)
  · exact State.answers_running hh (Prefect.answer_measure_other hq hv hi)
  · have h5 : (i == 5) = false := by rw [beq_eq_false_iff_ne]; omega
    exact State.answers_running hh (by rw [Prefect.answer_measure_one hq hv h1 (by omega)]; unfold Prefect.block; rw [h5]; rfl)
  · subst hi
    exact State.answers_running hh (Prefect.answer_measure_one hq hv (by omega) (by omega))

/-- Settles O51, from the accesses of the host and the Prefect's own steps. -/
theorem hostAndPrefect : Obligations.HostAndPrefect := ⟨hostAccesses_claim, prefectSteps_claim⟩

end Sys2Proof.Machine

end

section
/-! SUPPORT. Class N flits (R137, R139): what sends one, what counts them, and what an access of class N leaves. -/

namespace Sys2Proof.Machine

/-! ## The class N flits of a core -/

/-- The class N flits of a core that a step stands for. -/
def Pending.flitsOf (core : Nat) (p : Pending) : Nat := if p.arg.flit == some core then p.flits else 0

theorem State.nflits_eq (s : State) (core : Nat) :
    s.nflits core = (s.agenda.map (Pending.flitsOf core)).sum +
      (s.packets.map fun q => if q.held then 0 else q.step.flitsOf core).sum := by
  have hf : ∀ {α : Type} (g : α → Nat) (l : List α) (n : Nat), l.foldl (fun n x => n + g x) n = (l.map g).sum + n := by
    intro α g l
    induction l with
    | nil => intro n; simp
    | cons x l ih => intro n; rw [List.foldl_cons, ih, List.map_cons, List.sum_cons]; omega
  have hq : (fun (n : Nat) (q : Packet) => if q.held then n else n + q.step.flitsOf core) =
      fun n q => n + if q.held then 0 else q.step.flitsOf core := by
    funext n q; split <;> rfl
  unfold State.nflits
  change s.agenda.foldl (fun n p => n + Pending.flitsOf core p)
    (s.packets.foldl (fun n q => if q.held then n else n + q.step.flitsOf core) 0) = _
  rw [hq, hf, hf, Nat.add_zero]

/-- Every core has as many class N flits in the network as before. -/
def State.SameFlits (s t : State) : Prop := ∀ core, t.nflits core = s.nflits core

theorem State.SameFlits.trans {s t u : State} (h : s.SameFlits t) (g : t.SameFlits u) : s.SameFlits u :=
  fun core => (g core).trans (h core)

theorem State.SameFlits.of_eq {s t : State} (ha : t.agenda = s.agenda) (hp : t.packets = s.packets) : s.SameFlits t :=
  fun core => by rw [State.nflits_eq, State.nflits_eq, ha, hp]

/-- Steps that no flit brings count for no core. -/
theorem State.SameFlits.of_new {s t : State} {new : List Pending} (ha : t.agenda = new ++ s.agenda)
    (hn : ∀ p ∈ new, p.arg.flit = none) (hp : t.packets = s.packets) : s.SameFlits t := by
  intro core
  have h0 : (new.map (Pending.flitsOf core)).sum = 0 :=
    List.sum_eq_zero fun x hx => by
      obtain ⟨p, hp, rfl⟩ := List.mem_map.1 hx
      unfold Pending.flitsOf
      rw [hn p hp]
      rfl
  rw [State.nflits_eq, State.nflits_eq, ha, hp, List.map_append, List.sum_append, h0, Nat.zero_add]

theorem State.post_flits (s : State) (due : Nat) (ev : Instr) {arg : StepArg} (h : arg.flit = none) : s.SameFlits (s.post due ev arg) :=
  .of_new (new := [_]) rfl (by simpa using h) rfl

theorem State.carry_flits (s : State) (src dst : Nat) (cn late : Bool) (len lat : Nat) (ev : Instr) {arg : StepArg}
    (h : arg.flit = none) : s.SameFlits (s.carry src dst cn late len lat ev arg) := by
  unfold State.carry
  split
  · split <;> exact .of_new (new := [_]) rfl (by simpa using h) rfl
  · refine State.SameFlits.trans (t := { s with packets := _ :: s.packets }) ?_ (.of_new (new := [_]) rfl (by simp) rfl)
    intro core
    rw [State.nflits_eq, State.nflits_eq, List.map_cons, List.sum_cons]
    simp [Pending.flitsOf, h]

/-- A reply or an acknowledgement is no class N flit. -/
theorem State.replyTo_flits (s : State) (a : Access) (val : VWord) : s.SameFlits (s.replyTo a val) := by
  unfold State.replyTo State.carryFor
  simp only [Bool.false_and, Bool.false_eq_true, if_false]
  split <;> exact State.carry_flits _ _ _ _ _ _ _ _ rfl

theorem State.foldl_flits {α : Type} {f : State → α → State} (h : ∀ (s : State) (a : α), s.SameFlits (f s a)) :
    ∀ (l : List α) (s : State), s.SameFlits (l.foldl f s)
  | [], _ => fun _ => rfl
  | a :: l, s => (h s a).trans (State.foldl_flits h l (f s a))

/-- What is read of streams posts no class N flit. -/
theorem State.commit_flits (s : State) (u : Uses) : s.SameFlits (s.commit u) := by
  unfold State.commit
  dsimp only
  refine State.SameFlits.trans (t := if u.reads.any (fun p => p.1 == 55) then s.modCore s.who.core fun k => k.takeM 7 else s)
    (by split <;> exact .of_eq rfl rfl) (State.foldl_flits (fun m i => ?_) _ _)
  split
  · exact fun _ => rfl
  · exact .of_new (new := [_]) rfl (by simp) rfl

/-! ## Class N packets on their way -/

/-- What a class N packet leaves for a later order number it leaves for an earlier one. -/
theorem State.CarriesN.mono {s f t : State} {core dst len lat : Nat} {ev : Instr} {arg : StepArg} (hc : f.cycle = s.cycle)
    (hd : f.dies = s.dies) (hs : s.seq ≤ f.seq) (hn : s.SameFlits f) (h : f.CarriesN t core dst len lat ev arg) :
    s.CarriesN t core dst len lat ev arg := by
  unfold State.CarriesN at h ⊢
  rw [hn core] at h
  split at h <;> rename_i g
  · rw [if_pos g]
    exact h.mono hc hd hs
  · rw [if_neg g]
    obtain ⟨p, hp, h1, h2, h3, h4, h5, h6, h7, h8, h9⟩ := h
    exact ⟨p, hp, h1, h2, h3, h4, h5, h6, h7, h8, h9.mono hc hs⟩

/-- A class N packet that is on its way stays on its way. -/
theorem State.CarriesN.extend {s t u : State} {core dst len lat : Nat} {ev : Instr} {arg : StepArg}
    (h : s.CarriesN t core dst len lat ev arg) (hx : t.Extends u) : s.CarriesN u core dst len lat ev arg := by
  unfold State.CarriesN at h ⊢
  split at h <;> rename_i g
  · rw [if_pos g]
    exact h.extend hx
  · rw [if_neg g]
    obtain ⟨p, hp, h1, h2, h3, h4, h5, h6, h7, h8, h9⟩ := h
    exact ⟨p, hx.packets p hp, h1, h2, h3, h4, h5, h6, h7, h8, h9.extend hx⟩

/-- A class N packet that leaves posts a step, and joins the packets where it is coded or waits. -/
theorem State.sendN_posted (s : State) (core dst len lat : Nat) (ev : Instr) (arg : StepArg) :
    s.Posted (s.sendN core dst len lat ev arg) := by
  refine ⟨State.sendN_posts _ _ _ _ _ _ _, ?_⟩
  unfold State.sendN
  dsimp only
  split
  · exact (State.carry_posted _ _ _ _ _ _ _ _).grows
  · exact ⟨rfl, by simp only [State.newId, State.post_seq]; omega, fun _ h => List.mem_cons_of_mem _ h,
      fun _ h => List.mem_cons_of_mem _ h⟩

/-! ## Accesses of class N (R40, R91, R137) -/

/-- What a splice leaves as it departs for a later order number it leaves for an earlier one. -/
theorem State.Departs.mono_splice {s f t : State} {a : Access} {lat : Nat} (hk : a.kind.isSplice = true) (he : f.endDie a = s.endDie a)
    (hc : f.cycle = s.cycle) (hd : f.dies = s.dies) (hs : s.seq ≤ f.seq) (hn : s.SameFlits f) (h : f.Departs t a lat) :
    s.Departs t a lat := by
  unfold State.Departs at h ⊢
  rw [if_pos hk, he] at h
  rw [if_pos hk]
  exact h.mono hc hd hs hn

/-- What an access leaves for a later order number it leaves for an earlier one, a splice too where its core has as many flits on
their way. -/
theorem State.Leaves.mono_splice {s f t : State} {a : Access} (hk : a.kind.isSplice = true)
    (hf : f = { s with ctxs := f.ctxs, cores := f.cores, agenda := f.agenda, seq := f.seq, fresh := f.fresh })
    (hs : s.seq ≤ f.seq) (hn : s.SameFlits f) (h : f.Leaves t a) : s.Leaves t a := by
  have hc : f.cycle = s.cycle := by rw [hf]
  have hd : f.dies = s.dies := by rw [hf]
  have e1 : f.form a.who.core a.addr = s.form a.who.core a.addr := by rw [hf]; rfl
  have e2 : ∀ off, f.tlbFind (dieOf a.who.core) (f.partOf a.who.core) off = s.tlbFind (dieOf a.who.core) (s.partOf a.who.core) off := by
    intro off; rw [hf]; rfl
  have e3 : ∀ off, f.walk (f.partOf a.who.core) off = s.walk (s.partOf a.who.core) off := by
    intro off; rw [hf]; rfl
  have he : f.endDie a = s.endDie a := by
    unfold State.endDie State.farDie
    simp only [e1, e2]
  have hdep : ∀ lat, f.Departs t a lat → s.Departs t a lat := fun lat => .mono_splice hk he hc hd hs hn
  unfold State.Leaves at h ⊢
  dsimp only at h ⊢
  simp only [e1, e2, e3] at h
  revert h
  cases s.form a.who.core a.addr with
  | window _ _ _ => exact hdep _
  | handle _ _ _ _ => exact hdep _
  | mem off =>
    dsimp only
    cases s.tlbFind (dieOf a.who.core) (s.partOf a.who.core) off with
    | none => exact State.Sent.mono hc hs
    | some e => exact hdep _
  | remote _ => exact State.Sent.mono hc hs
  | bad => exact id

end Sys2Proof.Machine

end

section
/-! SUPPORT. The requests of the net instructions (R39, R263, R269 to R271). -/

namespace Sys2Proof.Machine

/-! ## What a request asks for -/

theorem exec_agent (d : Reg) (a b : Src) (s : State) : exec (.agent d a b) s = execAgent d a b s := rfl
theorem exec_free (a : Src) (s : State) : exec (.free a) s = execFree a s := rfl
theorem exec_link (a b : Src) (s : State) : exec (.link a b) s = execLink a b s := rfl
theorem exec_splice (a b : Src) (s : State) : exec (.splice a b) s = execSplice a b s := rfl
theorem exec_join (a b : Src) (s : State) : exec (.join a b) s = execJoin a b s := rfl
theorem exec_pref (a : Src) (s : State) : exec (.pref a) s = execPref a s := rfl
theorem exec_unref (a : Src) (s : State) : exec (.unref a) s = execUnref a s := rfl
theorem exec_pmut (d : Reg) (a : Src) (s : State) : exec (.pmut d a) s = execPmut d a s := rfl
theorem exec_palloc (d : Reg) (a b : Src) (s : State) : exec (.palloc d a b) s = execPalloc d a b s := rfl
theorem exec_cellrd (d : Reg) (a : Src) (s : State) : exec (.cellrd d a) s = execCellrd d a s := rfl

/-- The access that a row asks for. -/
def NetRow.req (r : NetRow) (s : State) (v : Vals) : NetReq :=
  { addrs := r.addrs s v, need := r.need, kind := r.kind s v, addr := r.addr s v, dest := r.dest }

/-- What a row says of its access: it is no CWAIT, and its late destinations are those that it names; a splice has none. -/
structure NetRow.Late (r : NetRow) : Prop where
  names : r.late = r.uses.late
  dest : (r.dest = .none ∧ r.late = []) ∨ ∃ d, r.dest = .reg d ∧ r.late = [d]
  splice : ∀ s v, (r.kind s v).isSplice = true → r.dest = .none
  plain : ∀ s v, (r.kind s v).isCwait = false

theorem Spec.net_late {i : Instr} {r : NetRow} (h : Spec.net i = some r) : r.Late := by
  unfold Spec.net at h
  split at h <;> cases h
  case h_4 => exact ⟨rfl, .inl ⟨rfl, rfl⟩, fun _ _ _ => rfl, fun _ _ => rfl⟩
  case h_1 | h_8 | h_9 | h_10 => exact ⟨rfl, .inr ⟨_, rfl, rfl⟩, fun _ _ h => absurd h Bool.false_ne_true, fun _ _ => rfl⟩
  case h_2 | h_3 | h_5 | h_6 | h_7 => exact ⟨rfl, .inl ⟨rfl, rfl⟩, fun _ _ h => absurd h Bool.false_ne_true, fun _ _ => rfl⟩

/-- The alignment of a record is its size. -/
theorem State.recAlign_eq (s : State) (a : Word) : s.recAlign a = Spec.recordSize s a := by
  unfold State.recAlign Spec.recordSize bitAt
  simp only [beq_iff_eq]

/-- A read of a register is one read of it at least. -/
theorem countReads_pos {l : List (Reg × Option Bool)} {p : Reg × Option Bool} (h : p ∈ l) : 0 < countReads l p.1 :=
  List.length_pos_of_mem (List.mem_filter.2 ⟨h, beq_self_eq_true _⟩)

/-- A register that is full for several reads is full for fewer. -/
theorem State.regFull_mono {s : State} {c : CtxId} {r : Reg} {m n : Nat} (h : m ≤ n) (hf : s.regFull c r n = true) :
    s.regFull c r m = true := by
  unfold State.regFull at hf ⊢
  dsimp only at hf ⊢
  split_ifs at hf ⊢ <;> first | exact hf | skip
  simp only [decide_eq_true_eq] at hf ⊢
  omega

/-- The streams of readable sources are held in their direction, with the elements left, for fewer reads too. -/
theorem State.Readable.streamFault_a {s : State} {u : Uses} {a : Src} (h : s.Readable u) (ha : (a.r, some a.e) ∈ u.reads) :
    s.streamFault s.who { a := some a } = none := by
  have hr : ∀ p ∈ ({ a := some a } : Uses).reads, p = (a.r, some a.e) := fun p hp => by simpa [Uses.reads] using hp
  refine State.streamFault_none ?_ ?_
  · rintro (⟨p, hp, h56, hw⟩ | ⟨r, hr', -⟩)
    · obtain rfl := hr p hp
      obtain ⟨h1, h2, -⟩ := h.inbound _ ha h56
      rcases hw with hw | hw
      · exact hw h1
      · rw [h2] at hw; cases hw
    · cases hr'
  · rintro (⟨p, hp, h56, hw⟩ | ⟨r, hr', -⟩)
    · obtain rfl := hr p hp
      have h3 := (h.inbound _ ha h56).2.2
      have := countReads_pos ha
      have h1 : countReads ({ a := some a } : Uses).reads a.r = 1 := by simp [countReads, Uses.reads]
      dsimp only at hw h3 this
      omega
    · cases hr'

/-- An AGENT's reserved operand is seen once its a can be read (R170 step 3, R270, R288). -/
theorem State.agentBad_iff {s : State} {a b : Src} {u : Uses} (ha : u.a = some a) (hd : u.dr = none) (h : s.Readable u) :
    s.agentBad a b = true ↔ (s.vals u).a.getLsbD 48 = false ∧ (b.r ≠ 0 ∨ b.e = true) := by
  have hm : (a.r, some a.e) ∈ u.reads := by simp [Uses.reads, ha]
  have hv : (s.vals u).a = s.regVal s.who a.r 0 := by simp [State.vals, State.readVal, ha, hd, countReads]
  have hf := State.regFull_mono (countReads_pos hm) (h.full _ hm)
  have hb : bitAt (s.regVal s.who a.r 0).toNat 48 = (s.regVal s.who a.r 0).getLsbD 48 := by
    unfold bitAt BitVec.getLsbD
    rw [Nat.testBit_eq_decide_div_mod_eq]
    rfl
  unfold State.agentBad
  rw [h.streamFault_a hm, hf, hb, hv]
  simp [and_comm]

/-- A net instruction issues its row's access, or traps at a reserved operand. -/
theorem exec_net {i : Instr} {r : NetRow} {s : State} (h : Spec.net i = some r) (hr : s.Readable r.uses) :
    (r.bad (s.vals r.uses) → exec i s = .next (s.trapHere 0x02 0)) ∧
    (¬ r.bad (s.vals r.uses) → ∃ net f, exec i s = .next (s.netIssue r.uses net f) ∧ net (s.vals r.uses) s = r.net ∧
      f (s.vals r.uses) s = r.req s (s.vals r.uses)) := by
  unfold Spec.net at h
  split at h <;> cases h
  case h_1 d a b =>
    have hb := State.agentBad_iff (b := b) rfl rfl hr
    rw [exec_agent]
    exact ⟨fun hbad => congrArg _ (if_pos (hb.2 hbad)), fun hbad => ⟨_, _, congrArg _ (if_neg (mt hb.1 hbad)), rfl, rfl⟩⟩
  case h_2 a =>
    refine ⟨False.elim, fun _ => ⟨_, _, exec_free a s, rfl, ?_⟩⟩
    simp only [NetRow.req, State.recAlign_eq]
    rfl
  case h_3 a b =>
    refine ⟨False.elim, fun _ => ⟨_, _, exec_link a b s, rfl, ?_⟩⟩
    simp only [NetRow.req, Spec.net.first]
    split <;> simp_all
  case h_4 a b => exact ⟨False.elim, fun _ => ⟨_, _, exec_splice a b s, rfl, rfl⟩⟩
  case h_5 a b => exact ⟨False.elim, fun _ => ⟨_, _, exec_join a b s, rfl, rfl⟩⟩
  case h_6 a => exact ⟨False.elim, fun _ => ⟨_, _, exec_pref a s, rfl, rfl⟩⟩
  case h_7 a => exact ⟨False.elim, fun _ => ⟨_, _, exec_unref a s, rfl, rfl⟩⟩
  case h_8 d a => exact ⟨False.elim, fun _ => ⟨_, _, exec_pmut d a s, rfl, rfl⟩⟩
  case h_9 d a b => exact ⟨False.elim, fun _ => ⟨_, _, exec_palloc d a b s, rfl, rfl⟩⟩
  case h_10 d a => exact ⟨False.elim, fun _ => ⟨_, _, exec_cellrd d a s, rfl, rfl⟩⟩

end Sys2Proof.Machine

end

section
/-! The issue of the net instructions, splices and joins among them (R40, R72, R91, R104). -/

namespace Sys2Proof.Machine

/-! ## The issue of a splice (R40, R72, R91, R104) -/

theorem AccKind.splice_of_isSplice {k : AccKind} (h : k.isSplice = true) : ∃ n, k = .splice n := by
  unfold AccKind.isSplice at h
  split at h
  · exact ⟨_, rfl⟩
  · cases h

/-- The state in which an access of the issuing context leaves: it is counted as outstanding, and has its number (R104). -/
def State.begun (m : State) (k : AccKind) : State :=
  ({ m with seq := m.seq + 1 } : State).setCtx m.who ((m.ctx m.who).accBegun k false)

/-- An access without a destination starts with its count, and leaves. -/
theorem State.startAccess_routed {m : State} (k : AccKind) (addr : Word) (hb : (m.ctx m.who).buddy = none) :
    m.startAccess k addr false .none = (m.begun k).route (m.theAccess k addr false .none none) :=
  m.startAccess_started k addr false .none none [] none hb State.emptyDest_none

/-- The end of an issue keeps what has been posted. -/
theorem State.finish_posts {m t : State} (h : m.PostsOnly t) : m.finish.PostsOnly t.finish := by
  unfold State.PostsOnly at h
  generalize t.agenda = a, t.seq = q, t.fresh = f, t.packets = p at h
  subst h
  rfl

theorem State.PostsOnly.symm {s t : State} (h : s.PostsOnly t) : t.PostsOnly s := by
  unfold State.PostsOnly at h ⊢
  rw [h]

/-- What an issue leaves of contexts, cores and memory stands under other posts. -/
theorem State.Began.posts {s t r : State} {u : Uses} {late : List Reg} {vlate : Option (BitVec 3)} (h : s.Began t u late vlate)
    (hp : t.PostsOnly r) : s.Began r u late vlate := by
  unfold State.PostsOnly at hp
  generalize r.agenda = a, r.seq = q, r.fresh = f, r.packets = p at hp
  subst hp
  obtain ⟨h1, h2, ⟨hd, hc, hk⟩, h4, h5, h6, h7, h8, h9, h10, h11, h12⟩ := h
  exact ⟨h1, h2, ⟨by rw [hd], hc, hk⟩, h4, h5, h6, h7, h8, h9, h10, h11, h12⟩

/-- A splice that issues leaves what a LINK of the same cells would, but for its own way to its bank, as a class N flit. -/
theorem State.startAccess_splice {s : State} (u : Uses) (n addr : Word) (hb : (s.ctx s.who).buddy = none)
    (hbad : s.form s.who.core addr ≠ .bad) (hlk : s.memLocked s.who.core (.splice n) addr = false) :
    let t := ((s.commit u).startAccess (.splice n) addr false .none).finish
    let a := (s.commit u).theAccess (.splice n) addr false .none none
    s.Began t u [] none ∧ (t.ctx s.who).pc = (s.ctx s.who).pc + 8 ∧ (t.ctx s.who).wait = .none ∧
      s.Issues a (.splice n) addr false .none ∧ s.Outstanding t (.splice n) false ∧ s.Leaves t a := by
  have hm := s.commit_took u
  have hbm : ((s.commit u).ctx (s.commit u).who).buddy = none := by rw [hm.who, hm.ctx]; exact hb
  have hlink := State.startAccess_finish s u (.link n) addr false .none none [] none hb State.emptyDest_none (by simp) hbad
    hlk rfl
  dsimp only at hlink ⊢
  rw [State.startAccess_routed _ _ hbm] at hlink ⊢
  obtain ⟨h1, h2, h3, ⟨i1, i2, -, i4, i5, i6, i7, i8, i9, i10⟩, h5, -⟩ := hlink
  have hx : (s.commit u).begun (.splice n) = (s.commit u).begun (.link n) := rfl
  rw [hx]
  have hlp := State.finish_posts (((s.commit u).begun (.link n)).route_posts ((s.commit u).theAccess (.link n) addr false .none none))
  have hsp := State.finish_posts (((s.commit u).begun (.link n)).route_posts ((s.commit u).theAccess (.splice n) addr false .none none))
  have hctx : ∀ {t r : State}, t.PostsOnly r → r.ctx s.who = t.ctx s.who := fun h => by rw [h]; rfl
  have hp := hlp.symm.trans hsp
  refine ⟨h1.posts hp, by rw [hctx hp]; exact h2, by rw [hctx hp]; exact h3, ⟨i1, i2, rfl, i4, i5, i6, i7, i8, i9, i10⟩, ?_, ?_⟩
  · have := h5 rfl
    unfold State.Outstanding at this ⊢
    rw [hctx hp]
    exact this
  · generalize hf : (s.commit u).begun (.link n) = f
    have hframe : f = { s with ctxs := f.ctxs, cores := f.cores, agenda := f.agenda, seq := f.seq, fresh := f.fresh } := by
      have := hm.device
      rw [← hf]
      unfold State.begun
      rw [this]
      rfl
    have hwho : ((s.commit u).theAccess (.splice n) addr false .none none).who = s.who := hm.who
    refine State.Leaves.mono_splice rfl hframe ?_ ?_ (State.Leaves.congr rfl rfl (f.route_leaves _ ?_ ?_))
    · rw [← hf]; exact (s.commit_seq u).trans (Nat.le_succ _)
    · rw [← hf]; exact (s.commit_flits u).trans (.of_eq rfl rfl)
    · rw [hframe, hwho]; exact hbad
    · rw [hframe, hwho]; exact hlk

/-! ## The checks of a net instruction, in their order (R263, R288) -/

theorem Ctx.quiet_iff (x : Ctx) : x.quiet = true ↔ x.plain = .none ∧ x.relaxed = 0 := by
  simp [Ctx.quiet]

section
variable {s : State} {u : Uses} {net : Vals → State → Bool} {f : Vals → State → NetReq} {r : NetRow}

/-- A net instruction whose context is not quiet waits. -/
theorem State.netIssue_waits (h : s.Readable u) (hq : (s.ctx s.who).quiet = false) : s.netIssue u net f = s.block 0 :=
  State.waiting_block h hq

/-- A misaligned operand traps with its address. -/
theorem State.netIssue_misaligned (h : s.Readable u) (hq : (s.ctx s.who).quiet = true)
    (hm : ∃ p ∈ (f (s.vals u) s).addrs, p.1.toNat % p.2 ≠ 0) :
    ∃ p ∈ (f (s.vals u) s).addrs, p.1.toNat % p.2 ≠ 0 ∧ s.netIssue u net f = s.trapHere 0x15 p.1 := by
  unfold State.netIssue
  rw [State.waiting_go h hq]
  dsimp only
  cases hx : (f (s.vals u) s).addrs.find? fun p => p.1.toNat % p.2 != 0 with
  | none =>
    obtain ⟨p, hp, hn⟩ := hm
    exact absurd (List.find?_eq_none.1 hx p hp) (by simpa using hn)
  | some p => exact ⟨p, List.mem_of_find?_eq_some hx, by simpa using List.find?_some hx, rfl⟩

/-- Operands that are aligned and allowed let the instruction go on to the check of its descriptor. -/
theorem State.netIssue_go (h : s.Readable u) (hq : (s.ctx s.who).quiet = true)
    (ha : ∀ p ∈ (f (s.vals u) s).addrs, p.1.toNat % p.2 = 0 ∧ s.AllowsHere p.1 (f (s.vals u) s).need) :
    s.netIssue u net f =
      if net (s.vals u) s = true ∧ s.desc (s.ctx s.who).net.toNat = 0 then s.trapHere 0x29 0
      else ((s.commit u).startAccess (f (s.vals u) s).kind (f (s.vals u) s).addr false (f (s.vals u) s).dest).finish := by
  have h1 : (f (s.vals u) s).addrs.find? (fun p => p.1.toNat % p.2 != 0) = none :=
    List.find?_eq_none.2 fun p hp => by simp [(ha p hp).1]
  have h2 : (f (s.vals u) s).addrs.findSome? (fun p => (s.ownFault p.1 (f (s.vals u) s).need).map fun k => (k, p.1)) = none :=
    List.findSome?_eq_none_iff.2 fun p hp => by rw [(State.ownFault_none (ha p hp).2).1]; rfl
  unfold State.netIssue
  rw [State.waiting_go h hq]
  dsimp only
  rw [h1, h2]
  simp only [Bool.and_eq_true, beq_iff_eq]

/-- The access of a row's instruction, on its way. -/
theorem NetRow.Late.issues (hl : r.Late) (h : s.Readable r.uses) (hbad : s.form s.who.core (r.addr s (s.vals r.uses)) ≠ .bad)
    (hlk : s.Unlocked (r.addr s (s.vals r.uses)) (r.kind s (s.vals r.uses))) (hb : (s.ctx s.who).buddy = none) :
    let k := r.kind s (s.vals r.uses)
    let t := ((s.commit r.uses).startAccess k (r.addr s (s.vals r.uses)) false r.dest).finish
    ∃ a, s.Began t r.uses r.late none ∧ (t.ctx s.who).pc = (s.ctx s.who).pc + 8 ∧ (t.ctx s.who).wait = .none ∧
      s.Issues a k (r.addr s (s.vals r.uses)) false r.dest ∧ s.Outstanding t k false ∧ s.Leaves t a := by
  intro k t
  by_cases hk : k.isSplice = true
  · have hd := hl.splice _ _ hk
    have hn : r.late = [] := by
      rcases hl.dest with ⟨-, h⟩ | ⟨d, h, -⟩
      · exact h
      · rw [hd] at h; cases h
    obtain ⟨n, hn'⟩ := AccKind.splice_of_isSplice hk
    have := State.startAccess_splice r.uses n _ hb hbad (by rw [← hn']; exact hlk.memLocked)
    rw [← hn', ← hd, ← hn] at this
    exact ⟨_, this⟩
  · have hemp : ∀ m : State, ∀ c, m.Emptied (m.emptyDest c r.dest) c r.late none := by
      intro m c
      rcases hl.dest with ⟨hd, hn⟩ | ⟨d, hd, hn⟩ <;> rw [hd, hn]
      · exact m.emptyDest_none c
      · exact m.emptyDest_reg c d (h.lateReg d (by rw [← hl.names, hn]; simp))
    obtain ⟨h1, h2, h3, h4, h5, h6⟩ := s.startAccess_finish r.uses k _ false r.dest none r.late none hb hemp
      (by rw [hl.names]; exact h.late_lt) hbad hlk.memLocked (by simpa using hk)
    exact ⟨_, h1, h2, h3, h4, h5 (hl.plain _ _), h6⟩

end

/-! ## The claim about net instructions -/

theorem netIssues_claim : Claims.NetIssues := by
  intro i r s hi h
  obtain ⟨hbad, hgood⟩ := exec_net hi h
  refine ⟨fun hb => ⟨_, hbad hb, s.trapHere_trapped _ _⟩, fun hb hw => ?_, fun hb hp hr => ?_⟩ <;>
    obtain ⟨net, f, he, hn, hf⟩ := hgood hb
  · refine ⟨_, he, ?_⟩
    rw [State.netIssue_waits h (by rw [Bool.eq_false_iff, ne_eq, Ctx.quiet_iff]; tauto)]
    exact s.block_waits 0
  · have hq := (Ctx.quiet_iff _).2 ⟨hp, hr⟩
    refine ⟨fun hm => ?_, fun ha => ?_⟩
    · obtain ⟨p, hp, hne, ht⟩ := State.netIssue_misaligned (net := net) (f := f) h hq (by rw [hf]; exact hm)
      rw [hf] at hp
      exact ⟨_, p, hp, hne, he, by rw [ht]; exact s.trapHere_trapped _ _⟩
    · have hgo := State.netIssue_go (net := net) (f := f) h hq (by rw [hf]; exact ha)
      rw [hn, hf] at hgo
      refine ⟨fun hnone => ⟨_, he, ?_⟩, fun hnone hform hlock hbuddy => ?_⟩
      · rw [hgo, if_pos hnone]
        exact s.trapHere_trapped _ _
      · obtain ⟨a, ha⟩ := (Spec.net_late hi).issues h hform hlock hbuddy
        rw [if_neg hnone] at hgo
        exact ⟨_, a, he, by rw [hgo]; exact ha⟩

end Sys2Proof.Machine

end

section
/-! SUPPORT. What the slate switch, the walker and the names of cells read of the state (R87 to R98), and that it stands. -/

namespace Sys2Proof.Machine

/-- What the slate switch, the translation caches and the names of cells read is as before (R87 to R98). -/
structure State.SameGates (s t : State) : Prop where
  arg : t.arg = s.arg
  dies : t.dies = s.dies
  fences : t.fences = s.fences
  rects : t.partRect = s.partRect
  wins : ∀ c, (t.coreAt c).win = (s.coreAt c).win
  locks : ∀ o, (t.octet o).locks = (s.octet o).locks
  gives : ∀ o, (t.octet o).gives = (s.octet o).gives
  gens : ∀ o, (t.octet o).gens = (s.octet o).gens

theorem State.SameGates.refl (s : State) : s.SameGates s :=
  ⟨rfl, rfl, rfl, rfl, fun _ => rfl, fun _ => rfl, fun _ => rfl, fun _ => rfl⟩

theorem State.SameGates.trans {s t u : State} (h : s.SameGates t) (g : t.SameGates u) : s.SameGates u :=
  ⟨g.arg.trans h.arg, g.dies.trans h.dies, g.fences.trans h.fences, g.rects.trans h.rects, fun c => (g.wins c).trans (h.wins c),
    fun o => (g.locks o).trans (h.locks o), fun o => (g.gives o).trans (h.gives o), fun o => (g.gens o).trans (h.gens o)⟩

/-- An update of other fields leaves the gates as they are. -/
theorem State.SameGates.of_eq {s t : State}
    (h : t = { s with ctxs := t.ctxs, mem := t.mem, empty := t.empty, poison := t.poison, agenda := t.agenda, seq := t.seq,
                      fresh := t.fresh, packets := t.packets, wires := t.wires, sleepers := t.sleepers,
                      cellWaits := t.cellWaits, txn := t.txn }) : s.SameGates t := by
  rw [h]
  exact ⟨rfl, rfl, rfl, rfl, fun _ => rfl, fun _ => rfl, fun _ => rfl, fun _ => rfl⟩

section
variable {s t : State} (h : s.SameGates t)
include h

theorem State.SameGates.die (d : Nat) : t.die d = s.die d := by unfold State.die; rw [h.dies]

theorem State.SameGates.isStaffCore (core : Nat) : t.isStaffCore core = s.isStaffCore core := by
  unfold State.isStaffCore; rw [h.die]

theorem State.SameGates.partOf (core : Nat) : t.partOf core = s.partOf core := by
  unfold State.partOf; rw [h.isStaffCore, h.rects]

theorem State.SameGates.form (core : Nat) (a : Word) : t.form core a = s.form core a := by
  unfold State.form State.isHere; rw [h.die]

theorem State.SameGates.tlbFind (die part off : Nat) : t.tlbFind die part off = s.tlbFind die part off := by
  unfold State.tlbFind; rw [h.die]

theorem State.SameGates.slateOf (f : Form) : t.slateOf f = s.slateOf f := by
  unfold State.slateOf; simp only [h.wins]

theorem State.SameGates.closed (o sl : Nat) : t.closed o sl = s.closed o sl := by
  unfold State.closed; rw [h.gives]

theorem State.SameGates.lockedBy (op : Nat) (f : Form) : t.lockedBy op f = s.lockedBy op f := by
  unfold State.lockedBy; simp only [h.slateOf, h.locks]

theorem State.SameGates.isNacked (core : Nat) (staff : Bool) (f : Form) : t.isNacked core staff f = s.isNacked core staff f := by
  unfold State.isNacked State.fenced; rw [h.fences]

theorem State.SameGates.installed (o sl : Nat) : t.installed o sl = s.installed o sl := by
  unfold State.installed; simp only [h.wins]

theorem State.SameGates.protect (core : Nat) (staff : Bool) (f : Form) (n : Need) : t.protect core staff f n = s.protect core staff f n := by
  unfold State.protect; simp only [h.wins, h.gens, h.installed]

theorem State.SameGates.isAway (core : Nat) (a : Word) : t.isAway core a = s.isAway core a := by
  unfold State.isAway; rw [h.form]

theorem State.SameGates.norm (core : Nat) (a : Word) : t.norm core a = s.norm core a := by
  unfold State.norm; simp only [h.form, h.wins]

theorem State.SameGates.cellLt (a b : Word) : t.cellLt a b = s.cellLt a b := by
  unfold State.cellLt State.nodeNo; rw [h.die]

theorem State.SameGates.farDie (core : Nat) (a : Word) : t.farDie core a = s.farDie core a := by
  unfold State.farDie; simp only [h.form, h.tlbFind, h.partOf]

theorem State.SameGates.endDie (a : Access) : t.endDie a = s.endDie a := by
  unfold State.endDie; rw [h.farDie]

theorem State.SameGates.oneWay (core : Nat) (a : Word) : t.oneWay core a = s.oneWay core a := by
  unfold State.oneWay State.lat; simp only [h.form, h.tlbFind, h.partOf]

/-- The place of a cell in a slate stands. -/
theorem State.SameGates.cellKey_slate {core : Nat} {a : Word} (hm : ∀ off, s.form core a ≠ .mem off) :
    t.cellKey core a = s.cellKey core a := by
  unfold State.cellKey
  rw [h.form]
  cases hf : s.form core a with
  | mem off => exact absurd hf (hm off)
  | window c w off => simp only [h.wins]
  | _ => rfl

/-- The place of a cell stands where its walk gives what it gave. -/
theorem State.SameGates.cellKey (hw : ∀ part off, t.walk part off = s.walk part off) (core : Nat) (a : Word) :
    t.cellKey core a = s.cellKey core a := by
  unfold State.cellKey
  simp only [h.form, h.wins, h.tlbFind, h.partOf, hw]

end

/-! ## Places in slates -/

/-- Memory that the walker lets an access on to is no slate (R96, R98). -/
theorem State.checkParts_ok {s : State} {e f : TlbEnt} {a : Word} {off p use : Nat} {parts : List (Nat × Nat)}
    (h : s.checkParts e a off parts use = .ok p f) : isSlateKey p = false := by
  unfold State.checkParts at h
  dsimp only at h
  split_ifs at h with h1 h2
  cases h
  simp only [Bool.not_eq_true, Bool.not_eq_false', physOk, isDevKey, isHostKey, Bool.or_eq_true, Bool.and_eq_true, decide_eq_true_eq] at h2
  unfold isSlateKey
  simp only [Bool.and_eq_false_iff, decide_eq_false_iff_not]
  omega

/-- An access that the walker lets on is no access to a slate. -/
theorem State.landParts_mem {s u : State} {core off use k : Nat} {staff locks : Bool} {a : Word} {parts : List (Nat × Nat)} {need : Need}
    (hf : s.form core a = .mem off) (h : s.landParts core staff locks a parts need use = .go k u) : isSlateKey k = false := by
  unfold State.landParts at h
  rw [hf] at h
  dsimp only at h
  split at h
  · cases h
  · split at h
    · rename_i hc
      split at h
      · cases h
      · cases h
        exact State.checkParts_ok hc
    · cases h
    · cases h

/-- An access of a step that its place lets on to a slate is to a window or a handle. -/
theorem State.enter_slate {s u : State} {core op n use k : Nat} {staff : Bool} {a : Word} {need : Need}
    (h : s.enter core staff op a n need use = .go k u) (hk : isSlateKey k = true) (off : Nat) : s.form core a ≠ .mem off := by
  intro hf
  have hl : s.land core staff false a n need use = .go k u := by
    unfold State.enter at h
    simp only [hf, State.lockedBy, State.slateOf, Option.isSome_none, Bool.and_false, Bool.or_false, Bool.false_eq_true, if_false] at h
    split at h
    · rename_i hl
      split at h
      · cases h
      · rw [hl]; cases h; rfl
    · exact h
  unfold State.land at hl
  rw [State.landParts_mem hf hl] at hk
  cases hk

/-- When the slate switch lets an access on (R90, R92, R101, R396). -/
theorem State.landParts_go_iff {s u : State} {core use k : Nat} {staff locks : Bool} {a : Word} {parts : List (Nat × Nat)} {need : Need}
    (hm : ∀ off, s.form core a ≠ .mem off) :
    s.landParts core staff locks a parts need use = .go k u ↔
      u = s ∧ s.isNacked core staff (s.form core a) = false ∧ s.protect core staff (s.form core a) need = .ok k ∧
      ∃ o sl, s.slateOf (s.form core a) = some (o, sl) ∧ s.closed o sl = false ∧
        (locks && parts.any fun p => (s.octet o).locks.any fun l => l.hits (some sl) (k % 65536 + p.1) p.2 (use == 1)) = false := by
  unfold State.landParts
  cases hf : s.form core a with
  | mem off => exact absurd hf (hm off)
  | bad | remote _ => simp [State.slateOf]
  | window c w off | handle o sl g off =>
    dsimp only
    cases s.isNacked core staff _ <;> simp only [Bool.false_eq_true, if_false, if_true, reduceCtorEq, false_and, and_false, true_and]
    cases s.slateOf _ with
    | none => simp
    | some q =>
      obtain ⟨o, sl⟩ := q
      dsimp only
      cases hc : s.closed o sl
      · cases hp : s.protect core staff _ need with
        | error e => simp
        | ok key =>
          simp only [Bool.false_eq_true, if_false, Except.ok.injEq, Option.some.injEq, Prod.mk.injEq]
          constructor
          · intro h
            split at h
            · cases h
            · rename_i hl
              cases h
              exact ⟨rfl, rfl, o, sl, ⟨rfl, rfl⟩, hc, by simpa using hl⟩
          · rintro ⟨rfl, rfl, o', sl', ⟨rfl, rfl⟩, -, hl⟩
            rw [if_neg (by simp [hl])]
      · simp only [if_true, reduceCtorEq, Option.some.injEq, Prod.mk.injEq, false_iff, not_and, not_exists]
        rintro - - o' sl' ⟨rfl, rfl⟩ h
        rw [hc] at h
        cases h

/-- A slate lets an access on whose gates are as before, to the same key. -/
theorem State.SameGates.landParts {s t u : State} (h : s.SameGates t) {core use k : Nat} {staff locks : Bool} {a : Word}
    {parts : List (Nat × Nat)} {need : Need} (hm : ∀ off, s.form core a ≠ .mem off)
    (hl : s.landParts core staff locks a parts need use = .go k u) : t.landParts core staff locks a parts need use = .go k t := by
  rw [State.landParts_go_iff hm] at hl
  rw [State.landParts_go_iff (by simpa only [h.form] using hm)]
  simp only [h.form, h.isNacked, h.slateOf, h.closed, h.protect, h.locks]
  exact ⟨trivial, hl.2⟩

/-- A slate lets a step on whose gates are as before, to the same key. -/
theorem State.SameGates.enter {s t u : State} (h : s.SameGates t) {core op n use k : Nat} {staff : Bool} {a : Word} {need : Need}
    (he : s.enter core staff op a n need use = .go k u) (hk : isSlateKey k = true) : t.enter core staff op a n need use = .go k t := by
  have hm := State.enter_slate he hk
  unfold State.enter at he ⊢
  dsimp only at he
  simp only [h.form, h.lockedBy, h.slateOf, h.isNacked, h.protect, h.arg, h.locks]
  by_cases hg : (s.lockedBy op (s.form core a) || (s.arg.slot && (s.slateOf (s.form core a)).isSome)) = true
  · rw [if_pos hg] at he ⊢
    cases hn : s.isNacked core staff (s.form core a)
    · cases hp : s.protect core staff (s.form core a) need with
      | error e => simp [hn, hp] at he
      | ok key =>
        simp only [hn, hp, Bool.false_eq_true, if_false] at he ⊢
        split at he
        · cases he
        · rename_i hl
          cases he
          rw [if_neg hl]
    · simp [hn] at he
  · rw [if_neg hg] at he ⊢
    cases hl : s.land core staff false a n need use with
    | go j v =>
      rw [hl] at he
      rw [show t.land core staff false a n need use = .go j t from h.landParts hm hl]
      dsimp only at he ⊢
      split at he
      · cases he
      · rename_i hlk
        cases he
        rw [if_neg hlk]
    | _ => simp [hl] at he

end Sys2Proof.Machine

end

section
/-! Pairs that are pushed (R35, R55, R56, R272). -/

namespace Sys2Proof.Machine

theorem exec_pushp (a b : Src) (s : State) : exec (.pushp a b) s = execPushp a b s := rfl

/-! ## What a pair's priority reads (R32 to R35, R266) -/

/-- What the rules of nets read is as before: the words of records, descriptors and rule tables, the order of cells, and the octets'
rule caches. -/
structure State.SameNets (s t : State) : Prop where
  dword : ∀ core a, t.dword core a = s.dword core a
  desc : ∀ net, t.desc net = s.desc net
  cellLt : ∀ a b, t.cellLt a b = s.cellLt a b
  rules : ∀ o, (t.octet o).rules = (s.octet o).rules

section
variable {s t : State} (h : s.SameNets t)
include h

theorem State.SameNets.probeRules (core : Nat) (base : Word) (k x y : Nat) : ∀ f i : Nat,
    t.probeRules core base k x y f i = s.probeRules core base k x y f i
  | 0, _ => rfl
  | f + 1, i => by simp only [State.probeRules, h.dword, State.SameNets.probeRules core base k x y f]

theorem State.SameNets.ruleTable (core net x y : Nat) : t.ruleTable core net x y = s.ruleTable core net x y := by
  unfold State.ruleTable State.descWord
  simp only [h.desc, h.dword, h.probeRules]

theorem State.SameNets.rule (core net x y : Nat) : (t.rule core net x y).2 = (s.rule core net x y).2 := by
  unfold State.rule
  extract_lets oct
  rw [h.rules, h.ruleTable]
  split
  · rfl
  · cases pickFirst (fun l : RuleLine => l.net == net && l.x == x && l.y == y) (s.octet oct).rules with
    | some q => rfl
    | none => cases s.ruleTable core net x y <;> rfl

theorem State.SameNets.orderPair (core : Nat) (a b : Word) : t.orderPair core a b = s.orderPair core a b := by
  unfold State.orderPair
  simp only [h.dword, h.cellLt]

theorem State.SameNets.pairPrio (core : Nat) (a b : Word) : (t.pairPrio core a b).2 = (s.pairPrio core a b).2 := by
  unfold State.pairPrio State.descWord
  simp only [h.orderPair, h.dword, h.desc]
  split
  · rfl
  · have hr := h.rule core (s.dword core (s.orderPair core a b).1 % 65536) (bits (s.dword core (s.orderPair core a b).1) 63 52)
      (bits (s.dword core (s.orderPair core a b).2) 63 52)
    generalize t.rule _ _ _ _ = p, s.rule _ _ _ _ = q at hr
    obtain ⟨_, r⟩ := p
    obtain ⟨_, r'⟩ := q
    cases hr
    cases r <;> rfl

end

/-- The lookup of a rule changes no more than an octet's rule cache. -/
theorem State.rule_frame (s : State) (core net x y : Nat) :
    (s.rule core net x y).1 = { s with octets := (s.rule core net x y).1.octets } := by
  unfold State.rule
  extract_lets oct
  split
  · rfl
  · cases pickFirst (fun l : RuleLine => l.net == net && l.x == x && l.y == y) (s.octet oct).rules with
    | some q => rfl
    | none => cases s.ruleTable core net x y <;> rfl

/-- The priority of a pair changes no more than an octet's rule cache. -/
theorem State.pairPrio_frame (s : State) (core : Nat) (a b : Word) :
    (s.pairPrio core a b).1 = { s with octets := (s.pairPrio core a b).1.octets } := by
  unfold State.pairPrio
  dsimp only
  split
  · rfl
  · have hr := s.rule_frame core (s.dword core (s.orderPair core a b).1 % 65536) (bits (s.dword core (s.orderPair core a b).1) 63 52)
      (bits (s.dword core (s.orderPair core a b).2) 63 52)
    generalize s.rule _ _ _ _ = p at hr
    obtain ⟨m, r⟩ := p
    cases r <;> exact hr

/-! ## What the reads of an issue leave -/

/-- The core whose context has read. -/
theorem State.commit_core (s : State) (u : Uses) : (s.commit u).coreAt s.who.core = (s.coreAt s.who.core).after u := by
  obtain ⟨q, he, hq⟩ := (s.commit_took u).core
  have hk : (if u.reads.any (fun p => p.1 == 55) then (s.coreAt s.who.core).takeM 7 else s.coreAt s.who.core).q =
      (s.coreAt s.who.core).q := by
    split
    · exact Core.takeM_q _ _
    · rfl
  have hv : q = (((s.coreAt s.who.core).after u)).q := by
    ext i hi
    have := hq i hi
    unfold rd at this
    rw [dif_pos hi, dif_pos hi] at this
    rw [this]
    unfold Core.after Stream.popped
    dsimp only
    rw [Vector.getElem_ofFn]
    simp only [hk]
    rfl
  rw [he, hv]
  rfl

theorem Core.IssueFrame.win {k l : Core} (h : k.IssueFrame l) : l.win = k.win := by rw [h]
theorem Core.IssueFrame.deque {k l : Core} (h : k.IssueFrame l) : l.deque = k.deque := by rw [h]

/-- What an instruction has read changes no more of a core than its common registers, mailboxes and streams. -/
theorem Core.after_frame (k : Core) (u : Uses) : k.IssueFrame (k.after u) := by
  unfold Core.after
  split
  · exact (Core.takeM_frame k 7).withQ _
  · exact Core.IssueFrame.withQ (k := k) (l := k) rfl _

/-- Reading leaves the gates as they are. -/
theorem State.commit_gates (s : State) (u : Uses) : s.SameGates (s.commit u) := by
  have h := s.commit_took u
  have hd := h.device
  have hw : ∀ c, ((s.commit u).coreAt c).win = (s.coreAt c).win := by
    intro c
    by_cases hc : c = s.who.core
    · subst hc
      rw [State.commit_core]
      exact (Core.after_frame (s.coreAt s.who.core) u).win
    · rw [h.otherCores c hc]
  exact ⟨by rw [hd], by rw [hd], by rw [hd], by rw [hd], hw, fun o => by rw [hd]; rfl,
    fun o => by rw [hd]; rfl, fun o => by rw [hd]; rfl⟩

/-- Reading leaves what the rules of nets read as it is. -/
theorem State.commit_nets (s : State) (u : Uses) : s.SameNets (s.commit u) := by
  have hd := (s.commit_took u).device
  have hg := s.commit_gates u
  have hk : ∀ core a, (s.commit u).cellKey core a = s.cellKey core a := hg.cellKey fun part off => by rw [hd]; rfl
  refine ⟨fun core a => ?_, fun net => by rw [hd]; rfl, hg.cellLt, fun o => by rw [hd]; rfl⟩
  unfold State.dword State.rd8
  rw [hk, (s.commit_took u).mem]

/-! ## The near end of a deque (R56) -/

theorem State.wakeTake_posted (s : State) (core : Nat) : s.Posted (s.wakeTake core) := by
  unfold State.wakeTake
  split
  · split
    · exact State.post_posted _ _ _ _
    · exact .refl s
  · exact .refl s

/-- Putting an entry at the near end of a deque with room changes that deque, and posts steps. -/
theorem State.pushDeque_room {s : State} {core : Nat} (q : QItem) (h : (s.coreAt core).deque.length < 64) :
    (s.setCore core { s.coreAt core with deque := q :: (s.coreAt core).deque }).Posted (s.pushDeque core q) := by
  unfold State.pushDeque State.nearEnd
  dsimp only
  rw [if_neg (by simp only [List.singleton_append, List.length_cons]; omega)]
  refine .trans ?_ (State.wakeTake_posted _ _)
  unfold State.setDeque
  dsimp only
  split
  · exact State.foldl_posted (fun s (e : Nat × Core) => s.wakeTake_posted e.1) _ _
  · exact .refl _

/-- An issue that leaves its context as it was, and its core as given, passes on. -/
theorem State.finish_passed {s m : State} {k : Core} (hw : m.who = s.who) (hc : m.cycle = s.cycle) (hd : m.word = s.word)
    (hx : ∀ c, m.ctx c = s.ctx c) (hk : m.coreAt s.who.core = k) (ho : ∀ j, j ≠ s.who.core → m.coreAt j = s.coreAt j)
    (hm : m.mem = s.mem) : s.Passed m.finish (s.ctx s.who) k := by
  have he : m.finish.ctx s.who = (s.ctx s.who).issued s.cycle s.word ((s.ctx s.who).pc + 8) := by
    unfold State.finish
    rw [← hw, State.endAt_ctx, hc, hd, hx]
  refine ⟨⟨?_, ?_, ?_, ?_⟩, ?_, fun c h => ?_, hk, ho, fun a => ?_⟩
  · rw [he]; rfl
  · rw [he]; rfl
  · rw [he]; rfl
  · rw [he]; rfl
  · dsimp only; rw [he]; rfl
  · exact (State.ctx_setCtx_other _ _ _ _ (by rw [hw]; exact h)).trans (hx c)
  · exact congrArg (memRead · a) hm

/-- Once a pair's records are read and its rule is looked up, its push into a deque with room passes on. -/
theorem State.push_passed {s m : State} {u : Uses} (q : QItem) (hframe : m = { s.commit u with octets := m.octets })
    (hlen : (s.coreAt s.who.core).deque.length < 64) :
    s.Passed (({ m with seq := m.seq + 1 } : State).pushDeque s.who.core q).finish (s.ctx s.who)
      { (s.coreAt s.who.core).after u with deque := q :: (s.coreAt s.who.core).deque } := by
  have htook := s.commit_took u
  have hmk : ∀ j, m.coreAt j = (s.commit u).coreAt j := fun j => by rw [hframe]; rfl
  have hk : m.coreAt s.who.core = (s.coreAt s.who.core).after u := by rw [hmk, s.commit_core]
  have hd : (m.coreAt s.who.core).deque = (s.coreAt s.who.core).deque := by
    rw [hk, (Core.after_frame (s.coreAt s.who.core) u).deque]
  have ho := (State.pushDeque_room (s := { m with seq := m.seq + 1 }) (core := s.who.core) q (hd ▸ hlen)).only
  refine State.finish_passed ?_ ?_ ?_ (fun c => ?_) ?_ (fun j hj => ?_) ?_ <;> rw [ho]
  · change m.who = _; rw [hframe]; exact htook.who
  · change m.cycle = _; rw [hframe]; exact htook.cycle
  · change m.word = _; rw [hframe]; exact htook.word
  · change m.ctx c = _; rw [hframe]; exact htook.ctx c
  · change (State.setCore _ s.who.core _).coreAt s.who.core = _
    rw [State.coreAt_setCore_same]
    change ({ m.coreAt s.who.core with deque := _ :: (m.coreAt s.who.core).deque } : Core) = _
    rw [hd, hk]
  · change (State.setCore _ s.who.core _).coreAt j = _
    rw [State.coreAt_setCore_other _ _ _ _ hj]
    exact (hmk j).trans (htook.otherCores j hj)
  · change m.mem = _; rw [hframe]; exact htook.mem

/-! ## The claim about PUSHP -/

section
variable {s : State} {a b : Src} {v : Vals} (h : s.peek { a := some a, b := some b } = .ok v)
include h

/-- A PUSHP of a record that is not aligned to its size traps. -/
theorem exec_pushp_misaligned {x : Word} (hx : [v.a, v.b].find? (fun x => x.toNat % s.recAlign x != 0) = some x) :
    exec (.pushp a b) s = .next (s.trapHere 0x15 x) := by
  rw [exec_pushp]
  unfold execPushp
  -- the lookup of the rule is a variable here, so that checking the step does not run it
  obtain ⟨prio, hprio⟩ : ∃ f, State.pairPrio = f := ⟨_, rfl⟩
  rw [hprio]
  simp only [h, hx]

/-- A PUSHP of aligned records that it may read puts the pair into its core's deque, under their names and their priority. -/
theorem exec_pushp_push {m : State} {p : Nat} (hx : [v.a, v.b].find? (fun x => x.toNat % s.recAlign x != 0) = none)
    (hf : [v.a, v.b].findSome? (fun x => (s.ownFault x .load).map fun k => (k, x)) = none)
    (hm : (s.commit { a := some a, b := some b }).pairPrio s.who.core (s.norm s.who.core v.a) (s.norm s.who.core v.b) = (m, p)) :
    exec (.pushp a b) s =
      .next (({ m with seq := m.seq + 1 } : State).pushDeque s.who.core
        (pairItem m.seq p (s.norm s.who.core v.a) (s.norm s.who.core v.b) m.cycle)).finish := by
  rw [exec_pushp]
  unfold execPushp
  obtain ⟨prio, hprio⟩ : ∃ f, State.pairPrio = f := ⟨_, rfl⟩
  rw [hprio] at hm ⊢
  simp only [h, hx, hf, hm, State.newId]

end

theorem pairPushes_claim : Claims.PairPushes := by
  intro s a b u h v core x y aligned
  have hal : ∀ w : Word, aligned w ↔ (w.toNat % s.recAlign w != 0) = false := fun w => by
    rw [State.recAlign_eq]; exact bne_eq_false_iff_eq.symm
  have hne : ∀ w : Word, ¬ aligned w → (w.toNat % s.recAlign w != 0) = true := fun w hw => by
    rw [hal, Bool.not_eq_false] at hw; exact hw
  refine ⟨fun ha => ?_, fun ha hb => ?_, fun ha hb hpa hpb hlen => ?_⟩
  · have hx : [v.a, v.b].find? (fun x => x.toNat % s.recAlign x != 0) = some v.a := by
      simp only [List.find?_cons, hne _ ha]
    exact ⟨_, exec_pushp_misaligned h.peek hx, s.trapHere_trapped _ _⟩
  · have hx : [v.a, v.b].find? (fun x => x.toNat % s.recAlign x != 0) = some v.b := by
      simp only [List.find?_cons, (hal _).1 ha, hne _ hb]
    exact ⟨_, exec_pushp_misaligned h.peek hx, s.trapHere_trapped _ _⟩
  · have hx : [v.a, v.b].find? (fun x => x.toNat % s.recAlign x != 0) = none := by
      simp only [List.find?_cons, (hal _).1 ha, (hal _).1 hb, List.find?_nil]
    have hf : [v.a, v.b].findSome? (fun x => (s.ownFault x .load).map fun k => (k, x)) = none := by
      simp [(State.ownFault_none hpa).1, (State.ownFault_none hpb).1]
    have hprio : ((s.commit u).pairPrio core x y).2 = (s.pairPrio core x y).2 := (s.commit_nets u).pairPrio core x y
    have hframe := (s.commit u).pairPrio_frame core x y
    obtain ⟨⟨m, p⟩, hm⟩ : ∃ q, (s.commit u).pairPrio core x y = q := ⟨_, rfl⟩
    rw [hm] at hprio hframe
    dsimp only at hprio hframe
    have hc : m.cycle = s.cycle := by rw [hframe]; exact (s.commit_took u).cycle
    exact ⟨_, pairItem m.seq p x y m.cycle, exec_pushp_push h.peek hx hf hm, rfl, rfl, hprio, hc, State.push_passed _ hframe hlen⟩

/-- Settles O34: the issue of each net instruction goes by its row's request, and PUSHP by the reads of its two operands. -/
theorem netAccesses : Obligations.NetAccesses := ⟨netIssues_claim, pairPushes_claim⟩

end Sys2Proof.Machine

end

section
/-! The run of a built-in rule (R38). -/

namespace Sys2Proof.Machine

theorem exec_builtinRuleRun (s : State) : exec .builtinRuleRun s = execBuiltinRuleRun s := rfl

/-! ## An access that has left stays on its way -/

theorem State.Departs.extend {s t u : State} {a : Access} {lat : Nat} (h : s.Departs t a lat) (hx : t.Extends u) :
    s.Departs u a lat := by
  unfold State.Departs at h ⊢
  split at h <;> rename_i g
  · rw [if_pos g]
    exact State.CarriesN.extend h hx
  · rw [if_neg g]
    exact State.Carries.extend h hx

theorem State.Leaves.extend {s t u : State} {a : Access} (h : s.Leaves t a) (hx : t.Extends u) : s.Leaves u a := by
  unfold State.Leaves at h ⊢
  dsimp only at h ⊢
  split
  case h_3 off hf =>
    rw [hf] at h
    dsimp only at h
    split <;> rename_i ht <;> rw [ht] at h
    · exact State.Departs.extend h hx
    · exact State.Sent.extend h hx
  all_goals rename_i hf; rw [hf] at h
  · exact State.Departs.extend h hx
  · exact State.Departs.extend h hx
  · exact State.Sent.extend h hx
  · exact h

/-- Locks on slates alone hold no access to memory back as it leaves (R101, R360). -/
theorem State.memLocked_slates {s : State} {core : Nat} (h : ∀ l ∈ (s.octet (octetOf core)).locks, l.slate ≠ none) (k : AccKind)
    (a : Word) : s.memLocked core k a = false := by
  have hl : ∀ lo n w, (s.octet (octetOf core)).locks.any (fun l => l.hits none lo n w) = false := by
    intro lo n w
    rw [List.any_eq_false]
    intro l hm
    simp [Lock.hits, h l hm]
  unfold State.memLocked
  simp [hl]

/-! ## The pieces of the run -/

section
variable {s : State} {c : CtxId} {n : Nat} {p q : Word} (hc : s.arg.c = c) (hb : (s.ctx c).builtin = some (n, p, q))
  (hrun : (s.ctx c).run = s.arg.run) (hlife : (s.ctx c).life = .active) (hsave : s.isSaving c = false)
include hc hb hrun hlife hsave

/-- A run whose accesses are not done looks again in the next cycle. -/
theorem exec_builtinRuleRun_busy (h : (s.ctx c).plain ≠ .none ∨ (s.ctx c).relaxed ≠ 0 ∨ (s.ctx c).drops ≠ []) :
    exec .builtinRuleRun s = .next (s.post (s.cycle + 1) .builtinRuleRun s.arg) := by
  have hq : (!(s.ctx c).quiet || !(s.ctx c).drops.isEmpty) = true := by
    rw [Bool.or_eq_true, Bool.not_eq_true', ← Bool.not_eq_true, Ctx.quiet_iff]
    simp only [Bool.not_eq_true', List.isEmpty_eq_false_iff]
    tauto
  subst hc
  rw [exec_builtinRuleRun]
  unfold execBuiltinRuleRun
  simp only [hb, hrun, hlife, hsave, hq, bne_self_eq_false, Bool.false_or, Bool.false_eq_true, if_true, if_false]

variable (hplain : (s.ctx c).plain = .none) (hrel : (s.ctx c).relaxed = 0) (hdrop : (s.ctx c).drops = [])
include hplain hrel hdrop

/-- Pieces 3 and 4 return the two consumed records. -/
theorem exec_builtinRuleRun_free (hn : n = 3 ∨ n = 4) :
    exec .builtinRuleRun s = .next ((({ s with who := c, word := 0 } : State).startAccess (.free (s.ctx c).net.toNat)
      (rd (s.ctx c).s (n - 2) 0) false .none).nextPhase c (n + 1) p q) := by
  have hq : (!(s.ctx c).quiet || !(s.ctx c).drops.isEmpty) = false := by
    rw [(Ctx.quiet_iff _).2 ⟨hplain, hrel⟩, hdrop]; rfl
  subst hc
  rw [exec_builtinRuleRun]
  unfold execBuiltinRuleRun
  -- the first piece's take is a variable here, so that checking the step does not run it
  obtain ⟨take, htake⟩ : ∃ f, State.builtinTake = f := ⟨_, rfl⟩
  rw [htake]
  simp only [hb, hrun, hlife, hsave, hq, bne_self_eq_false, Bool.false_or, Bool.false_eq_true, if_false]
  rcases hn with rfl | rfl <;> rfl

/-- The piece after the last finishes the context. -/
theorem exec_builtinRuleRun_end (hn : 5 ≤ n) :
    exec .builtinRuleRun s = .next ((({ s with who := c, word := 0 } : State).modCtx c fun x =>
      { x with life := .finished, wait := .none, builtin := none, exitVal := 0 }).wakeHome c.core) := by
  have hq : (!(s.ctx c).quiet || !(s.ctx c).drops.isEmpty) = false := by
    rw [(Ctx.quiet_iff _).2 ⟨hplain, hrel⟩, hdrop]; rfl
  obtain ⟨m, rfl⟩ := Nat.exists_eq_add_of_le' hn
  subst hc
  rw [exec_builtinRuleRun]
  unfold execBuiltinRuleRun
  obtain ⟨take, htake⟩ : ∃ f, State.builtinTake = f := ⟨_, rfl⟩
  rw [htake]
  simp only [hb, hrun, hlife, hsave, hq, bne_self_eq_false, Bool.false_or, Bool.false_eq_true, if_false]

end

/-! ## The phase after a piece -/

theorem State.nextPhase_ctx (s : State) (c : CtxId) (n : Nat) (p q : Word) :
    (s.nextPhase c n p q).ctx c = { s.ctx c with builtin := some (n, p, q), starting := false, insCount := (s.ctx c).insCount + 1 } :=
  SMap.get_set_same _ _ _ _

theorem State.nextPhase_due (s : State) (c : CtxId) (n : Nat) (p q : Word) :
    (s.nextPhase c n p q).Due (s.cycle + 8) .builtinRuleRun { c := c, run := (s.ctx c).run } :=
  State.post_due _ _ _ _

theorem State.nextPhase_extends (s : State) (c : CtxId) (n : Nat) (p q : Word) : s.Extends (s.nextPhase c n p q) :=
  ⟨rfl, Nat.le_succ _, fun _ h => List.mem_cons_of_mem _ h, fun _ h => h⟩

/-- A record that a built-in rule returns leaves as a plain access of its context, which goes on 8 cycles later. -/
theorem State.free_nextPhase {s : State} (c : CtxId) (net n : Nat) (a p q : Word) (hbuddy : (s.ctx c).buddy = none)
    (hbad : s.form c.core a ≠ .bad) (hl : ∀ l ∈ (s.octet (octetOf c.core)).locks, l.slate ≠ none) :
    let m : State := { s with who := c, word := 0 }
    let t := (m.startAccess (.free net) a false .none).nextPhase c n p q
    (t.ctx c).builtin = some (n, p, q) ∧ (t.ctx c).plain = .store ∧ t.mem = s.mem ∧
      t.Due (s.cycle + 8) .builtinRuleRun { c := c, run := (s.ctx c).run } ∧
      s.Leaves t (m.theAccess (.free net) a false .none none) := by
  intro m t
  have hp := (m.begun (.free net)).route_posts (m.theAccess (.free net) a false .none none)
  have hleft : m.Leaves _ _ := State.Leaves.mono (f := m.begun (.free net)) rfl rfl (Nat.le_succ _)
    (State.route_leaves _ (m.theAccess (.free net) a false .none none) hbad (State.memLocked_slates hl _ _))
  have ht : t = ((m.begun (.free net)).route (m.theAccess (.free net) a false .none none)).nextPhase c n p q :=
    congrArg (State.nextPhase · c n p q) (State.startAccess_routed (.free net) a hbuddy)
  generalize (m.begun (.free net)).route (m.theAccess (.free net) a false .none none) = r at hp hleft ht
  have hx : r.ctx c = (s.ctx c).accBegun (.free net) false := by
    rw [hp]
    exact SMap.get_set_same _ _ _ _
  have hrun : (r.ctx c).run = (s.ctx c).run := by rw [hx]; rfl
  have hcycle : r.cycle = s.cycle := by rw [hp]; rfl
  rw [ht]
  refine ⟨?_, ?_, ?_, ?_, State.Leaves.extend hleft (r.nextPhase_extends c n p q)⟩
  · rw [r.nextPhase_ctx]
  · rw [r.nextPhase_ctx, hx]; rfl
  · change r.mem = _
    rw [hp]; rfl
  · rw [← hrun, ← hcycle]; exact r.nextPhase_due c n p q

theorem builtinRuns_claim : Claims.BuiltinRuns := by
  intro s c p q hc x
  refine ⟨fun hb => ?_, fun n hb hrun hlife hsave => ⟨exec_builtinRuleRun_busy hc hb hrun hlife hsave,
    fun hplain hrel hdrop => ⟨fun hn hbuddy => ?_, fun hn => ?_⟩⟩⟩
  · subst hc
    rw [exec_builtinRuleRun]
    unfold execBuiltinRuleRun
    obtain ⟨take, htake⟩ : ∃ f, State.builtinTake = f := ⟨_, rfl⟩
    rw [htake]
    simp only [show (s.ctx s.arg.c).builtin = none from hb]
  · intro rec' hbad hl
    obtain ⟨h1, h2, h3, h4, h5⟩ := s.free_nextPhase c x.net.toNat (n + 1) rec' p q hbuddy hbad hl
    exact ⟨_, exec_builtinRuleRun_free hc hb hrun hlife hsave hplain hrel hdrop hn, h1, h2, h3, h4, _, rfl, rfl, rfl, h5⟩
  · refine ⟨_, exec_builtinRuleRun_end hc hb hrun hlife hsave hplain hrel hdrop hn, ?_, ?_, fun d hd => ?_⟩ <;>
      rw [State.wakeHome_same]
    · exact SMap.get_set_same _ _ _ _
    · rfl
    · exact State.ctx_setCtx_other s _ _ _ hd

end Sys2Proof.Machine

end

section
/-! SUPPORT. Stores of cells in slates, and what they leave (R28, R94, R95, R103). -/

namespace Sys2Proof.Machine

/-! ## Bytes of a dword -/

theorem memReadN_congr {l m : List Host.Cell} : ∀ (n k : Nat), (∀ x, k ≤ x → x < k + n → memRead l x = memRead m x) →
    memReadN l k n = memReadN m k n
  | 0, _, _ => rfl
  | n + 1, k, h => by
    rw [memReadN, memReadN, h k (Nat.le_refl _) (by omega), memReadN_congr n (k + 1) fun x h1 h2 => h x (by omega) (by omega)]

theorem memReadN_lt (l : List Host.Cell) : ∀ n k : Nat, memReadN l k n < 256 ^ n
  | 0, _ => Nat.one_pos
  | n + 1, k => by
    have h1 := memReadN_lt l n (k + 1)
    have h2 := (memRead l k).isLt
    rw [memReadN, Nat.pow_succ]
    omega

/-- A number written is read again. -/
theorem memReadN_memWriteN_same {l : List Host.Cell} (hw : Memory.wf l = true) : ∀ (n k v : Nat), v < 256 ^ n →
    memReadN (memWriteN l k n v) k n = v
  | 0, _, v, h => by rw [memReadN]; simp at h; exact h.symm
  | n + 1, k, v, h => by
    rw [memReadN, memWriteN, memReadN_memWriteN_same (memWrite_wf k _ hw) n (k + 1) (v / 256) (by rw [Nat.pow_succ] at h; omega),
      memRead_memWriteN_out n _ (by omega) (memWrite_wf k _ hw), memRead_memWrite_same k _ hw, BitVec.toNat_ofNat]
    omega

/-- Bytes outside those written are read as before. -/
theorem memReadN_memWriteN_out {l : List Host.Cell} (hw : Memory.wf l = true) {k n j m : Nat} (v : Nat) (h : j + m ≤ k ∨ k + n ≤ j) :
    memReadN (memWriteN l k n v) j m = memReadN l j m :=
  memReadN_congr m j fun x h1 h2 => memRead_memWriteN_out n v (by omega) hw

/-! ## Port cells (R28) -/

/-- The fields of a cell, which do not overlap. -/
theorem mkCell_fields (st tag : Nat) (pp : Bool) (a : Word) : ∃ t b n o, t < 256 ∧ b < 2 ∧ n < 4096 ∧ o < 2 ^ 41 ∧
    t = tag % 256 ∧ n = a.toNat / 2 ^ 48 % 4096 ∧ o = a.toNat / 8 % 2 ^ 41 ∧
    mkCell st tag pp a = st * 2 ^ 62 + t * 2 ^ 54 + b * 2 ^ 53 + n * 2 ^ 41 + o :=
  ⟨_, _, _, _, Nat.mod_lt _ (by decide), by cases pp <;> decide, Nat.mod_lt _ (by decide), Nat.mod_lt _ (by decide), rfl, rfl, rfl, rfl⟩

theorem mkCell_lt {st : Nat} (tag : Nat) (pp : Bool) (a : Word) (h : st < 4) : mkCell st tag pp a < 256 ^ 8 := by
  obtain ⟨t, b, n, o, ht, hb, hn, ho, -, -, -, he⟩ := mkCell_fields st tag pp a
  rw [he]
  omega

/-- A cell that is made has its state, its tag and the address it names. -/
theorem cellIs_mkCell (st tag : Nat) (pp : Bool) (a : Word) : Spec.cellIs (mkCell st tag pp a) st (tag % 256) a := by
  obtain ⟨t, b, n, o, ht, hb, hn, ho, et, en, eo, he⟩ := mkCell_fields st tag pp a
  unfold Spec.cellIs
  rw [he, ← et, ← en, ← eo]
  clear et en eo he
  refine ⟨by omega, ?_, ?_, by omega⟩
  · rw [show (st * 2 ^ 62 + t * 2 ^ 54 + b * 2 ^ 53 + n * 2 ^ 41 + o) / 2 ^ 54 = st * 256 + t by omega]
    omega
  · rw [show (st * 2 ^ 62 + t * 2 ^ 54 + b * 2 ^ 53 + n * 2 ^ 41 + o) / 2 ^ 41 = (st * 2 ^ 9 + t * 2 + b) * 4096 + n by omega]
    omega

theorem cellSt_eq {w : Nat} (h : w < 256 ^ 8) : cellSt w = w / 2 ^ 62 := by
  unfold cellSt bits
  omega

theorem cellTag_eq (w : Nat) : cellTag w = w / 2 ^ 54 % 256 := rfl

/-! ## What a write in a slate leaves -/

/-- Nothing has changed of what the slate switch, the names of cells and the records read, of what is parked or poisoned, and of
the class N flits; steps and packets have at most been added. -/
structure State.Keeps (s t : State) : Prop where
  gates : s.SameGates t
  grows : s.Extends t
  flits : s.SameFlits t
  parked : t.parked = s.parked
  poison : t.poison = s.poison
  bridges : t.bridges = s.bridges
  marked : t.marked = s.marked

theorem State.Keeps.refl (s : State) : s.Keeps s := ⟨.refl s, .refl s, fun _ => rfl, rfl, rfl, rfl, rfl⟩

theorem State.Keeps.trans {s t u : State} (h : s.Keeps t) (g : t.Keeps u) : s.Keeps u :=
  ⟨h.gates.trans g.gates, h.grows.trans g.grows, h.flits.trans g.flits, g.parked.trans h.parked, g.poison.trans h.poison,
    g.bridges.trans h.bridges, g.marked.trans h.marked⟩

/-- Steps that are posted keep the rest. -/
theorem State.Posted.keeps {s t : State} (h : s.Posted t) (hn : s.SameFlits t) : s.Keeps t := by
  have ho := h.only
  exact ⟨.of_eq (by rw [ho]), h.grows, hn, by rw [ho], by rw [ho], by rw [ho], by rw [ho]⟩

theorem State.Posted.txn {s t : State} (h : s.Posted t) : t.txn = s.txn := by rw [h.only]

theorem State.replyTo_posted (s : State) (a : Access) (val : VWord) : s.Posted (s.replyTo a val) := by
  unfold State.replyTo State.carryFor
  simp only [Bool.false_and, Bool.false_eq_true, if_false]
  split <;> exact State.carry_posted _ _ _ _ _ _ _ _

/-- The requests that wait on a cell are woken by steps. -/
theorem State.wakeCells_keeps (s : State) (w : Nat) : s.Keeps (s.wakeCells w) := by
  refine (s.wakeCells_posted w).keeps ?_
  unfold State.wakeCells
  exact State.foldl_flits (fun _ _ => State.post_flits _ _ _ rfl) _ _

/-- The CWAITs of a word that are complete get their replies; the rest sleeps on. -/
theorem State.wakeSleepers_keeps (s : State) (w : Nat) :
    s.Keeps (s.wakeSleepers w) ∧ (s.wakeSleepers w).mem = s.mem ∧ (s.wakeSleepers w).txn = s.txn := by
  unfold State.wakeSleepers
  extract_lets v done
  split
  · exact ⟨.refl s, rfl, rfl⟩
  · have hp : State.Posted { s with sleepers := s.sleepers.filter fun z => !done z } (List.foldl _ _ (s.sleepers.filter done)) :=
      State.foldl_posted (fun s z => s.replyTo_posted { z.acc with lat := 0 } (BitVec.ofNat 1024 v)) _ _
    have hn : State.SameFlits { s with sleepers := s.sleepers.filter fun z => !done z } (List.foldl _ _ (s.sleepers.filter done)) :=
      State.foldl_flits (fun s z => s.replyTo_flits { z.acc with lat := 0 } (BitVec.ofNat 1024 v)) _ _
    have hb : s.Keeps { s with sleepers := s.sleepers.filter fun z => !done z } :=
      ⟨.of_eq rfl, .of_eq rfl rfl rfl rfl, .of_eq rfl rfl, rfl, rfl, rfl, rfl⟩
    exact ⟨hb.trans (hp.keeps hn), hp.mem, hp.txn⟩

/-- Nothing is re-tried at a word where nothing is parked (R95). -/
theorem State.passWord_quiet {s : State} {w : Nat} (h : ∀ p ∈ s.parked, p.word ≠ w) : s.passWord w = s := by
  unfold State.passWord
  rw [List.filter_eq_nil_iff.2 fun p hp => by simpa using h p hp]
  rfl

/-- A store to a dword of a slate where nothing is parked writes its bytes, and keeps the rest. -/
theorem State.storeN_dword {s : State} {k : Nat} (v : Nat) (ha : k % 8 = 0) (hs : isSlateKey k = true) (hq : s.Quiet k 8) :
    s.Keeps (s.storeN k 8 v) ∧ (s.storeN k 8 v).mem = memWriteN s.mem k 8 v ∧ (s.storeN k 8 v).txn = s.txn := by
  have hw : wordsOf k 8 = [k / 8] := by
    unfold wordsOf
    rw [show (k + 8 + 7) / 8 - k / 8 = 1 by omega]
    rfl
  have hpoison : (s.putN k 8 v).poison = s.poison := by
    refine List.filter_eq_self.2 fun g _ => ?_
    simp only [Bool.not_eq_true', Bool.and_eq_false_iff, decide_eq_false_iff_not]
    omega
  have hput : s.Keeps (s.putN k 8 v) :=
    ⟨.of_eq rfl, .of_eq rfl rfl rfl rfl, .of_eq rfl rfl, rfl, hpoison, rfl, rfl⟩
  have hst : s.storeN k 8 v = (((s.putN k 8 v).wakeCells (k / 8)).wakeSleepers (k / 8)).passWord (k / 8) := by
    unfold State.storeN State.afterWrite
    rw [hw]
    exact if_pos hs
  obtain ⟨h1, hmem, htxn⟩ := ((s.putN k 8 v).wakeCells (k / 8)).wakeSleepers_keeps (k / 8)
  have hcells := (s.putN k 8 v).wakeCells_posted (k / 8)
  have hkeep := (hput.trans (State.wakeCells_keeps _ _)).trans h1
  rw [hst, State.passWord_quiet fun p hp => hq p (hkeep.parked ▸ hp) _ (by rw [hw]; exact List.mem_singleton_self _)]
  exact ⟨hkeep, hmem.trans hcells.mem, htxn.trans hcells.txn⟩

/-- The log of a step is read by nothing else. -/
theorem State.log_keeps (s : State) (l : NetLog) : s.Keeps { s with txn := l } :=
  ⟨.of_eq rfl, .of_eq rfl rfl rfl rfl, .of_eq rfl rfl, rfl, rfl, rfl, rfl⟩

/-! ## Cells that steps of the wire protocol write (R28, R90, R94) -/

/-- A cell is where it was. -/
theorem State.CellAt.keep {s t : State} {core : Nat} {a : Word} {k : Nat} (h : s.CellAt core a k) (g : s.Keeps t) :
    t.CellAt core a k := by
  have hm := State.enter_slate h.allowed h.slate
  refine ⟨?_, ?_, ?_, h.aligned, h.slate, ?_⟩
  · rw [g.gates.cellKey_slate hm]; exact h.key
  · rw [g.gates.isStaffCore]; exact g.gates.enter h.allowed h.slate
  · unfold State.isPoisoned; rw [g.poison]; exact h.sound
  · unfold State.Quiet; rw [g.parked]; exact h.quiet

/-- A cell in a slate lies on no other node. -/
theorem State.CellAt.here {s : State} {core : Nat} {a : Word} {k : Nat} (h : s.CellAt core a k) : s.isAway core a = false := by
  have hk := h.key
  unfold State.cellKey at hk
  unfold State.isAway
  split
  · rename_i hf
    rw [hf] at hk
    cases hk
  · rfl

/-- What a step reads of a cell. -/
theorem State.CellAt.dword {s : State} {core : Nat} {a : Word} {k : Nat} (h : s.CellAt core a k) : s.dword core a = memReadN s.mem k 8 := by
  unfold State.dword State.rd8
  rw [h.key, Option.map_some, Option.getD_some, show k / 8 * 8 = k by have := h.aligned; omega]

theorem State.dword_lt (s : State) (core : Nat) (a : Word) : s.dword core a < 256 ^ 8 := by
  unfold State.dword State.rd8
  cases s.cellKey core a with
  | none => exact Nat.two_pow_pos 64
  | some k => exact memReadN_lt s.mem 8 _

/-- The holder of a cell stands. -/
theorem State.CellAt.holderOf {s t : State} {core : Nat} {a : Word} {k : Nat} (h : s.CellAt core a k) (g : s.Keeps t) :
    t.holderOf core a = s.holderOf core a := by
  unfold State.holderOf
  rw [(h.keep g).key, h.key]
  simp only [g.gates.installed]

/-- A step's write of a cell: its bytes, and the key of the write in the step's log. -/
theorem State.CellAt.putDword {s : State} {core : Nat} {a : Word} {k : Nat} (h : s.CellAt core a k) (v : Nat) :
    s.Keeps (s.putDword core a v) ∧ (s.putDword core a v).mem = memWriteN s.mem k 8 v ∧
      (s.putDword core a v).txn = { s.txn with keys := k :: s.txn.keys } := by
  have hk : k / 8 * 8 = k := by have := h.aligned; omega
  obtain ⟨hkeep, hmem, -⟩ := State.storeN_dword v h.aligned h.slate h.quiet
  unfold State.putDword
  rw [h.allowed]
  dsimp only
  rw [hk]
  exact ⟨hkeep.trans (State.log_keeps _ _), hmem, rfl⟩

end Sys2Proof.Machine

end

section
/-! The steps of a splice on cells in slates (R40 to R42, R316). -/

namespace Sys2Proof.Machine

theorem exec_firstStep (s : State) : exec .firstStep s = execFirstStep s := rfl
theorem exec_repoint (s : State) : exec .repoint s = execRepoint s := rfl
theorem exec_decide (s : State) : exec .decide s = execDecide s := rfl
theorem exec_freeLMessage (s : State) : exec .freeLMessage s = execFreeLMessage s := rfl
theorem exec_portCellWaitLimit (s : State) : exec .portCellWaitLimit s = execPortCellWaitLimit s := rfl

/-! ## Steps that take effect as a whole (R94) -/

/-- A key that a step of the wire protocol may write: a dword of a slate without poison (R366, R373). -/
def State.sound (s : State) (k : Nat) : Prop := isSlateKey k = true ∧ s.isPoisoned k 8 = false

theorem State.CellAt.soundKey {s : State} {core : Nat} {a : Word} {k : Nat} (h : s.CellAt core a k) : s.sound k := ⟨h.slate, h.sound⟩

/-- No watchpoint lies on a slate (R372). -/
theorem State.watchHits_slate {s : State} {k n : Nat} (h : isSlateKey k = true) : s.watchHits k n = [] := by
  unfold State.watchHits
  rw [if_neg]
  simp only [isSlateKey, Bool.and_eq_true, decide_eq_true_eq] at h
  simp only [isDevKey, decide_eq_true_eq]
  omega

section
variable {s t : State} {f : State → State} (hl : s.latent = []) (ht : f { s with txn := {} } = t) (hstop : t.txn.stop = none)
  (hk : ∀ k ∈ t.txn.keys, s.sound k)
include hl ht hstop hk

/-- A step whose writes nothing stops takes effect. -/
theorem State.atomically_done (core : Nat) (other : Stop → State → State) : s.atomically core f other = { t with txn := {} } := by
  have hmeet : s.meetKeys f = s := by
    unfold State.meetKeys
    rw [hl]
    rfl
  have hpoison : t.txn.keys.find? (fun k => s.isPoisoned k 8) = none :=
    List.find?_eq_none.2 fun k hm => by rw [(hk k hm).2]; exact Bool.false_ne_true
  have hwatch : t.txn.keys.find? (fun k => !(s.watchHits k 8).isEmpty) = none :=
    List.find?_eq_none.2 fun k hm => by rw [State.watchHits_slate (hk k hm).1]; exact Bool.false_ne_true
  unfold State.atomically
  rw [hmeet]
  simp only [ht, hstop, hpoison, hwatch, ite_self]

/-- A step of the wire protocol in its turn at the banks takes effect where its cell lets it on. -/
theorem State.wireStep_done {core k : Nat} {cell : Word} (ev : Instr) (c : CtxId) (bad : Nat → Word → State → State)
    (hslot : s.arg.slot = true) (he : s.enter core (s.isStaffCore core) 0 cell 8 .fullEmpty 1 = .go k s) (hne : t.txn.keys ≠ []) :
    s.wireStep ev core c cell f bad = { t with txn := {} } := by
  unfold State.wireStep
  extract_lets again miss
  rw [he]
  -- the booking of the banks is a variable here, so that checking the step does not run it
  obtain ⟨take, htake⟩ : ∃ g, State.bankTakes = g := ⟨_, rfl⟩
  rw [htake]
  simp only [hslot, Bool.not_true, Bool.false_and, Bool.false_eq_true, if_false, if_true]
  refine State.atomically_done hl ?_ hstop hk core _
  rw [ht, if_neg (by simp [hne])]

end

/-! ## What the parts of a first step leave -/

theorem State.modRun_keeps (s : State) (c : CtxId) (run : Nat) (f : Ctx → Ctx) :
    s.Keeps (s.modRun c run f) ∧ (s.modRun c run f).mem = s.mem ∧ (s.modRun c run f).txn = s.txn := by
  unfold State.modRun
  split
  · exact ⟨⟨.of_eq rfl, .of_eq rfl rfl rfl rfl, .of_eq rfl rfl, rfl, rfl, rfl, rfl⟩, rfl, rfl⟩
  · rename_i o i _
    have ho : ∀ (x : Octet → Octet) (j : Nat), ((s.modOctet o x).octet j) = if j = o then x (s.octet o) else s.octet j := by
      intro x j
      split <;> rename_i h
      · subst h; exact State.octet_setOctet_same _ _ _
      · exact State.octet_setOctet_other _ _ _ _ h
    refine ⟨⟨⟨rfl, rfl, rfl, rfl, fun _ => rfl, fun j => ?_, fun j => ?_, fun j => ?_⟩, .of_eq rfl rfl rfl rfl, .of_eq rfl rfl,
      rfl, rfl, rfl, rfl⟩, rfl, rfl⟩
    all_goals
      rw [ho]
      split <;> rename_i h
      · rw [h]
      · rfl
  · exact ⟨.refl s, rfl, rfl⟩

theorem State.noteWired_keeps (s : State) (r : WireReq) :
    s.Keeps (s.noteWired r) ∧ (s.noteWired r).mem = s.mem ∧ (s.noteWired r).txn = s.txn := by
  unfold State.noteWired
  extract_lets core inRec
  split
  · exact State.modRun_keeps _ _ _ _
  · exact ⟨.refl s, rfl, rfl⟩

/-- A class N packet of a state that has kept what matters leaves as it would have before. -/
theorem State.Keeps.carriesN {s u : State} (g : s.Keeps u) (core dst len lat : Nat) (ev : Instr) (arg : StepArg) :
    s.CarriesN (u.sendN core dst len lat ev arg) core dst len lat ev arg :=
  (u.sendN_carries core dst len lat ev arg).mono g.grows.cycle g.gates.dies g.grows.seq g.flits

/-- A refusal travels back as a packet (R323). -/
theorem State.refuse_carries (s : State) (a : Access) {cause : Nat} (h : cause ≠ 0x17) :
    s.Carries (s.refuse a cause) (s.endDie a) (dieOf a.who.core) false 16 (a.lat - a.lat / 2) .landingFaultReport
      { acc := a, cause := cause } := by
  unfold State.refuse State.carryFor State.carry State.Carries
  simp only [beq_iff_eq, if_neg h, Bool.false_and, Bool.false_eq_true, if_false, Bool.or_true, if_true, Nat.add_zero]
  by_cases hd : s.endDie a = dieOf a.who.core ∨ a.lat - a.lat / 2 < s.crossTime (s.endDie a) (dieOf a.who.core) 16 false
  · rw [if_pos hd, if_pos (by simpa using hd)]
    exact ⟨_, List.mem_cons_self .., Nat.le_add_right _ _, rfl, rfl, Nat.le_refl _⟩
  · rw [if_neg hd, if_neg (by simpa using hd)]
    exact ⟨_, List.mem_cons_self .., rfl, rfl, rfl, rfl, rfl, rfl, rfl, rfl, _, List.mem_cons_self .., Nat.le_refl _, rfl, rfl,
      Nat.le_succ _⟩

end Sys2Proof.Machine

end

section
/-! The first step of a splice (R40 to R42). -/

namespace Sys2Proof.Machine

/-! ## Where a try at an old cell leads (R40, R42) -/

section
variable {m : State} {r : WireReq} {k : Nat} (hkey : m.CellAt r.acc.who.core r.old k)
  (hnew : cellSt (m.dword r.acc.who.core r.new) = 0)
include hkey hnew

/-- A request's first try goes by the state of its old cell. -/
theorem State.tryFirst_new : m.tryFirst r none =
    if cellSt (memReadN m.mem k 8) = 1 then m.firstLive r (memReadN m.mem k 8)
    else if cellSt (memReadN m.mem k 8) ≠ 0 then m.spliceDone r 0x28
    else m.waitCell r k := by
  have hall : m.cellWaits.filter (fun z => some z.id != none) = m.cellWaits := List.filter_eq_self.2 fun _ _ => rfl
  have hk : m.rd8 (k / 8 * 8) = memReadN m.mem k 8 := by
    rw [show k / 8 * 8 = k by have := hkey.aligned; omega]; rfl
  unfold State.tryFirst
  -- the ends of a try are variables here, so that checking the step does not run them
  obtain ⟨live, hlive⟩ : ∃ g, State.firstLive = g := ⟨_, rfl⟩
  obtain ⟨done, hdone⟩ : ∃ g, State.spliceDone = g := ⟨_, rfl⟩
  rw [hlive, hdone]
  simp only [hkey.key, hk, hnew, hall, bne_self_eq_false, Bool.false_eq_true, if_false, beq_iff_eq, bne_iff_ne]

/-- A request that has waited on a FREE cell has one try more, or is refused past its limit. -/
theorem State.tryFirst_again (h : cellSt (memReadN m.mem k 8) = 0) (i : Nat) : m.tryFirst r (some i) =
    if ((m.runCtx r.acc.who r.acc.run).map fun x => x.waitLimit.toNat).getD r.acc.limit < r.tries + 1 then
      State.spliceDone { m with cellWaits := m.cellWaits.filter fun z => some z.id != some i } r 0x18
    else { m with cellWaits := mapIf (·.id == i) (fun z => { z with req := { z.req with tries := r.tries + 1 }, last := m.cycle })
                                m.cellWaits } := by
  have hk : m.rd8 (k / 8 * 8) = memReadN m.mem k 8 := by
    rw [show k / 8 * 8 = k by have := hkey.aligned; omega]; rfl
  unfold State.tryFirst
  obtain ⟨live, hlive⟩ : ∃ g, State.firstLive = g := ⟨_, rfl⟩
  obtain ⟨done, hdone⟩ : ∃ g, State.spliceDone = g := ⟨_, rfl⟩
  rw [hlive, hdone]
  simp only [hkey.key, hk, hnew, h, bne_self_eq_false, Bool.false_eq_true, if_false, beq_iff_eq, Nat.zero_ne_one]

end

/-- A splice that is no join ends with its reply, or with its refusal (R263). -/
theorem State.spliceDone_single (s : State) {r : WireReq} (h : r.join = false) (cause : Nat) :
    s.spliceDone r cause = if cause = 0 then s.replyTo r.acc 0 else s.refuse r.acc cause := by
  unfold State.spliceDone
  simp only [h, Bool.not_false, if_true, beq_iff_eq]

/-! ## A LIVE old cell -/

/-- A step writes its cell, asks its peer by a class N packet, and ends its instruction's access. -/
theorem State.CellAt.putSendReply {s n : State} {core : Nat} {a : Word} {k : Nat} (h : s.CellAt core a k) (g : s.Keeps n)
    (hmem : n.mem = s.mem) (htxn : n.txn = s.txn) (v : Nat) (b : Word) (ev : Instr) (arg : StepArg) (acc : Access) (val : VWord) :
    let u := n.putDword core a v
    let t := (u.sendN (u.holderOf core a) (u.farDie core b) 80 (u.oneWay core b) ev arg).replyTo acc val
    t.mem = memWriteN s.mem k 8 v ∧ t.txn = { s.txn with keys := k :: s.txn.keys } ∧
      s.CarriesN t (s.holderOf core a) (s.farDie core b) 80 (s.oneWay core b) ev arg := by
  intro u t
  obtain ⟨gu, hmem', htxn'⟩ := (h.keep g).putDword v
  have gk := g.trans gu
  have ht := (u.sendN_posted (u.holderOf core a) (u.farDie core b) 80 (u.oneWay core b) ev arg).trans (State.replyTo_posted _ acc val)
  refine ⟨?_, ?_, ?_⟩
  · rw [ht.mem, hmem', hmem]
  · rw [ht.txn, htxn', htxn]
  · have hc := gk.carriesN (u.holderOf core a) (u.farDie core b) 80 (u.oneWay core b) ev arg
    rw [h.holderOf gk, gk.gates.farDie, gk.gates.oneWay] at hc
    exact hc.extend (h.holderOf gk ▸ gk.gates.farDie core b ▸ gk.gates.oneWay core b ▸ (State.replyTo_posted _ acc val).grows)

section
variable {s t : State} {r : WireReq} {k w : Nat} (h : s.CellAt r.acc.who.core r.old k) (hj : r.join = false)
  (ht : s.firstLive r w = t)
include h hj ht

/-- The first step on a LIVE cell that comes before its peer (case 1 of R41): the cell departs to the fresh cell. -/
theorem State.firstLive_repoint (hlt : s.cellLt r.old (cellPeer w) = true) :
    let core := r.acc.who.core
    let p := cellPeer w
    (∃ pp, t.mem = memWriteN s.mem k 8 (mkCell 2 (cellTag w) pp r.new)) ∧ t.txn = { s.txn with keys := k :: s.txn.keys } ∧
      s.CarriesN t (s.holderOf core r.old) (s.farDie core p) 80 (s.oneWay core p) .repoint
        { wire := { r with peer := p, tag := cellTag w } } := by
  obtain ⟨g, hmem, htxn⟩ := s.noteWired_keeps { r with peer := cellPeer w, tag := cellTag w }
  unfold State.firstLive at ht
  extract_lets core p req n u at ht
  rw [if_pos ((g.gates.cellLt _ _).trans hlt), State.spliceDone_single (r := req) _ hj, if_pos rfl] at ht
  obtain ⟨hm, htx, hc⟩ := h.putSendReply g hmem htxn _ p .repoint { wire := req } r.acc 0
  rw [← ht]
  exact ⟨⟨_, hm⟩, htx, hc⟩

/-- The first step on a LIVE cell that comes after its peer (case 4 of R41): the cell departs, and names its peer still. -/
theorem State.firstLive_decide (hlt : s.cellLt r.old (cellPeer w) = false) :
    let core := r.acc.who.core
    let p := cellPeer w
    t.mem = memWriteN s.mem k 8 (w % 2 ^ 62 + 2 * 2 ^ 62) ∧ t.txn = { s.txn with keys := k :: s.txn.keys } ∧
      s.CarriesN t (s.holderOf core r.old) (s.farDie core p) 80 (s.oneWay core p) .decide
        { wire := { r with peer := p, tag := cellTag w } } := by
  obtain ⟨g, hmem, htxn⟩ := s.noteWired_keeps { r with peer := cellPeer w, tag := cellTag w }
  unfold State.firstLive at ht
  extract_lets core p req n u v at ht
  rw [if_neg (by rw [g.gates.cellLt, hlt]; exact Bool.false_ne_true), State.spliceDone_single (r := req) _ hj, if_pos rfl] at ht
  rw [← ht]
  exact h.putSendReply g hmem htxn _ p .decide { wire := req } r.acc 0

end

/-- A request that finds its old cell FREE waits, and is tried again in 256 cycles (R42). -/
theorem State.waitCell_waits (s : State) (r : WireReq) (k : Nat) :
    let t := s.waitCell r k
    let z : CellWait := { id := s.seq, key := k, req := r, last := s.cycle }
    t.mem = s.mem ∧ t.txn = s.txn ∧ t.cellWaits = s.cellWaits ++ [z] ∧ t.Due (s.cycle + 256) .portCellWaitLimit { id := z.id } := by
  intro t z
  unfold t State.waitCell
  simp only [State.newId]
  rw [State.modRun_frame]
  exact ⟨rfl, rfl, rfl, State.post_due _ _ _ _⟩

/-- The first try of a step goes by the state of the old cell. -/
theorem State.tryFirst_splice {s : State} {r : WireReq} {k : Nat} (hkey : s.CellAt r.acc.who.core r.old k) (hj : r.join = false)
    (hnew : s.dword r.acc.who.core r.new / 2 ^ 62 = 0) : State.tryFirst { s with txn := {} } r none =
    if memReadN s.mem k 8 / 2 ^ 62 = 1 then State.firstLive { s with txn := {} } r (memReadN s.mem k 8)
    else if memReadN s.mem k 8 / 2 ^ 62 ≠ 0 then State.refuse { s with txn := {} } r.acc 0x28
    else State.waitCell { s with txn := {} } r k := by
  have hst : cellSt (memReadN s.mem k 8) = memReadN s.mem k 8 / 2 ^ 62 := cellSt_eq (memReadN_lt _ _ _)
  have hnew' : cellSt (State.dword { s with txn := {} } r.acc.who.core r.new) = 0 := (cellSt_eq (State.dword_lt _ _ _)).trans hnew
  have he := State.tryFirst_new (hkey.keep (s.log_keeps {})) hnew'
  rw [State.spliceDone_single _ hj, if_neg (show ¬ (0x28 : Nat) = 0 by decide)] at he
  rw [← hst]
  exact he

/-! ## The step as a whole -/

section
variable {s : State} {r : WireReq} {k : Nat} (hlat : s.latent = []) (hcuts : ∀ c, (s.coreAt c).cuts = []) (hwire : s.arg.wire = r)
  (hn : s.arg.n = 0) (hkey : s.CellAt r.acc.who.core r.old k)
include hlat hcuts hwire hn hkey

/-- The first step of a splice takes effect as a whole. -/
theorem exec_firstStep_done {t : State} (ht : State.tryFirst { s with txn := {} } r none = t) (hstop : t.txn.stop = none)
    (hk : ∀ j ∈ t.txn.keys, j = k) : exec .firstStep s = .next { t with txn := {} } := by
  have hcut : s.cutCell r.acc.who.core r.old = s := by
    unfold State.cutCell
    extract_lets dst
    split
    · rfl
    · unfold State.cutLog
      rw [if_pos (by rw [hcuts]; rfl)]
  rw [exec_firstStep]
  unfold execFirstStep
  rw [if_pos (by rw [hn]; rfl), hwire, hcut]
  exact congrArg Host.Outcome.next (State.atomically_done hlat ht hstop (fun j hj => hk j hj ▸ hkey.soundKey) _ _)

variable (hj : r.join = false) (hnew : s.dword r.acc.who.core r.new / 2 ^ 62 = 0)
include hj hnew

/-- An old cell that departs refuses the splice. -/
theorem exec_firstStep_departing (hw : 2 ≤ memReadN s.mem k 8 / 2 ^ 62) :
    ∃ t, exec .firstStep s = .next t ∧ t.mem = s.mem ∧
      s.Carries t (s.endDie r.acc) (dieOf r.acc.who.core) false 16 (r.acc.lat - r.acc.lat / 2) .landingFaultReport
        { acc := r.acc, cause := 0x28 } := by
  have hg := s.log_keeps {}
  have hp := State.refuse_posts { s with txn := {} } r.acc 0x28
  have hc := State.refuse_carries { s with txn := {} } r.acc (cause := 0x28) (by decide)
  have htry : State.tryFirst { s with txn := {} } r none = State.refuse { s with txn := {} } r.acc 0x28 := by
    rw [State.tryFirst_splice hkey hj hnew, if_neg (by omega), if_pos (by omega)]
  generalize State.refuse { s with txn := {} } r.acc 0x28 = t at hp hc htry
  have hx : t.txn = {} := by rw [hp]
  have hm : t.mem = s.mem := by rw [hp]
  refine ⟨_, exec_firstStep_done hlat hcuts hwire hn hkey htry (by rw [hx]) (by rw [hx]; exact nofun), hm, ?_⟩
  rw [hg.gates.endDie] at hc
  exact (hc.mono rfl rfl (Nat.le_refl _)).extend (t.log_keeps {}).grows

/-- A FREE old cell waits. -/
theorem exec_firstStep_free (hw : memReadN s.mem k 8 / 2 ^ 62 = 0) :
    ∃ (t : State) (z : CellWait), exec .firstStep s = .next t ∧ t.mem = s.mem ∧ t.cellWaits = s.cellWaits ++ [z] ∧ z.key = k ∧
      z.req = r ∧ z.last = s.cycle ∧ t.Due (s.cycle + 256) .portCellWaitLimit { id := z.id } := by
  obtain ⟨hm, hx, hz, hd⟩ := State.waitCell_waits { s with txn := {} } r k
  have htry : State.tryFirst { s with txn := {} } r none = State.waitCell { s with txn := {} } r k := by
    rw [State.tryFirst_splice hkey hj hnew, if_neg (by omega), if_neg (by omega)]
  generalize State.waitCell { s with txn := {} } r k = t at hm hx hz hd htry
  exact ⟨_, _, exec_firstStep_done hlat hcuts hwire hn hkey htry (by rw [hx]) (by rw [hx]; exact nofun), hm, hz, rfl, rfl, rfl,
    State.Due.extend hd (t.log_keeps {}).grows⟩

/-- A LIVE old cell departs, and its peer is asked. -/
theorem exec_firstStep_live (hinv : s.Inv) (hw : memReadN s.mem k 8 / 2 ^ 62 = 1) :
    let core := r.acc.who.core
    let w := memReadN s.mem k 8
    let p := cellPeer w
    let req := { r with peer := p, tag := w / 2 ^ 54 % 256 }
    ∃ t, exec .firstStep s = .next t ∧ s.SameBytesBut t k 8 ∧
      (s.cellLt r.old p = true → Spec.cellIs (memReadN t.mem k 8) 2 (w / 2 ^ 54 % 256) r.new ∧
        s.CarriesN t (s.holderOf core r.old) (s.farDie core p) 80 (s.oneWay core p) .repoint { wire := req }) ∧
      (s.cellLt r.old p = false → memReadN t.mem k 8 = w % 2 ^ 62 + 2 * 2 ^ 62 ∧
        s.CarriesN t (s.holderOf core r.old) (s.farDie core p) 80 (s.oneWay core p) .decide { wire := req }) := by
  intro core w p req
  have hkey' := hkey.keep (s.log_keeps {})
  obtain ⟨t, ht⟩ : ∃ t, State.firstLive { s with txn := {} } r w = t := ⟨_, rfl⟩
  have htry : State.tryFirst { s with txn := {} } r none = t := by rw [State.tryFirst_splice hkey hj hnew, if_pos hw, ht]
  have hend : ∀ v, t.mem = memWriteN s.mem k 8 v → t.txn = { keys := [k] } →
      exec .firstStep s = .next { t with txn := {} } ∧ s.SameBytesBut { t with txn := {} } k 8 ∧
        (v < 256 ^ 8 → memReadN t.mem k 8 = v) := fun v hm hx =>
    ⟨exec_firstStep_done hlat hcuts hwire hn hkey htry (by rw [hx]) (fun j hjk => by rw [hx] at hjk; exact List.mem_singleton.1 hjk),
      fun x hx => (congrArg (memRead · x) hm).trans (memRead_memWriteN_out 8 v hx hinv),
      fun hv => by rw [hm]; exact memReadN_memWriteN_same hinv 8 k v hv⟩
  have hg := s.log_keeps {}
  have hsent : ∀ {ev : Instr} {arg : StepArg}, State.CarriesN { s with txn := {} } t (State.holderOf { s with txn := {} } core r.old)
      (State.farDie { s with txn := {} } core p) 80 (State.oneWay { s with txn := {} } core p) ev arg →
      s.CarriesN { t with txn := {} } (s.holderOf core r.old) (s.farDie core p) 80 (s.oneWay core p) ev arg := fun h => by
    rw [hkey.holderOf hg, hg.gates.farDie, hg.gates.oneWay] at h
    exact (h.mono rfl rfl (Nat.le_refl _) fun _ => rfl).extend (t.log_keeps {}).grows
  refine ⟨{ t with txn := {} }, ?_⟩
  cases hlt : s.cellLt r.old p
  · obtain ⟨hm, hx, hc⟩ := State.firstLive_decide hkey' hj ht ((hg.gates.cellLt _ _).trans hlt)
    obtain ⟨he, hb, hv⟩ := hend _ hm hx
    exact ⟨he, hb, nofun, fun _ => ⟨hv (by omega), hsent hc⟩⟩
  · obtain ⟨⟨pp, hm⟩, hx, hc⟩ := State.firstLive_repoint hkey' hj ht ((hg.gates.cellLt _ _).trans hlt)
    obtain ⟨he, hb, hv⟩ := hend _ hm hx
    refine ⟨he, hb, fun _ => ⟨?_, hsent hc⟩, nofun⟩
    rw [hv (mkCell_lt _ _ _ (by decide)), cellTag_eq]
    have := cellIs_mkCell 2 (w / 2 ^ 54 % 256) pp r.new
    rwa [Nat.mod_mod] at this

end

end Sys2Proof.Machine

end

section
/-! The timer of a request that waits on a FREE cell (R42, R365). -/

namespace Sys2Proof.Machine

/-- A waiting request's try is one more, or one too many for its context (R365). -/
theorem State.tryFirst_waiting {s : State} {z : CellWait} {k : Nat} (hz : s.cellWaits = [z])
    (hkey : s.CellAt z.req.acc.who.core z.req.old k) (hnew : s.dword z.req.acc.who.core z.req.new / 2 ^ 62 = 0)
    (hw : memReadN s.mem k 8 / 2 ^ 62 = 0) (hplace : s.inPlace z.req.acc.who z.req.acc.run) :
    State.tryFirst { s with txn := {} } z.req (some z.id) =
    if (s.ctx z.req.acc.who).waitLimit.toNat < z.req.tries + 1 then
      State.spliceDone { s with txn := {}, cellWaits := [] } z.req 0x18
    else { s with txn := {}, cellWaits := [{ z with req := { z.req with tries := z.req.tries + 1 }, last := s.cycle }] } := by
  obtain ⟨hrun, hlife, -⟩ := hplace
  have hnew' : cellSt (State.dword { s with txn := {} } z.req.acc.who.core z.req.new) = 0 := (cellSt_eq (State.dword_lt _ _ _)).trans hnew
  have hctx : State.runCtx { s with txn := {} } z.req.acc.who z.req.acc.run = some (s.ctx z.req.acc.who) := by
    unfold State.runCtx
    rw [State.place_here (s := { s with txn := {} }) hrun hlife]
    rfl
  have he := State.tryFirst_again (hkey.keep (s.log_keeps {})) hnew' ((cellSt_eq (memReadN_lt _ _ _)).trans hw) z.id
  rw [hctx] at he
  simpa [hz, mapIf] using he

section
variable {s : State} {z : CellWait} (hz : s.cellWaits = [z]) (hid : z.id = s.arg.id)
include hz hid

/-- The timer finds its request. -/
theorem State.find_cellWait : s.cellWaits.find? (·.id == s.arg.id) = some z := by
  rw [hz]
  simp [hid]

/-- The timer that comes before the last try's 256 cycles are over is set anew. -/
theorem exec_portCellWaitLimit_early (h : s.cycle < z.last + 256) :
    exec .portCellWaitLimit s = .next (s.post (z.last + 256) .portCellWaitLimit s.arg) := by
  rw [exec_portCellWaitLimit]
  unfold execPortCellWaitLimit
  simp only [State.find_cellWait hz hid, h, if_true]

variable {k : Nat} (hlat : s.latent = []) (hkey : s.CellAt z.req.acc.who.core z.req.old k)
  (hnew : s.dword z.req.acc.who.core z.req.new / 2 ^ 62 = 0) (hw : memReadN s.mem k 8 / 2 ^ 62 = 0)
  (hplace : s.inPlace z.req.acc.who z.req.acc.run) (h : z.last + 256 ≤ s.cycle)

include hlat h

/-- The timer that comes when they are over tries the request again, and is set anew. -/
theorem exec_portCellWaitLimit_retry {t : State} (ht : State.tryFirst { s with txn := {} } z.req (some z.id) = t) (hx : t.txn = {}) :
    exec .portCellWaitLimit s = .next (({ t with txn := {} } : State).post (s.cycle + 256) .portCellWaitLimit s.arg) := by
  have hwhole : s.tryWhole .portCellWaitLimit z.req (some z.id) = { t with txn := {} } :=
    State.atomically_done hlat ht (by rw [hx]) (by rw [hx]; exact nofun) _ _
  rw [exec_portCellWaitLimit]
  unfold execPortCellWaitLimit
  simp only [State.find_cellWait hz hid, Nat.not_lt.2 h, if_false, hwhole]

include hkey hnew hw hplace

/-- A request that its context lets wait goes on waiting. -/
theorem exec_portCellWaitLimit_waits (hlim : z.req.tries + 1 ≤ (s.ctx z.req.acc.who).waitLimit.toNat) :
    ∃ t, exec .portCellWaitLimit s = .next t ∧ t.mem = s.mem ∧
      t.cellWaits = [{ z with req := { z.req with tries := z.req.tries + 1 }, last := s.cycle }] := by
  have ht := State.tryFirst_waiting hz hkey hnew hw hplace
  rw [if_neg (Nat.not_lt.2 hlim)] at ht
  exact ⟨_, exec_portCellWaitLimit_retry hz hid hlat h ht rfl, rfl, rfl⟩

/-- A request past its context's limit is refused with 0x18. -/
theorem exec_portCellWaitLimit_refused (hj : z.req.join = false) (hlim : (s.ctx z.req.acc.who).waitLimit.toNat < z.req.tries + 1) :
    ∃ t, exec .portCellWaitLimit s = .next t ∧ t.mem = s.mem ∧ t.cellWaits = [] ∧
      s.Carries t (s.endDie z.req.acc) (dieOf z.req.acc.who.core) false 16 (z.req.acc.lat - z.req.acc.lat / 2) .landingFaultReport
        { acc := z.req.acc, cause := 0x18 } := by
  have ht := State.tryFirst_waiting hz hkey hnew hw hplace
  rw [if_pos hlim, State.spliceDone_single _ hj, if_neg (show ¬ (0x18 : Nat) = 0 by decide)] at ht
  have hg : s.SameGates { s with txn := {}, cellWaits := [] } := .of_eq rfl
  have hp := State.refuse_posts { s with txn := {}, cellWaits := [] } z.req.acc 0x18
  have hc := State.refuse_carries { s with txn := {}, cellWaits := [] } z.req.acc (cause := 0x18) (by decide)
  generalize State.refuse { s with txn := {}, cellWaits := [] } z.req.acc 0x18 = t at hp hc ht
  have hx : t.txn = {} := by rw [hp]
  have hm : t.mem = s.mem := by rw [hp]
  have hcw : t.cellWaits = [] := by rw [hp]
  refine ⟨_, exec_portCellWaitLimit_retry hz hid hlat h ht hx, hm, hcw, ?_⟩
  rw [hg.endDie] at hc
  exact (hc.mono rfl rfl (Nat.le_refl _)).extend ((t.log_keeps {}).grows.trans (State.post_posted _ _ _ _).grows)

end

end Sys2Proof.Machine

end

section
/-! The decisions of a wire: REPOINT, DECIDE, and the message that frees the old cell (R41, R316, R387). -/

namespace Sys2Proof.Machine

/-! ## A device without bridges (R43) -/

theorem State.bridgeOf_none {s : State} (h : s.bridges = []) (core : Nat) (a : Word) : s.bridgeOf core a = none := by
  unfold State.bridgeOf
  rw [h]
  rfl

/-- Steps and packets have at most been added, and neither storage nor bridges have changed. -/
structure State.Adds (s t : State) : Prop where
  grows : s.Extends t
  mem : t.mem = s.mem
  txn : t.txn = s.txn
  bridges : t.bridges = s.bridges

theorem State.Posted.adds {s t : State} (h : s.Posted t) : s.Adds t := ⟨h.grows, h.mem, h.txn, by rw [h.only]⟩

theorem State.Posted.gates {s t : State} (h : s.Posted t) : s.SameGates t := .of_eq (by rw [h.only])

theorem State.Adds.trans {s t u : State} (h : s.Adds t) (g : t.Adds u) : s.Adds u :=
  ⟨h.grows.trans g.grows, g.mem.trans h.mem, g.txn.trans h.txn, g.bridges.trans h.bridges⟩

/-- A pushed pair of principal ends posts a step, and may fill a rule cache. -/
theorem State.pushWire_adds (s : State) (core : Nat) (a b : Word) : s.Adds (s.pushWire core a b) := by
  unfold State.pushWire
  split
  · exact (State.Posted.refl s).adds
  · extract_lets ra rb
    have hf := s.pairPrio_frame core ra rb
    split
    rename_i m p hm
    rw [hm] at hf
    have hm : m = { s with octets := m.octets } := hf
    have hx : s.Adds m := by
      rw [hm]
      exact ⟨.of_eq rfl rfl rfl rfl, rfl, rfl, rfl⟩
    exact hx.trans (m.sendN_posted _ _ _ _ _ _).adds

/-- A complete wire pushes at most its pair where there are no bridges. -/
theorem State.complete_adds {s : State} (h : s.bridges = []) (core : Nat) (a b : Word) : s.Adds (s.complete core a b) := by
  have hp : s.Adds (if s.isPrincipal core a && s.isPrincipal core b then s.pushWire core a b else s) := by
    split
    · exact s.pushWire_adds core a b
    · exact (State.Posted.refl s).adds
  unfold State.complete
  rw [h]
  unfold State.completed
  generalize (if s.isPrincipal core a && s.isPrincipal core b then s.pushWire core a b else s) = m at hp ⊢
  have hb : m.bridges = [] := hp.bridges.trans h
  simp only [State.bridgeOf_none hb]
  exact hp

/-- No record is returned where none is marked (R42). -/
theorem State.checkRec_none {s : State} (h : s.marked = []) (k : Nat) : s.checkRec k = s := by
  unfold State.checkRec
  rw [h]
  rfl

/-! ## Joined cells -/

theorem State.CellAt.setLive {s : State} {core : Nat} {a : Word} {k : Nat} (h : s.CellAt core a k) (tag : Nat) (peer : Word) :
    s.setLive core a tag peer = s.putDword core a (mkCell 1 tag (s.isPrincipal core peer) (s.norm core peer)) := by
  unfold State.setLive
  rw [if_neg (by rw [h.here]; exact Bool.false_ne_true)]

section
variable {s u : State} {r : WireReq} {k n : Nat} (g : s.Keeps u) (hk : s.CellAt r.acc.who.core r.peer k)
  (hn : s.CellAt r.acc.who.core r.new n)
include g hk hn

/-- The cell that a decision finds and the fresh cell are LIVE, and name each other. -/
theorem State.setLive_setNew (tag : Nat) :
    let core := r.acc.who.core
    let v := (u.setLive core r.peer tag r.new).setNew r tag r.peer
    s.Keeps v ∧ v.txn = { u.txn with keys := n :: k :: u.txn.keys } ∧
      ∃ p q, v.mem = memWriteN (memWriteN u.mem k 8 (mkCell 1 tag p (s.norm core r.new))) n 8 (mkCell 1 tag q (s.norm core r.peer)) := by
  intro core v
  obtain ⟨g1, m1, x1⟩ := (hk.keep g).putDword (mkCell 1 tag (u.isPrincipal core r.new) (u.norm core r.new))
  rw [← (hk.keep g).setLive] at g1 m1 x1
  have gw := g.trans g1
  have hv : v = _ := (if_neg (by rw [(hn.keep gw).here]; exact Bool.false_ne_true)).trans ((hn.keep gw).setLive tag r.peer)
  generalize u.setLive core r.peer tag r.new = w at g1 m1 x1 gw hv
  obtain ⟨g2, m2, x2⟩ := (hn.keep gw).putDword (mkCell 1 tag (w.isPrincipal core r.peer) (w.norm core r.peer))
  rw [← hv] at g2 m2 x2
  refine ⟨gw.trans g2, ?_, u.isPrincipal core r.new, w.isPrincipal core r.peer, ?_⟩
  · rw [x2, x1]
  · rw [m2, m1, g.gates.norm, gw.gates.norm]

omit hn in
/-- A decision frees the old cell by a message, and its wire is complete. -/
theorem State.freeMessage_completeNew (hb : s.bridges = []) (hnew : s.isAway r.acc.who.core r.new = false) :
    let core := r.acc.who.core
    let t := (u.freeMessage r r.old).completeNew r r.peer
    t.mem = u.mem ∧ t.txn = u.txn ∧
      s.CarriesN t (s.holderOf core r.peer) (s.farDie core r.old) 80 (s.oneWay core r.old) .freeLMessage { v := r.old, wire := r } := by
  intro core t
  have hc := g.carriesN (u.holderOf core r.peer) (u.farDie core r.old) 80 (u.oneWay core r.old) .freeLMessage { v := r.old, wire := r }
  have hp : u.Posted (u.freeMessage r r.old) := u.sendN_posted _ _ _ _ _ _
  have hf : u.freeMessage r r.old = _ := rfl
  unfold State.freeMessage at hf
  rw [← hf] at hc
  have ht : t = (u.freeMessage r r.old).complete core r.peer r.new :=
    if_neg (by rw [(g.gates.trans hp.gates).isAway, hnew]; exact Bool.false_ne_true)
  have ha := (u.freeMessage r r.old).complete_adds (hp.adds.bridges.trans (g.bridges.trans hb)) core r.peer r.new
  rw [← ht] at ha
  rw [hk.holderOf g, g.gates.farDie, g.gates.oneWay] at hc
  exact ⟨ha.mem.trans hp.mem, ha.txn.trans hp.txn, hc.extend ha.grows⟩

end

/-! ## The steps at the peer's bank -/

section
variable {s : State} {r : WireReq} {k n : Nat} (hb : s.bridges = []) (hk : s.CellAt r.acc.who.core r.peer k)
  (hn : s.CellAt r.acc.who.core r.new n) (hst : memReadN s.mem k 8 / 2 ^ 62 = 1) (htag : memReadN s.mem k 8 / 2 ^ 54 % 256 = r.tag)
  (hold : s.sameCell r.acc.who.core (cellPeer (memReadN s.mem k 8)) r.old = true)

/-- What a decision does: it joins the cell that it finds and the fresh cell, and frees the old cell by a message. -/
def State.joinCells (s : State) (r : WireReq) (tag : Nat) : State :=
  let u := (s.setLive r.acc.who.core r.peer tag r.new).setNew r tag r.peer
  (u.freeMessage r r.old).completeNew r r.peer

/-- What a decision of a wire leaves: the found cell and the fresh cell are LIVE under one tag and name each other, and the old
cell is freed by a message. -/
def State.Joined (s t : State) (r : WireReq) (k n tag : Nat) : Prop :=
  let core := r.acc.who.core
  (∃ p q, t.mem = memWriteN (memWriteN s.mem k 8 (mkCell 1 tag p (s.norm core r.new))) n 8 (mkCell 1 tag q (s.norm core r.peer))) ∧
    t.txn = { s.txn with keys := n :: k :: s.txn.keys } ∧
    s.CarriesN t (s.holderOf core r.peer) (s.farDie core r.old) 80 (s.oneWay core r.old) .freeLMessage { v := r.old, wire := r }

include hb hk hn in
theorem State.Keeps.joined {u : State} (g : s.Keeps u) (hmem : u.mem = s.mem) (htxn : u.txn = s.txn) (tag : Nat) :
    s.Joined (u.joinCells r tag) r k n tag := by
  obtain ⟨gv, hx, p, q, hm⟩ := State.setLive_setNew g hk hn tag
  obtain ⟨hm', hx', hc⟩ := State.freeMessage_completeNew gv hk hb hn.here
  refine ⟨⟨p, q, ?_⟩, hx'.trans (by rw [hx, htxn]), hc⟩
  exact hm'.trans (by rw [hm, hmem])

include hb hk hn hst htag hold

/-- A REPOINT that finds the peer LIVE under its tag, naming the old cell, keeps the tag (case 2 of R41). -/
theorem State.repointStep_joined : s.Joined (s.repointStep r) r k n r.tag := by
  have hw := hk.dword
  have h1 : cellSt (memReadN s.mem k 8) = 1 := (cellSt_eq (memReadN_lt _ _ _)).trans hst
  have h2 : cellTag (memReadN s.mem k 8) = r.tag := htag
  have he : s.repointStep r = s.joinCells r r.tag := by
    unfold State.repointStep
    simp only [hw, h1, h2, hold, State.bridgeOf_none hb, Option.filter_none, beq_self_eq_true, Bool.and_self, if_true]
    rfl
  rw [he]
  exact State.Keeps.joined hb hk hn (.refl s) rfl rfl r.tag

/-- A DECIDE that finds the peer so draws a tag of its bank (case 5 of R41). -/
theorem State.decideStep_joined : ∃ tag, s.Joined (s.decideStep r) r k n tag := by
  have hw := hk.dword
  have h1 : cellSt (memReadN s.mem k 8) = 1 := (cellSt_eq (memReadN_lt _ _ _)).trans hst
  have h2 : cellTag (memReadN s.mem k 8) = r.tag := htag
  obtain ⟨tag, u, hu⟩ : ∃ tag u, s.newTag r.acc.who.core r.peer = (tag, u) := ⟨_, _, rfl⟩
  have he : s.decideStep r = u.joinCells r tag := by
    unfold State.decideStep
    simp only [hw, h1, h2, hold, hu, State.bridgeOf_none hb, Option.filter_none, beq_self_eq_true, Bool.and_self, if_true,
      bne_self_eq_false, Bool.false_eq_true, if_false, Bool.or_true]
    rfl
  have hg : s.Keeps u ∧ u.mem = s.mem ∧ u.txn = s.txn := by
    unfold State.newTag at hu
    cases hu
    exact ⟨⟨.of_eq rfl, .of_eq rfl rfl rfl rfl, .of_eq rfl rfl, rfl, rfl, rfl, rfl⟩, rfl, rfl⟩
  obtain ⟨g, hmem, htxn⟩ := hg
  rw [he]
  exact ⟨tag, State.Keeps.joined hb hk hn g hmem htxn tag⟩

end

end Sys2Proof.Machine

end

section
/-! The steps of a decision as a whole (R41, R42, R316). -/

namespace Sys2Proof.Machine

theorem State.sameCell_log (s : State) (l : NetLog) (core : Nat) (a b : Word) :
    State.sameCell { s with txn := l } core a b = s.sameCell core a b := rfl

/-! ## What a decision leaves in its cells -/

/-- Two dwords written one after the other are read again, and every other byte is as before. -/
theorem memReadN_two {l : List Host.Cell} (hw : Memory.wf l = true) {k n v w : Nat} (hk : k % 8 = 0) (hn : n % 8 = 0) (hne : k ≠ n)
    (hv : v < 256 ^ 8) (hw' : w < 256 ^ 8) :
    let m := memWriteN (memWriteN l k 8 v) n 8 w
    memReadN m k 8 = v ∧ memReadN m n 8 = w ∧
      ∀ x, (x < k ∨ k + 8 ≤ x) → (x < n ∨ n + 8 ≤ x) → memRead m x = memRead l x := by
  have h1 := memWriteN_wf 8 k v hw
  refine ⟨?_, memReadN_memWriteN_same h1 8 n w hw', fun x hx hy => ?_⟩
  · rw [memReadN_memWriteN_out h1 w (by omega), memReadN_memWriteN_same hw 8 k v hv]
  · rw [memRead_memWriteN_out 8 w hy h1, memRead_memWriteN_out 8 v hx hw]

/-- A decided wire, whose step has taken effect. -/
theorem State.Joined.settled {s t : State} {r : WireReq} {k n tag : Nat} (h : State.Joined { s with txn := {} } t r k n tag)
    (hinv : s.Inv) (hk : s.CellAt r.acc.who.core r.peer k) (hn : s.CellAt r.acc.who.core r.new n) (hne : k ≠ n) :
    let core := r.acc.who.core
    let f : State := { t with txn := {} }
    Spec.cellIs (memReadN f.mem k 8) 1 (tag % 256) (s.norm core r.new) ∧
      Spec.cellIs (memReadN f.mem n 8) 1 (tag % 256) (s.norm core r.peer) ∧
      (∀ x, (x < k ∨ k + 8 ≤ x) → (x < n ∨ n + 8 ≤ x) → memRead f.mem x = memRead s.mem x) ∧
      s.CarriesN f (s.holderOf core r.peer) (s.farDie core r.old) 80 (s.oneWay core r.old) .freeLMessage
        { v := r.old, wire := r } := by
  obtain ⟨⟨p, q, hm⟩, -, hc⟩ := h
  have hg := s.log_keeps {}
  have hlt : ∀ pp a, mkCell 1 tag pp a < 256 ^ 8 := fun pp a => mkCell_lt _ _ _ (by decide)
  rw [hg.gates.norm, hg.gates.norm] at hm
  rw [hk.holderOf hg, hg.gates.farDie, hg.gates.oneWay] at hc
  obtain ⟨h1, h2, h3⟩ := memReadN_two hinv hk.aligned hn.aligned hne (hlt p (s.norm r.acc.who.core r.new))
    (hlt q (s.norm r.acc.who.core r.peer))
  intro core f
  refine ⟨?_, ?_, fun x hx hy => ?_, (hc.mono rfl rfl (Nat.le_refl _) fun _ => rfl).extend (t.log_keeps {}).grows⟩
  · rw [show f.mem = _ from hm, h1]
    exact cellIs_mkCell _ _ _ _
  · rw [show f.mem = _ from hm, h2]
    exact cellIs_mkCell _ _ _ _
  · rw [show f.mem = _ from hm]
    exact h3 x hx hy

/-! ## The steps -/

section
variable {s : State} {r : WireReq} {k n : Nat} (hinv : s.Inv) (hb : s.bridges = []) (hlat : s.latent = []) (hwire : s.arg.wire = r)
  (hslot : s.arg.slot = true) (hk : s.CellAt r.acc.who.core r.peer k)
  (hn : s.CellAt r.acc.who.core r.new n) (hne : k ≠ n) (hst : memReadN s.mem k 8 / 2 ^ 62 = 1)
  (htag : memReadN s.mem k 8 / 2 ^ 54 % 256 = r.tag)
  (hold : s.sameCell r.acc.who.core (cellPeer (memReadN s.mem k 8)) r.old = true)

include hlat hslot hk hn in
/-- A decision in its turn at the banks takes effect. -/
theorem State.Joined.wireStep {f : State → State} {tag : Nat}
    (h : State.Joined { s with txn := {} } (f { s with txn := {} }) r k n tag) (ev : Instr) (c : CtxId)
    (bad : Nat → Word → State → State) :
    s.wireStep ev r.acc.who.core c r.peer f bad = { f { s with txn := {} } with txn := {} } := by
  obtain ⟨-, hx, -⟩ := h
  refine State.wireStep_done hlat rfl (by rw [hx]) (fun j hj => ?_) ev c bad hslot hk.allowed (by rw [hx]; exact List.cons_ne_nil _ _)
  rw [hx] at hj
  rcases List.mem_cons.1 hj with rfl | hj
  · exact hn.soundKey
  · rw [List.mem_singleton.1 hj]
    exact hk.soundKey

include hinv hb hlat hwire hslot hk hn hne hst htag hold

/-- A REPOINT joins the peer and the fresh cell under the tag that they have (case 2 of R41). -/
theorem exec_repoint_joins (ht : r.tag < 256) :
    let core := r.acc.who.core
    ∃ t, exec .repoint s = .next t ∧ Spec.cellIs (memReadN t.mem k 8) 1 r.tag (s.norm core r.new) ∧
      Spec.cellIs (memReadN t.mem n 8) 1 r.tag (s.norm core r.peer) ∧
      (∀ x, (x < k ∨ k + 8 ≤ x) → (x < n ∨ n + 8 ≤ x) → memRead t.mem x = memRead s.mem x) ∧
      s.CarriesN t (s.holderOf core r.peer) (s.farDie core r.old) 80 (s.oneWay core r.old) .freeLMessage
        { v := r.old, wire := r } := by
  have hg := s.log_keeps {}
  have hj := State.repointStep_joined (s := { s with txn := {} }) hb (hk.keep hg) (hn.keep hg) hst htag
    ((s.sameCell_log {} _ _ _).trans hold)
  have he : exec .repoint s = .next { State.repointStep { s with txn := {} } r with txn := {} } := by
    rw [exec_repoint]
    unfold execRepoint
    simp only [hwire, hk.here, Bool.false_eq_true, if_false, State.Joined.wireStep (f := fun s => s.repointStep r) hlat hslot hk hn hj]
  have hs := hj.settled hinv hk hn hne
  rw [Nat.mod_eq_of_lt ht] at hs
  exact ⟨_, he, hs⟩

/-- A DECIDE joins them under a new tag of the peer's bank (case 5 of R41). -/
theorem exec_decide_joins :
    let core := r.acc.who.core
    ∃ t tag, exec .decide s = .next t ∧ tag < 256 ∧ Spec.cellIs (memReadN t.mem k 8) 1 tag (s.norm core r.new) ∧
      Spec.cellIs (memReadN t.mem n 8) 1 tag (s.norm core r.peer) ∧
      (∀ x, (x < k ∨ k + 8 ≤ x) → (x < n ∨ n + 8 ≤ x) → memRead t.mem x = memRead s.mem x) ∧
      s.CarriesN t (s.holderOf core r.peer) (s.farDie core r.old) 80 (s.oneWay core r.old) .freeLMessage
        { v := r.old, wire := r } := by
  have hg := s.log_keeps {}
  obtain ⟨tag, hj⟩ := State.decideStep_joined (s := { s with txn := {} }) hb (hk.keep hg) (hn.keep hg) hst htag
    ((s.sameCell_log {} _ _ _).trans hold)
  have he : exec .decide s = .next { State.decideStep { s with txn := {} } r with txn := {} } := by
    rw [exec_decide]
    unfold execDecide
    simp only [hwire, hk.here, Bool.false_eq_true, if_false, State.Joined.wireStep (f := fun s => s.decideStep r) hlat hslot hk hn hj]
  exact ⟨_, tag % 256, he, Nat.mod_lt _ (by decide), hj.settled hinv hk hn hne⟩

end

/-- A cell that is freed is written with zero where no record waits for its return (R42, R316). -/
theorem State.CellAt.freeCell {s : State} {core : Nat} {a : Word} {k : Nat} (h : s.CellAt core a k) (hm : s.marked = []) :
    s.freeCell core a = s.putDword core a 0 := by
  obtain ⟨g, -, -⟩ := h.putDword 0
  have hc : ∀ j, (s.putDword core a 0).checkRec j = s.putDword core a 0 := State.checkRec_none (g.marked.trans hm)
  unfold State.freeCell
  simp only [(h.keep g).key, hc, ite_self]

/-- The message that frees an old cell that departs makes it FREE (R316). -/
theorem exec_freeLMessage_frees {s : State} {r : WireReq} {k : Nat} (hinv : s.Inv) (hm : s.marked = []) (hlat : s.latent = [])
    (hwire : s.arg.wire = r) (hn : s.arg.n = 0) (hslot : s.arg.slot = true) (hk : s.CellAt r.acc.who.core s.arg.v k)
    (hdue : s.repointDue r.acc.who.core s.arg.v = false) (hst : memReadN s.mem k 8 / 2 ^ 62 = 2) :
    ∃ t, exec .freeLMessage s = .next t ∧ memReadN t.mem k 8 = 0 ∧ s.SameBytesBut t k 8 := by
  have hk' := hk.keep (s.log_keeps {})
  obtain ⟨-, hmem, hx⟩ := hk'.putDword 0
  have hdep : cellSt (State.dword { s with txn := {} } r.acc.who.core s.arg.v) = 2 := by
    rw [hk'.dword]
    exact (cellSt_eq (memReadN_lt _ _ _)).trans hst
  have hf : (if cellSt (State.dword { s with txn := {} } r.acc.who.core s.arg.v) == 2 then
      State.freeCell { s with txn := {} } r.acc.who.core s.arg.v else { s with txn := {} }) =
      State.putDword { s with txn := {} } r.acc.who.core s.arg.v 0 := by
    rw [hdep, if_pos (beq_self_eq_true 2), hk'.freeCell hm]
  generalize State.putDword { s with txn := {} } r.acc.who.core s.arg.v 0 = t at hmem hx hf
  have hstep := State.wireStep_done (f := fun m => if cellSt (m.dword r.acc.who.core s.arg.v) == 2 then
      m.freeCell r.acc.who.core s.arg.v else m) hlat hf (by rw [hx])
    (fun j hj => by rw [hx] at hj; exact List.mem_singleton.1 hj ▸ hk.soundKey) .freeLMessage r.acc.who
    (fun k a m => m.netFaultOf m.arg.wire.acc.who k a) hslot hk.allowed (by rw [hx]; exact List.cons_ne_nil _ _)
  have he : exec .freeLMessage s = .next { t with txn := {} } := by
    rw [exec_freeLMessage]
    unfold execFreeLMessage
    simp only [hwire, hn, hk.here, hdue, hstep, Nat.reduceBEq, Bool.false_eq_true, if_false]
  refine ⟨_, he, ?_, fun x hx => ?_⟩
  · exact (congrArg (memReadN · k 8) hmem).trans (memReadN_memWriteN_same hinv 8 k 0 (by decide))
  · exact (congrArg (memRead · x) hmem).trans (memRead_memWriteN_out 8 0 hx hinv)

end Sys2Proof.Machine

end

section
/-! Splices and built-in rules, settled (R28, R38, R40 to R42, R316, R387). -/

namespace Sys2Proof.Machine

theorem spliceSteps_claim : Claims.SpliceSteps := by
  intro s r k hinv hcuts hb hm hlat hj core w
  refine ⟨fun hwire hn hkey hnew => ⟨fun hw => ?_, fun hw => ?_, fun hw => ?_⟩,
    fun n hwire hslot hk hn hne hst htag ht hold => ⟨?_, ?_⟩, fun hwire hn hslot hk hdue hst => ?_,
    fun z hz hid hreq hkey hnew hw hplace => ?_⟩
  · exact exec_firstStep_live hlat hcuts hwire hn hkey hj hnew hinv hw
  · exact exec_firstStep_departing hlat hcuts hwire hn hkey hj hnew hw
  · exact exec_firstStep_free hlat hcuts hwire hn hkey hj hnew hw
  · exact exec_repoint_joins hinv hb hlat hwire hslot hk hn hne hst htag hold ht
  · exact exec_decide_joins hinv hb hlat hwire hslot hk hn hne hst htag hold
  · exact exec_freeLMessage_frees hinv hm hlat hwire hn hslot hk hdue hst
  · subst hreq
    exact ⟨exec_portCellWaitLimit_early hz hid,
      exec_portCellWaitLimit_waits hz hid hlat hkey hnew hw hplace,
      fun h hlim => exec_portCellWaitLimit_refused hz hid hlat hkey hnew hw hplace h hj hlim⟩

/-- Settles O35: the parts of a splice by what each step writes, sends and keeps, and the run of a built-in rule piece by piece. -/
theorem netSteps : Obligations.NetSteps := ⟨spliceSteps_claim, builtinRuns_claim⟩

end Sys2Proof.Machine

end

section
/-! What a step runs (R45, R46, R91, R104, R188): the plan of a step, the fetch of a context, and the choice of a due step. -/

namespace Sys2Proof.Machine

/-! ## The choice of a due step (R91, R104) -/

/-- One step comes before another, or the other before it. -/
theorem Pending.before_iff (p q : Pending) : p.before q = true ↔ p.due < q.due ∨ (p.due = q.due ∧ p.seq ≤ q.seq) := by
  simp [Pending.before]

/-- No step is taken where none is due. -/
theorem takeDue_none {now : Nat} {late : Bool} : ∀ {l : List Pending}, (∀ p ∈ l, p.late = late → now < p.due) → takeDue now late l = none
  | [], _ => rfl
  | p :: r, h => by
    have hp : (p.due ≤ now && p.late == late) = false := by
      rw [Bool.and_eq_false_iff, decide_eq_false_iff_not, beq_eq_false_iff_ne]
      by_cases hl : p.late = late
      · exact .inl (Nat.not_le.2 (h p (List.mem_cons_self ..) hl))
      · exact .inr hl
    unfold takeDue
    rw [takeDue_none fun q hq => h q (List.mem_cons_of_mem _ hq)]
    simp only [hp, Bool.false_eq_true, if_false]

/-- Where none is taken, none is due. -/
theorem takeDue_none_late {now : Nat} {late : Bool} : ∀ {l : List Pending}, takeDue now late l = none →
    ∀ p ∈ l, p.late = late → now < p.due
  | [], _ => by simp
  | x :: r, h => by
    unfold takeDue at h
    dsimp only at h
    cases hr : takeDue now late r with
    | some q => rw [hr] at h; obtain ⟨q, r'⟩ := q; dsimp only at h; split at h <;> cases h
    | none =>
      rw [hr] at h
      dsimp only at h
      have hm : (x.due ≤ now && x.late == late) = false := by
        cases hm : (x.due ≤ now && x.late == late) with
        | false => rfl
        | true => rw [hm, if_pos rfl] at h; cases h
      intro p hp hl
      rcases List.mem_cons.1 hp with rfl | hp
      · rw [hl, beq_self_eq_true, Bool.and_true, decide_eq_false_iff_not] at hm
        exact Nat.not_le.1 hm
      · exact takeDue_none_late hr p hp hl

/-- What is taken of the agenda: a step that is due, before every other that is due, and all but it is left. -/
structure Taken (now : Nat) (kind : Bool) (l : List Pending) (p : Pending) (r : List Pending) : Prop where
  mem : p ∈ l
  due : p.due ≤ now
  late : p.late = kind
  perm : (p :: r).Perm l
  first : ∀ q ∈ l, q.due ≤ now → q.late = kind → p.due < q.due ∨ (p.due = q.due ∧ p.seq ≤ q.seq)

/-- The head is taken where it is due, and before what would be taken of the tail. -/
theorem Taken.head {now : Nat} {late : Bool} {x : Pending} {l : List Pending} (hd : x.due ≤ now) (hl : x.late = late)
    (h : ∀ q ∈ l, q.due ≤ now → q.late = late → x.due < q.due ∨ (x.due = q.due ∧ x.seq ≤ q.seq)) : Taken now late (x :: l) x l :=
  ⟨List.mem_cons_self .., hd, hl, .refl _, fun q hq hqd hql => by
    rcases List.mem_cons.1 hq with rfl | hq
    · exact .inr ⟨rfl, Nat.le_refl _⟩
    · exact h q hq hqd hql⟩

/-- What is taken of the tail is taken of the list, where the head is not due or comes after it. -/
theorem Taken.tail {now : Nat} {late : Bool} {x p : Pending} {l r : List Pending} (h : Taken now late l p r)
    (hx : x.due ≤ now → x.late = late → p.due < x.due ∨ (p.due = x.due ∧ p.seq ≤ x.seq)) : Taken now late (x :: l) p (x :: r) :=
  ⟨List.mem_cons_of_mem _ h.mem, h.due, h.late, (List.Perm.swap x p r).trans (h.perm.cons x), fun q hq hqd hql => by
    rcases List.mem_cons.1 hq with rfl | hq
    · exact hx hqd hql
    · exact h.first q hq hqd hql⟩

theorem takeDue_taken {now : Nat} {late : Bool} : ∀ {l : List Pending} {p : Pending} {r : List Pending},
    takeDue now late l = some (p, r) → Taken now late l p r
  | [], _, _, h => by cases h
  | x :: l, p, r, h => by
    unfold takeDue at h
    dsimp only at h
    have hmine : (x.due ≤ now && x.late == late) = true ↔ x.due ≤ now ∧ x.late = late := by simp
    cases ht : takeDue now late l with
    | none =>
      rw [ht] at h
      dsimp only at h
      split at h
      · next hm =>
        cases h
        obtain ⟨hd, hl⟩ := hmine.1 hm
        exact .head hd hl fun q hq hqd hql => absurd (takeDue_none_late ht q hq hql) (Nat.not_lt.2 hqd)
      · cases h
    | some y =>
      obtain ⟨q, r'⟩ := y
      rw [ht] at h
      dsimp only at h
      have hq := takeDue_taken ht
      split at h
      · next hm =>
        cases h
        rw [Bool.and_eq_true, hmine, Pending.before_iff] at hm
        obtain ⟨⟨hd, hl⟩, hb⟩ := hm
        exact .head hd hl fun z hz hzd hzl => by have := hq.first z hz hzd hzl; omega
      · next hm =>
        cases h
        rw [Bool.and_eq_true, hmine, Pending.before_iff] at hm
        exact hq.tail fun hd hl => by rw [and_iff_right ⟨hd, hl⟩] at hm; omega

/-! ## The plan of a step -/

theorem State.takeDue_idle {s : State} (h : Claims.Idle s) : takeDue s.cycle false s.agenda = none := takeDue_none h.2

/-- A step runs what its plan says. -/
theorem step_of_run {s t : State} {i : Instr} {issue : Bool} (h : s.plan = .run i t issue) : step s = match exec i t with
    | .next u => .next (u.close issue)
    | .fault f => .fault f
    | .refused r => .refused r := by
  unfold step
  rw [h] <;> rfl

theorem step_of_move {s t : State} (h : s.plan = .move t) : step s = .next t := by
  unfold step
  rw [h]

/-- A step of the device is not closed as an issue is. -/
theorem step_of_device {s t : State} {i : Instr} (h : s.plan = .run i t false) : step s = match exec i t with
    | .next v => .next v
    | .fault e => .fault e
    | .refused e => .refused e := by
  rw [step_of_run h]
  cases exec i t <;> rfl

theorem State.plan_pipe {s : State} {o : Nat} {i : Instr} (hp : s.pipe = some o) (hw : s.pipeWord o = some i) :
    s.plan = .run i s false := by
  unfold State.plan
  simp only [hp, hw]

theorem State.plan_due {s : State} {p : Pending} {r : List Pending} (hp : s.pipe = none)
    (ht : takeDue s.cycle false s.agenda = some (p, r)) : s.plan = .run p.ev { s with agenda := r, arg := p.arg } false := by
  unfold State.plan
  simp only [hp, ht]

/-- What an idle device does once the cores of its cycle have issued. -/
theorem State.plan_end {s : State} (h : Claims.Idle s) (ht : s.turn = 7680) : s.plan =
    match takeDue s.cycle true s.agenda with
    | some (p, r) => .run p.ev { s with agenda := r, arg := p.arg, turn := 7680, scan := 0 } false
    | none => .move { s with cycle := s.cycle + 1, turn := 0, scan := 0 } := by
  have hs : (if s.prefect.held != 0 then (s, none) else State.scanCores (7680 - s.turn) s.turn s.scan s) = (s, none) := by
    rw [ht]
    split <;> rfl
  unfold State.plan
  simp only [h.1, State.takeDue_idle h, hs] <;> cases takeDue s.cycle true s.agenda <;> rfl

/-- Settles O55: the plan of a step by its cases, and the choice of a due step by induction on the agenda. -/
theorem stepRunsTheDevice : Obligations.StepRunsTheDevice := by
  intro s
  refine ⟨fun o i hp hw => step_of_device (State.plan_pipe hp hw), fun p r hp ht => step_of_device (State.plan_due hp ht),
    fun p r hi ht hd => step_of_device ?_, fun hi ht hd => step_of_move ?_, fun late p r ht => ?_⟩
  · rw [State.plan_end hi ht, hd]
  · rw [State.plan_end hi ht, takeDue_none fun p hp _ => hd p hp]
  · obtain ⟨hmem, hdue, hlate, hperm, hfirst⟩ := takeDue_taken ht
    exact ⟨hmem, hdue, hlate, hperm, hfirst⟩

/-! ## The context next in turn (R45, R46) -/

/-- The scan of a core from a place on finds the first ready context. -/
theorem State.scanCore_ready {s : State} {core k : Nat} (hr : s.isReady ⟨core, ((s.coreAt core).rot + 1 + k) % 16⟩ = true)
    (hk : (s.ctx ⟨core, ((s.coreAt core).rot + 1 + k) % 16⟩).skips = 0) : ∀ (f j : Nat), j ≤ k → k < j + f →
    (∀ i, j ≤ i → i < k → s.isReady ⟨core, ((s.coreAt core).rot + 1 + i) % 16⟩ = false) →
    State.scanCore core f j s = (s, some (((s.coreAt core).rot + 1 + k) % 16, k))
  | 0, _, h1, h2, _ => by omega
  | f + 1, j, h1, h2, hn => by
    unfold State.scanCore
    dsimp only
    by_cases hj : j = k
    · subst hj
      rw [if_pos hr, if_neg (by rw [hk]; exact Nat.lt_irrefl 0)]
    · rw [hn j (Nat.le_refl _) (by omega), if_neg Bool.false_ne_true]
      exact State.scanCore_ready hr hk f (j + 1) (by omega) (by omega) fun i hi => hn i (by omega)

/-- What a step plans at which a context is next in turn. -/
theorem State.plan_inTurn {s : State} {c : CtxId} {k : Nat} (h : Claims.InTurn s c k) (hi : Claims.Idle s) :
    s.plan = s.planIssue c k := by
  obtain ⟨hheld, hturn, hcore, hscan, hk, hctx, hready, hskips, hbefore⟩ := h
  have hc : c = ⟨c.core, ((s.coreAt c.core).rot + 1 + k) % 16⟩ := by rw [← hctx]
  rw [hc] at hready hskips
  have hfound : State.scanCores (7680 - s.turn) s.turn s.scan s = (s, some (c, k)) := by
    obtain ⟨f, hf⟩ : ∃ f, 7680 - s.turn = f + 1 := ⟨7680 - s.turn - 1, by omega⟩
    rw [hf, hturn]
    unfold State.scanCores
    rw [State.scanCore_ready hready hskips _ _ hscan (by omega) hbefore]
    dsimp only
    rw [← hc]
  have hs : (if s.prefect.held != 0 then (s, none) else State.scanCores (7680 - s.turn) s.turn s.scan s) = (s, some (c, k)) := by
    rw [hheld, hfound]
    rfl
  unfold State.plan
  simp only [hi.1, State.takeDue_idle hi, hs]

/-! ## Fetches keep whose issue it is (R188, R338, R366) -/

theorem State.meetErrors_who (s : State) (k n : Nat) : (s.meetErrors k n).1.who = s.who := by
  have hstripe : ∀ (m : State) (w : Nat), (m.fromStripe w).who = m.who := fun m w => by
    unfold State.fromStripe; dsimp only; split <;> rfl
  have hfail : ∀ (m : State) (o sl : Nat), (m.failSlate o sl).who = m.who := fun m o sl => by
    unfold State.failSlate; dsimp only; repeat' split
    all_goals rfl
  have hword : ∀ (m : State) (w : Nat), (m.rebuildWord w).who = m.who := fun m w => by
    unfold State.rebuildWord
    dsimp only
    split
    · rw [hfail]; exact hstripe m w
    · exact hstripe m w
  have herror : ∀ (m : State) (g : Nat), (m.memoryError g).who = m.who := fun m g => by
    unfold State.memoryError; dsimp only; split <;> rfl
  have hstripes : ∀ (l : List Nat) (m : State), (l.foldl State.fromStripe m).who = m.who := fun l m =>
    l.foldlRecOn State.fromStripe (motive := fun t => t.who = m.who) rfl fun t ht w _ => (hstripe t w).trans ht
  unfold State.meetErrors
  dsimp only
  refine List.foldlRecOn (motive := fun p : State × Nat => p.1.who = s.who) _ _ ?_ ?_
  · split
    · exact hstripes _ _
    · rfl
  · rintro ⟨m, t⟩ hm e -
    cases e with
    | memory g b => dsimp only; split <;> [exact (herror _ g).trans hm; exact hm]
    | slateWord w b => dsimp only; split <;> [exact (hword _ w).trans hm; exact hm]
    | tileWord w b => dsimp only; split <;> exact hm
    | block o t => exact hm

/-- The state that a fetch leaves. -/
def Fetched.state : Fetched → State
  | .word _ t => t
  | .drop t => t
  | .fault _ t => t

theorem State.fetchKey_who (s : State) (c : CtxId) (pc : Word) (k : Nat) : (s.fetchKey c pc k).state.who = s.who := by
  unfold State.fetchKey
  dsimp only
  split <;> exact s.meetErrors_who k 8

theorem State.tlbFill_who (s : State) (die part : Nat) (l : Leaf) : (s.tlbFill die part l).who = s.who := by
  unfold State.tlbFill State.tlbEvict
  dsimp only
  repeat' split
  all_goals rfl

theorem State.touch_who (s : State) (die : Nat) (e : TlbEnt) (w : Bool) : (s.touch die e w).who = s.who := by
  unfold State.touch
  dsimp only
  repeat' split
  all_goals rfl

theorem State.fetch_who (s : State) (c : CtxId) : (s.fetch c).state.who = s.who := by
  unfold State.fetch
  dsimp only
  split
  · rfl
  · split
    · rfl
    · rfl
    · split
      · split
        · rfl
        · exact State.tlbFill_who _ _ _ _
      · split
        · rfl
        · rfl
        · split
          · rfl
          · rw [State.fetchKey_who, State.touch_who]
    · split
      · rfl
      · exact State.fetchKey_who _ _ _ _

/-! ## Fetches from a window (R90, R188) -/

/-- A read meets no error where none is latent. -/
theorem State.meetErrors_latent {s : State} (h : s.latent = []) (k n : Nat) : (s.meetErrors k n).1 = s := by
  have hstripe : ∀ (l : List Nat), l.foldl State.fromStripe s = s := fun l =>
    l.foldlRecOn State.fromStripe (motive := fun t => t = s) rfl fun t ht w _ => by
      subst ht
      unfold State.fromStripe
      rw [h]
      rfl
  unfold State.meetErrors
  rw [h]
  dsimp only [List.filter_nil, List.foldl_nil]
  split
  · exact hstripe _
  · rfl

/-- A fetch through a window of its own core that lets it load gives the bytes of its slate. -/
theorem State.fetch_window {s : State} {c : CtxId} {w off : Nat} (hpc : (s.ctx c).pc.toNat % 8 = 0)
    (hform : s.form c.core (s.ctx c).pc = .window c.core w off) (hvalid : (rd (s.coreAt c.core).win w {}).valid = true)
    (hown : rightsOk (rd (s.coreAt c.core).win w {}).own .load = true) (hlat : s.latent = [])
    (hp : s.isPoisoned (slateKey (octetOf c.core) (rd (s.coreAt c.core).win w {}).slate off) 8 = false) :
    s.fetch c = .word (BitVec.ofNat 64 (memReadN s.mem (slateKey (octetOf c.core) (rd (s.coreAt c.core).win w {}).slate off) 8)) s := by
  have hprot : s.protect c.core (s.priv c == 2) (.window c.core w off) .load =
      .ok (slateKey (octetOf c.core) (rd (s.coreAt c.core).win w {}).slate off) := by
    unfold State.protect
    simp only [hvalid, hown, beq_self_eq_true, if_true, Bool.not_true, Bool.false_eq_true, if_false]
  unfold State.fetch
  dsimp only
  rw [if_neg (by simp [hpc]), hform]
  dsimp only
  rw [hprot]
  dsimp only
  unfold State.fetchKey
  rw [State.meetErrors_latent hlat]
  dsimp only
  rw [hp, if_neg Bool.false_ne_true]
  rfl

/-! ## The issue of a fetched word -/

/-- A context that has trapped has taken its slot. -/
theorem State.trapHere_wait (s : State) (cause : Nat) (addr : Word) : ((s.trapHere cause addr).ctx s.who).wait = .none := by
  rw [(s.trapHere_trapped cause addr).ctx]

theorem State.trapHere_who (s : State) (cause : Nat) (addr : Word) : (s.trapHere cause addr).who = s.who := by
  rw [(s.trapHere_trapped cause addr).same.device]

/-- A trap of a context, wherever it is taken, stops it with its record. -/
theorem State.trap_ctx (s : State) (c : CtxId) (f : Frec) : (s.trap c f).ctx c =
    { s.ctx c with life := .trapped, frec := { f with ctx := c.ctx }, wait := .none, starting := false, reported := false
                   relFault := none, stopAt := s.cycle } := by
  unfold State.trap
  dsimp only
  split
  · exact State.ctx_setCtx_same _ _ _
  · rw [State.wakeHome_same]
    exact State.ctx_setCtx_same _ _ _

section
variable {s : State} {c : CtxId} {k : Nat}

/-- A word that decodes runs as the issue of its context. -/
theorem State.planIssue_word {w : Word} {t : State} {i : Instr} (hf : State.fetch { s with turn := c.core, scan := k, who := c } c = .word w t)
    (hd : decode w = .ok i) (hb : (t.ctx c).buddy = none) : s.planIssue c k = .run i { t with word := w } true := by
  unfold State.planIssue
  dsimp only
  rw [hf]
  dsimp only
  rw [hd]
  dsimp only
  rw [show State.ctx { t with word := w } c = t.ctx c from rfl, hb]

/-- A word that decodes to none runs as a trap with the decoder's cause in a context that is no homeroom. -/
theorem State.planIssue_reject {w : Word} {t : State} {r : Reject} (hf : State.fetch { s with turn := c.core, scan := k, who := c } c = .word w t)
    (hd : decode w = .error r) (hc : c.ctx ≠ 0) :
    s.planIssue c k = .run .unassignedEncoding { t with word := w, arg := { cause := r.cause.toNat } } true := by
  have hz : (c.ctx == 0) = false := beq_eq_false_iff_ne.2 hc
  unfold State.planIssue
  dsimp only
  rw [hf]
  dsimp only
  rw [hd]
  simp only [hz, Bool.false_and, Bool.false_eq_true, if_false]

theorem State.planIssue_drop {t : State} (hf : State.fetch { s with turn := c.core, scan := k, who := c } c = .drop t) :
    s.planIssue c k = .move (t.passOver c k) := by
  unfold State.planIssue
  dsimp only
  rw [hf]

theorem State.planIssue_misaligned (hpc : (s.ctx c).pc.toNat % 8 ≠ 0) :
    s.planIssue c k = .move ((State.trap { s with turn := c.core, scan := k, who := c } c
      { cause := 0x15, pc := (s.ctx c).pc, addr := (s.ctx c).pc, word := 0 }).tookSlot c) := by
  have hf : State.fetch { s with turn := c.core, scan := k, who := c } c = .fault 0x15 { s with turn := c.core, scan := k, who := c } := by
    unfold State.fetch
    dsimp only
    exact if_pos (bne_iff_ne.2 hpc)
  unfold State.planIssue
  dsimp only
  rw [hf]
  rfl

end

/-- Settles O54: the context next in turn is found by the scan, and its step goes by what its fetch gives. -/
theorem stepRunsDecoded : Obligations.StepRunsDecoded := by
  intro s c k hi ht s'
  have hplan := State.plan_inTurn ht hi
  refine ⟨fun w t i hf hd hb => ?_, fun t hf => ?_, fun w t r hf hd hc => ?_, fun hpc => ?_,
    fun w off hpc hform => ?_⟩
  · rw [step_of_run (hplan.trans (State.planIssue_word hf hd hb))]
    cases exec i { t with word := w } with
    | next u =>
      change Host.Outcome.next (u.closeIssue u.who) = _
      unfold State.closeIssue
      dsimp only
      generalize (u.ctx u.who).wait = x
      cases x <;> rfl
    | fault e => rfl
    | refused e => rfl
  · exact step_of_move (hplan.trans (State.planIssue_drop hf))
  · have hw : t.who = c := by
      have h := s'.fetch_who c
      rw [hf] at h
      exact h
    subst hw
    let m : State := { t with word := w, arg := { cause := r.cause.toNat } }
    have hx : (m.trapHere m.arg.cause 0).ctx m.who = _ := (m.trapHere_trapped m.arg.cause 0).ctx
    have hclose : (m.trapHere m.arg.cause 0).close true = (m.trapHere m.arg.cause 0).tookSlot m.who := by
      change State.closeIssue _ _ = _
      unfold State.closeIssue
      rw [m.trapHere_who, m.trapHere_wait]
    have hstep := step_of_run (hplan.trans (State.planIssue_reject hf hd hc))
    change step s = .next ((m.trapHere m.arg.cause 0).close true) at hstep
    rw [hclose] at hstep
    refine ⟨_, hstep, ?_, ?_⟩
    · exact congrArg Ctx.life hx
    · exact congrArg Ctx.frec hx
  · refine ⟨_, step_of_move (hplan.trans (State.planIssue_misaligned hpc)), ?_, ?_⟩
    · exact congrArg Ctx.life (State.trap_ctx s' c _)
    · exact congrArg (fun x : Ctx => x.frec.cause) (State.trap_ctx s' c _)
  · intro e key hvalid hown hlat hp
    have hload : rightsOk (rd (s'.coreAt c.core).win w {}).own .load = true := by
      rcases hown with h | h <;> exact (congrArg (rightsOk · .load) h).trans rfl
    exact State.fetch_window (s := s') hpc hform hvalid hload hlat hp

end Sys2Proof.Machine

end

section
/-! What reset leaves (R48, R71, R72, R89, R140, R156, R158, R163, R395), and the instructions below their privilege (R48, R264). -/

namespace Sys2Proof.Machine

/-! ## The state after reset -/

@[simp] theorem State.reset_ctx (c : CtxId) : State.reset.ctx c = Ctx.initial c := rfl
@[simp] theorem State.reset_coreAt (k : Nat) : State.reset.coreAt k = Core.initial k := rfl
@[simp] theorem State.reset_die (d : Nat) : State.reset.die d = Die.initial d := rfl

theorem Ctx.initial_gated {c : CtxId} (h : 0 < c.ctx) : Ctx.initial c = {} := by
  unfold Ctx.initial
  rw [if_neg (by rw [beq_iff_eq]; omega)]

/-- Each entry of a register file of equal entries is that one. -/
theorem rd_replicate {α : Type} {n : Nat} (x : α) (i : Nat) : rd (Vector.replicate n x) i x = x := by
  unfold rd
  split
  · exact Vector.getElem_replicate _
  · rfl

/-- Partition 0 holds every core of the device (R395). -/
theorem rectHas_device {k : Nat} (h : k < 7680) : rectHas (0x8001828000000000 : Word) k = true := by
  have hv : bitAt (0x8001828000000000 : Word).toNat 63 = true ∧ bits (0x8001828000000000 : Word).toNat 62 56 = 0 ∧
      bits (0x8001828000000000 : Word).toNat 48 42 = 96 ∧ bits (0x8001828000000000 : Word).toNat 55 49 = 0 ∧
      bits (0x8001828000000000 : Word).toNat 41 35 = 80 := by decide
  obtain ⟨hbit, hcol, hcols, hrow, hrows⟩ := hv
  unfold rectHas
  dsimp only
  rw [hbit, hcol, hcols, hrow, hrows]
  simp only [h, decide_true, Bool.and_self, Nat.zero_le, Bool.and_true, Nat.zero_add, Bool.and_eq_true, decide_eq_true_eq, true_and]
  unfold devCol devRow colOf rowOf dieOf
  omega

theorem State.reset_partOf {k : Nat} (h : k < 7680) : State.reset.partOf k = 0 := by
  have hrect : rectHas (rd State.reset.partRect 0 0) k = true := rectHas_device h
  unfold State.partOf
  split
  · rfl
  · rw [show List.range 16 = 0 :: (List.range 15).map (· + 1) from rfl, List.findIdx?_cons, hrect]
    rfl

/-- Settles O59: the tables of the state after reset list nothing, so that each accessor gives its initial value. -/
theorem resetValues : Obligations.ResetValues := by
  unfold Obligations.ResetValues
  refine ⟨fun k _ => ⟨rfl, fun i hi _ => ?_⟩, fun c => ?_, fun k => ⟨rfl, rfl, fun i _ => ⟨?_, ?_⟩, rfl⟩, fun a => rfl, fun a => rfl,
    fun d => ⟨rfl, rfl⟩, fun k hk => State.reset_partOf hk, rfl⟩
  · exact congrArg Ctx.life (Ctx.initial_gated hi)
  · change (Ctx.initial c).sFull = _ ∧ (Ctx.initial c).vFull = _ ∧ (Ctx.initial c).waitLimit = _
    unfold Ctx.initial
    split <;> exact ⟨rfl, rfl, rfl⟩
  · exact congrArg Stream.bound (rd_replicate _ i)
  · exact congrArg Win.valid (rd_replicate _ i)

/-! ## Instructions below their privilege (R48, R264) -/

/-- The operands of an instruction below its privilege are not read: it traps. -/
theorem State.peek_need {s : State} {u : Uses} (h : s.priv s.who < u.need) : s.peek u = .stop (s.trapHere 0x04 0) := by
  unfold State.peek State.static
  rw [if_pos h]

/-- An instruction below its privilege does not wait. -/
theorem State.waiting_need {s : State} {u : Uses} (h : s.priv s.who < u.need) (ok : Ctx → Bool) (f : Vals → State → State) :
    s.waiting u ok f = s.trapHere 0x04 0 := by
  unfold State.waiting State.static
  rw [if_pos h]

/-- An instruction that begins with its operands traps where they are not read. -/
theorem exec_need {s : State} {i : Instr} {u : Uses} {f : Vals → Host.Outcome State Fault Refusal}
    (hi : exec i s = match s.peek u with
      | .stop t => .next t
      | .ok v => f v) (h : s.priv s.who < u.need) : exec i s = .next (s.trapHere 0x04 0) := by
  rw [hi, State.peek_need h]

/-- Settles O46: each instruction names its privilege with its operands, and the check of it comes first. -/
theorem privilegeChecks : Obligations.PrivilegeChecks := by
  intro s d a b c k next traps
  have htraps : ∀ {i : Instr}, exec i s = .next (s.trapHere 0x04 0) → traps i := fun h => ⟨_, h, s.trapHere_trapped _ _⟩
  have hneed : ∀ {i : Instr} (u : Uses) {f : Vals → Host.Outcome State Fault Refusal}, s.priv s.who < u.need →
      (exec i s = match s.peek u with
        | .stop t => .next t
        | .ok v => f v) → traps i := fun u _ h hi => htraps (exec_need hi h)
  refine ⟨fun h => ?_, fun h2 => ?_⟩
  · have h1 : s.priv s.who < 1 := by omega
    exact ⟨hneed { a := some a, b := some b, out := [d], need := 1 } h1 rfl, hneed { a := some a, late := [d], need := 1 } h1 rfl,
      hneed { a := some a, b := some b, out := [d], need := 1 } h1 rfl,
      hneed { a := some a, b := some b, c := some c, need := 1 } h1 rfl,
      hneed (tretUses d a b false) h1 rfl, hneed (tretUses d a b false) h1 rfl⟩
  · exact ⟨hneed { a := some a, late := [d], need := 2 } h2 rfl, hneed (tretUses d a b true) h2 rfl, hneed (tretUses d a b true) h2 rfl,
      hneed { a := some a, b := some b, need := 2 } h2 rfl, hneed { a := some a, b := some b, need := 2 } h2 rfl,
      hneed { a := some a, b := some b, need := 2 } h2 rfl, hneed { a := some a, need := 2 } h2 rfl,
      htraps (congrArg Host.Outcome.next
        (State.waiting_need (u := { a := some a, b := some b, c := some c, need := 2 }) h2 _ _))⟩

end Sys2Proof.Machine

end

section
/-! Roll call (O39): the claim about the last arrival speaks of every context that sees the group, also of one whose core number
stands for a network interface. R64's groups hold cores of the device only. -/

namespace Sys2Proof.Machine

/-- A group of one core, core 0 of die 0, with contexts 0 and 1 as its members, both of which have counted. -/
def loneCoreGroup : Tag := { cfg := 0x0000104000C00000, arrived := [0, 1] }

/-- ARRIVE is next in turn at context 0 of "core" 7680, the number of die 0's network interface, whose die, column and row are
those of core 0. -/
def interfaceArrival : State :=
  { who := ⟨7680, 0⟩, dies := [(0, { tags := wr (Vector.replicate 8 {}) 0 loneCoreGroup })] }

/-- The members of the group on cores of the device have counted. -/
theorem loneCoreGroup_arrived {c : CtxId} (hc : c.core < 7680) (hx : c.ctx < 16) (hm : tagMember loneCoreGroup.cfg 0 c = true) :
    memNat c.key loneCoreGroup.arrived = true := by
  obtain ⟨core, ctx⟩ := c
  obtain ⟨hhas, hbit⟩ := (Bool.and_eq_true _ _).mp hm
  have hcore : core = 0 := by
    have hbits : bits loneCoreGroup.cfg.toNat 61 56 = 0 ∧ bits loneCoreGroup.cfg.toNat 55 50 = 0 ∧
        bits loneCoreGroup.cfg.toNat 49 44 = 1 ∧ bits loneCoreGroup.cfg.toNat 43 38 = 1 ∧ tagSpan loneCoreGroup.cfg = 0 := by decide
    obtain ⟨hcol, hrow, hcols, hrows, hspan⟩ := hbits
    simp [tagHas, hspan, hcol, hrow, hcols, hrows, dieOf, colOf, rowOf] at hhas
    simp only at hc
    omega
  subst hcore
  have hctx : ∀ i < 16, bitAt loneCoreGroup.cfg.toNat (22 + i) = true → memNat i loneCoreGroup.arrived = true := by decide
  simpa [CtxId.key] using hctx ctx hx hbit

/-- The interface's context 1 has not counted, so no release is posted. -/
theorem interfaceArrival_unreleased {t : State} (h : exec (.arrive 0) interfaceArrival = .next t) : t.agenda = [] := by
  have hrun : (match exec (.arrive 0) interfaceArrival with | .next t => t.agenda.isEmpty | _ => false) = true := by decide
  rw [h] at hrun
  exact List.isEmpty_iff.mp hrun

/-- Refutes O39: an ARRIVE at a core number of a network interface is a member's under R64's rectangle of one core, every member
of the device has counted, and the release is not set, since the interface's other context has not. -/
theorem not_rollCalls : ¬ Obligations.RollCalls := by
  unfold Obligations.RollCalls
  rintro ⟨hcall, -⟩
  obtain ⟨-, hquiet, -⟩ := hcall interfaceArrival 0
  obtain ⟨-, -, hcounts⟩ := hquiet (by decide) (by decide)
  obtain ⟨t, ht, -, -, hlast⟩ := hcounts (by decide) (by decide)
  obtain ⟨p, hp, -⟩ := hlast (by decide) (by decide) (by decide) fun c hc hx hm _ => loneCoreGroup_arrived hc hx hm
  rw [interfaceArrival_unreleased ht] at hp
  cases hp

end Sys2Proof.Machine
end

section
/-! The issue of an instruction whose scalar results come later, and that sends no access (R72, R180): START, TAKE and REAP. -/

namespace Sys2Proof.Machine

/-! ## Emptied destinations -/

/-- Two destinations are emptied one after the other. -/
theorem State.Emptied.append {m e t : State} {c : CtxId} {late more : List Reg} (h : m.Emptied e c late none)
    (g : e.Emptied t c more none) : m.Emptied t c (late ++ more) none where
  device := by rw [g.device, h.device]
  contexts x hx := by rw [g.contexts x hx, h.contexts x hx]
  otherCores k hk := by rw [g.otherCores k hk, h.otherCores k hk]
  ctx := by rw [g.ctx, h.ctx]
  core := by rw [g.core, h.core]
  buddy hb := g.buddy (h.buddy hb)
  zero := ⟨g.zero.1.trans h.zero.1, g.zero.2.trans h.zero.2⟩
  empty r hr h0 h56 := by
    by_cases hm : r ∈ more
    · exact g.empty r hm h0 h56
    · obtain ⟨hf, hp⟩ := g.others r hm h56
      rw [hf, hp]
      exact h.empty r ((List.mem_append.mp hr).resolve_right hm) h0 h56
  others r hr h56 := by
    obtain ⟨hl, hm⟩ := not_or.mp (fun hor => hr (List.mem_append.mpr hor))
    obtain ⟨hf, hp⟩ := g.others r hm h56
    obtain ⟨hf', hp'⟩ := h.others r hl h56
    exact ⟨hf.trans hf', hp.trans hp'⟩
  vector := by simp
  vectors i hi hv := by
    obtain ⟨hf, hp⟩ := g.vectors i hi hv
    obtain ⟨hf', hp'⟩ := h.vectors i hi hv
    exact ⟨hf.trans hf', hp.trans hp'⟩

/-- Two scalar destinations empty their registers, and nothing else. -/
theorem State.emptyDest_reg2 (m : State) (c : CtxId) (d b : Reg) (hd : d.toNat < 56) (hb : b.toNat < 56) :
    m.Emptied (m.emptyDest c (.reg2 d b)) c [d, b] none :=
  (m.emptyDest_reg c d hd).append ((m.emptyDest c (.reg d)).emptyDest_reg c b hb)

/-! ## The issue -/

@[simp] theorem Ctx.issued_s (x : Ctx) (n : Nat) (w pc : Word) : (x.issued n w pc).s = x.s := rfl

/-- What the issue of a late writer leaves once its sources are read and its destinations are empty. -/
theorem State.Took.began {s m e : State} {u : Uses} {late : List Reg} (hm : s.Took m u) (he : m.Emptied e s.who late none)
    (hl : ∀ r ∈ late, r.toNat < 55) : s.Began e.finish u late none ∧
      (e.finish.ctx s.who).pc = (s.ctx s.who).pc + 8 ∧ (e.finish.ctx s.who).wait = .none ∧
      (e.finish.ctx s.who).lateOut = (s.ctx s.who).lateOut := by
  have hwho : e.who = s.who := by rw [he.device]; exact hm.who
  have hcycle : e.cycle = s.cycle := by rw [he.device]; exact hm.cycle
  have hword : e.word = s.word := by rw [he.device]; exact hm.word
  have hctx : e.ctx s.who = { s.ctx s.who with
      sFull := (e.ctx s.who).sFull, sPend := (e.ctx s.who).sPend, vFull := (e.ctx s.who).vFull, vPend := (e.ctx s.who).vPend
      buddy := (e.ctx s.who).buddy } := by
    have h := he.ctx
    rwa [hm.ctx] at h
  have hself : e.finish.ctx s.who = (e.ctx s.who).issued s.cycle s.word ((s.ctx s.who).pc + 8) := by
    have h := e.endAt_ctx ((e.ctx e.who).pc + 8)
    rw [hwho, hcycle, hword] at h
    rw [show (s.ctx s.who).pc = (e.ctx s.who).pc by rw [hctx]]
    unfold State.finish
    rw [hwho]
    exact h
  have hother : ∀ c : CtxId, c.key ≠ s.who.key → e.finish.ctx c = s.ctx c := fun c hc => by
    rw [State.finish, State.endAt, State.modCtx_eq, State.ctx_setCtx_other _ _ _ _ (by rwa [hwho]), he.contexts c hc, hm.ctx]
  have hcores : ∀ j, e.finish.coreAt j = e.coreAt j := fun _ => rfl
  obtain ⟨hregs, hframe, -, hstreams⟩ := hm.regs
  have hbits : ∀ r : Reg, e.finish.regFull s.who r 1 = e.regFull s.who r 1 ∧ e.finish.regPend s.who r = e.regPend s.who r := by
    intro r
    unfold State.regFull State.regPend State.stream
    rw [hself]
    exact ⟨rfl, rfl⟩
  have hval : ∀ r : Reg, r.toNat < 55 → e.finish.regVal s.who r 0 = s.regVal s.who r 0 := by
    intro r hr
    have hbank : (e.finish.ctx s.who).s = (s.ctx s.who).s := by rw [hself, Ctx.issued_s, hctx]
    have hcm : (e.finish.coreAt s.who.core).c = (s.coreAt s.who.core).c ∧
        ∀ i, i < 7 → rd (e.finish.coreAt s.who.core).m i 0 = rd (s.coreAt s.who.core).m i 0 := by
      rw [hcores, he.core]
      exact ⟨hregs.c, hregs.m⟩
    have hmail := hcm.2 (r.toNat - 48)
    unfold State.regVal
    rw [hbank, hcm.1]
    by_cases h48 : r.toNat < 48
    · simp only [h48, if_true]
    · have h56 : r.toNat < 56 := by omega
      simp only [h48, h56, if_true, if_false, hmail (by omega)]
  have hkeep : ∀ r : Reg, r.toNat < 55 → m.regFull s.who r 1 = s.regFull s.who r 1 ∧ m.regPend s.who r = s.regPend s.who r := fun r hr =>
    (State.reg_congr (by rw [hm.ctx]; exact ⟨rfl, rfl, rfl⟩) hregs r hr).2
  refine ⟨⟨?_, ?_, ⟨?_, hother, fun j hj => ?_⟩, ?_, ?_, ⟨rfl, rfl⟩, fun r hr h0 => ?_, fun r hr h55 => ?_, by simp, fun i hi hv => ?_,
    fun i hi => ⟨_, rfl, ?_⟩, fun a => ?_⟩, ?_, ?_, ?_⟩
  · rw [hself]; rfl
  · rw [hself, hctx]; rfl
  · have hd : e.finish = { e with ctxs := e.finish.ctxs } := rfl
    rw [hd, he.device, hm.device]
  · rw [hcores, he.otherCores j hj, hm.otherCores j hj]; rfl
  · rw [hself, hctx]; rfl
  · rw [hcores, he.core]
    unfold Core.IssueFrame at hframe ⊢
    rw [hframe]
  · obtain ⟨hf, hp⟩ := he.empty r hr h0 (by have := hl r hr; omega)
    exact ⟨hval r (hl r hr), by rw [(hbits r).1, hf], by rw [(hbits r).2, hp]⟩
  · obtain ⟨hf, hp⟩ := he.others r hr (by omega)
    obtain ⟨hf', hp'⟩ := hkeep r h55
    exact ⟨hval r h55, by rw [(hbits r).1, hf, hf'], by rw [(hbits r).2, hp, hp']⟩
  · have h := he.vectors i hi hv
    rw [hm.ctx] at h
    rw [hself]
    exact h
  · rw [hcores, he.core]
    dsimp only
    rw [hstreams i hi]
    exact ⟨rfl, rfl⟩
  · have hmem : e.finish.mem = e.mem := rfl
    rw [hmem, he.device]
    exact congrArg (memRead · a) hm.mem
  · rw [hself]; rfl
  · rw [hself]; rfl
  · rw [hself, hctx]; rfl

/-- The registers, mailboxes and streams of two cores are the same. -/
structure Core.SameFiles (k l : Core) : Prop where
  c : l.c = k.c
  cFull : l.cFull = k.cFull
  cPend : l.cPend = k.cPend
  m : l.m = k.m
  mFull : l.mFull = k.mFull
  mPend : l.mPend = k.mPend
  q : l.q = k.q

/-- What an issue changes besides is changed as well in the state it begins from: the results stay late, whatever wait and count
of late results the issuing context takes. -/
theorem State.Began.rebase {s t s' t' : State} {u : Uses} {late : List Reg} (h : s.Began t u late none)
    (hs : s' = { s with ctxs := s'.ctxs, cores := s'.cores })
    (ht : t' = { t with ctxs := t'.ctxs, cores := t'.cores, agenda := t'.agenda, seq := t'.seq, fresh := t'.fresh })
    (hctx : s'.ctx s.who = s.ctx s.who)
    (hctx' : t'.ctx s.who = { t.ctx s.who with wait := (t'.ctx s.who).wait, lateOut := (t'.ctx s.who).lateOut })
    (hothers : ∀ c : CtxId, c.key ≠ s.who.key → t'.ctx c = s'.ctx c) (hcores : ∀ k, k ≠ s.who.core → t'.coreAt k = s'.coreAt k)
    (hregs : (s.coreAt s.who.core).SameFiles (s'.coreAt s.who.core)) (hregs' : (t.coreAt s.who.core).SameFiles (t'.coreAt s.who.core))
    (hframe : (s'.coreAt s.who.core).IssueFrame (t'.coreAt s.who.core)) : s'.Began t' u late none := by
  have hwho : s'.who = s.who := by rw [hs]
  have hcycle : s'.cycle = s.cycle := by rw [hs]
  have hword : s'.word = s.word := by rw [hs]
  have hmem : s'.mem = s.mem := by rw [hs]
  have hmem' : t'.mem = t.mem := by rw [ht]
  have hreg : ∀ r : Reg, s'.regVal s.who r 0 = s.regVal s.who r 0 ∧ s'.regFull s.who r 1 = s.regFull s.who r 1 ∧
      s'.regPend s.who r = s.regPend s.who r := by
    intro r
    unfold State.regVal State.regFull State.regPend State.stream
    rw [hctx, hregs.c, hregs.cFull, hregs.cPend, hregs.m, hregs.mFull, hregs.mPend, hregs.q]
    exact ⟨rfl, rfl, rfl⟩
  have hreg' : ∀ r : Reg, t'.regVal s.who r 0 = t.regVal s.who r 0 ∧ t'.regFull s.who r 1 = t.regFull s.who r 1 ∧
      t'.regPend s.who r = t.regPend s.who r := by
    intro r
    unfold State.regVal State.regFull State.regPend State.stream
    rw [hctx', hregs'.c, hregs'.cFull, hregs'.cPend, hregs'.m, hregs'.mFull, hregs'.mPend, hregs'.q]
    exact ⟨rfl, rfl, rfl⟩
  refine ⟨?_, ?_, ⟨?_, ?_, ?_⟩, ?_, ?_, ?_, fun r hr h0 => ?_, fun r hr h55 => ?_, by simp, fun i hi hv => ?_, fun i hi => ?_, fun a => ?_⟩
  · rw [hwho, hctx', hcycle, hword]; exact h.ready
  · rw [hwho, hctx', hctx]; exact h.count
  · have hd := h.same.device
    rw [ht, hd, hs]
  · rw [hwho]; exact hothers
  · rw [hwho]; exact hcores
  · have hc := h.ctxFrame
    unfold Ctx.LateFrame at hc ⊢
    rw [hwho, hctx, hctx', hc]
  · rw [hwho]; exact hframe
  · exact ⟨rfl, rfl⟩
  · obtain ⟨hv, hf, hp⟩ := h.empty r hr h0
    rw [hwho, (hreg' r).1, (hreg' r).2.1, (hreg' r).2.2, (hreg r).1]
    exact ⟨hv, hf, hp⟩
  · obtain ⟨hv, hf, hp⟩ := h.others r hr h55
    rw [hwho, (hreg' r).1, (hreg' r).2.1, (hreg' r).2.2, (hreg r).1, (hreg r).2.1, (hreg r).2.2]
    exact ⟨hv, hf, hp⟩
  · rw [hwho, hctx', hctx]; exact h.vectors i hi hv
  · rw [hwho, hregs'.q, hregs.q]; exact h.streams i hi
  · rw [hmem', hmem]; exact h.bytes a

end Sys2Proof.Machine
end

section
/-! TAKE and its search (O38). -/

namespace Sys2Proof.Machine

/-! ## Deques (R56) -/

/-- Waking the waiting TAKEs of some cores posts steps. -/
theorem State.wakeTakes_posted (s : State) (p : Nat → Bool) : s.Posted (s.wakeTakes p) :=
  State.foldl_posted (fun s (e : Nat × Core) => s.wakeTake_posted e.1) _ _

/-- A deque is replaced, and waiting TAKEs may be woken. -/
theorem State.setDeque_posted (s : State) (core : Nat) (l : List QItem) :
    (s.setCore core { s.coreAt core with deque := l }).Posted (s.setDeque core l) := by
  unfold State.setDeque
  dsimp only
  split
  · exact State.wakeTakes_posted _ _
  · exact .refl _

theorem State.Posted.coreAt {s t : State} (h : s.Posted t) (k : Nat) : t.coreAt k = s.coreAt k := by rw [h.only]; rfl
theorem State.Posted.octet {s t : State} (h : s.Posted t) (o : Nat) : t.octet o = s.octet o := by rw [h.only]; rfl
theorem State.Posted.die {s t : State} (h : s.Posted t) (d : Nat) : t.die d = s.die d := by rw [h.only]; rfl
theorem State.Posted.ctx {s t : State} (h : s.Posted t) (c : CtxId) : t.ctx c = s.ctx c := by rw [h.only]; rfl

/-- The end of a wait touches contexts and cloakrooms alone. -/
theorem State.release_frame (s : State) (c : CtxId) (run id : Nat) :
    s.release c run id = { s with ctxs := (s.release c run id).ctxs, octets := (s.release c run id).octets } :=
  s.modRun_frame c run _

/-! ## TAKE -/

/-- An instruction that reads nothing may take an order number before it issues. -/
theorem State.took_newId (s : State) {u : Uses} (h : u.reads = []) : s.Took s.newId.2 u := by
  have hc : s.commit u = s := by
    unfold State.commit
    rw [h]
    rfl
  have hm := s.commit_took u
  rw [hc] at hm
  exact ⟨rfl, hm.otherCores, hm.core, hm.agenda⟩

/-- The late destination that an issued TAKE, START or REAP empties is a register below m7. -/
theorem State.Readable.late_lt_m7 {s : State} {u : Uses} (h : s.Readable u) {d : Reg} (hd : d ∈ u.late) : d.toNat < 55 := by
  have h56 := h.lateReg d hd
  have h55 := h.notM7 d (List.mem_append.mpr (.inr hd))
  have : d.toNat ≠ 55 := fun e => h55 (BitVec.eq_of_toNat_eq e)
  omega

/-- A TAKE that issues begins a search. -/
theorem State.take_begins {s : State} {d : Reg} {w : Bool} (h0 : s.who.ctx = 0) (hr : s.Readable { late := [d] })
    (ht : (s.coreAt s.who.core).taking = none) : ∃ t, exec (.take d w) s = .next t ∧
      (s.setCore s.who.core { s.coreAt s.who.core with
        taking := some { reply := { who := s.who, run := (s.ctx s.who).run, dest := .reg d }, w := w, id := s.seq } }).Began t
          { late := [d] } [d] none ∧
      (t.ctx s.who).pc = (s.ctx s.who).pc + 8 ∧ (t.ctx s.who).wait = (if w then .hold s.seq else .none) ∧
      (t.ctx s.who).lateOut = (s.ctx s.who).lateOut + 1 ∧ t.Due s.cycle .takeWakeEvent { core := s.who.core } := by
  set g : Taking := { reply := { who := s.who, run := (s.ctx s.who).run, dest := .reg d }, w := w, id := s.seq }
  have hd : d.toNat < 55 := hr.late_lt_m7 (List.mem_singleton_self d)
  have hm : s.Took s.newId.2 { late := [d] } := s.took_newId rfl
  have he := s.newId.2.emptyDest_reg s.who d (by omega)
  set e := s.newId.2.emptyDest s.who (.reg d)
  obtain ⟨hb, hpc, hwait, hlate⟩ := hm.began he (by simpa using hd)
  set f : State := e.finish
  have hfc : f.cycle = s.cycle := by rw [hb.same.device]
  have hfw : f.who = s.who := by rw [hb.same.device]
  have hexec : exec (.take d w) s = .next ((((f.modCtx f.who fun x =>
      { x with lateOut := x.lateOut + 1, wait := if w then .hold s.seq else x.wait }).modCore s.who.core fun k =>
        { k with taking := some { g with reply := { g.reply with who := f.who } } })).post f.cycle .takeWakeEvent { core := s.who.core }) := by
    change execTake d w s = _
    unfold execTake
    rw [if_neg (by simp [h0]), hr.peek]
    dsimp only
    rw [if_neg (by simp [ht])]
    rfl
  rw [hfw] at hexec
  clear_value f
  set t := (((f.modCtx s.who fun x => { x with lateOut := x.lateOut + 1, wait := if w then .hold s.seq else x.wait }).modCore
    s.who.core fun k => { k with taking := some g })).post f.cycle .takeWakeEvent { core := s.who.core }
  have hself : t.ctx s.who = { f.ctx s.who with
      lateOut := (f.ctx s.who).lateOut + 1, wait := if w then .hold s.seq else (f.ctx s.who).wait } := State.ctx_setCtx_same _ _ _
  have hcore : t.coreAt s.who.core = { f.coreAt s.who.core with taking := some g } := State.coreAt_setCore_same _ _ _
  have hframe := hb.coreFrame
  refine ⟨t, hexec, hb.rebase rfl rfl rfl (by rw [hself]) (fun c hc => ?_) (fun k hk => ?_) ?_ ?_ ?_, ?_, ?_, ?_, ?_⟩
  · exact (State.ctx_setCtx_other f _ _ _ hc).trans (hb.same.contexts c hc)
  · exact ((State.coreAt_setCore_other _ _ _ _ hk).trans (hb.same.otherCores k hk)).trans (State.coreAt_setCore_other _ _ _ _ hk).symm
  · rw [State.coreAt_setCore_same]
    exact ⟨rfl, rfl, rfl, rfl, rfl, rfl, rfl⟩
  · rw [hcore]
    exact ⟨rfl, rfl, rfl, rfl, rfl, rfl, rfl⟩
  · rw [State.coreAt_setCore_same, hcore]
    unfold Core.IssueFrame at hframe ⊢
    rw [hframe]
  · rw [hself]; exact hpc
  · rw [hself, ← hwait]
  · rw [hself, ← hlate]
  · rw [← hfc]; exact State.post_due _ _ _ _

/-! ## The search -/

/-- A core with a gated context has one free. -/
theorem State.outlook_free {s : State} {core i : Nat} (h0 : 0 < i) (h16 : i < 16) (h : (s.ctx ⟨core, i⟩).life = .gated) :
    (s.outlook core).free = true := by
  have hm : i ∈ s.freeCtxs core := by
    unfold State.freeCtxs
    refine List.mem_filterMap.mpr ⟨i - 1, List.mem_range.mpr (by omega), ?_⟩
    rw [show i - 1 + 1 = i by omega, h]
    rfl
  unfold State.outlook
  dsimp only
  rw [Bool.not_eq_true', List.isEmpty_eq_false_iff]
  exact List.ne_nil_of_mem hm

/-- A core without a cut takes every pair. -/
theorem State.takes_uncut {s : State} {core : Nat} (h : (s.coreAt core).cuts = []) (q : QItem) : s.takes core q = true := by
  unfold State.takes
  rw [h]
  rfl

/-- Without saved contexts, and with a context free, the choice is the first source. -/
theorem State.chooseItem_first {s : State} {core : Nat} {f : From} {r : List From} (hc : (s.octet (octetOf core)).cloak = [])
    (hf : (s.outlook core).free = true) (hs : s.sources core = f :: r) :
    s.chooseItem core = (s.moveItem core f, BitVec.ofNat 64 (2 ^ 62 + f.prio * 2 ^ 48)) := by
  have hb : s.bestSaved core (s.outlook core) = none := by
    unfold State.bestSaved
    rw [hc]
    rfl
  have ha : (s.outlook core).admits f.prio = true := by
    unfold Outlook.admits
    rw [hf]
    rfl
  have hfind : (f :: r).find? (fun f => (s.outlook core).admits f.prio) = some f := List.find?_cons_of_pos ha
  unfold State.chooseItem
  dsimp only
  rw [hb, hs, hfind]
  dsimp only [takeWord]
  rw [hf]
  simp

/-- The head of a deque whose entries have different numbers, moved to the take register. -/
theorem State.moveItem_head {s : State} {core : Nat} {q : QItem} {r : List QItem} (hd : (s.coreAt core).deque = q :: r)
    (hid : ∀ p ∈ r, p.id ≠ q.id) :
    (s.moveItem core (.deque q)).coreAt core = { s.coreAt core with deque := r, takeReg := some (.pair q) } ∧
      (s.moveItem core (.deque q)).cycle = s.cycle ∧ (s.moveItem core (.deque q)).mem = s.mem := by
  have hl : (s.coreAt core).deque.filter (fun p => p.id != q.id) = r := by
    rw [hd, List.filter_cons_of_neg (by simp), List.filter_eq_self.mpr (by simpa using hid)]
  have hp := s.setDeque_posted core r
  unfold State.moveItem
  dsimp only
  rw [hl]
  refine ⟨?_, hp.grows.cycle, hp.mem⟩
  rw [State.modCore_eq, State.coreAt_setCore_same, hp.coreAt, State.coreAt_setCore_same]

/-- A search that finds a pair at the head of its deque takes it, and answers 2 cycles later. -/
theorem State.search_deque {s : State} {core : Nat} {g : Taking} {q : QItem} {r : List QItem} (hreg : (s.coreAt core).takeReg = none)
    (hcuts : (s.coreAt core).cuts = []) (hstaff : s.isStaffCore core = false) (hfree : (s.outlook core).free = true)
    (hcloak : (s.octet (octetOf core)).cloak = []) (hd : (s.coreAt core).deque = q :: r) (hprio : q.prio < 256)
    (hid : ∀ p ∈ r, p.id ≠ q.id) :
    ((s.search core g).coreAt core).takeReg = some (.pair q) ∧ ((s.search core g).coreAt core).deque = r ∧
      ((s.search core g).coreAt core).taking = none ∧ (s.search core g).mem = s.mem ∧
      (s.search core g).Answers (s.cycle + 2) g.reply ((2 ^ 62 + q.prio * 2 ^ 48) % 2 ^ 64) := by
  obtain ⟨rest, hsrc⟩ : ∃ rest, s.sources core = .deque q :: rest := by
    unfold State.sources
    simp [hstaff, hd, State.takes_uncut hcuts]
  have hend : s.search core g = s.endSearch core g := by
    unfold State.search
    simp [hreg, hd, hsrc]
  obtain ⟨hcore, hcycle, hmem⟩ := State.moveItem_head hd hid
  have hword : (BitVec.ofNat 64 (2 ^ 62 + q.prio * 2 ^ 48)).toNat = 2 ^ 62 + q.prio * 2 ^ 48 := by
    rw [BitVec.toNat_ofNat]
    omega
  rw [hend]
  unfold State.endSearch
  rw [State.chooseItem_first hcloak hfree hsrc]
  dsimp only [From.prio]
  have hkind : (2 ^ 62 + q.prio * 2 ^ 48) / 2 ^ 62 = 1 := by omega
  rw [hword, hkind, if_neg (by simp)]
  set m := s.moveItem core (.deque q)
  set m' := m.modCore core fun k => { k with taking := none }
  have hf := m'.release_frame g.reply.who g.reply.run g.id
  have hk : (m'.release g.reply.who g.reply.run g.id).coreAt core = { m.coreAt core with taking := none } := by
    rw [hf]
    exact State.coreAt_setCore_same _ _ _
  have hc : m'.cycle = s.cycle := hcycle
  have hkp : ∀ due ev arg, ((m'.release g.reply.who g.reply.run g.id).post due ev arg).coreAt core = { m.coreAt core with taking := none } :=
    fun _ _ _ => hk
  rw [hkp, hcore]
  refine ⟨rfl, rfl, rfl, ?_, ?_⟩
  · change (m'.release g.reply.who g.reply.run g.id).mem = s.mem
    rw [hf]
    exact hmem
  · have hlt : (2 ^ 62 + q.prio * 2 ^ 48) % 2 ^ 64 = 2 ^ 62 + q.prio * 2 ^ 48 := by omega
    have hval : (BitVec.ofNat 64 (2 ^ 62 + q.prio * 2 ^ 48)).setWidth 1024 = BitVec.ofNat 1024 ((2 ^ 62 + q.prio * 2 ^ 48) % 2 ^ 64) := by
      apply BitVec.eq_of_toNat_eq
      rw [BitVec.toNat_setWidth, hword, BitVec.toNat_ofNat, hlt]
    rw [hval, hc]
    exact State.post_due _ _ _ _

/-- A search that finds nothing on its core and in its die asks the next die. -/
theorem State.search_asks {s : State} {core : Nat} {g : Taking} (hreg : (s.coreAt core).takeReg = none)
    (hstaff : s.isStaffCore core = false) (hfree : (s.outlook core).free = true) (hd : (s.coreAt core).deque = [])
    (ho : (s.octet (octetOf core)).queue = []) (hq : (s.die (dieOf core)).queue = [])
    (hv : ∀ p ∈ s.cores, dieOf p.1 = dieOf core → p.1 ≠ core → p.2.deque.length < 2) :
    (s.search core g).ctxs = s.ctxs ∧ (s.search core g).mem = s.mem ∧ ((s.search core g).coreAt core).takeReg = none ∧
      s.CarriesN (s.search core g) core ((dieOf core + 1) % 4) 16 (14 * crossings (dieOf core) ((dieOf core + 1) % 4)) .dieAsk
        { core := core, die := (dieOf core + 1) % 4 } := by
  have hsrc : s.sources core = [] := by
    unfold State.sources
    simp [hstaff, hd, ho, hq]
  have hrefill : (s.refillOctet (octetOf core)).refillDeque core = s := by
    have h : s.refillOctet (octetOf core) = s := by
      unfold State.refillOctet
      dsimp only
      rw [octetDie_octetOf, hq]
      rfl
    rw [h]
    unfold State.refillDeque
    simp [ho]
  have hnone : s.cores.filter (fun p => dieOf p.1 == dieOf core && p.1 != core && decide (2 ≤ p.2.deque.length)) = [] := by
    rw [List.filter_eq_nil_iff]
    intro p hp
    simp only [Bool.and_eq_true, beq_iff_eq, bne_iff_ne, decide_eq_true_eq, not_and]
    intro hdie
    have := hv p hp hdie.1 hdie.2
    omega
  have hsearch : s.search core g = (s.modCore core fun k =>
      { k with taking := some { g with probes := 0, asked := 1, busy := true } }).sendN core ((dieOf core + 1) % 4) 16
        (14 * crossings (dieOf core) ((dieOf core + 1) % 4)) .dieAsk { core := core, die := (dieOf core + 1) % 4 } := by
    unfold State.search
    simp only [hreg, hd, ho, List.isEmpty_nil, Bool.not_true, Bool.false_eq_true, if_true, if_false, hrefill, hfree, hsrc, hnone,
      Bool.and_self, List.length_nil]
    rfl
  rw [hsearch]
  set m := s.modCore core fun k => { k with taking := some { g with probes := 0, asked := 1, busy := true } }
  have hp := m.sendN_posted core ((dieOf core + 1) % 4) 16 (14 * crossings (dieOf core) ((dieOf core + 1) % 4)) .dieAsk
    { core := core, die := (dieOf core + 1) % 4 }
  refine ⟨hp.ctxs, hp.mem, ?_, (m.sendN_carries _ _ _ _ _ _).mono rfl rfl (Nat.le_refl _) (.of_eq rfl rfl)⟩
  rw [hp.coreAt, show m.coreAt core = _ from State.coreAt_setCore_same _ _ _]
  exact hreg

/-- Settles O38: the issue by what an emptied destination leaves, the search by the choice of its first source. -/
theorem takes : Obligations.Takes := by
  unfold Obligations.Takes Claims.Takes
  intro s
  refine ⟨fun d w => ⟨fun h0 => ?_, fun h0 hr => ⟨fun hb => ?_, fun ht => ?_⟩⟩, ?_⟩
  · refine ⟨_, ?_, s.trapHere_trapped 0x04 0⟩
    change execTake d w s = _
    unfold execTake
    rw [if_pos (by simpa using h0)]
  · refine ⟨_, ?_, s.block_waits 1⟩
    change execTake d w s = _
    unfold execTake
    rw [if_neg (by simp [h0]), hr.peek]
    dsimp only
    rw [if_pos (Option.isSome_iff_ne_none.mpr hb)]
  · obtain ⟨t, he, hb, hpc, hwait, hlate, hdue⟩ := State.take_begins (w := w) h0 hr ht
    exact ⟨t, s.seq, he, hb, hpc, hwait, hlate, hdue⟩
  · intro core k die
    have hexec : exec .takeWakeEvent s = match k.taking with
        | none => .next s
        | some g => .next (if g.busy then s.modCore core fun k => { k with taking := some { g with stopped := g.stopped || s.arg.n == 1 } }
            else s.search core { g with stopped := g.stopped || s.arg.n == 1 }) := by
      change execTakeWakeEvent s = _
      unfold execTakeWakeEvent
      dsimp only [k, core]
      generalize (s.coreAt s.arg.core).taking = x
      cases x with
      | none => rfl
      | some g => cases hg : g.busy <;> simp [hg]
    refine ⟨fun h => by rw [hexec, h], fun g hg => ⟨fun hbusy => ?_, fun hbusy hreg hstaff hcuts ⟨i, h0, h16, hgated⟩ hcloak => ⟨?_, ?_⟩⟩⟩
    all_goals rw [hexec, hg]; dsimp only; rw [hbusy]
    · exact ⟨_, rfl, rfl, rfl, by rw [if_pos rfl, State.modCore_eq, State.coreAt_setCore_same]⟩
    · intro q r hd hprio hid
      rw [if_neg (by simp)]
      exact ⟨_, rfl, State.search_deque (g := { g with stopped := g.stopped || s.arg.n == 1 }) hreg hcuts hstaff
        (State.outlook_free h0 h16 hgated) hcloak hd hprio hid⟩
    · intro hd ho hq hv
      rw [if_neg (by simp)]
      exact ⟨_, rfl, State.search_asks hreg hstaff (State.outlook_free h0 h16 hgated) hd ho hq hv⟩

end Sys2Proof.Machine
end

section
/-! The pair queues: deques, blocks, steals and aging (O40). -/

namespace Sys2Proof.Machine

/-! ## Lists in order -/

theorem insertAge_eq_orderedInsert (q : QItem) (l : List QItem) : insertAge q l = l.orderedInsert (fun x y => x.id ≤ y.id) q := by
  induction l with
  | nil => rfl
  | cons x r ih => simp only [insertAge, List.orderedInsert_cons, ih]

theorem byAge_eq_insertionSort (l : List QItem) : byAge l = l.insertionSort fun x y => x.id ≤ y.id := by
  induction l with
  | nil => rfl
  | cons x r ih =>
    rw [List.insertionSort_cons, ← ih]
    exact insertAge_eq_orderedInsert x (byAge r)

/-- Putting a list in order of age keeps its entries. -/
theorem byAge_perm (l : List QItem) : (byAge l).Perm l := by
  rw [byAge_eq_insertionSort]
  exact List.perm_insertionSort _ l

theorem byAge_aged (l : List QItem) : Spec.aged (byAge l) := by
  have : Std.Total fun x y : QItem => x.id ≤ y.id := ⟨fun x y => Nat.le_total x.id y.id⟩
  have : IsTrans QItem fun x y => x.id ≤ y.id := ⟨fun _ _ _ => Nat.le_trans⟩
  rw [Spec.aged, List.pairwise_map, byAge_eq_insertionSort]
  exact List.pairwise_insertionSort _ l

theorem insertItem_eq_orderedInsert (q : QItem) (l : List QItem) :
    insertItem q l = l.orderedInsert (fun x y => x.ahead y = true) q := by
  induction l with
  | nil => rfl
  | cons x r ih => simp only [insertItem, List.orderedInsert_cons, ih]

/-- Putting an entry into a die queue keeps the entries there. -/
theorem insertItem_perm (q : QItem) (l : List QItem) : (insertItem q l).Perm (q :: l) := by
  rw [insertItem_eq_orderedInsert]
  exact List.perm_orderedInsert _ q l

/-- An entry of a die queue stands behind those of a higher priority, and behind the earlier ones of its own (R56). -/
theorem insertItem_place (q : QItem) (l : List QItem) : ∃ a b, l = a ++ b ∧ insertItem q l = a ++ q :: b ∧
    (∀ p ∈ a, q.prio < p.prio ∨ (q.prio = p.prio ∧ p.ent < q.ent)) ∧ ∀ p ∈ b.head?, p.prio < q.prio ∨ q.ent ≤ p.ent := by
  refine ⟨l.takeWhile fun p => !q.ahead p, l.dropWhile fun p => !q.ahead p, List.takeWhile_append_dropWhile.symm, ?_, fun p hp => ?_,
    fun p hp => ?_⟩
  · rw [insertItem_eq_orderedInsert, List.orderedInsert_eq_take_drop]
    simp
  · have h := List.mem_takeWhile_imp hp
    simp only [QItem.ahead, Bool.not_eq_true', Bool.or_eq_false_iff, decide_eq_false_iff_not, Bool.and_eq_false_iff, beq_eq_false_iff_ne] at h
    omega
  · have h := List.head?_dropWhile_not (fun p => !q.ahead p) l
    rw [Option.mem_def.mp hp] at h
    dsimp only at h
    simp only [QItem.ahead, Bool.not_eq_false', Bool.or_eq_true, decide_eq_true_eq, Bool.and_eq_true, beq_iff_eq] at h
    omega

/-! ## What the moves between the levels leave -/

theorem State.Posted.cores {s t : State} (h : s.Posted t) : t.cores = s.cores := by rw [h.only]

theorem State.wakeTake_flits (s : State) (core : Nat) : s.SameFlits (s.wakeTake core) := by
  unfold State.wakeTake
  split
  · split
    · exact State.post_flits _ _ _ rfl
    · exact fun _ => rfl
  · exact fun _ => rfl

theorem State.wakeTakes_flits (s : State) (p : Nat → Bool) : s.SameFlits (s.wakeTakes p) :=
  State.foldl_flits (fun s (e : Nat × Core) => s.wakeTake_flits e.1) _ _

theorem State.setDeque_flits (s : State) (core : Nat) (l : List QItem) : s.SameFlits (s.setDeque core l) := by
  have hs : s.SameFlits (s.modCore core fun k => { k with deque := l }) := .of_eq rfl rfl
  unfold State.setDeque
  dsimp only
  split
  · exact hs.trans (State.wakeTakes_flits _ _)
  · exact hs

/-- A core without a cut logs nothing. -/
theorem State.cutLog_uncut {s : State} {core : Nat} (h : (s.coreAt core).cuts = []) (ch what : Nat) (addr : Word) (data : List Word) :
    s.cutLog core ch what addr data = s := by
  unfold State.cutLog
  dsimp only
  rw [h]
  rfl

/-- What entries put at the near end of a deque leave. -/
theorem State.nearEnd_at (s : State) (core : Nat) (m : List QItem) : ∃ l,
    (s.setCore core { s.coreAt core with deque := l }).Posted (s.nearEnd core m) ∧ s.AtNearEnd (s.nearEnd core m) core m := by
  refine ⟨if (m ++ (s.coreAt core).deque).length ≤ 64 then m ++ (s.coreAt core).deque
    else (m ++ (s.coreAt core).deque).take ((m ++ (s.coreAt core).deque).length - 8), ?_⟩
  unfold State.nearEnd State.AtNearEnd
  dsimp only
  by_cases h : 64 < (m ++ (s.coreAt core).deque).length
  · simp only [h, if_true, Nat.not_le.mpr h, if_false]
    set l := m ++ (s.coreAt core).deque
    have hp := s.setDeque_posted core (l.take (l.length - 8))
    set t := s.setDeque core (l.take (l.length - 8))
    have hq := t.post_posted s.cycle .queueBlockMove { move := .dequeToOctet core, items := byAge (l.drop (l.length - 8)) }
    refine ⟨hp.trans hq, ?_, fun _ => ⟨_, byAge_perm _, byAge_aged _, State.post_due _ _ _ _⟩⟩
    rw [(hp.trans hq).coreAt, State.coreAt_setCore_same]
  · simp only [h, if_false, Nat.not_lt.mp h, if_true, false_implies, and_true]
    have hp := s.setDeque_posted core (m ++ (s.coreAt core).deque)
    exact ⟨hp, by rw [hp.coreAt, State.coreAt_setCore_same]⟩

/-- What is left at a deque stands under other posts. -/
theorem State.AtNearEnd.posted {s t u : State} {core : Nat} {m : List QItem} (h : s.AtNearEnd t core m) (hp : t.Posted u) :
    s.AtNearEnd u core m := by
  obtain ⟨hk, hb⟩ := h
  refine ⟨by rw [hp.coreAt, hk], fun hl => ?_⟩
  obtain ⟨b, hperm, haged, hdue⟩ := hb hl
  exact ⟨b, hperm, haged, hdue.extend hp.grows⟩

/-- A block at a deque's near end. -/
theorem State.blockToDeque_at (s : State) (core : Nat) (l : List QItem) : ∃ r,
    (s.setCore core { s.coreAt core with deque := r }).Posted (s.blockToDeque core l) ∧
      s.AtNearEnd (s.blockToDeque core l) core (byAge l) := by
  obtain ⟨r, hp, hat⟩ := s.nearEnd_at core (byAge l)
  have hw := (s.nearEnd core (byAge l)).wakeTake_posted core
  exact ⟨r, hp.trans hw, hat.posted hw⟩

/-- An entry pushed at a deque's near end. -/
theorem State.pushDeque_at (s : State) (core : Nat) (q : QItem) : ∃ r,
    (s.setCore core { s.coreAt core with deque := r }).Posted (s.pushDeque core q) ∧ s.AtNearEnd (s.pushDeque core q) core [q] := by
  obtain ⟨r, hp, hat⟩ := s.nearEnd_at core [q]
  have hw := (s.nearEnd core [q]).wakeTake_posted core
  exact ⟨r, hp.trans hw, hat.posted hw⟩

/-- An entry that enters a die queue ages from now on, and the die's waiting TAKEs may be woken. -/
theorem State.pushDie_posted (s : State) (die : Nat) (q : QItem) :
    (s.setDie die { s.die die with queue := insertItem { q with since := s.cycle, ent := s.seq } (s.die die).queue }).Posted
        (s.pushDie die q) ∧
      (s.pushDie die q).Due (s.cycle + 2 ^ 20) .queueAging { aged := .die die q.id, n := s.cycle } := by
  set m := s.newId.2.setDie die { s.die die with queue := insertItem { q with since := s.cycle, ent := s.seq } (s.die die).queue }
  have hw : (m.post (s.cycle + 2 ^ 20) .queueAging { aged := .die die q.id, n := s.cycle }).Posted (s.pushDie die q) :=
    (m.post (s.cycle + 2 ^ 20) .queueAging { aged := .die die q.id, n := s.cycle }).wakeTakes_posted fun k => dieOf k == die
  have hm : (s.setDie die { s.die die with queue := insertItem { q with since := s.cycle, ent := s.seq } (s.die die).queue }).Posted m :=
    ⟨rfl, rfl, Nat.le_succ _, fun _ h => h, fun _ h => h⟩
  exact ⟨hm.trans ((m.post_posted _ _ _).trans hw), (m.post_due _ _ _).extend hw.grows⟩

/-- An entry of a queue without its number of entry into the queue. -/
def QItem.unentered (q : QItem) : QItem := { q with ent := 0 }

/-- Entries that enter a die queue join those there. -/
theorem State.pushDies_perm (die : Nat) (l : List QItem) (s : State) :
    (((l.foldl (fun s q => s.pushDie die q) s).die die).queue.map QItem.unentered).Perm
        (l.map (fun q => QItem.unentered { q with since := s.cycle }) ++ (s.die die).queue.map QItem.unentered) ∧
      (l.foldl (fun s q => s.pushDie die q) s).mem = s.mem ∧ (l.foldl (fun s q => s.pushDie die q) s).ctxs = s.ctxs ∧
      ∀ o, (l.foldl (fun s q => s.pushDie die q) s).octet o = s.octet o := by
  induction l generalizing s with
  | nil => exact ⟨.refl _, rfl, rfl, fun _ => rfl⟩
  | cons q l ih =>
    have hp := (s.pushDie_posted die q).1
    obtain ⟨hperm, hmem, hctxs, hoct⟩ := ih (s.pushDie die q)
    rw [hp.die, State.die_setDie_same, hp.grows.cycle] at hperm
    refine ⟨?_, hmem.trans hp.mem, hctxs.trans hp.ctxs, fun o => (hoct o).trans (hp.octet o)⟩
    have hins := (insertItem_perm { q with since := s.cycle, ent := s.seq } (s.die die).queue).map QItem.unentered
    exact hperm.trans ((hins.append_left _).trans List.perm_middle)

/-! ## Pushed pairs and blocks -/

theorem exec_pairPushArrive {s : State} (h : (s.coreAt s.arg.core).cuts = []) : exec .pairPushArrive s =
    .next (if s.fences.any (·.has s.arg.core) then
      s.newId.2.pushDie (dieOf s.arg.core) { s.arg.item with id := s.seq, since := s.cycle }
    else s.newId.2.pushDeque s.arg.core { s.arg.item with id := s.seq, since := s.cycle }) := by
  change execPairPushArrive s = _
  unfold execPairPushArrive
  dsimp only
  simp only [State.cutLog_uncut h, ite_self]
  rw [apply_ite Host.Outcome.next]
  rfl

/-- A pair that is pushed at a core whose rectangle is not fenced. -/
theorem State.pairPush_deque {s : State} (hcuts : (s.coreAt s.arg.core).cuts = []) (hf : ∀ f ∈ s.fences, f.has s.arg.core = false) :
    ∃ t q, exec .pairPushArrive s = .next t ∧ t.mem = s.mem ∧ t.ctxs = s.ctxs ∧ q = { s.arg.item with id := q.id, since := s.cycle } ∧
      s.AtNearEnd t s.arg.core [q] := by
  have hn : s.fences.any (·.has s.arg.core) = false := List.any_eq_false.mpr fun f hm => by simp [hf f hm]
  obtain ⟨r, hp, hat⟩ := s.newId.2.pushDeque_at s.arg.core { s.arg.item with id := s.seq, since := s.cycle }
  exact ⟨_, { s.arg.item with id := s.seq, since := s.cycle }, by rw [exec_pairPushArrive hcuts, hn]; rfl, hp.mem, hp.ctxs, rfl, hat⟩

/-- A full deque keeps its 56 nearest entries under the pushed one, and the 8 at the far end leave. -/
theorem State.AtNearEnd.full {s t : State} {core : Nat} {q : QItem} (h : s.AtNearEnd t core [q])
    (hl : (s.coreAt core).deque.length = 64) :
    t.coreAt core = { s.coreAt core with deque := q :: (s.coreAt core).deque.take 56 } ∧
      ∃ l, l.Perm ((s.coreAt core).deque.drop 56) ∧ Spec.aged l ∧
        t.Due s.cycle .queueBlockMove { move := .dequeToOctet core, items := l } := by
  obtain ⟨hk, hb⟩ := h
  have hlen : ([q] ++ (s.coreAt core).deque).length = 65 := by simp [hl]
  rw [hlen] at hk hb
  exact ⟨hk, hb (by omega)⟩

/-- A deque with room takes the pushed entry. -/
theorem State.AtNearEnd.room {s t : State} {core : Nat} {q : QItem} (h : s.AtNearEnd t core [q])
    (hl : (s.coreAt core).deque.length < 64) : t.coreAt core = { s.coreAt core with deque := q :: (s.coreAt core).deque } := by
  rw [h.1, if_pos (by simp; omega)]
  rfl


/-- A pair that is pushed at a core in a fenced rectangle. -/
theorem State.pairPush_die {s : State} (hcuts : (s.coreAt s.arg.core).cuts = []) (hf : ∃ f ∈ s.fences, f.has s.arg.core = true) :
    ∃ t q l r, exec .pairPushArrive s = .next t ∧ t.mem = s.mem ∧ t.ctxs = s.ctxs ∧
      q = { s.arg.item with id := q.id, since := s.cycle, ent := q.ent } ∧ (s.die (dieOf s.arg.core)).queue = l ++ r ∧
      t.die (dieOf s.arg.core) = { s.die (dieOf s.arg.core) with queue := l ++ q :: r } ∧
      (∀ p ∈ l, q.prio < p.prio ∨ (q.prio = p.prio ∧ p.ent < q.ent)) ∧ (∀ p ∈ r.head?, p.prio < q.prio ∨ q.ent ≤ p.ent) ∧
      t.Due (s.cycle + 2 ^ 20) .queueAging { aged := .die (dieOf s.arg.core) q.id, n := s.cycle } := by
  have hany : s.fences.any (·.has s.arg.core) = true := List.any_eq_true.mpr hf
  obtain ⟨hp, hdue⟩ := s.newId.2.pushDie_posted (dieOf s.arg.core) { s.arg.item with id := s.seq, since := s.cycle }
  set q : QItem := { s.arg.item with id := s.seq, since := s.cycle, ent := s.seq + 1 }
  obtain ⟨l, r, hlr, hins, hl, hr⟩ := insertItem_place q (s.die (dieOf s.arg.core)).queue
  refine ⟨_, q, l, r, by rw [exec_pairPushArrive hcuts, hany, if_pos rfl], hp.mem, hp.ctxs, rfl, hlr, ?_, hl, hr, hdue⟩
  rw [hp.die, State.die_setDie_same, ← hins]
  rfl

theorem exec_queueBlockMove (s : State) : exec .queueBlockMove s = execQueueBlockMove s := rfl

/-- A block moves from a deque to its octet's queue. -/
theorem State.block_toOctet {s : State} {core : Nat} (h : s.arg.move = .dequeToOctet core) :
    ∃ t, exec .queueBlockMove s = .next t ∧ t.mem = s.mem ∧ t.ctxs = s.ctxs ∧
      t.octet (octetOf core) = { s.octet (octetOf core) with queue := (s.octet (octetOf core)).queue ++ s.arg.items } ∧
      (512 < ((s.octet (octetOf core)).queue ++ s.arg.items).length →
        t.Due s.cycle .queueBlockMove { move := .octetToDie (octetOf core) }) := by
  set l := (s.octet (octetOf core)).queue ++ s.arg.items
  set m := s.setOctet (octetOf core) { s.octet (octetOf core) with queue := l }
  have hw : m.Posted (m.wakeOctet (octetOf core)) := m.wakeTakes_posted fun k => octetOf k == octetOf core
  have hexec : exec .queueBlockMove s = .next (if 512 < l.length then
      (m.wakeOctet (octetOf core)).post (m.wakeOctet (octetOf core)).cycle .queueBlockMove { move := .octetToDie (octetOf core) }
    else m.wakeOctet (octetOf core)) := by
    rw [exec_queueBlockMove]
    unfold execQueueBlockMove
    rw [h]
    rfl
  by_cases hl : 512 < l.length
  · rw [if_pos hl] at hexec
    have hp := hw.trans (State.post_posted (m.wakeOctet (octetOf core)) (m.wakeOctet (octetOf core)).cycle .queueBlockMove
      { move := .octetToDie (octetOf core) })
    refine ⟨_, hexec, hp.mem, hp.ctxs, by rw [hp.octet, State.octet_setOctet_same], fun _ => ?_⟩
    have hdue := State.post_due (m.wakeOctet (octetOf core)) (m.wakeOctet (octetOf core)).cycle .queueBlockMove
      { move := .octetToDie (octetOf core) }
    rwa [hw.grows.cycle] at hdue ⊢
  · rw [if_neg hl] at hexec
    exact ⟨_, hexec, hw.mem, hw.ctxs, by rw [hw.octet, State.octet_setOctet_same], fun h => absurd h hl⟩

/-- A block moves from the head of a die's queue to an octet's. -/
theorem State.refillOctet_block (s : State) (octet : Nat) :
    (s.refillOctet octet).mem = s.mem ∧ (s.refillOctet octet).ctxs = s.ctxs ∧ ((s.die (octetDie octet)).queue ≠ [] →
      (s.refillOctet octet).die (octetDie octet) =
        { s.die (octetDie octet) with queue := (s.die (octetDie octet)).queue.drop 8 } ∧
      (s.refillOctet octet).octet octet =
        { s.octet octet with queue := (s.octet octet).queue ++ byAge ((s.die (octetDie octet)).queue.take 8) }) := by
  unfold State.refillOctet
  dsimp only
  by_cases h : (s.die (octetDie octet)).queue = []
  · rw [h]
    exact ⟨rfl, rfl, fun h => absurd rfl h⟩
  · rw [if_neg (by simpa using h)]
    set l := (s.die (octetDie octet)).queue
    set m := s.setDie (octetDie octet) { s.die (octetDie octet) with queue := l.drop 8 }
    set n := m.setOctet octet { m.octet octet with queue := (m.octet octet).queue ++ byAge (l.take 8) }
    have hw : n.Posted (n.wakeOctet octet) := n.wakeTakes_posted fun k => octetOf k == octet
    refine ⟨hw.mem, hw.ctxs, fun _ => ⟨(hw.die _).trans ?_, (hw.octet _).trans ?_⟩⟩
    · exact State.die_setDie_same _ _ _
    · exact State.octet_setOctet_same _ _ _

/-- A block moves from an octet's queue to a deque. -/
theorem State.refillDeque_block (s : State) (core : Nat) :
    (s.refillDeque core).mem = s.mem ∧ (s.refillDeque core).ctxs = s.ctxs ∧ ((s.octet (octetOf core)).queue ≠ [] →
      (s.refillDeque core).octet (octetOf core) =
        { s.octet (octetOf core) with queue := (s.octet (octetOf core)).queue.drop 8 } ∧
      s.AtNearEnd (s.refillDeque core) core (byAge ((s.octet (octetOf core)).queue.take 8))) := by
  unfold State.refillDeque
  dsimp only
  by_cases h : (s.octet (octetOf core)).queue = []
  · rw [h]
    exact ⟨rfl, rfl, fun h => absurd rfl h⟩
  · rw [if_neg (by simpa using h)]
    set m := s.setOctet (octetOf core) { s.octet (octetOf core) with queue := (s.octet (octetOf core)).queue.drop 8 }
    obtain ⟨r, hp, hat⟩ := m.blockToDeque_at core ((s.octet (octetOf core)).queue.take 8)
    exact ⟨hp.mem, hp.ctxs, fun _ => ⟨(hp.octet _).trans (State.octet_setOctet_same _ _ _), hat⟩⟩

/-- The pair queues' half of O40. -/
theorem State.pairQueues : Claims.PairQueues := by
  intro s
  refine ⟨fun hcuts => ⟨fun hf => ?_, State.pairPush_die hcuts⟩, fun core h => State.block_toOctet h, fun octet h => ?_, fun octet h => ?_,
    fun core h => ?_⟩
  · obtain ⟨t, q, he, hmem, hctxs, hq, hat⟩ := State.pairPush_deque hcuts hf
    exact ⟨t, q, he, hmem, hctxs, hq, hat.room, hat.full⟩
  · obtain ⟨hperm, hmem, hctxs, hoct⟩ := State.pushDies_perm (octetDie octet) ((s.octet octet).queue.take 8)
      (s.setOctet octet { s.octet octet with queue := (s.octet octet).queue.drop 8 })
    refine ⟨_, ?_, hmem, hctxs, (hoct octet).trans (State.octet_setOctet_same _ _ _), hperm⟩
    rw [exec_queueBlockMove]
    unfold execQueueBlockMove
    rw [h]
    rfl
  · obtain ⟨hmem, hctxs, hblock⟩ := s.refillOctet_block octet
    refine ⟨_, byAge ((s.die (octetDie octet)).queue.take 8), ?_, hmem, hctxs, byAge_perm _, byAge_aged _, hblock⟩
    rw [exec_queueBlockMove]
    unfold execQueueBlockMove
    rw [h]
  · obtain ⟨hmem, hctxs, hblock⟩ := s.refillDeque_block core
    refine ⟨_, byAge ((s.octet (octetOf core)).queue.take 8), ?_, hmem, hctxs, byAge_perm _, byAge_aged _, hblock⟩
    rw [exec_queueBlockMove]
    unfold execQueueBlockMove
    rw [h]

/-! ## Steals (R57) -/

/-- A packet's crossing depends on the rates alone: what it leaves in a state whose die has the same rates. -/
theorem State.Carries.mono_rate {s f t : State} {src dst len lat : Nat} {cn : Bool} {ev : Instr} {arg : StepArg}
    (hc : f.cycle = s.cycle) (hd : (f.die src).rate = (s.die src).rate) (hs : s.seq ≤ f.seq) (h : f.Carries t src dst cn len lat ev arg) :
    s.Carries t src dst cn len lat ev arg := by
  have he : f.crossTime src dst len cn = s.crossTime src dst len cn := by
    unfold State.crossTime State.rate
    rw [hd]
  unfold State.Carries at h ⊢
  rw [he] at h
  split at h <;> rename_i g
  · rw [if_pos g]
    exact h.mono hc hs
  · rw [if_neg g]
    obtain ⟨p, hp, h1, h2, h3, h4, h5, h6, h7, h8, h9⟩ := h
    exact ⟨p, hp, h1, h2, h3, h4, h5, h6, h7, h8, h9.mono hc hs⟩

/-- A steal that is not refused takes from the far end of its victim's deque. -/
theorem State.steal_takes {s : State} (hf : s.fenced s.arg.core s.arg.n = false) :
    ∃ t, exec .stealRequest s = .next t ∧ t.mem = s.mem ∧ t.ctxs = s.ctxs ∧
      let l := (s.coreAt s.arg.n).deque
      let n := min 8 (l.length / 2)
      t.coreAt s.arg.n = { s.coreAt s.arg.n with deque := l.take (l.length - n) } ∧
      s.CarriesN t s.arg.n (dieOf s.arg.core) (16 + 16 * n) (stealTime s.arg.core s.arg.n) .stealReply
        { core := s.arg.core, items := l.drop (l.length - n) } := by
  set l := (s.coreAt s.arg.n).deque
  set n := min 8 (l.length / 2)
  have hlen : (l.drop (l.length - n)).length = n := by
    rw [List.length_drop]
    omega
  have hp := s.setDeque_posted s.arg.n (l.take (l.length - n))
  have hfl := s.setDeque_flits s.arg.n (l.take (l.length - n))
  set m := s.setDeque s.arg.n (l.take (l.length - n))
  have hq := m.sendN_posted s.arg.n (dieOf s.arg.core) (16 + 16 * n) (stealTime s.arg.core s.arg.n) .stealReply
    { core := s.arg.core, items := l.drop (l.length - n) }
  refine ⟨_, ?_, (hp.trans hq).mem, (hp.trans hq).ctxs, ?_,
    (m.sendN_carries _ _ _ _ _ _).mono hp.grows.cycle hp.dies hp.grows.seq hfl⟩
  · change execStealRequest s = _
    unfold execStealRequest State.stealFrom
    dsimp only
    rw [hf]
    simp only [Bool.false_eq_true, if_false]
    rw [show min 8 ((s.coreAt s.arg.n).deque.length / 2) = n from rfl, hlen]
  · rw [(hp.trans hq).coreAt, State.coreAt_setCore_same]

/-- A die answers with the head of its queue. -/
theorem State.dieAsk_gives {s : State} (hl : (s.die s.arg.die).queue ≠ []) :
    ∃ t, exec .dieAsk s = .next t ∧ t.mem = s.mem ∧ t.ctxs = s.ctxs ∧
      t.die s.arg.die = { s.die s.arg.die with queue := (s.die s.arg.die).queue.drop 8 } ∧
      s.Carries t s.arg.die (dieOf s.arg.core) true (16 + 16 * (byAge ((s.die s.arg.die).queue.take 8)).length)
        (14 * crossings s.arg.die (dieOf s.arg.core)) .stealReply
        { core := s.arg.core, items := byAge ((s.die s.arg.die).queue.take 8) } := by
  set b := byAge ((s.die s.arg.die).queue.take 8)
  set m := s.setDie s.arg.die { s.die s.arg.die with queue := (s.die s.arg.die).queue.drop 8 }
  have hm : m.die s.arg.die = { s.die s.arg.die with queue := (s.die s.arg.die).queue.drop 8 } := State.die_setDie_same _ _ _
  have hp := m.carry_posted s.arg.die (dieOf s.arg.core) true (16 + 16 * b.length) (14 * crossings s.arg.die (dieOf s.arg.core))
    .stealReply { core := s.arg.core, items := b }
  have hexec : exec .dieAsk s = .next (m.carry s.arg.die (dieOf s.arg.core) true false (16 + 16 * b.length)
      (14 * crossings s.arg.die (dieOf s.arg.core)) .stealReply { core := s.arg.core, items := b }) := by
    change execDieAsk s = _
    unfold execDieAsk
    dsimp only
    rw [if_pos (by simpa using hl)]
  have hrate : (m.die s.arg.die).rate = (s.die s.arg.die).rate := by rw [hm]
  have hc := m.carry_carries s.arg.die (dieOf s.arg.core) true (16 + 16 * b.length) (14 * crossings s.arg.die (dieOf s.arg.core))
    .stealReply { core := s.arg.core, items := b }
  exact ⟨_, hexec, hp.mem, hp.ctxs, by rw [hp.die, hm], hc.mono_rate (f := m) rfl hrate (Nat.le_refl _)⟩

/-- A die with nothing to give answers without entries. -/
theorem State.dieAsk_none {s : State} (hl : (s.die s.arg.die).queue = [])
    (hv : ∀ p ∈ s.cores, dieOf p.1 = s.arg.die → p.1 ≠ s.arg.core → p.2.deque.length < 2) :
    ∃ t, exec .dieAsk s = .next t ∧ t.cores = s.cores ∧
      s.Carries t s.arg.die (dieOf s.arg.core) true 16 (14 * crossings s.arg.die (dieOf s.arg.core)) .stealReply { core := s.arg.core } := by
  have hnone : s.nextOccupied s.arg.die (s.die s.arg.die).victim s.arg.core = none := by
    have hf : s.cores.filter (fun p => dieOf p.1 == s.arg.die && p.1 != s.arg.core && decide (2 ≤ p.2.deque.length)) = [] := by
      rw [List.filter_eq_nil_iff]
      intro p hp
      simp only [Bool.and_eq_true, beq_iff_eq, bne_iff_ne, decide_eq_true_eq, not_and]
      intro hdie
      have := hv p hp hdie.1 hdie.2
      omega
    unfold State.nextOccupied
    rw [hf]
    rfl
  have hp := s.carry_posted s.arg.die (dieOf s.arg.core) true 16 (14 * crossings s.arg.die (dieOf s.arg.core)) .stealReply
    { core := s.arg.core }
  refine ⟨_, ?_, hp.cores, s.carry_carries _ _ _ _ _ _ _⟩
  change execDieAsk s = _
  unfold execDieAsk
  dsimp only
  rw [hl, hnone]
  rfl

/-- The entries of a steal's reply go to the asker's deque. -/
theorem State.stealReply_at {s : State} (hi : s.arg.items ≠ []) (hcuts : (s.coreAt s.arg.core).cuts = [])
    (ht : (s.coreAt s.arg.core).taking = none) : ∃ t, exec .stealReply s = .next t ∧ t.mem = s.mem ∧ t.ctxs = s.ctxs ∧
      s.AtNearEnd t s.arg.core (byAge s.arg.items) := by
  have hlog : ∀ l : List Nat, l.foldl (fun s' i =>
      s'.cutLog s.arg.core 5 2 0 (((s.arg.items.drop (4 * i)).take 4).flatMap QItem.words)) s = s := by
    intro l
    induction l with
    | nil => rfl
    | cons i l ih => rw [List.foldl_cons, State.cutLog_uncut hcuts, ih]
  obtain ⟨r, hp, hat⟩ := s.blockToDeque_at s.arg.core s.arg.items
  refine ⟨_, ?_, hp.mem, hp.ctxs, hat⟩
  have hnone : ((s.blockToDeque s.arg.core s.arg.items).coreAt s.arg.core).taking = none := by
    rw [hp.coreAt, State.coreAt_setCore_same]
    exact ht
  change execStealReply s = _
  unfold execStealReply
  dsimp only
  rw [hlog, if_neg (by simpa using hi), hnone]

/-! ## Aging (R58) -/

/-- An entry of a die queue that has waited its time gains a level. -/
theorem State.age_die {s : State} {die : Nat} {q : QItem} (h : s.arg.aged = .die die q.id) (hq : q.since = s.arg.n)
    (hl : (s.die die).queue = [q]) : (255 ≤ q.prio → exec .queueAging s = .next s) ∧
      (q.prio < 255 → ∃ t, exec .queueAging s = .next t ∧ t.mem = s.mem ∧ t.ctxs = s.ctxs ∧
        t.die die = { s.die die with queue := [{ q with prio := q.prio + 1, since := s.cycle }] } ∧
        t.Due (s.cycle + 2 ^ 20) .queueAging { aged := .die die q.id, n := s.cycle }) := by
  set m := s.setDie die { s.die die with queue := [{ q with prio := q.prio + 1, since := s.cycle }] }
  have hexec : exec .queueAging s = if 255 ≤ q.prio then .next s else
      .next ((m.post (s.cycle + 2 ^ 20) .queueAging { aged := .die die q.id, n := s.cycle }).wakeDie die) := by
    change execQueueAging s = _
    unfold execQueueAging
    rw [h]
    simp only [hl, pickFirst, hq, beq_self_eq_true, Bool.and_self, if_true]
    rfl
  have hw : (m.post (s.cycle + 2 ^ 20) .queueAging { aged := .die die q.id, n := s.cycle }).Posted
      ((m.post (s.cycle + 2 ^ 20) .queueAging { aged := .die die q.id, n := s.cycle }).wakeDie die) :=
    State.wakeTakes_posted _ fun k => dieOf k == die
  have hp := (m.post_posted (s.cycle + 2 ^ 20) .queueAging { aged := .die die q.id, n := s.cycle }).trans hw
  refine ⟨fun hprio => by rw [hexec, if_pos hprio], fun hprio => ⟨_, by rw [hexec, if_neg (by omega)], hp.mem, hp.ctxs, ?_, ?_⟩⟩
  · rw [hp.die]
    exact State.die_setDie_same _ _ _
  · exact (m.post_due _ _ _).extend hw.grows

/-- A ready saved context that has waited its time gains a level. -/
theorem State.age_cloak {s : State} {octet : Nat} {x : Saved} (h : s.arg.aged = .cloak octet x.id) (hx : x.since = s.arg.n)
    (hl : (s.octet octet).cloak = [x]) (hr : x.ready = true) (hprio : x.prio < 255) :
    ∃ t, exec .queueAging s = .next t ∧ t.mem = s.mem ∧ t.ctxs = s.ctxs ∧
      t.octet octet = { s.octet octet with cloak := [{ x with prio := x.prio + 1, since := s.cycle }] } ∧
      t.Due (s.cycle + 2 ^ 20) .queueAging { aged := .cloak octet x.id, n := s.cycle } := by
  set m := s.setOctet octet { s.octet octet with cloak := [{ x with prio := x.prio + 1, since := s.cycle }] }
  have hfind : (s.octet octet).cloak.find? (fun y => y.id == x.id && y.since == s.arg.n) = some x := by
    rw [hl, List.find?_cons_of_pos (by simp [hx])]
  have hexec : exec .queueAging s =
      .next ((m.post (s.cycle + 2 ^ 20) .queueAging { aged := .cloak octet x.id, n := s.cycle }).wakeTake x.core) := by
    change execQueueAging s = _
    unfold execQueueAging
    rw [h]
    dsimp only
    rw [hfind]
    dsimp only
    rw [if_neg (by simp [hr]; omega)]
    simp only [State.modOctet_eq, hl, mapIf, List.map_cons, List.map_nil, beq_self_eq_true, if_true]
    rfl
  have hw := (m.post (s.cycle + 2 ^ 20) .queueAging { aged := .cloak octet x.id, n := s.cycle }).wakeTake_posted x.core
  have hp := (m.post_posted (s.cycle + 2 ^ 20) .queueAging { aged := .cloak octet x.id, n := s.cycle }).trans hw
  refine ⟨_, hexec, hp.mem, hp.ctxs, ?_, (m.post_due _ _ _).extend hw.grows⟩
  rw [hp.octet]
  exact State.octet_setOctet_same _ _ _

/-- The half of O40 about steals, aging and the gold identifier. -/
theorem State.stealsAndAging : Claims.StealsAndAging := by
  intro s core
  refine ⟨⟨fun hf => State.steal_takes hf, fun hf => ?_⟩, ⟨fun hl => ?_, State.dieAsk_none⟩, fun hi hcuts ht => ?_,
    fun die q h hq hl => State.age_die h hq hl, fun octet x h hx hl hr hprio => State.age_cloak h hx hl hr hprio, ?_⟩
  · have hp := s.sendN_posted s.arg.n (dieOf core) 16 (stealTime core s.arg.n) .stealReply { core := core }
    refine ⟨_, ?_, hp.cores, s.sendN_carries _ _ _ _ _ _⟩
    change execStealRequest s = _
    unfold execStealRequest
    dsimp only
    rw [if_pos hf]
    rfl
  · obtain ⟨t, he, hmem, hctxs, hdie, hcarry⟩ := State.dieAsk_gives hl
    exact ⟨t, _, he, hmem, hctxs, byAge_perm _, byAge_aged _, hdie, hcarry⟩
  · obtain ⟨t, he, hmem, hctxs, hat⟩ := State.stealReply_at hi hcuts ht
    exact ⟨t, _, he, hmem, hctxs, byAge_perm _, byAge_aged _, hat⟩
  · exact ⟨_, rfl, rfl, rfl, State.die_setDie_same _ _ _, State.post_due _ _ _ _⟩

/-- Settles O40: the pair queues by what a push leaves at a deque's near end and in a die queue, the steals by what their packets
leave. -/
theorem pairQueues : Obligations.PairQueues := ⟨State.pairQueues, State.stealsAndAging⟩

end Sys2Proof.Machine
end

section
/-! PARK, WAKE and YIELD (O36). -/

namespace Sys2Proof.Machine

/-! ## An issue that passes on -/

/-- Two contexts of one core with one key are one. -/
theorem CtxId.eq_of_key {a b : CtxId} (hc : a.core = b.core) (h : a.key = b.key) : a = b := by
  obtain ⟨i, j⟩ := a
  obtain ⟨k, l⟩ := b
  obtain rfl : i = k := hc
  have hkey : i * 16 + j = i * 16 + l := h
  obtain rfl : j = l := by omega
  rfl

/-- The end of an issue that has read `u` passes on. -/
theorem State.commit_passed (s : State) (u : Uses) :
    s.Passed (s.commit u).finish (s.ctx s.who) ((s.coreAt s.who.core).after u) := by
  have hm := s.commit_took u
  exact State.finish_passed hm.who hm.cycle hm.word hm.ctx (s.commit_core u) hm.otherCores hm.mem

theorem State.commit_finish_octet (s : State) (u : Uses) (o : Nat) : (s.commit u).finish.octet o = s.octet o := by
  change (s.commit u).octet o = s.octet o
  rw [(s.commit_took u).device]
  rfl

theorem State.commit_finish_cycle (s : State) (u : Uses) : (s.commit u).finish.cycle = s.cycle := (s.commit_took u).cycle

/-- A replaced context is found under its key. -/
theorem State.ctx_setCtx_key (s : State) {c d : CtxId} (x : Ctx) (h : d.key = c.key) : (s.setCtx c x).ctx d = x := by
  unfold State.ctx State.setCtx
  rw [show d.core * 16 + d.ctx = c.core * 16 + c.ctx from h]
  exact SMap.get_set_same _ _ _ _

/-- An issue that passes on keeps, of every other context of its core, everything, and of its own all but its place in the
rotation. -/
theorem State.Passed.ctx_at {s t : State} {k : Core} (h : s.Passed t (s.ctx s.who) k) {c : CtxId} (hcore : c.core = s.who.core) : t.ctx c = { s.ctx c with
    pc := (t.ctx c).pc, wait := (t.ctx c).wait, readyAt := (t.ctx c).readyAt, insCount := (t.ctx c).insCount
    starting := (t.ctx c).starting, seated := (t.ctx c).seated, buddy := (t.ctx c).buddy } := by
  by_cases hc : c.key = s.who.key
  · obtain rfl := CtxId.eq_of_key hcore hc
    exact h.ctx
  · rw [h.contexts c hc]

/-- The life of a context of the issuer's core is changed with the issue. -/
theorem State.Passed.setLife {s t : State} {k : Core} (h : s.Passed t (s.ctx s.who) k) {c : CtxId} (hc : c.core = s.who.core)
    (l : Life) : (s.setCtx c { s.ctx c with life := l }).Passed (t.setCtx c { t.ctx c with life := l })
      ((s.setCtx c { s.ctx c with life := l }).ctx s.who) k := by
  obtain ⟨⟨hpc, hwait, hready, hcount⟩, hx, hother, hcore, hcores, hbytes⟩ := h
  by_cases hw : c.key = s.who.key
  · obtain rfl : c = s.who := CtxId.eq_of_key hc hw
    refine ⟨⟨?_, ?_, ?_, ?_⟩, ?_, fun d hd => ?_, hcore, hcores, hbytes⟩
    · exact (congrArg Ctx.pc (State.ctx_setCtx_same _ _ _)).trans (hpc.trans
        (congrArg (fun x => Ctx.pc x + 8) (State.ctx_setCtx_same s s.who { s.ctx s.who with life := l })).symm)
    · exact (congrArg Ctx.wait (State.ctx_setCtx_same _ _ _)).trans hwait
    · exact (congrArg Ctx.readyAt (State.ctx_setCtx_same _ _ _)).trans hready
    · exact (congrArg Ctx.insCount (State.ctx_setCtx_same _ _ _)).trans (hcount.trans
        (congrArg (fun x => Ctx.insCount x + 1) (State.ctx_setCtx_same s s.who { s.ctx s.who with life := l })).symm)
    · intro y
      have hy : y = { t.ctx s.who with life := l } := State.ctx_setCtx_same _ _ _
      rw [hy, State.ctx_setCtx_same]
      conv_lhs => rw [hx]
    · exact (State.ctx_setCtx_other _ _ _ _ hd).trans ((hother d hd).trans (State.ctx_setCtx_other _ _ _ _ hd).symm)
  · have hs : (s.setCtx c { s.ctx c with life := l }).ctx s.who = s.ctx s.who := State.ctx_setCtx_other _ _ _ _ fun h => hw h.symm
    have ht : (t.setCtx c { t.ctx c with life := l }).ctx s.who = t.ctx s.who := State.ctx_setCtx_other _ _ _ _ fun h => hw h.symm
    refine ⟨⟨?_, ?_, ?_, ?_⟩, ?_, fun d hd => ?_, hcore, hcores, hbytes⟩
    · exact (congrArg Ctx.pc ht).trans (hpc.trans (congrArg (fun x => Ctx.pc x + 8) hs).symm)
    · exact (congrArg Ctx.wait ht).trans hwait
    · exact (congrArg Ctx.readyAt ht).trans hready
    · exact (congrArg Ctx.insCount ht).trans (hcount.trans (congrArg (fun x => Ctx.insCount x + 1) hs).symm)
    · intro y
      have hy : y = t.ctx s.who := ht
      rw [hy, hs]
      exact hx
    · by_cases hdc : d.key = c.key
      · rw [State.ctx_setCtx_key _ _ hdc, State.ctx_setCtx_key _ _ hdc, hother c hw]
      · rw [State.ctx_setCtx_other _ _ _ _ hdc, State.ctx_setCtx_other _ _ _ _ hdc]
        exact hother d hd

/-! ## PARK, WAKE and YIELD (R277) -/

theorem State.parkCtx_active {s : State} {c : CtxId} (h0 : c.ctx ≠ 0) (hl : (s.ctx c).life = .active) (hs : s.isSaving c = false) :
    s.parkCtx c = s.setCtx c { s.ctx c with life := .parked } := by
  unfold State.parkCtx
  dsimp only
  rw [if_neg (by simp [h0, hl, hs])]
  rfl

theorem State.parkCtx_other {s : State} {c : CtxId} (h : c.ctx = 0 ∨ (s.ctx c).life ≠ .active ∨ s.isSaving c = true) :
    s.parkCtx c = s := by
  unfold State.parkCtx
  dsimp only
  rw [if_pos (by simpa [or_assoc] using h)]

theorem exec_park {s : State} {a : Src} (hr : s.Readable { a := some a }) : exec (.park (some a)) s =
    if s.mayName ((s.vals { a := some a }).a.toNat % 16) true then
      .next ((s.commit { a := some a }).finish.parkCtx ⟨s.who.core, (s.vals { a := some a }).a.toNat % 16⟩)
    else .next (s.trapHere 0x04 0) := by
  change execPark (some a) s = _
  unfold execPark
  dsimp only
  rw [hr.peek]
  dsimp only
  cases s.mayName ((s.vals { a := some a }).a.toNat % 16) true <;> rfl

theorem exec_wake {s : State} {a : Src} (hr : s.Readable { a := some a }) : exec (.wake a) s =
    let f := (s.commit { a := some a }).finish
    let c : CtxId := ⟨s.who.core, (s.vals { a := some a }).a.toNat % 16⟩
    if s.mayName c.ctx true then
      .next (if (f.ctx c).life != .parked then f else ((f.modCtx c fun x => { x with life := .active }).kickBuiltin c).settle c)
    else .next (s.trapHere 0x04 0) := by
  change execWake a s = _
  unfold execWake
  dsimp only
  rw [hr.peek]
  dsimp only
  rw [apply_ite Host.Outcome.next]
  cases s.mayName ((s.vals { a := some a }).a.toNat % 16) true <;> rfl

/-- Context 0 may name every context, and another context itself. -/
theorem State.mayName_iff (s : State) (k : Nat) : s.mayName k true = true ↔ s.who.ctx = 0 ∨ k = s.who.ctx := by
  unfold State.mayName
  simp

/-- A context woken that has neither the run of a built-in rule nor a fault of its relaxed accesses goes on. -/
theorem State.woken {s : State} {c : CtxId} (hb : (s.ctx c).builtin = none) (hf : (s.ctx c).relFault = none) :
    ((s.modCtx c fun x => { x with life := .active }).kickBuiltin c).settle c = s.setCtx c { s.ctx c with life := .active } := by
  set m := s.modCtx c fun x => { x with life := .active }
  have hx : m.ctx c = { s.ctx c with life := .active } := State.ctx_setCtx_same _ _ _
  have hk : m.kickBuiltin c = m := by
    unfold State.kickBuiltin
    dsimp only
    rw [if_pos (by simp [hx, hb])]
  rw [hk]
  unfold State.settle
  dsimp only
  rw [hx]
  simp only [hf, m, State.modCtx_eq]

/-- The first part of O36. -/
theorem State.parkWakeYield : Claims.ParkWakeYield := by
  intro s x core o
  refine ⟨fun h0 => ⟨⟨_, ?_, s.trapHere_trapped 0x01 0⟩, ⟨_, ?_, s.trapHere_trapped 0x01 0⟩⟩, fun h0 hl hs => ⟨?_, ?_⟩, fun a => ?_⟩
  · change execPark none s = _
    unfold execPark
    rw [if_pos (by simpa using h0)]
  · change execYield s = _
    unfold execYield
    rw [if_pos (by simpa using h0)]
  · have hp : s.Passed s.finish x (s.coreAt core) :=
      State.finish_passed rfl rfl rfl (fun _ => rfl) rfl (fun _ _ => rfl) rfl
    have hlife : (s.finish.ctx s.who).life = .active := by rw [hp.ctx_at rfl]; exact hl
    refine ⟨s.finish.setCtx s.who { s.finish.ctx s.who with life := .parked }, ?_, ?_⟩
    · change execPark none s = _
      unfold execPark
      rw [if_neg (by simpa using h0), State.parkCtx_active h0 hlife hs]
    · obtain ⟨⟨hpc, hwait, hready, hcount⟩, hx, hother, hcore, hcores, hbytes⟩ := hp
      refine ⟨⟨?_, ?_, ?_, ?_⟩, ?_, fun d hd => ?_, hcore, hcores, hbytes⟩
      · exact (congrArg Ctx.pc (State.ctx_setCtx_same _ _ _)).trans hpc
      · exact (congrArg Ctx.wait (State.ctx_setCtx_same _ _ _)).trans hwait
      · exact (congrArg Ctx.readyAt (State.ctx_setCtx_same _ _ _)).trans hready
      · exact (congrArg Ctx.insCount (State.ctx_setCtx_same _ _ _)).trans hcount
      · intro y
        have hy : y = { s.finish.ctx s.who with life := .parked } := State.ctx_setCtx_same _ _ _
        rw [hy]
        conv_lhs => rw [hx]
      · exact (State.ctx_setCtx_other _ _ _ _ hd).trans (hother d hd)
  · have hp : s.Passed s.finish x (s.coreAt core) :=
      State.finish_passed rfl rfl rfl (fun _ => rfl) rfl (fun _ _ => rfl) rfl
    have hrun : (s.finish.ctx s.who).run = x.run := by rw [hp.ctx_at rfl]
    refine ⟨s.finish.beginSave s.who .nothing, ?_, ?_, ?_, ?_⟩
    · change execYield s = _
      unfold execYield
      rw [if_neg (by simpa using h0)]
    · obtain ⟨hi, hx, hother, hcore, hcores, hbytes⟩ := hp
      exact ⟨⟨hi.pc, hi.wait, hi.ready, hi.count⟩, hx, hother, hcore, hcores, hbytes⟩
    · rw [← hrun]
      exact State.octet_setOctet_same _ _ _
    · rw [← hrun]
      exact State.post_due _ _ _ _
  · intro u hr c y k
    have hp := s.commit_passed u
    have hsave : (s.commit u).finish.isSaving c = s.isSaving c := by
      unfold State.isSaving
      rw [State.commit_finish_octet]
    have hlife : ((s.commit u).finish.ctx c).life = y.life := by rw [hp.ctx_at (c := c) rfl]
    refine ⟨fun hm => ?_, fun hm => ?_⟩
    · have hno : s.mayName c.ctx true = false := by
        rw [Bool.eq_false_iff, ne_eq, State.mayName_iff]
        exact hm
      exact ⟨⟨_, by rw [exec_park hr]; exact if_neg (Bool.eq_false_iff.mp hno), s.trapHere_trapped 0x04 0⟩,
        ⟨_, by rw [exec_wake hr]; exact if_neg (Bool.eq_false_iff.mp hno), s.trapHere_trapped 0x04 0⟩⟩
    · have hmay : s.mayName c.ctx true = true := (s.mayName_iff _).mpr hm
      have hpark : exec (.park (some a)) s = .next ((s.commit u).finish.parkCtx c) := by
        rw [exec_park hr]
        exact if_pos hmay
      have hwake : exec (.wake a) s = .next (if ((s.commit u).finish.ctx c).life != .parked then (s.commit u).finish
          else (((s.commit u).finish.modCtx c fun x => { x with life := .active }).kickBuiltin c).settle c) := by
        rw [exec_wake hr]
        exact if_pos hmay
      refine ⟨fun h0 hl hs => ?_, fun hno => ?_, fun hl hb hf => ?_, fun hl => ?_⟩
      · refine ⟨_, hpark, ?_⟩
        rw [State.parkCtx_active h0 (hlife.trans hl) (hsave.trans hs)]
        exact hp.setLife (c := c) rfl .parked
      · refine ⟨_, hpark, ?_⟩
        rw [State.parkCtx_other (by rw [hlife, hsave]; exact hno)]
        exact hp
      · refine ⟨_, hwake, ?_⟩
        rw [hlife, hl, if_neg (by simp), State.woken (by rw [hp.ctx_at (c := c) rfl]; exact hb) (by rw [hp.ctx_at (c := c) rfl]; exact hf)]
        exact hp.setLife (c := c) rfl .active
      · refine ⟨_, hwake, ?_⟩
        rw [hlife, if_pos (by simpa using hl)]
        exact hp

end Sys2Proof.Machine
end

section
/-! ISOL (O45): the claim about the issuer's pc speaks of every context number, also of one past R48's sixteen, which is kept under
the key of a context of another core. -/

namespace Sys2Proof.Machine

/-- ISOL of octet 1 of die 0, by a "context" 64 of the staff's core 0, which is kept where context 0 of core 4 is. -/
def isolatingPast16 : State :=
  { who := ⟨0, 64⟩, ctxs := [(64, { run := 9, life := .active, s := wr (Vector.replicate 32 0) 1 0x0400101000000000 })] }

/-- Its operands: the rectangle in s1, and the completion word in s2. -/
def isolOperands : Uses := { a := some ⟨1, false⟩, b := some ⟨2, false⟩, need := 2 }

theorem isolatingPast16_readable : isolatingPast16.Readable isolOperands := by
  have hout : isolOperands.out ++ isolOperands.late = [] := rfl
  constructor
  case privilege => decide
  case code => rfl
  case notM7 => simp [hout]
  case lateReg => simp [isolOperands]
  case inbound => simp [isolOperands, Uses.reads]
  case outbound => simp [isolOperands]
  case full => decide +kernel
  case vectorFull => simp [isolOperands]
  case oldFull => simp [isolOperands]
  case notPending => simp [hout]
  case vectorNotPending => simp [isolOperands]

/-- Core 4 restarts at its boot record's entry, which is zero here. -/
theorem isolatingPast16_restarts {t : State} (h : exec (.isol ⟨1, false⟩ ⟨2, false⟩) isolatingPast16 = .next t) :
    (t.ctx isolatingPast16.who).pc = 0 := by
  have hrun : (match exec (.isol ⟨1, false⟩ ⟨2, false⟩) isolatingPast16 with
      | .next t => (t.ctx isolatingPast16.who).pc == 0
      | _ => false) = true := by decide +kernel
  rw [h] at hrun
  exact beq_iff_eq.mp hrun

/-- The staff of die 0 are the cores of its first octet, and none of them lies in columns 4 to 7. -/
theorem isolatingPast16_allowed {k : Nat} (hc : 4 ≤ devCol k) (hc' : devCol k < 8) :
    isolatingPast16.isStaffCore k = false := by
  have hplace : ∀ d, (isolatingPast16.die d).staffPlace = 0 := fun _ => rfl
  unfold State.isStaffCore octetOf
  rw [hplace]
  unfold devCol colOf at hc hc'
  simp only [Bool.and_eq_false_iff, decide_eq_false_iff_not, beq_eq_false_iff_ne]
  unfold colOf
  omega

/-- Refutes O45: an ISOL that a staff core issues from a context number of 64 finds its own key, which is core 4's homeroom's,
restarted at the boot entry, and not at the next instruction. -/
theorem not_isolationAndCuts : ¬ Obligations.IsolationAndCuts := by
  unfold Obligations.IsolationAndCuts
  rintro ⟨hisol, -⟩
  obtain ⟨hissue, -⟩ := hisol isolatingPast16 ⟨1, false⟩ ⟨2, false⟩
  obtain ⟨-, -, hallowed⟩ := hissue isolatingPast16_readable
  obtain ⟨t, f, ht, -, -, -, hpc, -⟩ := hallowed (by decide) (by
    rintro (⟨-, hcol, -⟩ | ⟨k, ⟨-, hcol, hcol', -⟩, hstaff⟩)
    · exact absurd hcol (by decide)
    · rw [isolatingPast16_allowed (Nat.le_trans (by decide) hcol) (Nat.lt_of_lt_of_le hcol' (by decide))] at hstaff
      cases hstaff)
  rw [isolatingPast16_restarts ht] at hpc
  exact absurd hpc (by decide)

end Sys2Proof.Machine
end

section
/-! What the net's steps write in storage leaves cores as they are (R42, R94, R95, R366, R370). -/

namespace Sys2Proof.Machine

/-! ## Cores under writes and storage errors -/

theorem State.PostsOnly.cores {s t : State} (h : s.PostsOnly t) : t.cores = s.cores := by rw [h]

/-- Steps that each leave cores as they are leave them so together. -/
theorem State.foldl_cores {α : Type} {f : State → α → State} (h : ∀ (s : State) (a : α), (f s a).cores = s.cores) :
    ∀ (l : List α) (s : State), (l.foldl f s).cores = s.cores
  | [], _ => rfl
  | a :: l, s => (State.foldl_cores h l (f s a)).trans (h s a)

theorem State.fromStripe_cores (s : State) (w : Nat) : (s.fromStripe w).cores = s.cores := by
  unfold State.fromStripe
  dsimp only
  split <;> rfl

theorem State.memoryError_cores (s : State) (g : Nat) : (s.memoryError g).cores = s.cores := by
  unfold State.memoryError
  dsimp only
  split <;> rfl

theorem State.failSlate_cores (s : State) (octet slate : Nat) : (s.failSlate octet slate).cores = s.cores := by
  unfold State.failSlate
  dsimp only
  split
  · split
    · rfl
    · split <;> rfl
  · rfl

theorem State.rebuildWord_cores (s : State) (w : Nat) : (s.rebuildWord w).cores = s.cores := by
  unfold State.rebuildWord
  dsimp only
  split
  · exact (State.failSlate_cores _ _ _).trans (s.fromStripe_cores w)
  · exact s.fromStripe_cores w

/-- One latent error that a read meets. -/
theorem State.meetErrors_cores (s : State) (k n : Nat) : (s.meetErrors k n).1.cores = s.cores := by
  unfold State.meetErrors
  extract_lets hit bad start
  have hstart : start.1.cores = s.cores := by
    dsimp only [start]
    split
    · exact State.foldl_cores State.fromStripe_cores _ _
    · rfl
  rw [← hstart]
  generalize s.latent.filter hit = l
  generalize start = p
  induction l generalizing p with
  | nil => rfl
  | cons e l ih =>
    obtain ⟨m, t⟩ := p
    rw [List.foldl_cons, ih]
    cases e <;> dsimp only
    · split
      · exact State.memoryError_cores _ _
      · rfl
    · split
      · exact State.rebuildWord_cores _ _
      · rfl
    · split <;> rfl

theorem State.replyTo_cores (s : State) (a : Access) (v : VWord) : (s.replyTo a v).cores = s.cores := (s.replyTo_posted a v).cores

theorem State.tryFe_cores {s t : State} {k : Nat} {a : Access} {ch : Bool} (h : s.tryFe k a = some (t, ch)) : t.cores = s.cores := by
  unfold State.tryFe at h
  dsimp only at h
  split at h
  · split at h
    · cases h; exact State.replyTo_cores _ _ _
    · cases h
  · split at h
    · cases h; exact State.replyTo_cores _ _ _
    · cases h
  · split at h
    · cases h
    · cases h; exact State.replyTo_cores _ _ _
  · split at h
    · split at h
      · cases h
      · cases h; rfl
    · split at h
      · cases h; rfl
      · cases h
  · cases h; rfl

theorem State.failTry_cores (s : State) (a : Access) (d : Nat) : (s.failTry a d).cores = s.cores := by
  unfold State.failTry
  dsimp only
  split
  · rfl
  · split <;> rfl

theorem State.wakeSleepers_cores (s : State) (w : Nat) : (s.wakeSleepers w).cores = s.cores := by
  unfold State.wakeSleepers
  dsimp only
  split
  · rfl
  · exact State.foldl_cores (fun s z => s.replyTo_cores _ _) _ _

theorem State.retry_cores (s : State) (k id d : Nat) : (s.retry k id d).1.cores = s.cores := by
  unfold State.retry
  split
  · rfl
  · split
    · rename_i t ch h
      have ht := State.tryFe_cores h
      dsimp only
      split
      · exact (State.wakeSleepers_cores _ _).trans ht
      · exact ht
    · exact State.failTry_cores _ _ _

theorem State.onePass_cores (s : State) (k ver : Nat) (l : List Nat) : (s.onePass k ver l).1.cores = s.cores := by
  induction l generalizing s ver with
  | nil => rfl
  | cons i r ih =>
    unfold State.onePass
    exact (ih _ _).trans (s.retry_cores k i 1)

theorem State.passes_cores (k n : Nat) (s : State) (ver : Nat) (l : List Nat) : (State.passes k n s ver l).cores = s.cores := by
  induction n generalizing s ver l with
  | zero => rfl
  | succ n ih =>
    unfold State.passes
    split
    · rfl
    · exact (ih _ _ _).trans (s.onePass_cores k ver l)

theorem State.passWord_cores (s : State) (w : Nat) : (s.passWord w).cores = s.cores := by
  unfold State.passWord
  dsimp only
  split
  · rfl
  · exact State.passes_cores _ _ _ _ _

theorem State.storeN_cores (s : State) (k n v : Nat) : (s.storeN k n v).cores = s.cores := by
  unfold State.storeN State.afterWrite
  refine (State.foldl_cores (fun s w => ?_) _ _).trans (show (s.putN k n v).cores = s.cores from rfl)
  have hw : (s.wakeCells w).cores = s.cores := (s.wakeCells_posted w).cores
  dsimp only
  split
  · exact ((State.passWord_cores _ _).trans (State.wakeSleepers_cores _ _)).trans hw
  · exact hw

/-! ## Cores under the steps of the net -/

theorem State.touch_cores (s : State) (die : Nat) (e : TlbEnt) (w : Bool) : (s.touch die e w).cores = s.cores := by
  unfold State.touch
  extract_lets l dirty m e' n ath
  have hm : m.cores = s.cores := by
    dsimp only [m]
    split <;> rfl
  split
  · split
    · split <;> exact hm
    · exact hm
  · split <;> exact hm

theorem State.landParts_cores {s t : State} {core use k : Nat} {staff locks : Bool} {a : Word} {parts : List (Nat × Nat)} {need : Need}
    (h : s.landParts core staff locks a parts need use = .go k t) : t.cores = s.cores := by
  by_cases hm : ∀ off, s.form core a ≠ .mem off
  · rw [((State.landParts_go_iff hm).mp h).1]
  · obtain ⟨off, hf⟩ := not_forall.mp hm
    unfold State.landParts at h
    rw [not_not.mp hf] at h
    dsimp only at h
    split at h
    · cases h
    · split at h
      · split at h
        · cases h
        · cases h; exact State.touch_cores _ _ _ _
      · cases h
      · cases h

theorem State.enter_cores {s t : State} {core op n use k : Nat} {staff : Bool} {a : Word} {need : Need}
    (h : s.enter core staff op a n need use = .go k t) : t.cores = s.cores := by
  unfold State.enter at h
  extract_lets f r at h
  have hr : ∀ j u, r = .go j u → u.cores = s.cores := by
    intro j u hju
    dsimp only [r] at hju
    split at hju
    · split at hju
      · cases hju
      · split at hju
        · cases hju
        · cases hju; rfl
    · exact State.landParts_cores hju
  clear_value r
  cases r with
  | go j u =>
    dsimp only at h
    split at h
    · cases h
    · cases h; exact hr _ _ rfl
  | _ => cases h

theorem State.putDword_cores (s : State) (core : Nat) (a : Word) (v : Nat) : (s.putDword core a v).cores = s.cores := by
  unfold State.putDword
  dsimp only
  split
  · rename_i k t h
    exact (State.storeN_cores t _ _ _).trans (State.enter_cores h)
  all_goals rfl

theorem State.returnRec_cores (s : State) (core : Nat) (r : Word) : (s.returnRec core r).cores = s.cores := by
  unfold State.returnRec
  extract_lets h net list
  split
  · rfl
  · exact (State.putDword_cores _ _ _ _).trans (State.putDword_cores _ _ _ _)

theorem State.checkRec_cores (s : State) (k : Nat) : (s.checkRec k).cores = s.cores := by
  unfold State.checkRec
  split
  · rfl
  · dsimp only
    split
    · rfl
    · exact State.returnRec_cores _ _ _

theorem State.freeCell_cores (s : State) (core : Nat) (a : Word) : (s.freeCell core a).cores = s.cores := by
  unfold State.freeCell
  dsimp only
  split
  · split
    · exact (State.checkRec_cores _ _).trans (s.putDword_cores core a 0)
    · exact ((State.checkRec_cores _ _).trans (State.checkRec_cores _ _)).trans (s.putDword_cores core a 0)
  · exact s.putDword_cores core a 0

theorem State.meetKeys_cores (s : State) (f : State → State) : (s.meetKeys f).cores = s.cores := by
  unfold State.meetKeys
  split
  · rfl
  · exact State.foldl_cores (fun s k => s.meetErrors_cores k 8) _ _

/-- A write beside another step leaves cores as they are where its steps do. -/
theorem State.apart_cores (s : State) (core : Nat) {f : State → State} (hf : ∀ m : State, (f m).cores = m.cores) :
    (s.apart core f).cores = s.cores := by
  have hm := s.meetKeys_cores f
  have ht : (f { s.meetKeys f with txn := {} }).cores = s.cores := (hf _).trans hm
  change (s.atomically core f fun _ s => s).cores = s.cores
  unfold State.atomically
  extract_lets m t
  split
  · exact hm
  · split
    · exact hm
    · dsimp only
      split
      · exact hm
      · exact ht

end Sys2Proof.Machine
end

section
/-! START (O36). -/

namespace Sys2Proof.Machine

/-! ## Issues of late writers, for what follows them -/

/-- The rules of nets read what they read where only contexts, agendas and cores without their windows have changed. -/
theorem State.SameNets.of_frame {s t : State}
    (hd : t = { s with ctxs := t.ctxs, cores := t.cores, agenda := t.agenda, seq := t.seq, fresh := t.fresh, packets := t.packets })
    (hw : ∀ c, (t.coreAt c).win = (s.coreAt c).win) : s.SameNets t := by
  have hg : s.SameGates t := ⟨by rw [hd], by rw [hd], by rw [hd], by rw [hd], hw, fun o => by rw [hd]; rfl, fun o => by rw [hd]; rfl,
    fun o => by rw [hd]; rfl⟩
  have hk : ∀ core a, t.cellKey core a = s.cellKey core a := hg.cellKey fun part off => by rw [hd]; rfl
  refine ⟨fun core a => ?_, fun net => by rw [hd]; rfl, hg.cellLt, fun o => by rw [hd]; rfl⟩
  unfold State.dword State.rd8
  rw [hk, show t.mem = s.mem by rw [hd]]

/-- An issue leaves a context of its core with another number as it was. -/
theorem State.Began.ctx_other {s t : State} {u : Uses} {late : List Reg} (h : s.Began t u late none) {c : CtxId}
    (hc : c.core = s.who.core) (hn : c.ctx ≠ s.who.ctx) : t.ctx c = s.ctx c :=
  h.same.contexts c fun hk => hn (congrArg CtxId.ctx (CtxId.eq_of_key hc hk))

theorem State.Began.octet {s t : State} {u : Uses} {late : List Reg} (h : s.Began t u late none) (o : Nat) : t.octet o = s.octet o := by
  have hd := h.same.device
  rw [hd]
  rfl

theorem State.Began.cycle {s t : State} {u : Uses} {late : List Reg} (h : s.Began t u late none) : t.cycle = s.cycle := by
  rw [h.same.device]

theorem State.Began.mem {s t : State} {u : Uses} {late : List Reg} (h : s.Began t u late none) : t.mem = s.mem := by
  rw [h.same.device]

theorem State.Began.win {s t : State} {u : Uses} {late : List Reg} (h : s.Began t u late none) (k : Nat) :
    (t.coreAt k).win = (s.coreAt k).win := by
  by_cases hk : k = s.who.core
  · have hf := h.coreFrame
    unfold Core.IssueFrame at hf
    rw [hk, hf]
  · rw [h.same.otherCores k hk]
    rfl

/-- The state in which an instruction with one late scalar result has issued. -/
def State.issueLate (s : State) (u : Uses) (d : Reg) : State :=
  ((s.commit u).emptyDest s.who (.reg d)).finish.modCtx s.who fun y => { y with lateOut := y.lateOut + 1 }

/-- What the issue of an instruction with one late scalar result leaves. -/
theorem State.Readable.issueLate {s : State} {u : Uses} (hr : s.Readable u) {d : Reg} (hd : d ∈ u.late) :
    s.Began (s.issueLate u d) u [d] none ∧ ((s.issueLate u d).ctx s.who).pc = (s.ctx s.who).pc + 8 ∧
      ((s.issueLate u d).ctx s.who).wait = .none ∧ ((s.issueLate u d).ctx s.who).lateOut = (s.ctx s.who).lateOut + 1 := by
  have hd55 : d.toNat < 55 := hr.late_lt_m7 hd
  obtain ⟨hb, hpc, hwait, hlate⟩ := (s.commit_took u).began ((s.commit u).emptyDest_reg s.who d (by omega)) (by simpa using hd55)
  unfold State.issueLate
  generalize ((s.commit u).emptyDest s.who (.reg d)).finish = f at hb hpc hwait hlate
  have hself : (f.modCtx s.who fun y => { y with lateOut := y.lateOut + 1 }).ctx s.who =
      { f.ctx s.who with lateOut := (f.ctx s.who).lateOut + 1 } := State.ctx_setCtx_same _ _ _
  refine ⟨hb.rebase rfl rfl rfl (by rw [hself]) (fun c hc => ?_) hb.same.otherCores ⟨rfl, rfl, rfl, rfl, rfl, rfl, rfl⟩
    ⟨rfl, rfl, rfl, rfl, rfl, rfl, rfl⟩ hb.coreFrame, ?_, ?_, ?_⟩
  · exact (State.ctx_setCtx_other _ _ _ _ hc).trans (hb.same.contexts c hc)
  · rw [hself]; exact hpc
  · rw [hself]; exact hwait
  · rw [hself, hlate]

/-! ## START (R275) -/

/-- The operands of a START of the taken item, or of a pc. -/
def startUses (d : Reg) (a b c : Src) : Option (BitVec 8) → Uses
  | none => { a := some a, late := [d] }
  | some _ => { a := some a, b := some b, c := some c, late := [d] }

theorem startUses_late (d : Reg) (a b c : Src) (p : Option (BitVec 8)) : d ∈ (startUses d a b c p).late := by
  cases p <;> exact List.mem_singleton_self d

/-- What a START that issues does. -/
theorem exec_start {s : State} {d : Reg} {a b c : Src} {p : Option (BitVec 8)} (h0 : s.who.ctx = 0)
    (hr : s.Readable (startUses d a b c p)) : exec (.start d a b c p) s =
    let v := s.vals (startUses d a b c p)
    let m := s.issueLate (startUses d a b c p) d
    let x : CtxId := ⟨s.who.core, v.a.toNat % 16⟩
    let l : Late := { who := s.who, run := (s.ctx s.who).run, dest := .reg d }
    if x.ctx == 0 then .next (m.startStatus l 1 (m.cycle + 2))
    else if m.startBusy x then .next (m.startStatus l 2 (m.cycle + 2))
    else match (generalizing := false) p, (if p.isNone then (m.coreAt s.who.core).takeReg else none) with
      | some q, _ => if (m.ctx x).life == .active then .next (m.beginSave x (.startPc v.b v.c q.toNat l))
          else .next ((m.startAtPc x v.b v.c q.toNat).startStatus l 0 (m.cycle + 2))
      | none, some i => if (m.ctx x).life == .active
          then .next ((m.modCore s.who.core fun k => { k with takeReg := none }).beginSave x (.startItem i l))
          else .next ((m.modCore s.who.core fun k => { k with takeReg := none }).startItem x i l)
      | none, none => .next (m.startStatus l 3 (m.cycle + 2)) := by
  have hwho : ((s.commit (startUses d a b c p)).emptyDest s.who (.reg d)).finish.who = s.who := by
    have hd : d.toNat < 55 := hr.late_lt_m7 (startUses_late d a b c p)
    have hm := s.commit_took (startUses d a b c p)
    have he := (s.commit (startUses d a b c p)).emptyDest_reg s.who d (by omega)
    change ((s.commit (startUses d a b c p)).emptyDest s.who (.reg d)).who = s.who
    rw [he.device]
    exact hm.who
  change execStart d a b c p s = _
  unfold execStart
  rw [if_neg (by simp [h0])]
  cases p with
  | none =>
    have hp := hr.peek
    dsimp only [startUses] at hp hwho
    simp only [Option.isNone_none, if_true]
    rw [hp]
    dsimp only
    rw [hwho]
    rfl
  | some q =>
    have hp := hr.peek
    dsimp only [startUses] at hp hwho
    simp only [Option.isNone_some, Bool.false_eq_true, if_false]
    rw [hp]
    dsimp only
    rw [hwho]
    rfl

/-! ## The banks that starts make (R50, R275) -/

theorem startBank_started (run prio at' : Nat) (pc s1 : Word) : Ctx.Started (startBank run prio at' pc s1) pc s1 prio at' := by
  refine ⟨rfl, fun j hj => ?_⟩
  have hs : (startBank run prio at' pc s1).s = wr (Vector.replicate 32 0) 1 s1 := rfl
  have hf : (startBank run prio at' pc s1).sFull = sb 0xFFFFFFFF 1 true := rfl
  have hp : (startBank run prio at' pc s1).sPend = sb 0 1 false := rfl
  rw [hs, hf, hp]
  by_cases h1 : j = 1
  · subst h1
    rw [if_pos rfl]
    exact ⟨rd_wr_same _ _ _ _ (by decide), tb_sb_same _ _ _ (by decide), tb_sb_same _ _ _ (by decide)⟩
  · rw [if_neg h1, rd_wr_other _ _ _ _ _ (Ne.symm h1), tb_sb_other _ _ _ _ (Ne.symm h1), tb_sb_other _ _ _ _ (Ne.symm h1), rd_replicate]
    have hbits : ∀ i < 32, tb (0xFFFFFFFF : BitVec 32) i = true ∧ tb (0 : BitVec 32) i = false := by decide
    exact ⟨rfl, (hbits j hj).1, (hbits j hj).2⟩

/-- The bank of a pair's start (R275). -/
def pairBank (run prio at' net : Nat) (pc s1 s2 : Word) : Ctx :=
  { ((Ctx.fresh run prio pc at').setS 1 s1).setS 2 s2 with net := BitVec.ofNat 16 net, agentRec := s1, mate := s2 }

/-- s1 and s2 hold the pair's agents, and every other register is zero; all are full. -/
theorem pairBank_regs (run prio at' net : Nat) (pc s1 s2 : Word) {j : Nat} (hj : j < 32) :
    rd (pairBank run prio at' net pc s1 s2).s j 0 = (if j = 1 then s1 else if j = 2 then s2 else 0) ∧
      tb (pairBank run prio at' net pc s1 s2).sFull j = true := by
  have hs : (pairBank run prio at' net pc s1 s2).s = wr (wr (Vector.replicate 32 0) 1 s1) 2 s2 := rfl
  have hf : (pairBank run prio at' net pc s1 s2).sFull = sb (sb 0xFFFFFFFF 1 true) 2 true := rfl
  rw [hs, hf]
  have hbits : ∀ i < 32, tb (sb (sb (0xFFFFFFFF : BitVec 32) 1 true) 2 true) i = true := by decide
  refine ⟨?_, hbits j hj⟩
  by_cases h2 : j = 2
  · subst h2
    exact rd_wr_same _ _ _ _ (by decide)
  · rw [rd_wr_other _ _ _ _ _ (Ne.symm h2), if_neg h2]
    by_cases h1 : j = 1
    · subst h1
      exact rd_wr_same _ _ _ _ (by decide)
    · rw [rd_wr_other _ _ _ _ _ (Ne.symm h1), if_neg h1, rd_replicate]

/-- The start of a pair that has a rule: its cells are freed, and its bank stands in the context. -/
theorem State.startPair_eq {m n : State} {c : CtxId} {a b s1 s2 entry : Word} {adj : BitVec 8} {prio at' : Nat}
    (ho : m.orderPair c.core a b = (s1, s2))
    (hb : builtinPair (bits (m.dword c.core s1) 63 52) (bits (m.dword c.core s2) 63 52) = false)
    (hrule : m.newId.2.rule c.core (m.dword c.core s1 % 65536) (bits (m.dword c.core s1) 63 52) (bits (m.dword c.core s2) 63 52) =
      (n, some (adj, entry)))
    (hn : n.desc (m.dword c.core s1 % 65536) ≠ 0) : m.startPair c a b prio at' =
      ((n.apart c.core fun s => s.freeCell c.core (s1 + 8)).apart c.core fun s => s.freeCell c.core (s2 + 8)).setCtx c
        (pairBank m.seq prio at' (m.dword c.core s1 % 65536) entry s1 s2) := by
  unfold State.startPair
  extract_lets core
  split
  next s1' s2' hpair =>
  obtain ⟨rfl, rfl⟩ := Prod.mk.inj (hpair.symm.trans ho)
  extract_lets h1 net x y
  split
  next run s hid =>
  obtain ⟨rfl, rfl⟩ := Prod.mk.inj hid
  split
  next s r hr =>
  obtain ⟨rfl, rfl⟩ := Prod.mk.inj (hr.symm.trans hrule)
  extract_lets src bank freed
  rw [if_neg (by simpa using hn), if_neg (by simpa using hb)]
  rfl

/-- The start of a pair that has a rule puts its bank into the context, and leaves every core. -/
theorem State.startPair_rule {m : State} {c : CtxId} {a b s1 s2 entry : Word} {adj : BitVec 8} {prio at' : Nat}
    (ho : m.orderPair c.core a b = (s1, s2)) (hd : m.desc (m.dword c.core s1 % 65536) ≠ 0)
    (hb : builtinPair (bits (m.dword c.core s1) 63 52) (bits (m.dword c.core s2) 63 52) = false)
    (hrule : (m.newId.2.rule c.core (m.dword c.core s1 % 65536) (bits (m.dword c.core s1) 63 52) (bits (m.dword c.core s2) 63 52)).2 =
      some (adj, entry)) :
    (m.startPair c a b prio at').ctx c = pairBank m.seq prio at' (m.dword c.core s1 % 65536) entry s1 s2 ∧
      (m.startPair c a b prio at').cores = m.cores := by
  have hframe := m.newId.2.rule_frame c.core (m.dword c.core s1 % 65536) (bits (m.dword c.core s1) 63 52)
    (bits (m.dword c.core s2) 63 52)
  have hcores := congrArg State.cores hframe
  have hdesc := congrArg (fun n : State => n.desc (m.dword c.core s1 % 65536)) hframe
  rw [State.startPair_eq ho hb (Prod.ext rfl hrule) (by rw [hdesc]; exact hd)]
  refine ⟨State.ctx_setCtx_same _ _ _, ?_⟩
  have hfree : ∀ (w : Word) (k : State), (k.apart c.core fun s => s.freeCell c.core w).cores = k.cores := fun w k =>
    k.apart_cores c.core fun m => m.freeCell_cores c.core w
  exact ((hfree _ _).trans (hfree _ _)).trans hcores

/-! ## What a START leaves -/

theorem State.startStatus_posts (m : State) (l : Late) (k at' : Nat) : m.PostsOnly (m.startStatus l k at') := rfl

theorem State.startStatus_answers (m : State) (l : Late) (k at' : Nat) : (m.startStatus l k at').Answers at' l k :=
  State.post_due _ _ _ _

/-- What the issue of a START leaves, and what its late result changes in its context. -/
structure State.BeganLate (s t : State) (u : Uses) (d : Reg) (pc : Word) (n : Nat) : Prop where
  began : s.Began t u [d] none
  pc : (t.ctx s.who).pc = pc
  wait : (t.ctx s.who).wait = .none
  lateOut : (t.ctx s.who).lateOut = n

theorem State.BeganLate.posts {s t r : State} {u : Uses} {d : Reg} {pc : Word} {n : Nat} (h : s.BeganLate t u d pc n)
    (hp : t.PostsOnly r) : s.BeganLate r u d pc n := by
  have hc : r.ctx s.who = t.ctx s.who := by rw [hp]; rfl
  exact ⟨h.began.posts hp, by rw [hc, h.pc], by rw [hc, h.wait], by rw [hc, h.lateOut]⟩

/-- Another context is made beside the issue. -/
theorem State.Began.setCtx {s t : State} {u : Uses} {late : List Reg} (h : s.Began t u late none) {c : CtxId}
    (hc : c.core = s.who.core) (hn : c.ctx ≠ s.who.ctx) (z : Ctx) : (s.setCtx c z).Began (t.setCtx c z) u late none ∧
      (t.setCtx c z).ctx s.who = t.ctx s.who := by
  have hk : s.who.key ≠ c.key := fun hk => hn (congrArg CtxId.ctx (CtxId.eq_of_key hc hk.symm))
  have ht : (t.setCtx c z).ctx s.who = t.ctx s.who := State.ctx_setCtx_other _ _ _ _ hk
  refine ⟨h.rebase rfl rfl (State.ctx_setCtx_other _ _ _ _ hk) (by rw [ht]) (fun e he => ?_) h.same.otherCores
    ⟨rfl, rfl, rfl, rfl, rfl, rfl, rfl⟩ ⟨rfl, rfl, rfl, rfl, rfl, rfl, rfl⟩ h.coreFrame, ht⟩
  by_cases hec : e.key = c.key
  · rw [State.ctx_setCtx_key _ _ hec, State.ctx_setCtx_key _ _ hec]
  · rw [State.ctx_setCtx_other _ _ _ _ hec, State.ctx_setCtx_other _ _ _ _ hec]
    exact h.same.contexts e he

theorem State.BeganLate.setCtx {s t : State} {u : Uses} {d : Reg} {pc : Word} {n : Nat} (h : s.BeganLate t u d pc n) {c : CtxId}
    (hc : c.core = s.who.core) (hn : c.ctx ≠ s.who.ctx) (z : Ctx) : (s.setCtx c z).BeganLate (t.setCtx c z) u d pc n := by
  obtain ⟨hb, ht⟩ := h.began.setCtx hc hn z
  exact ⟨hb, (congrArg Ctx.pc ht).trans h.pc, (congrArg Ctx.wait ht).trans h.wait, (congrArg Ctx.lateOut ht).trans h.lateOut⟩

theorem State.Readable.beganLate {s : State} {u : Uses} (hr : s.Readable u) {d : Reg} (hd : d ∈ u.late) :
    s.BeganLate (s.issueLate u d) u d ((s.ctx s.who).pc + 8) ((s.ctx s.who).lateOut + 1) := by
  obtain ⟨hb, hpc, hwait, hlate⟩ := hr.issueLate hd
  exact ⟨hb, hpc, hwait, hlate⟩

/-- Whether a START is refused for a context depends on what its issue leaves as it was. -/
theorem State.Began.startBusy {s t : State} {u : Uses} {late : List Reg} (h : s.Began t u late none) {c : CtxId}
    (hc : c.core = s.who.core) (hn : c.ctx ≠ s.who.ctx) : t.startBusy c = s.startBusy c := by
  have hx := h.ctx_other hc hn
  have hsave : t.isSaving c = s.isSaving c := by
    unfold State.isSaving
    rw [h.octet]
  have hreap : (t.coreAt c.core).reaping = (s.coreAt c.core).reaping := by
    have hf := h.coreFrame
    unfold Core.IssueFrame at hf
    rw [hc, hf]
  unfold State.startBusy
  rw [hx, hsave, hreap]

/-- The contexts for which START answers 2, where no REAP waits. -/
theorem State.startBusy_iff {s : State} {c : CtxId} (hr : (s.coreAt c.core).reaping = none) : s.startBusy c = true ↔
    (s.ctx c).life = .parked ∨ (s.ctx c).life = .trapped ∨ (s.ctx c).life = .finished ∨ (s.ctx c).starting = true ∨
      s.isSaving c = true := by
  unfold State.startBusy
  rw [hr]
  simp [or_assoc]

theorem State.startBusy_of {s : State} {c : CtxId} (h : (s.ctx c).life = .parked ∨ (s.ctx c).life = .trapped ∨
    (s.ctx c).life = .finished ∨ (s.ctx c).starting = true ∨ s.isSaving c = true) : s.startBusy c = true := by
  unfold State.startBusy
  rcases h with h | h | h | h | h <;> simp [h]

/-- A START that saves the running context first. -/
theorem State.start_saves {m : State} {x : CtxId} (a : After) :
    (∃ v' ∈ ((m.beginSave x a).octet (octetOf x.core)).saves, v' = { core := x.core, ctx := x.ctx, run := (m.ctx x).run, after := a }) ∧
      (m.beginSave x a).Due m.cycle .contextSaveEnd { c := x, run := (m.ctx x).run } := by
  refine ⟨⟨_, ?_, rfl⟩, State.post_due _ _ _ _⟩
  have h : (m.beginSave x a).octet (octetOf x.core) = { m.octet (octetOf x.core) with
      saves := (m.octet (octetOf x.core)).saves ++ [{ core := x.core, ctx := x.ctx, run := (m.ctx x).run, after := a }] } :=
    State.octet_setOctet_same _ _ _
  rw [h]
  exact List.mem_append_right _ (List.mem_singleton_self _)

/-- A START of the taken pair, issued. -/
theorem State.start_pair {s m : State} {u : Uses} {late : List Reg} (hb : s.Began m u late none) {x : CtxId} {q : QItem} {l : Late}
    {s1 s2 entry : Word} {adj : BitVec 8} (hx : x.core = s.who.core) (ho : s.orderPair s.who.core q.a q.b = (s1, s2))
    (hd : s.desc (s.dword s.who.core s1 % 65536) ≠ 0)
    (hp : builtinPair (bits (s.dword s.who.core s1) 63 52) (bits (s.dword s.who.core s2) 63 52) = false)
    (hrule : (s.rule s.who.core (s.dword s.who.core s1 % 65536) (bits (s.dword s.who.core s1) 63 52)
      (bits (s.dword s.who.core s2) 63 52)).2 = some (adj, entry)) :
    let t := (m.modCore s.who.core fun k => { k with takeReg := none }).startItem x (.pair q) l
    (t.coreAt s.who.core).takeReg = none ∧ t.Answers (s.cycle + 2) l 0 ∧
      t.ctx x = pairBank m.seq q.prio (s.cycle + 2) (s.dword s.who.core s1 % 65536) entry s1 s2 := by
  intro t
  set n := m.modCore s.who.core fun k => { k with takeReg := none }
  have hncore : n.coreAt s.who.core = { m.coreAt s.who.core with takeReg := none } := State.coreAt_setCore_same _ _ _
  have hnets : s.SameNets n := by
    refine .of_frame (by rw [show n = { m with cores := n.cores } from rfl, hb.same.device]) fun c => ?_
    by_cases hc : c = s.who.core
    · rw [hc, hncore, ← hb.win]
    · rw [show n.coreAt c = m.coreAt c from State.coreAt_setCore_other _ _ _ _ hc, hb.win]
  have hnets' : s.SameNets n.newId.2 := ⟨hnets.dword, hnets.desc, hnets.cellLt, hnets.rules⟩
  have hcyc : n.cycle = s.cycle := hb.cycle
  obtain ⟨hctx, hcores⟩ := State.startPair_rule (m := n) (c := x) (a := q.a) (b := q.b) (s1 := s1) (s2 := s2) (entry := entry)
    (adj := adj) (prio := q.prio) (at' := n.cycle + 2) (by rw [hx, hnets.orderPair, ho]) (by rw [hx, hnets.dword, hnets.desc]; exact hd)
    (by rw [hx, hnets.dword, hnets.dword]; exact hp) (by rw [hx, hnets.dword, hnets.dword, hnets'.rule]; exact hrule)
  have ht : t = (n.startPair x q.a q.b q.prio (n.cycle + 2)).startStatus l 0 (n.cycle + 2) := rfl
  rw [hcyc] at ht hctx hcores
  rw [hx, hnets.dword] at hctx
  generalize n.startPair x q.a q.b q.prio (s.cycle + 2) = p at ht hctx hcores
  have hp : p.Posted t := ht ▸ State.post_posted _ _ _ _
  refine ⟨?_, ?_, (hp.ctx x).trans hctx⟩
  · have hk : p.coreAt s.who.core = n.coreAt s.who.core := by
      unfold State.coreAt
      rw [hcores]
    rw [hp.coreAt, hk, hncore]
  · rw [ht]
    exact State.startStatus_answers _ _ _ _

/-- The second part of O36. -/
theorem State.starts : Claims.Starts := by
  intro s d a b c p core u i v x y l busy began
  have hu : u = startUses d a b c p := by cases p <;> rfl
  clear_value u
  subst hu
  refine ⟨fun h0 => ⟨_, ?_, s.trapHere_trapped 0x04 0⟩, fun h0 hr => ?_⟩
  · change execStart d a b c p s = _
    unfold execStart
    rw [if_pos (by simpa using h0)]
  have hb : s.BeganLate _ _ d _ _ := hr.beganLate (startUses_late d a b c p)
  have hexec : exec i s = _ := exec_start h0 hr
  set m := s.issueLate (startUses d a b c p) d
  dsimp only at hexec
  rw [hb.began.cycle] at hexec
  have hbegan : ∀ {s' t : State}, exec i s = .next t →
      s'.BeganLate t (startUses d a b c p) d ((s.ctx s.who).pc + 8) ((s.ctx s.who).lateOut + 1) → s'.who = s.who → began s' t :=
    fun he hl hw => ⟨he, hl.began, hw ▸ hl.pc, hw ▸ hl.wait, hw ▸ hl.lateOut⟩
  have hstatus : ∀ k, s.BeganLate (m.startStatus l k (s.cycle + 2)) (startUses d a b c p) d ((s.ctx s.who).pc + 8)
      ((s.ctx s.who).lateOut + 1) := fun k => hb.posts (m.startStatus_posts l k _)
  refine ⟨fun hx => ?_, fun hx hbusy => ?_, fun hx hbusy hreap => ?_⟩
  · have he : exec i s = .next (m.startStatus l 1 (s.cycle + 2)) := by
      rw [hexec]
      exact if_pos (beq_iff_eq.mpr hx)
    exact ⟨_, hbegan he (hstatus 1) rfl, State.startStatus_answers _ _ _ _⟩
  · have hmb : m.startBusy x = true := by
      rw [hb.began.startBusy (c := x) rfl (by rw [h0]; exact hx)]
      exact State.startBusy_of hbusy
    have he : exec i s = .next (m.startStatus l 2 (s.cycle + 2)) := by
      rw [hexec]
      exact (if_neg (by simpa using hx)).trans (if_pos hmb)
    exact ⟨_, hbegan he (hstatus 2) rfl, State.startStatus_answers _ _ _ _⟩
  · have hn : x.ctx ≠ s.who.ctx := by rw [h0]; exact hx
    have hmb : m.startBusy x = false := by
      rw [hb.began.startBusy (c := x) rfl hn, Bool.eq_false_iff, ne_eq, State.startBusy_iff (c := x) hreap]
      exact hbusy
    have hmx : m.ctx x = y := hb.began.ctx_other rfl hn
    have htake : (m.coreAt core).takeReg = (s.coreAt core).takeReg := by
      have hf := hb.began.coreFrame
      unfold Core.IssueFrame at hf
      rw [hf]
    have hgo := hexec.trans ((if_neg (by simpa using hx)).trans (if_neg (Bool.eq_false_iff.mp hmb)))
    refine ⟨fun hp hempty => ?_, fun n hp hl => ?_, fun n hp hl => ?_, fun q s1 s2 r adj entry hp hreg hl ho => ?_⟩
    · subst hp
      have he : exec i s = .next (m.startStatus l 3 (s.cycle + 2)) := by
        rw [hgo]
        simp only [Option.isNone_none, if_true]
        rw [show (m.coreAt s.who.core).takeReg = none from htake.trans hempty]
      exact ⟨_, hbegan he (hstatus 3) rfl, State.startStatus_answers _ _ _ _⟩
    · subst hp
      have he : exec i s = .next ((m.startAtPc x v.b v.c n.toNat).startStatus l 0 (s.cycle + 2)) := by
        rw [hgo]
        exact if_neg (by rw [hmx, hl]; decide)
      refine ⟨_, startBank m.seq n.toNat (s.cycle + 2) v.b v.c, hbegan he ?_ rfl, startBank_started _ _ _ _ _,
        State.startStatus_answers _ _ _ _⟩
      have hset := (hb.posts (r := m.newId.2) rfl).setCtx (c := x) rfl hn (startBank m.seq n.toNat (s.cycle + 2) v.b v.c)
      rw [← hb.began.cycle] at hset ⊢
      exact hset.posts rfl
    · subst hp
      have he : exec i s = .next (m.beginSave x (.startPc v.b v.c n.toNat l)) := by
        rw [hgo]
        exact if_pos (by rw [hmx, hl]; decide)
      obtain ⟨hsave, hdue⟩ := State.start_saves (m := m) (x := x) (.startPc v.b v.c n.toNat l)
      rw [hmx] at hsave hdue
      rw [hb.began.cycle] at hdue
      exact ⟨_, he, hmx, hb.began.mem, hsave, hdue⟩
    · subst hp
      intro h net hd hbuiltin hrule
      obtain ⟨htreg, hans, hz⟩ := State.start_pair (x := x) (l := l) hb.began rfl ho hd hbuiltin (congrArg Prod.snd hrule)
      refine ⟨_, ?_, htreg, hans, ?_⟩
      · rw [hgo]
        simp only [Option.isNone_none, if_true]
        rw [show (m.coreAt s.who.core).takeReg = some (.pair q) from htake.trans hreg]
        exact if_neg (by rw [hmx, hl]; decide)
      · rw [hz]
        exact ⟨rfl, rfl, rfl, rfl, rfl, fun j hj => pairBank_regs _ _ _ _ _ _ _ hj⟩

end Sys2Proof.Machine
end

section
/-! REAP, and the late results of homerooms (O36). -/

namespace Sys2Proof.Machine

/-! ## The issue of a REAP -/

/-- The issuing core changes in fields that no issue touches. -/
theorem State.Began.mapCore {s t : State} {u : Uses} {late : List Reg} (h : s.Began t u late none) {F : Core → Core}
    (hfiles : ∀ k : Core, k.SameFiles (F k)) (hframe : ∀ k l : Core, k.IssueFrame l → (F k).IssueFrame (F l)) :
    (s.setCore s.who.core (F (s.coreAt s.who.core))).Began (t.setCore s.who.core (F (t.coreAt s.who.core))) u late none := by
  refine h.rebase rfl rfl rfl rfl h.same.contexts (fun k hk => ?_) ?_ ?_ ?_
  · rw [State.coreAt_setCore_other _ _ _ _ hk, State.coreAt_setCore_other _ _ _ _ hk]
    exact h.same.otherCores k hk
  · rw [State.coreAt_setCore_same]; exact hfiles _
  · rw [State.coreAt_setCore_same]; exact hfiles _
  · rw [State.coreAt_setCore_same, State.coreAt_setCore_same]; exact hframe _ _ h.coreFrame

/-- The operands of a REAP. -/
def reapUses (d b : Reg) : Uses := { late := [d, b] }

/-- The state in which a REAP has issued, and waits. -/
def State.issueReap (s : State) (d b : Reg) : State :=
  ((s.newId.2.emptyDest s.who (.reg2 d b)).finish).modCtx s.who fun x => { x with lateOut := x.lateOut + 1, wait := .hold s.seq }

/-- What the issue of a REAP leaves. -/
theorem State.Readable.issueReap {s : State} {d b : Reg} (hr : s.Readable (reapUses d b)) :
    s.Began (s.issueReap d b) (reapUses d b) [d, b] none ∧ ((s.issueReap d b).ctx s.who).pc = (s.ctx s.who).pc + 8 ∧
      ((s.issueReap d b).ctx s.who).wait = .hold s.seq ∧ ((s.issueReap d b).ctx s.who).lateOut = (s.ctx s.who).lateOut + 1 := by
  have hlt : ∀ r ∈ [d, b], r.toNat < 55 := fun r h => hr.late_lt_m7 h
  have hd := hlt d (by simp)
  have hb := hlt b (by simp)
  obtain ⟨hbegan, hpc, -, hlate⟩ := (s.took_newId rfl : s.Took s.newId.2 (reapUses d b)).began
    (s.newId.2.emptyDest_reg2 s.who d b (by omega) (by omega)) hlt
  unfold State.issueReap
  generalize (s.newId.2.emptyDest s.who (.reg2 d b)).finish = f at hbegan hpc hlate
  have hself : (f.modCtx s.who fun x => { x with lateOut := x.lateOut + 1, wait := .hold s.seq }).ctx s.who =
      { f.ctx s.who with lateOut := (f.ctx s.who).lateOut + 1, wait := .hold s.seq } := State.ctx_setCtx_same _ _ _
  refine ⟨hbegan.rebase rfl rfl rfl (by rw [hself]) (fun c hc => ?_) hbegan.same.otherCores ⟨rfl, rfl, rfl, rfl, rfl, rfl, rfl⟩
    ⟨rfl, rfl, rfl, rfl, rfl, rfl, rfl⟩ hbegan.coreFrame, ?_, ?_, ?_⟩
  · exact (State.ctx_setCtx_other _ _ _ _ hc).trans (hbegan.same.contexts c hc)
  · rw [hself]; exact hpc
  · rw [hself]
  · rw [hself, hlate]

/-- What a REAP that issues waits with. -/
def State.reaping (s : State) (d b : Reg) (look : Bool) : Reaping :=
  { reply := { who := s.who, run := (s.ctx s.who).run, dest := .reg d }
    second := { who := s.who, run := (s.ctx s.who).run, dest := .reg b }, id := s.seq, look := look }

theorem exec_reap {s : State} {d b : Reg} {w look : Bool} (h0 : s.who.ctx = 0) (hr : s.Readable (reapUses d b)) :
    exec (.reap d b w look) s = .next ((s.issueReap d b).tryReap s.who.core (s.reaping d b look) w) := by
  have hlt : ∀ r ∈ [d, b], r.toNat < 55 := fun r h => hr.late_lt_m7 h
  have hd := hlt d (by simp)
  have hb := hlt b (by simp)
  have hwho : (s.newId.2.emptyDest s.who (.reg2 d b)).finish.who = s.who := by
    change (s.newId.2.emptyDest s.who (.reg2 d b)).who = s.who
    rw [(s.newId.2.emptyDest_reg2 s.who d b (by omega) (by omega)).device]
    rfl
  have hp := hr.peek
  change execReap d b w look s = _
  unfold execReap
  unfold reapUses at hp
  rw [if_neg (by simp [h0]), hp]
  dsimp only
  rw [show s.newId.2.who = s.who from rfl, hwho]
  rw [show ((s.newId.2.emptyDest s.who (.reg2 d b)).finish.modCtx s.who fun x =>
    { x with lateOut := x.lateOut + 1, wait := .hold s.newId.1 }).who = s.who from hwho]
  rfl

/-! ## The end of a REAP -/

/-- A REAP whose issuer waits in its context ends: its destinations are written 2 cycles later. -/
theorem State.Began.reapDone {s n : State} {u : Uses} {late : List Reg} (h : s.Began n u late none) {l m : Late} {id : Nat} {look : Bool}
    (w b : Word) (hreap : (s.coreAt s.who.core).reaping = none) (hwho : l.who = s.who) (hrun : (n.ctx s.who).run = l.run)
    (hlife : (n.ctx s.who).life ≠ .gated) (hwait : (n.ctx s.who).wait = .hold id) :
    let t := n.reapDone { reply := l, second := m, id := id, look := look } w b
    s.Began t u late none ∧ t.ctx s.who = { n.ctx s.who with wait := .none } ∧
      t.Due (s.cycle + 2) .homeroomLateResult
        { late := { l with val := w.setWidth 1024 }, late2 := { m with val := b.setWidth 1024 }, ok := false } := by
  intro t
  set k := n.modCore s.who.core fun k => { k with reaping := none }
  have hm : k.ctx s.who = n.ctx s.who := rfl
  have hrel : k.release l.who l.run id = k.setCtx s.who { n.ctx s.who with wait := .none } := by
    unfold State.release
    rw [hwho, State.modRun_here _ (hm ▸ hrun) (hm ▸ hlife), hm, if_pos (by simp [hwait])]
  have ht : t = (k.setCtx s.who { n.ctx s.who with wait := .none }).post (k.cycle + 2) .homeroomLateResult
      { late := { l with val := w.setWidth 1024 }, late2 := { m with val := b.setWidth 1024 }, ok := false } := by
    rw [← hrel]
    dsimp only [t, State.reapDone, k]
    rw [← hwho]
  have hself : t.ctx s.who = { n.ctx s.who with wait := .none } := by
    rw [ht]
    exact State.ctx_setCtx_same _ _ _
  have hcore : t.coreAt s.who.core = { n.coreAt s.who.core with reaping := none } := by
    rw [ht]
    exact State.coreAt_setCore_same _ _ _
  refine ⟨h.rebase rfl (by rw [ht]; rfl) rfl (by rw [hself]) (fun c hc => ?_) (fun k hk => ?_) ⟨rfl, rfl, rfl, rfl, rfl, rfl, rfl⟩ ?_ ?_,
    hself, ?_⟩
  · rw [ht]
    exact (State.ctx_setCtx_other _ _ _ _ hc).trans (h.same.contexts c hc)
  · rw [ht]
    exact (State.coreAt_setCore_other _ _ _ _ hk).trans (h.same.otherCores k hk)
  · rw [hcore]
    exact ⟨rfl, rfl, rfl, rfl, rfl, rfl, rfl⟩
  · have hf := h.coreFrame
    unfold Core.IssueFrame at hf ⊢
    rw [hcore, hf, ← hreap]
  · rw [ht, ← h.cycle]
    exact State.post_due _ _ _ _

/-! ## The context that a REAP reports (R276) -/

/-- Whether a REAP reports a context. -/
def Ctx.reapable (x : Ctx) (look : Bool) : Bool := (x.life == .finished || x.life == .trapped) && !(look && x.reported)

theorem Ctx.reapable_iff (x : Ctx) (look : Bool) : x.reapable look = true ↔
    (x.life = .finished ∨ x.life = .trapped) ∧ ¬ (look = true ∧ x.reported = true) := by
  unfold Ctx.reapable
  cases look <;> simp

theorem State.firstStopped_eq {s : State} {core : Nat} (look : Bool) (h : (s.coreAt core).reaping = none) :
    s.firstStopped core look = ((List.range 15).map (· + 1)).find? fun k => (s.ctx ⟨core, k⟩).reapable look := by
  unfold State.firstStopped
  rw [h]
  rfl

/-- Without a stopped context a REAP finds none. -/
theorem State.firstStopped_none {s : State} {core : Nat} {look : Bool} (h : (s.coreAt core).reaping = none)
    (hn : ∀ k, 0 < k → k < 16 → (s.ctx ⟨core, k⟩).reapable look = false) : s.firstStopped core look = none := by
  rw [State.firstStopped_eq look h, List.find?_eq_none]
  intro k hk
  obtain ⟨i, hi, rfl⟩ := List.mem_map.mp hk
  have := List.mem_range.mp hi
  simp [hn (i + 1) (by omega) (by omega)]

/-- Of the stopped contexts a REAP reports the one with the lowest number. -/
theorem State.firstStopped_least {s : State} {core : Nat} {look : Bool} {k : Nat} (h : (s.coreAt core).reaping = none) (h0 : 0 < k)
    (h16 : k < 16) (hk : (s.ctx ⟨core, k⟩).reapable look = true)
    (hlt : ∀ j, 0 < j → j < k → (s.ctx ⟨core, j⟩).reapable look = false) : s.firstStopped core look = some k := by
  rw [State.firstStopped_eq look h, List.find?_eq_some_iff_getElem]
  refine ⟨hk, k - 1, by simp; omega, by simp; omega, fun j hj => ?_⟩
  simp [hlt (j + 1) (by omega) (by omega)]

/-! ## Late results in their registers (R72) -/

/-- A register is filled where the bank or the files of its core are. -/
theorem State.Filled.congr {s t u : State} {c : CtxId} {d : Reg} {w : Word} (h : s.Filled t c d w)
    (hx : (u.ctx c).s = (t.ctx c).s ∧ (u.ctx c).sFull = (t.ctx c).sFull ∧ (u.ctx c).sPend = (t.ctx c).sPend)
    (hk : u.coreAt c.core = t.coreAt c.core) : s.Filled u c d w := by
  have hreg : ∀ r : Reg, u.regVal c r 0 = t.regVal c r 0 ∧ u.regFull c r 1 = t.regFull c r 1 ∧ u.regPend c r = t.regPend c r := by
    intro r
    unfold State.regVal State.regFull State.regPend State.stream
    rw [hx.1, hx.2.1, hx.2.2, hk]
    exact ⟨rfl, rfl, rfl⟩
  obtain ⟨hd, hz, ho⟩ := h
  refine ⟨fun h0 => ?_, ?_, fun r hr h56 => ?_⟩
  · rw [(hreg d).1, (hreg d).2.1, (hreg d).2.2]; exact hd h0
  · rw [(hreg 0).1]; exact hz
  · rw [(hreg r).1, (hreg r).2.1, (hreg r).2.2]; exact ho r hr h56

/-- A late scalar result fills its register. -/
theorem State.filled_of_bank {s t : State} {c : CtxId} {d : Reg} {w : Word} (hd : d.toNat < 32)
    (hx : t.ctx c = (s.ctx c).setS d.toNat w) (hk : t.coreAt c.core = s.coreAt c.core) : s.Filled t c d w := by
  refine ⟨fun h0 => ?_, rfl, fun r hr h56 => ?_⟩
  · have h00 : d.toNat ≠ 0 := fun e => h0 (BitVec.eq_of_toNat_eq e)
    unfold State.regVal State.regFull State.regPend
    simp only [beq_iff_eq, h00, hd, if_true, if_false, hx, Ctx.setS]
    exact ⟨rd_wr_same _ _ _ _ hd, tb_sb_same _ _ _ hd, tb_sb_same _ _ _ hd⟩
  · have hne : d.toNat ≠ r.toNat := fun e => hr (BitVec.eq_of_toNat_eq e.symm)
    unfold State.regVal State.regFull State.regPend State.stream
    rw [hk, hx]
    unfold Ctx.setS
    by_cases h00 : d.toNat = 0
    · simp only [h00, beq_self_eq_true, if_true]
      exact ⟨trivial, trivial, trivial⟩
    · simp only [beq_iff_eq, h00, if_false, rd_wr_other _ _ _ _ _ hne, tb_sb_other _ _ _ _ hne]
      exact ⟨trivial, trivial, trivial⟩

theorem State.filled_of_common {s t : State} {c : CtxId} {d : Reg} {w : Word} (hd : 32 ≤ d.toNat) (hd' : d.toNat < 48)
    (hx : (t.ctx c).s = (s.ctx c).s ∧ (t.ctx c).sFull = (s.ctx c).sFull ∧ (t.ctx c).sPend = (s.ctx c).sPend)
    (hk : t.coreAt c.core = (s.coreAt c.core).setC (d.toNat - 32) w) : s.Filled t c d w := by
  have h32 : ¬ d.toNat < 32 := by omega
  have h00 : d.toNat ≠ 0 := by omega
  refine ⟨fun _ => ?_, rfl, fun r hr h56 => ?_⟩
  · unfold State.regVal State.regFull State.regPend
    simp only [beq_iff_eq, h00, h32, hd', if_true, if_false, hk, Core.setC]
    exact ⟨rd_wr_same _ _ _ _ (by omega), tb_sb_same _ _ _ (by omega), tb_sb_same _ _ _ (by omega)⟩
  · unfold State.regVal State.regFull State.regPend State.stream
    rw [hk, hx.1, hx.2.1, hx.2.2]
    have hne : r.toNat ≠ d.toNat := fun e => hr (BitVec.eq_of_toNat_eq e)
    by_cases hr32 : r.toNat < 32
    · simp only [hr32, if_true]
      exact ⟨trivial, trivial, trivial⟩
    · have hsub : d.toNat - 32 ≠ r.toNat - 32 := by omega
      simp only [hr32, if_false, Core.setC, rd_wr_other _ _ _ _ _ hsub, tb_sb_other _ _ _ _ hsub]
      exact ⟨trivial, rfl, trivial⟩

theorem State.filled_of_mailbox {s t : State} {c : CtxId} {d : Reg} {w : Word} (hd : 48 ≤ d.toNat) (hd' : d.toNat < 56)
    (hx : (t.ctx c).s = (s.ctx c).s ∧ (t.ctx c).sFull = (s.ctx c).sFull ∧ (t.ctx c).sPend = (s.ctx c).sPend)
    (hk : t.coreAt c.core = (s.coreAt c.core).setM (d.toNat - 48) w) : s.Filled t c d w := by
  have h48 : ¬ d.toNat < 48 := by omega
  have h32 : ¬ d.toNat < 32 := by omega
  have h00 : d.toNat ≠ 0 := by omega
  refine ⟨fun _ => ?_, rfl, fun r hr h56 => ?_⟩
  · unfold State.regVal State.regFull State.regPend
    simp only [beq_iff_eq, h00, h32, h48, hd', if_true, if_false, hk, Core.setM]
    exact ⟨rd_wr_same _ _ _ _ (by omega), tb_sb_same _ _ _ (by omega), tb_sb_same _ _ _ (by omega)⟩
  · unfold State.regVal State.regFull State.regPend State.stream
    rw [hk, hx.1, hx.2.1, hx.2.2]
    have hne : r.toNat ≠ d.toNat := fun e => hr (BitVec.eq_of_toNat_eq e)
    by_cases hr48 : r.toNat < 48
    · simp only [hr48, if_true, Core.setM]
      exact ⟨trivial, trivial, trivial⟩
    · have hsub : d.toNat - 48 ≠ r.toNat - 48 := by omega
      simp only [hr48, if_false, h56, if_true, Core.setM, rd_wr_other _ _ _ _ _ hsub, tb_sb_other _ _ _ _ hsub]
      exact ⟨trivial, trivial, trivial⟩

/-- A late result is written where the run of its context is. -/
theorem State.fill_reg {s : State} {c : CtxId} {run : Nat} {d : Reg} (val : VWord) (hr : (s.ctx c).run = run)
    (hl : (s.ctx c).life ≠ .gated) (hd : d.toNat < 56) :
    s.Filled (s.fill c run (.reg d) val) c d (val.setWidth 64) ∧
      s.fill c run (.reg d) val = { s with ctxs := (s.fill c run (.reg d) val).ctxs, cores := (s.fill c run (.reg d) val).cores } ∧
      (s.fill c run (.reg d) val).ctx c = { s.ctx c with
        s := ((s.fill c run (.reg d) val).ctx c).s, sFull := ((s.fill c run (.reg d) val).ctx c).sFull
        sPend := ((s.fill c run (.reg d) val).ctx c).sPend, buddy := ((s.fill c run (.reg d) val).ctx c).buddy } := by
  unfold State.fill
  dsimp only
  by_cases h32 : d.toNat < 32
  · rw [if_pos h32, State.modRun_here _ hr hl]
    have hx : (s.setCtx c ((s.ctx c).setS d.toNat (val.setWidth 64))).ctx c = (s.ctx c).setS d.toNat (val.setWidth 64) :=
      State.ctx_setCtx_same _ _ _
    refine ⟨State.filled_of_bank h32 hx rfl, rfl, ?_⟩
    rw [hx]
    unfold Ctx.setS
    split <;> rfl
  · rw [if_neg h32]
    by_cases h48 : d.toNat < 48
    · rw [if_pos h48, State.modRun_here _ hr hl]
      set m := s.setCtx c ((s.ctx c).wrote d.toNat ((val.setWidth 64).setWidth 1024))
      have hx : (m.modCore c.core fun k => k.setC (d.toNat - 32) (val.setWidth 64)).ctx c =
          (s.ctx c).wrote d.toNat ((val.setWidth 64).setWidth 1024) := State.ctx_setCtx_same s c _
      refine ⟨State.filled_of_common (by omega) h48 (by rw [hx]; exact ⟨rfl, rfl, rfl⟩) (State.coreAt_setCore_same _ _ _), rfl, ?_⟩
      rw [hx]
      rfl
    · rw [if_neg h48, if_pos hd, State.modRun_here _ hr hl]
      set m := s.setCtx c ((s.ctx c).wrote d.toNat ((val.setWidth 64).setWidth 1024))
      have hx : (m.modCore c.core fun k => k.setM (d.toNat - 48) (val.setWidth 64)).ctx c =
          (s.ctx c).wrote d.toNat ((val.setWidth 64).setWidth 1024) := State.ctx_setCtx_same s c _
      refine ⟨State.filled_of_mailbox (by omega) hd (by rw [hx]; exact ⟨rfl, rfl, rfl⟩) (State.coreAt_setCore_same _ _ _), rfl, ?_⟩
      rw [hx]
      rfl

theorem State.wakeReap_posted (s : State) (c : CtxId) : s.Posted (s.wakeReap c) := by
  unfold State.wakeReap
  split
  · split
    · exact State.post_posted _ _ _ _
    · exact .refl s
  · exact .refl s

/-- A late result is written and counted in. -/
theorem State.lateDone_fills {s : State} {l : Late} {d : Reg} (hdest : l.dest = .reg d) (hd : d.toNat < 56)
    (hr : (s.ctx l.who).run = l.run) (hl : (s.ctx l.who).life ≠ .gated) :
    s.Filled (s.lateDone l) l.who d (l.val.setWidth 64) ∧ ((s.lateDone l).ctx l.who).lateOut = (s.ctx l.who).lateOut - 1 ∧
      (s.lateDone l).mem = s.mem ∧ ((s.lateDone l).ctx l.who).run = l.run ∧ ((s.lateDone l).ctx l.who).life ≠ .gated ∧
      (s.lateDone l).arg = s.arg := by
  obtain ⟨hfill, hframe, hx⟩ := State.fill_reg l.val hr hl hd
  unfold State.lateDone
  rw [hdest]
  set f := s.fill l.who l.run (.reg d) l.val
  have hfr : (f.ctx l.who).run = l.run := by rw [hx]; exact hr
  have hfl : (f.ctx l.who).life ≠ .gated := by rw [hx]; exact hl
  dsimp only
  rw [State.modRun_here _ hfr hfl]
  set m := f.setCtx l.who { f.ctx l.who with lateOut := (f.ctx l.who).lateOut - 1 }
  have hm : m.ctx l.who = { f.ctx l.who with lateOut := (f.ctx l.who).lateOut - 1 } := State.ctx_setCtx_same _ _ _
  have hp := m.wakeReap_posted l.who
  rw [hp.ctx, hp.mem, hm]
  refine ⟨hfill.congr (by rw [hp.ctx, hm]; exact ⟨rfl, rfl, rfl⟩) (hp.coreAt _), ?_, ?_, hfr, hfl, ?_⟩
  · dsimp only
    rw [hx]
  · change f.mem = s.mem
    rw [hframe]
  · rw [hp.only]
    change f.arg = s.arg
    rw [hframe]

/-! ## What a REAP leaves -/

/-- A context that nothing is outstanding into is collected: its bank is gated, and its fault record goes to its core. -/
theorem State.collect_eq {s : State} {c : CtxId} (h : (s.ctx c).launch = none) : s.collect c =
    (if (s.ctx c).life = .trapped then s.setCore c.core { s.coreAt c.core with frec := (s.ctx c).frec } else s).setCtx c {} := by
  unfold State.collect
  dsimp only
  rw [h]
  by_cases hl : (s.ctx c).life = .trapped
  · rw [if_pos (by simp [hl]), if_pos hl]
    rfl
  · rw [if_neg (by simpa using hl), if_neg hl]
    rfl

/-- The collection of another context of the issuer's core goes with the issue. -/
theorem State.Began.collect {s t : State} {u : Uses} {late : List Reg} (h : s.Began t u late none) {c : CtxId}
    (hc : c.core = s.who.core) (hn : c.ctx ≠ s.who.ctx) (hlaunch : (s.ctx c).launch = none) :
    (if (s.ctx c).life = .trapped
      then (s.setCtx c {}).setCore s.who.core { s.coreAt s.who.core with frec := (s.ctx c).frec } else s.setCtx c {}).Began
        (t.collect c) u late none ∧ (t.collect c).ctx s.who = t.ctx s.who := by
  have hx : t.ctx c = s.ctx c := h.ctx_other hc hn
  rw [State.collect_eq (by rw [hx]; exact hlaunch), hx, hc]
  obtain ⟨hset, hself⟩ := h.setCtx hc hn {}
  by_cases hl : (s.ctx c).life = .trapped
  · rw [if_pos hl, if_pos hl]
    have hmap := hset.mapCore (F := fun k => { k with frec := (s.ctx c).frec }) (fun _ => ⟨rfl, rfl, rfl, rfl, rfl, rfl, rfl⟩)
      fun k l hk => by
        unfold Core.IssueFrame at hk ⊢
        rw [hk]
    exact ⟨hmap, hself⟩
  · rw [if_neg hl, if_neg hl]
    exact ⟨hset, hself⟩

/-- The word and the value that a REAP reports of a context. -/
theorem State.reapWord_eq (s : State) (c : CtxId) : s.reapWord c =
    (BitVec.ofNat 64 (if (s.ctx c).life = .trapped then (s.ctx c).frec.cause * 256 + 32 + c.ctx else 16 + c.ctx),
      if (s.ctx c).life = .trapped then (s.ctx c).frec.pc else (s.ctx c).exitVal) := by
  unfold State.reapWord
  dsimp only
  by_cases hl : (s.ctx c).life = .trapped
  · rw [if_pos (by simp [hl]), if_pos hl, if_pos hl]
  · rw [if_neg (by simpa using hl), if_neg hl, if_neg hl]

/-- The late results of a homeroom, in the third part of O36. -/
theorem State.lateResult_fills {s : State} {l : Late} {d : Reg} (hn : s.arg.n ≠ 1) (hlate : s.arg.late = l) (hdest : l.dest = .reg d)
    (hd : d.toNat < 56) (hplace : s.inPlace l.who l.run) :
    (s.arg.ok = true → ∃ t, exec .homeroomLateResult s = .next t ∧ s.Filled t l.who d (l.val.setWidth 64) ∧
      (t.ctx l.who).lateOut = (s.ctx l.who).lateOut - 1 ∧ t.mem = s.mem) ∧
    ∀ (b : Reg) (v : VWord), s.arg.ok = false → s.arg.late2 = { who := l.who, run := l.run, dest := .reg b, val := v } → b.toNat < 56 →
      d ≠ b → ∃ t, exec .homeroomLateResult s = .next t ∧ (t.ctx l.who).lateOut = (s.ctx l.who).lateOut - 1 ∧ t.mem = s.mem ∧
        (d ≠ 0 → t.regVal l.who d 0 = l.val.setWidth 64 ∧ t.regFull l.who d 1 = true) ∧
        (b ≠ 0 → t.regVal l.who b 0 = v.setWidth 64 ∧ t.regFull l.who b 1 = true) ∧
        ∀ r : Reg, r ≠ d → r ≠ b → r.toNat < 56 → t.regVal l.who r 0 = s.regVal l.who r 0 ∧ t.regFull l.who r 1 = s.regFull l.who r 1 := by
  obtain ⟨hrun, hlife, -⟩ := hplace
  obtain ⟨hfill, hcount, hmem, hrun', hlife', harg⟩ := State.lateDone_fills hdest hd hrun hlife
  have hexec : exec .homeroomLateResult s = if s.arg.ok then .next (s.lateDone l)
      else .next ((s.lateDone l).fill s.arg.late2.who s.arg.late2.run s.arg.late2.dest s.arg.late2.val) := by
    change execHomeroomLateResult s = _
    unfold execHomeroomLateResult
    rw [if_neg (by simpa using hn), hlate]
    dsimp only
    rw [harg]
  refine ⟨fun hok => ⟨_, by rw [hexec, if_pos hok], hfill, hcount, hmem⟩, fun b v hok h2 hb hne => ?_⟩
  obtain ⟨hfill', hframe, hx⟩ := State.fill_reg v hrun' hlife' hb
  rw [hok, if_neg (by simp), h2] at hexec
  refine ⟨_, hexec, ?_, ?_, fun h0 => ?_, fun h0 => ?_, fun r hrd hrb h56 => ?_⟩
  · rw [hx]
    exact hcount
  · rw [hframe]
    exact hmem
  · obtain ⟨hval, hfull, -⟩ := hfill'.2.2 d hne hd
    obtain ⟨hval', hfull', -⟩ := hfill.1 h0
    exact ⟨hval.trans hval', hfull.trans hfull'⟩
  · obtain ⟨hval, hfull, -⟩ := hfill'.1 h0
    exact ⟨hval, hfull⟩
  · obtain ⟨hval, hfull, -⟩ := hfill'.2.2 r hrb h56
    obtain ⟨hval', hfull', -⟩ := hfill.2.2 r hrd h56
    exact ⟨hval.trans hval', hfull.trans hfull'⟩

/-- A REAP that issues, by the context that it finds. -/
theorem State.tryReap_none {m : State} {core : Nat} {r : Reaping} (h : m.firstStopped core r.look = none) (w : Bool) :
    m.tryReap core r w = if w then m.modCore core fun k => { k with reaping := some { r with victim := none } } else m.reapDone r 0 0 := by
  unfold State.tryReap
  rw [h]

theorem State.tryReap_look {m : State} {core k : Nat} {r : Reaping} (h : m.firstStopped core r.look = some k) (hl : r.look = true)
    (w : Bool) : m.tryReap core r w =
      (m.modCtx ⟨core, k⟩ fun x => { x with reported := true }).reapDone r (m.reapWord ⟨core, k⟩).1 (m.reapWord ⟨core, k⟩).2 := by
  unfold State.tryReap
  rw [h]
  dsimp only
  rw [if_pos hl]

theorem State.tryReap_collect {m : State} {core k : Nat} {r : Reaping} (h : m.firstStopped core r.look = some k) (hl : r.look = false)
    (hs : (m.ctx ⟨core, k⟩).sPend = 0) (hv : (m.ctx ⟨core, k⟩).vPend = 0) (w : Bool) : m.tryReap core r w =
      (m.collect ⟨core, k⟩).reapDone r (m.reapWord ⟨core, k⟩).1 (m.reapWord ⟨core, k⟩).2 := by
  unfold State.tryReap
  rw [h]
  dsimp only
  rw [if_neg (by simp [hl]), if_neg (by simp [hs, hv])]

/-- The third part of O36. -/
theorem State.reaps : Claims.Reaps := by
  intro s
  refine ⟨fun d b w look => ?_, fun hn hreap => ?_, fun l d hn hlate hdest hd hplace _ => State.lateResult_fills hn hlate hdest hd hplace⟩
  · intro core u i l l2 began answers stopped
    refine ⟨fun h0 => ⟨_, ?_, s.trapHere_trapped 0x04 0⟩, fun h0 hr hreap hlife => ?_⟩
    · change execReap d b w look s = _
      unfold execReap
      rw [if_pos (by simpa using h0)]
    obtain ⟨hb, hpc, hwait, hlate⟩ := State.Readable.issueReap hr
    have hexec : exec i s = .next ((s.issueReap d b).tryReap core (s.reaping d b look) w) := exec_reap h0 hr
    set m := s.issueReap d b
    have hmctx : ∀ k, 0 < k → m.ctx ⟨core, k⟩ = s.ctx ⟨core, k⟩ := fun k hk => hb.ctx_other rfl (by rw [h0]; exact Nat.ne_of_gt hk)
    have hmself : (m.ctx s.who).run = (s.ctx s.who).run ∧ (m.ctx s.who).life = (s.ctx s.who).life := by
      have hf := hb.ctxFrame
      unfold Ctx.LateFrame at hf
      rw [hf]
      exact ⟨rfl, rfl⟩
    have hmreap : (m.coreAt core).reaping = none := by
      have hf := hb.coreFrame
      unfold Core.IssueFrame at hf
      rw [hf]
      exact hreap
    have hstopped : ∀ k, 0 < k → ((m.ctx ⟨core, k⟩).reapable look = true ↔ stopped k) := fun k hk => by
      rw [hmctx k hk]
      exact Ctx.reapable_iff _ _
    have hdone : ∀ {s' n : State} (v e : Word), s'.Began n u [d, b] none → s'.who = s.who → s'.cycle = s.cycle →
        (s'.coreAt core).reaping = none → n.ctx s.who = m.ctx s.who → exec i s = .next (n.reapDone (s.reaping d b look) v e) →
        began s' (n.reapDone (s.reaping d b look) v e) ∧ answers (n.reapDone (s.reaping d b look) v e) v e := by
      intro s' n v e hn hw hc hre hself he
      obtain ⟨hbegan, hx, hdue⟩ := hn.reapDone (l := l) (m := l2) (id := s.seq) (look := look) v e (by rw [hw]; exact hre) hw.symm
        (by rw [hw, hself]; exact hmself.1) (by rw [hw, hself, hmself.2]; exact hlife) (by rw [hw, hself]; exact hwait)
      rw [hw, hself] at hx
      rw [hc] at hdue
      refine ⟨⟨he, hbegan, ?_, ?_⟩, ?_, hdue⟩
      · exact (congrArg Ctx.pc hx).trans hpc
      · exact (congrArg Ctx.lateOut hx).trans hlate
      · exact congrArg Ctx.wait hx
    refine ⟨fun hno => ?_, fun k hk hk16 hst hleast => ?_⟩
    · have hnone : m.firstStopped core (s.reaping d b look).look = none := State.firstStopped_none hmreap fun k hk hk16 =>
        Bool.eq_false_iff.mpr fun h => hno k hk hk16 ((hstopped k hk).mp h)
      rw [State.tryReap_none hnone] at hexec
      refine ⟨fun hw => ?_, fun hw => ?_⟩
      · rw [if_neg (by simp [hw])] at hexec
        exact ⟨_, hdone 0 0 hb rfl rfl hreap rfl hexec⟩
      · rw [if_pos hw] at hexec
        refine ⟨_, s.seq, ?_, hexec, hb.mapCore (F := fun k => { k with reaping := some (s.reaping d b look) })
          (fun _ => ⟨rfl, rfl, rfl, rfl, rfl, rfl, rfl⟩) fun k l hk => ?_, hpc, hlate⟩
        · exact hwait
        · unfold Core.IssueFrame at hk ⊢
          rw [hk]
    · intro c y word val
      have hfirst : m.firstStopped core (s.reaping d b look).look = some k := State.firstStopped_least hmreap hk hk16
        ((hstopped k hk).mpr hst) fun j hj hjk => Bool.eq_false_iff.mpr fun h => hleast j hj hjk ((hstopped j hj).mp h)
      have hn : c.ctx ≠ s.who.ctx := by rw [h0]; exact Nat.ne_of_gt hk
      have hmc : m.ctx c = y := hmctx k hk
      have hword : m.reapWord c = (word, val) := by
        rw [State.reapWord_eq, hmc]
      refine ⟨fun hl => ?_, fun hl hs hv hlaunch => ?_⟩
      · rw [State.tryReap_look hfirst hl, hword, State.modCtx_eq, hmc] at hexec
        obtain ⟨hset, hself⟩ := hb.setCtx (c := c) rfl hn { y with reported := true }
        exact ⟨_, hdone word val hset rfl rfl hreap hself hexec⟩
      · rw [State.tryReap_collect hfirst hl (by rw [hmc]; exact hs) (by rw [hmc]; exact hv), hword] at hexec
        obtain ⟨hcol, hself⟩ := hb.collect (c := c) rfl hn hlaunch
        refine ⟨_, hdone word val hcol ?_ ?_ ?_ hself hexec⟩
        · split <;> rfl
        · split <;> rfl
        · split
          · rw [State.coreAt_setCore_same]
            exact hreap
          · exact hreap
  · change execHomeroomLateResult s = _
    unfold execHomeroomLateResult
    rw [if_pos (by simpa using hn), hreap]

/-- Settles O36: PARK, WAKE and YIELD by what an issue that passes on leaves, START and REAP by what the issue of a late writer
leaves, and the late results by the register that they fill. -/
theorem threadStates : Obligations.ThreadStates := ⟨State.parkWakeYield, State.starts, State.reaps⟩

end Sys2Proof.Machine
end

section
/-! Saves (O37, R60 to R62, R336, R408): the entries of an octet's saves and cloakroom, and the cycles of a save. -/

namespace Sys2Proof.Machine

/-! ## Entries that are replaced in place -/

/-- What is looked for among replaced entries is the replacement of what was looked for. -/
theorem find?_mapIf {α : Type} {p : α → Bool} {f : α → α} (hf : ∀ x, p (f x) = p x) (l : List α) :
    (mapIf p f l).find? p = (l.find? p).map f := by
  induction l with
  | nil => rfl
  | cons x l ih =>
    unfold mapIf at ih ⊢
    cases hx : p x <;> simp [hx, hf, ih]

theorem State.setOctet_setOctet (s : State) (o : Nat) (x y : Octet) : (s.setOctet o x).setOctet o y = s.setOctet o y := by
  unfold State.setOctet
  simp only [SMap.set_set]

/-! ## The entries of saves (R59, R408) -/

theorem State.saveOf_setSave (s : State) (c : CtxId) {f : Save → Save} (hf : ∀ v, (f v).core = v.core ∧ (f v).ctx = v.ctx) :
    (s.setSave c f).saveOf c = (s.saveOf c).map f := by
  unfold State.saveOf State.setSave
  rw [State.modOctet_eq, State.octet_setOctet_same]
  exact find?_mapIf (fun v => by rw [(hf v).1, (hf v).2]) _

theorem State.saveOf_dropSave (s : State) (c : CtxId) : (s.dropSave c).saveOf c = none := by
  unfold State.saveOf State.dropSave
  rw [State.modOctet_eq, State.octet_setOctet_same, List.find?_eq_none]
  intro v hv
  have hkept := (List.mem_filter.mp hv).2
  simpa [← imp_iff_not_or] using hkept

theorem State.Posted.saveOf {s t : State} (h : s.Posted t) (c : CtxId) : t.saveOf c = s.saveOf c := by
  unfold State.saveOf
  rw [h.octet]

/-! ## The cloakroom (R58, R60) -/

/-- An entry that is put into a cloakroom stands there; where it is ready, it ages from now on. -/
theorem State.cloakPut_stands (s : State) (o : Nat) (x : Saved) : ∃ l,
    (s.setOctet o { s.octet o with cloak := l }).Posted (s.cloakPut o x) ∧ ∃ since, { x with since := since } ∈ l := by
  set new := (s.octet o).cloak ++ [{ x with ready := false }] with hl
  set m := s.setOctet o { s.octet o with cloak := new } with hm
  have hput : s.cloakPut o x = if x.ready then m.readySaved o x.id else m := rfl
  cases hx : x.ready with
  | false =>
    refine ⟨new, ?_, x.since, ?_⟩
    · rw [hput, hx]
      exact .refl _
    · rw [hl, ← hx]
      simp
  | true =>
    have hcloak : (m.octet o).cloak = new := by rw [hm, State.octet_setOctet_same]
    have hnew : { x with ready := false } ∈ new := by simp [hl]
    obtain ⟨y, hy⟩ := Option.isSome_iff_exists.mp (List.find?_isSome (p := fun (y : Saved) => y.id == x.id && !y.ready) |>.mpr
      ⟨_, hnew, by simp⟩)
    set l := mapIf (fun (y : Saved) => y.id == x.id) (fun y => { y with ready := true, since := s.cycle }) new
    refine ⟨l, ?_, s.cycle, List.mem_map.mpr ⟨_, hnew, ?_⟩⟩
    · have hready : m.readySaved o x.id =
          ((s.setOctet o { s.octet o with cloak := l }).post (s.cycle + 2 ^ 20) .queueAging { aged := .cloak o x.id, n := s.cycle }).wakeTake y.core := by
        unfold State.readySaved
        rw [hcloak, hy]
        dsimp only
        rw [State.modOctet_eq, hm, State.setOctet_setOctet, State.octet_setOctet_same]
        rfl
      rw [hput, hx, if_pos rfl, hready]
      exact (State.post_posted _ _ _ _).trans (State.wakeTake_posted _ _)
    · rw [if_pos (by simp), ← hx]

/-! ## The end of a save (R60, R62, R78) -/

/-- What the end of a save leaves of its context: its bank gated, and its layout in the cloakroom of its octet. -/
structure State.SavedAway (s t : State) (c : CtxId) (kind tag left : Nat) (ready : Bool) : Prop where
  gated : t.ctx c = {}
  noSave : t.saveOf c = none
  mem : t.mem = s.mem
  others : ∀ d : CtxId, d.key ≠ c.key → t.ctx d = s.ctx d
  entry : ∃ e ∈ (t.octet (octetOf c.core)).cloak, e.core = c.core ∧
    e.c = { s.ctx c with wait := .none, left := left, starting := false } ∧ e.prio = (s.ctx c).prio ∧ e.kind = kind ∧ e.tag = tag ∧
    e.ready = ready ∧ e.taken = false

theorem State.saveNow_saved {s : State} {c : CtxId} {kind tag left : Nat} (h : s.saveKind (s.ctx c) = (kind, tag, left)) :
    s.SavedAway (s.saveNow c .nothing) c kind tag left (kind != 3 && kind != 5) := by
  set o := octetOf c.core
  set d := (s.newId.2.setCtx c {}).dropSave c with hd
  set e : Saved := { id := s.seq, core := c.core, c := { s.ctx c with wait := .none, left := left, starting := false },
                             prio := (s.ctx c).prio, kind := kind, ready := kind != 3 && kind != 5, tag := tag }
  have hnow : s.saveNow c .nothing = d.cloakPut o e := by
    unfold State.saveNow
    dsimp only
    rw [h]
    rfl
  obtain ⟨l, hp, since, hin⟩ := d.cloakPut_stands o e
  have hctx : ∀ b : CtxId, (s.saveNow c .nothing).ctx b = (s.setCtx c {}).ctx b := fun b => by
    rw [hnow, hp.ctx]
    rfl
  refine ⟨?_, ?_, ?_, fun b hb => ?_, { e with since := since }, ?_, rfl, rfl, rfl, rfl, rfl, rfl, rfl⟩
  · rw [hctx]
    exact State.ctx_setCtx_same _ _ _
  · rw [hnow, hp.saveOf]
    have hsaves : (d.setOctet o { d.octet o with cloak := l }).saveOf c = d.saveOf c := by
      unfold State.saveOf
      rw [State.octet_setOctet_same]
    rw [hsaves]
    exact State.saveOf_dropSave _ _
  · rw [hnow, hp.mem]
    rfl
  · rw [hctx]
    exact State.ctx_setCtx_other _ _ _ _ hb
  · rw [hnow, hp.octet, State.octet_setOctet_same]
    exact hin

end Sys2Proof.Machine
end

section
/-! The cycles of a save (O37, R60, R61, R336, R408). -/

namespace Sys2Proof.Machine

/-! ## CONTEXT_SAVE_END, case by case -/

/-- A save whose context has stopped meanwhile ends without a layout (R336). -/
theorem saveEnd_stopped {s : State} {v : Save} (hv : s.saveOf s.arg.c = some v) (hrun : v.run = s.arg.run)
    (hl : (s.ctx s.arg.c).life ≠ .active) : exec .contextSaveEnd s = .next ((s.dropSave s.arg.c).afterStop s.arg.c v.after) := by
  change execContextSaveEnd s = _
  unfold execContextSaveEnd
  dsimp only
  rw [hv]
  dsimp only
  rw [if_neg (by simp [hrun]), if_pos (by simp [hl])]

/-- A save in progress of a context that is still in rotation. -/
structure State.Saves (s : State) (v : Save) : Prop where
  entry : s.saveOf s.arg.c = some v
  run : v.run = s.arg.run
  active : (s.ctx s.arg.c).life = .active
  same : (s.ctx s.arg.c).run = v.run

section
variable {s : State} {v : Save} (h : s.Saves v)
include h

/-- Its port cycles run out. -/
theorem State.Saves.ending (he : v.ends ≠ 0) : exec .contextSaveEnd s =
    .next (if s.cycle < v.ends then s.post v.ends .contextSaveEnd s.arg else s.saveNow s.arg.c v.after) := by
  change execContextSaveEnd s = _
  unfold execContextSaveEnd
  dsimp only
  rw [h.entry, apply_ite Host.Outcome.next]
  dsimp only
  rw [if_neg (by simp [h.run]), if_neg (by simp [h.active, h.same]), if_pos (by simpa using he)]

/-- It waits for what is outstanding, and then takes its octet's port. -/
theorem State.Saves.waiting (he : v.ends = 0) (hw : ∀ i, (s.ctx s.arg.c).wait ≠ .reply i ∧ (s.ctx s.arg.c).wait ≠ .cwait i) :
    exec .contextSaveEnd s = .next (
      if (s.ctx s.arg.c).savable then
        let t := s.takePort (octetOf s.arg.c.core)
        (t.2.setSave s.arg.c fun v => { v with ends := t.1 }).post t.1 .contextSaveEnd s.arg
      else s.post (s.cycle + 1) .contextSaveEnd s.arg) := by
  change execContextSaveEnd s = _
  unfold execContextSaveEnd
  dsimp only
  rw [h.entry, apply_ite Host.Outcome.next]
  dsimp only
  rw [if_neg (by simp [h.run]), if_neg (by simp [h.active, h.same]), if_neg (by simp [he])]
  cases hx : (s.ctx s.arg.c).wait
  case reply i => exact absurd hx (hw i).1
  case cwait i => exact absurd hx (hw i).2
  all_goals rfl

/-- It withdraws the operation that its context waits for. -/
theorem State.Saves.withdrawing {p : Parked} (he : v.ends = 0) (hn : v.withdrawn = false)
    (hw : (s.ctx s.arg.c).wait = .reply p.acc.id) (hp : s.parked = [p]) : exec .contextSaveEnd s =
      .next ((s.sendWithdraw s.arg.c p.acc).post (s.cycle + 1) .contextSaveEnd s.arg) := by
  have hfind : (s.parked.find? fun (q : Parked) => q.acc.id == p.acc.id) = some p := by
    rw [hp, List.find?_cons_of_pos (by simp)]
  change execContextSaveEnd s = _
  unfold execContextSaveEnd
  dsimp only
  rw [h.entry]
  dsimp only
  rw [if_neg (by simp [h.run]), if_neg (by simp [h.active, h.same]), if_neg (by simp [he]), hw]
  dsimp only
  rw [hn, hfind]
  rfl

end

/-- R61's conditions, for a context that waits for no reply. -/
theorem Ctx.savable_iff {x : Ctx} (hw : ∀ i, x.wait ≠ .reply i ∧ x.wait ≠ .cwait i ∧ x.wait ≠ .hold i) :
    x.savable = true ↔ x.plain = .none ∧ x.relaxed = 0 ∧ x.lateOut = 0 ∧ x.relFault = none := by
  have hwait : (match x.wait with
      | .reply _ => false
      | .cwait _ => false
      | .hold _ => x.builtin.isSome
      | _ => true) = true := by
    cases hx : x.wait
    case reply i => exact absurd hx (hw i).1
    case cwait i => exact absurd hx (hw i).2.1
    case hold i => exact absurd hx (hw i).2.2
    all_goals rfl
  have hsav : x.savable = (x.quiet && x.lateOut == 0 && x.relFault.isNone && true) := by
    rw [← hwait]
    rfl
  rw [hsav]
  unfold Ctx.quiet
  simp [and_assoc]

/-- The port of the octet is taken for 21 cycles, at whose end the save ends (R60). -/
theorem State.takePort_save {s : State} {v : Save} (hv : s.saveOf s.arg.c = some v) :
    let o := octetOf s.arg.c.core
    let e := max s.cycle (s.octet o).portAt + 21
    let t := ((s.takePort o).2.setSave s.arg.c fun v => { v with ends := e }).post e .contextSaveEnd s.arg
    (t.octet o).portAt = e ∧ t.saveOf s.arg.c = some { v with ends := e } ∧ t.Due e .contextSaveEnd s.arg ∧ t.ctxs = s.ctxs ∧
      t.mem = s.mem := by
  intro o e t
  set m := (s.takePort o).2 with hm
  have hsave : m.saveOf s.arg.c = some v := by
    have hm' : (m.octet o).saves = (s.octet o).saves := by
      rw [show m.octet o = { s.octet o with portAt := e } from State.octet_setOctet_same _ _ _]
    exact (congrArg (List.find? _) hm').trans hv
  have hp := (m.setSave s.arg.c fun v => { v with ends := e }).post_posted e .contextSaveEnd s.arg
  refine ⟨?_, ?_, State.post_due _ _ _ _, rfl, rfl⟩
  · have hport : ((m.setSave s.arg.c fun v => { v with ends := e }).octet o).portAt = (m.octet o).portAt := by
      rw [State.setSave, State.modOctet_eq, State.octet_setOctet_same]
    rw [hp.octet, hport]
    exact congrArg Octet.portAt (State.octet_setOctet_same _ _ _)
  · rw [hp.saveOf, State.saveOf_setSave, hsave]
    · rfl
    · exact fun _ => ⟨rfl, rfl⟩

/-! ## The withdrawal (R61) -/

/-- A context whose scalar register is as it was before the issue of an operation without effect. -/
def Ctx.undoS (x : Ctx) (i : Nat) (was : Bool) : Ctx :=
  if was then { x.dropS i with sFull := sb x.sFull i true } else x.dropS i

theorem Ctx.undoS_place (x : Ctx) (i : Nat) (was : Bool) : (x.undoS i was).run = x.run ∧ (x.undoS i was).life = x.life ∧
    (x.undoS i was).s = x.s ∧ (x.undoS i was).pc = x.pc ∧ (x.undoS i was).sPend = sb x.sPend i false ∧
    (was = true → (x.undoS i was).sFull = sb x.sFull i true) := by
  cases was <;> exact ⟨rfl, rfl, rfl, rfl, rfl, fun h => by cases h <;> rfl⟩

theorem State.undoDest_bank {s : State} {c : CtxId} {run : Nat} {r : Reg} (hrun : (s.ctx c).run = run)
    (hl : (s.ctx c).life ≠ .gated) (hr : r.toNat < 32) (was : Bool) :
    s.undoDest c run (.reg r) was = s.setCtx c ((s.ctx c).undoS r.toNat was) := by
  have hdrop : s.unfill c run (.reg r) = s.setCtx c ((s.ctx c).dropS r.toNat) := by
    unfold State.unfill
    dsimp only
    rw [if_pos hr, State.modRun_here _ hrun hl]
  unfold State.undoDest
  dsimp only
  rw [hdrop]
  cases was with
  | false => rfl
  | true =>
    rw [if_neg (by decide), if_pos hr, State.modRun_here _ (by rw [State.ctx_setCtx_same]; exact hrun)
      (by rw [State.ctx_setCtx_same]; exact hl), State.ctx_setCtx_same, State.setCtx_setCtx]
    rfl

/-- The withdraw at the bank takes the operation away, and answers. -/
theorem withdraw_at_bank {s : State} {p : Parked} (hn : s.arg.n = 0) (hp : s.parked = [p]) (hi : p.acc.id = s.arg.id) :
    exec .saveWithdrawReply s = .next ({ s with parked := [] }.postIn (p.acc.lat - p.acc.lat / 2) .saveWithdrawReply
      { s.arg with n := 1, acc := p.acc }) := by
  change execSaveWithdrawReply s = _
  unfold execSaveWithdrawReply
  dsimp only
  rw [hp, hn, List.find?_cons_of_pos (by simp [hi])]
  simp

/-- The answer leaves the context as before its operation's issue, held for the restart. -/
theorem withdraw_at_core {s : State} {a : Access} {r : Reg} (hn : s.arg.n = 1) (ha : s.arg.acc = a) (hd : a.dest = .reg r)
    (hr : r.toNat < 32) (hrun : (s.ctx s.arg.c).run = a.run) (hl : (s.ctx s.arg.c).life ≠ .gated) :
    ∃ t, exec .saveWithdrawReply s = .next t ∧ t.mem = s.mem ∧ t.ctx s.arg.c =
      { ((s.ctx s.arg.c).undoS r.toNat a.was).accDone a with wait := .blocked 4, tries := a.tries } := by
  obtain ⟨hrun', hlife', -⟩ := (s.ctx s.arg.c).undoS_place r.toNat a.was
  have hexec : exec .saveWithdrawReply s = .next ((s.setCtx s.arg.c
      { ((s.ctx s.arg.c).undoS r.toNat a.was).accDone a with wait := .blocked 4, tries := a.tries }).setSave s.arg.c fun x =>
        { x with withdrawn := false }) := by
    change execSaveWithdrawReply s = _
    unfold execSaveWithdrawReply
    dsimp only
    rw [hn, if_neg (by decide), ha, hd, State.undoDest_bank hrun hl hr, State.modRun_here _ (by rw [State.ctx_setCtx_same, hrun', hrun])
      (by rw [State.ctx_setCtx_same, hlife']; exact hl), State.ctx_setCtx_same, State.setCtx_setCtx]
  exact ⟨_, hexec, rfl, State.ctx_setCtx_same _ _ _⟩

/-- The first part of O37. -/
theorem State.saves : Claims.Saves := by
  intro s c x o
  refine ⟨fun v hv hrun => ⟨fun hl => ⟨fun ha => ?_, fun pc w p l ha => ?_⟩, fun hl hsame => ?_⟩, fun p hn hp hi => ?_,
    fun a r hn ha hd h0 h32 hrx hk hrun hl => ?_⟩
  · refine ⟨_, saveEnd_stopped hv hrun hl, ?_, ?_, ?_⟩ <;> rw [ha]
    · exact s.saveOf_dropSave c
    · rfl
    · rfl
  · refine ⟨_, saveEnd_stopped hv hrun hl, ?_, ?_⟩ <;> rw [ha]
    · rfl
    · exact State.startStatus_answers _ _ _ _
  · have h : s.Saves v := ⟨hv, hrun, hl, hsame⟩
    refine ⟨fun he hw => ⟨fun hout => ?_, fun hp hr hlate hf => ?_⟩, fun p he hn hw hp => ?_, fun he hc => ?_, fun he hc ha => ?_⟩
    · rw [h.waiting he fun i => ⟨(hw i).1, (hw i).2.1⟩, if_neg]
      rw [Ctx.savable_iff hw]
      rintro ⟨hp, hr, hlate, hf⟩
      exact hout.elim (· hp) fun g => g.elim (· hr) fun g => g.elim (· hlate) (· hf)
    · intro e
      refine ⟨_, ?_, State.takePort_save hv⟩
      rw [h.waiting he fun i => ⟨(hw i).1, (hw i).2.1⟩, if_pos ((Ctx.savable_iff hw).mpr ⟨hp, hr, hlate, hf⟩)]
      rfl
    · refine ⟨_, h.withdrawing he hn hw hp, rfl, rfl, State.post_due _ _ _ _, ?_⟩
      have hsent : s.Sent (s.sendWithdraw c p.acc) (p.acc.lat / 2) .saveWithdrawReply { c := c, run := p.acc.run, id := p.acc.id } :=
        (State.postIn_sent (s.setSave c fun x => { x with withdrawn := true }) _ _ _).mono rfl (Nat.le_refl _)
      exact hsent.extend (State.post_posted _ _ _ _).grows
    · rw [h.ending he, if_pos hc]
    · have hexec : exec .contextSaveEnd s = .next (s.saveNow c .nothing) := by
        rw [h.ending he, if_neg (by omega), ha]
      intro out
      have leaves : ∀ {kind tag left : Nat}, s.saveKind x = (kind, tag, left) → out kind tag left (kind != 3 && kind != 5) :=
        fun hk => by
          have hs := State.saveNow_saved hk
          exact ⟨_, hexec, hs.gated, hs.noSave, hs.mem, hs.others, hs.entry⟩
      refine ⟨fun hd hw => leaves ?_, fun hd => leaves ?_, fun n dl hd hw hdl => leaves ?_⟩
      · simp [State.saveKind, hd, hw]
      · simp [State.saveKind, hd]
      · simp [State.saveKind, hd, hw, hdl]
  · exact ⟨_, withdraw_at_bank hn hp hi, rfl, rfl, rfl, (State.postIn_sent _ _ _ _).mono rfl (Nat.le_refl _)⟩
  · obtain ⟨t, ht, hmem, hx⟩ := withdraw_at_core hn ha hd h32 hrun hl
    obtain ⟨-, -, hs, hpc, hpend, hfull⟩ := x.undoS_place r.toNat a.was
    have hdone : ∀ y : Ctx, y.accDone a = { y with plain := .none } := fun y => by
      unfold Ctx.accDone AccKind.isCwait
      rw [hk, hrx]
      rfl
    rw [hdone] at hx
    have htpend : (t.ctx c).sPend = sb x.sPend r.toNat false := by rw [hx, ← hpend]
    have htfull : (t.ctx c).sFull = (x.undoS r.toNat a.was).sFull := by rw [hx]
    refine ⟨t, ht, ?_, fun hwas => ?_, ?_, ?_, ?_, ?_, ?_, hmem⟩
    · unfold State.regPend
      simp only [h32, if_true, htpend]
      exact tb_sb_same _ _ _ h32
    · unfold State.regFull
      simp only [h32, if_true, htfull, hfull hwas, beq_iff_eq, Nat.ne_of_gt h0, if_false]
      exact tb_sb_same _ _ _ h32
    all_goals rw [hx]
    · exact hs
    · exact hpc

end Sys2Proof.Machine
end

section
/-! Restores and migrations (O37, R60, R61, R63, R377, R414). -/

namespace Sys2Proof.Machine

/-! ## Free contexts -/

theorem State.freeCtxs_eq (s : State) (core : Nat) :
    s.freeCtxs core = ((List.range 15).map (· + 1)).filter fun k => (s.ctx ⟨core, k⟩).life == .gated := by
  unfold State.freeCtxs
  induction List.range 15 with
  | nil => rfl
  | cons i l ih =>
    rw [List.map_cons, List.filter_cons, List.filterMap_cons, ih]
    cases (s.ctx ⟨core, i + 1⟩).life == .gated <;> rfl

/-- The free context of the lowest number comes first. -/
theorem State.freeCtxs_least {s : State} {core k : Nat} (h0 : 0 < k) (h16 : k < 16) (hk : (s.ctx ⟨core, k⟩).life = .gated)
    (hlt : ∀ j, 0 < j → j < k → (s.ctx ⟨core, j⟩).life ≠ .gated) : ∃ r, s.freeCtxs core = k :: r := by
  rw [← List.head?_eq_some_iff, State.freeCtxs_eq, List.head?_filter, List.find?_eq_some_iff_getElem]
  refine ⟨by simp [hk], k - 1, by simp; omega, by simp; omega, fun j hj => ?_⟩
  simp [hlt (j + 1) (by omega) (by omega)]

theorem State.freeCtxs_none {s : State} {core : Nat} (h : ∀ k, 0 < k → k < 16 → (s.ctx ⟨core, k⟩).life ≠ .gated) :
    s.freeCtxs core = [] := by
  rw [State.freeCtxs_eq, List.filter_eq_nil_iff]
  intro k hk
  obtain ⟨i, hi, rfl⟩ := List.mem_map.mp hk
  have := List.mem_range.mp hi
  simp [h (i + 1) (by omega) (by omega)]

/-! ## Restores (R60, R61) -/

/-- A saved context that no built-in rule, buddy or late stop complicates is put into its context as it was saved. -/
theorem State.putSaved_plain (s : State) (octet : Nat) {x : Saved} (c : CtxId) (hb : x.c.builtin = none)
    (hf : x.c.relFault = none) (hy : x.c.buddy = none) :
    s.putSaved octet x c = (s.dropSaved octet x.id).setCtx c (Spec.restored x s.cycle) := by
  have hr : x.restored s.cycle = Spec.restored x s.cycle := by
    unfold Saved.restored Spec.restored Ctx.modBuddy
    simp [hb, hy]
  set m := (s.dropSaved octet x.id).setCtx c (Spec.restored x s.cycle) with hm
  have hx : m.ctx c = Spec.restored x s.cycle := State.ctx_setCtx_same _ _ _
  have hkick : m.kickBuiltin c = m := by
    unfold State.kickBuiltin
    dsimp only
    rw [hx, if_pos (by simp [Spec.restored, hb])]
  have hsettle : m.settle c = m := by
    unfold State.settle
    dsimp only
    rw [hx, show (Spec.restored x s.cycle).relFault = none from hf]
  unfold State.putSaved
  rw [hr, ← hm, hkick, hsettle]

theorem State.dropSaved_cloak (s : State) (octet id : Nat) : ∀ e ∈ ((s.dropSaved octet id).octet octet).cloak, e.id ≠ id := by
  unfold State.dropSaved
  rw [State.modOctet_eq, State.octet_setOctet_same]
  intro e he
  simpa using (List.mem_filter.mp he).2

/-- The end of a restore. -/
theorem restoreEnd_restores {s : State} {x : Saved} (hrun : (s.ctx s.arg.c).run = s.arg.run)
    (hx : ((s.octet (octetOf s.arg.c.core)).cloak.find? fun (e : Saved) => e.id == s.arg.id) = some x)
    (hb : x.c.builtin = none) (hf : x.c.relFault = none) (hy : x.c.buddy = none) : exec .contextRestoreEnd s =
      .next ((s.dropSaved (octetOf s.arg.c.core) x.id).setCtx s.arg.c (Spec.restored x s.cycle)) := by
  change execContextRestoreEnd s = _
  unfold execContextRestoreEnd
  dsimp only
  rw [if_neg (by simp [hrun]), hx, ← State.putSaved_plain _ _ _ hb hf hy]

/-! ## Arrivals (R63) -/

/-- The new core's network interface forwards no more for what arrives at it. -/
def State.unforward (s : State) (core run : Nat) : State :=
  s.modCore core fun k => { k with fwd := k.fwd.filter fun (f : Forward) => f.run != run }

theorem State.unforward_fwd (s : State) (core run : Nat) : ∀ f ∈ ((s.unforward core run).coreAt core).fwd, f.run ≠ run := by
  unfold State.unforward
  rw [State.modCore_eq, State.coreAt_setCore_same]
  intro f hf
  simpa using (List.mem_filter.mp hf).2

section
variable {s : State} {x : Saved} (hx : ((s.octet s.arg.octet).cloak.find? fun (e : Saved) => e.id == s.arg.id) = some x)
include hx

/-- A context arrives in the lowest-numbered free context. -/
theorem migrArrive_free {k : Nat} (hb : x.c.builtin = none) (hf : x.c.relFault = none) (hy : x.c.buddy = none) (h0 : 0 < k)
    (h16 : k < 16) (hk : (s.ctx ⟨x.core, k⟩).life = .gated) (hlt : ∀ j, 0 < j → j < k → (s.ctx ⟨x.core, j⟩).life ≠ .gated) :
    exec .migrArrive s =
      .next (((s.unforward x.core x.c.run).dropSaved s.arg.octet x.id).setCtx ⟨x.core, k⟩ (Spec.restored x s.cycle)) := by
  obtain ⟨r, hr⟩ := State.freeCtxs_least (s := s.unforward x.core x.c.run) h0 h16 hk hlt
  have hput := (s.unforward x.core x.c.run).putSaved_plain s.arg.octet ⟨x.core, k⟩ hb hf hy
  change execMigrArrive s = _
  unfold execMigrArrive
  dsimp only
  rw [hx]
  dsimp only
  unfold State.unforward at hr hput ⊢
  rw [hr]
  exact congrArg Host.Outcome.next hput

/-- Without a free context it is a ready entry of the cloakroom. -/
theorem migrArrive_full (h : ∀ k, 0 < k → k < 16 → (s.ctx ⟨x.core, k⟩).life ≠ .gated) : exec .migrArrive s =
    .next (((s.unforward x.core x.c.run).dropSaved s.arg.octet x.id).cloakPut s.arg.octet { x with kind := 0, ready := true }) := by
  have hr := State.freeCtxs_none (s := s.unforward x.core x.c.run) h
  change execMigrArrive s = _
  unfold execMigrArrive
  dsimp only
  rw [hx]
  dsimp only
  unfold State.unforward at hr ⊢
  rw [hr]

end

/-! ## MIGR (R63, R414) -/

/-- A context leaves for a core: its own is gated, and what it is stands in the cloakroom of the target's octet. -/
structure State.LeftFor (s t : State) (c : CtxId) (dst id : Nat) : Prop where
  gated : t.ctx c = {}
  others : ∀ d : CtxId, d.key ≠ c.key → t.ctx d = s.ctx d
  mem : t.mem = s.mem
  entry : { id := id, core := dst, c := { s.ctx c with wait := .none, starting := false }, prio := (s.ctx c).prio, kind := 7
            ready := false : Saved } ∈ (t.octet (octetOf dst)).cloak

theorem State.LeftFor.posted {s t u : State} {c : CtxId} {dst id : Nat} (h : s.LeftFor t c dst id) (hp : t.Posted u) :
    s.LeftFor u c dst id := by
  refine ⟨by rw [hp.ctx]; exact h.gated, fun d hd => by rw [hp.ctx]; exact h.others d hd, hp.mem.trans h.mem, ?_⟩
  rw [hp.octet]
  exact h.entry

/-- The context is taken out of its core, and its layout put into the target's octet. -/
def State.packFor (s : State) (c : CtxId) (dst : Nat) : State :=
  (s.newId.2.setCtx c {}).modOctet (octetOf dst) fun o =>
    { o with cloak := o.cloak ++ [{ id := s.seq, core := dst, c := { s.ctx c with wait := .none, starting := false }
                                    prio := (s.ctx c).prio, kind := 7, ready := false }] }

theorem State.packFor_left (s : State) (c : CtxId) (dst : Nat) : s.LeftFor (s.packFor c dst) c dst s.seq := by
  refine ⟨State.ctx_setCtx_same s.newId.2 c {}, fun d hd => State.ctx_setCtx_other s.newId.2 c d {} hd, rfl, ?_⟩
  unfold State.packFor
  rw [State.modOctet_eq, State.octet_setOctet_same]
  simp

theorem State.takePort_cloak (s : State) (o : Nat) : ((s.takePort o).2.octet o).cloak = (s.octet o).cloak := by
  unfold State.takePort
  dsimp only
  rw [State.modOctet_eq, State.octet_setOctet_same]

/-- A migration to the core's own cloakroom takes its octet's port twice. -/
theorem State.leaveFor_same {s : State} {c : CtxId} {dst : Nat} (h : dst = c.core) : s.LeftFor (s.leaveFor c dst) c dst s.seq := by
  set m := s.packFor c dst with hm
  have hl : s.LeftFor m c dst s.seq := s.packFor_left c dst
  set p := ((m.takePort (octetOf dst)).2.takePort (octetOf dst))
  have hleave : s.leaveFor c dst = p.2.post p.1 .migrArrive { octet := octetOf dst, id := s.seq } := by
    unfold State.leaveFor
    dsimp only
    rw [if_pos (by simpa using h)]
    rfl
  have hcloak : (p.2.octet (octetOf dst)).cloak = (m.octet (octetOf dst)).cloak :=
    ((m.takePort (octetOf dst)).2.takePort_cloak (octetOf dst)).trans (m.takePort_cloak (octetOf dst))
  have hleft : s.LeftFor p.2 c dst s.seq := ⟨hl.gated, hl.others, hl.mem, hcloak ▸ hl.entry⟩
  rw [hleave]
  exact hleft.posted (State.post_posted _ _ _ _)

/-- A migration to another core leaves a forwarding entry, and sends the context. -/
theorem State.leaveFor_other {s : State} {c : CtxId} {dst : Nat} (h : dst ≠ c.core) :
    s.LeftFor (s.leaveFor c dst) c dst s.seq ∧
    ((s.leaveFor c dst).coreAt c.core).fwd =
      { run := (s.ctx c).run, dest := ⟨dst, 0⟩, till := s.cycle + 4096 } :: (s.coreAt c.core).fwd ∧
    (s.leaveFor c dst).Due (s.cycle + 4096) .forwardingEntryLapse { core := c.core, run := (s.ctx c).run } ∧
    s.CarriesN (s.leaveFor c dst) c.core (dieOf dst) 1360 (70 + 60 * crossings (dieOf c.core) (dieOf dst)) .migrArrive
      { octet := octetOf dst, id := s.seq } := by
  set f : Forward := { run := (s.ctx c).run, dest := ⟨dst, 0⟩, till := s.cycle + 4096 }
  set m := (s.packFor c dst).modCore c.core fun k => { k with fwd := f :: k.fwd }
  set n := m.post (s.cycle + 4096) .forwardingEntryLapse { core := c.core, run := (s.ctx c).run } with hn
  have hl : s.LeftFor m c dst s.seq :=
    let h := s.packFor_left c dst
    ⟨h.gated, h.others, h.mem, h.entry⟩
  have hleave : s.leaveFor c dst = n.sendN c.core (dieOf dst) 1360 (70 + 60 * crossings (dieOf c.core) (dieOf dst)) .migrArrive
      { octet := octetOf dst, id := s.seq } := by
    unfold State.leaveFor
    dsimp only
    rw [if_neg (by simpa using h)]
    rfl
  have hp := n.sendN_posted c.core (dieOf dst) 1360 (70 + 60 * crossings (dieOf c.core) (dieOf dst)) .migrArrive
    { octet := octetOf dst, id := s.seq }
  have hmn : m.Posted n := State.post_posted _ _ _ _
  have hfwd : (m.coreAt c.core).fwd = f :: (s.coreAt c.core).fwd := congrArg Core.fwd (State.coreAt_setCore_same _ _ _)
  have hflits : s.SameFlits n :=
    (State.SameFlits.of_eq (t := m) rfl rfl).trans (State.post_flits _ _ _ rfl)
  have hseq : s.seq ≤ n.seq := Nat.le_trans (Nat.le_succ s.seq) hmn.grows.seq
  have hcycle : n.cycle = s.cycle := rfl
  have hdies : n.dies = s.dies := rfl
  have hdue : n.Due (s.cycle + 4096) .forwardingEntryLapse { core := c.core, run := (s.ctx c).run } := m.post_due _ _ _
  clear_value n
  rw [hleave]
  exact ⟨hl.posted (hmn.trans hp), by rw [(hmn.trans hp).coreAt]; exact hfwd, hdue.extend hp.grows,
    (n.sendN_carries _ _ _ _ _ _).mono hcycle hdies hseq hflits⟩

end Sys2Proof.Machine
end

section
/-! MIGR, the lapse of forwarding entries, and forwarded replies (O37, R63, R377, R414). -/

namespace Sys2Proof.Machine

/-! ## What an issue that passes on keeps -/

theorem Core.takeM_fwd (k : Core) (i : Nat) : (k.takeM i).fwd = k.fwd := by
  unfold Core.takeM
  dsimp only
  split
  · split <;> rfl
  · rfl

theorem State.commit_finish_fwd (s : State) (u : Uses) :
    ((s.commit u).finish.coreAt s.who.core).fwd = (s.coreAt s.who.core).fwd := by
  obtain ⟨q, he, -⟩ := (s.commit_took u).core
  have hfinish : (s.commit u).finish.coreAt s.who.core = (s.commit u).coreAt s.who.core := rfl
  rw [hfinish, he]
  dsimp only
  split
  · exact Core.takeM_fwd _ _
  · rfl

theorem State.commit_finish_mem (s : State) (u : Uses) : (s.commit u).finish.mem = s.mem := by
  change (s.commit u).mem = s.mem
  rw [(s.commit_took u).device]

theorem State.commit_finish_dies (s : State) (u : Uses) : (s.commit u).finish.dies = s.dies := by
  change (s.commit u).dies = s.dies
  rw [(s.commit_took u).device]

theorem State.commit_finish_flits (s : State) (u : Uses) : s.SameFlits (s.commit u).finish :=
  (s.commit_flits u).trans (.of_eq rfl rfl)

/-! ## MIGR (R63, R414) -/

/-- The only operand of a MIGR. -/
def migrUses (a : Src) : Uses := { a := some a }

/-- The core that a MIGR names. -/
def State.migrTo (s : State) (a : Src) : Nat := (s.vals (migrUses a)).a.toNat % 7680

theorem exec_migr_homeroom {s : State} {a : Src} (h0 : s.who.ctx = 0) : exec (.migr a) s = .next (s.trapHere 0x01 0) := by
  change execMigr a s = _
  unfold execMigr
  dsimp only
  rw [if_pos (by simp [h0])]

theorem Ctx.acked_iff (x : Ctx) : x.acked = true ↔ x.relStores = 0 ∧ x.plain ≠ .store := by
  unfold Ctx.acked
  simp

/-- MIGR waits for its context's stores. -/
theorem exec_migr_unacked {s : State} {a : Src} (h0 : s.who.ctx ≠ 0) (hx : (s.ctx s.who).acked = false) :
    exec (.migr a) s = .next (s.block 0) := by
  have hstatic : s.static (migrUses a) = none := by
    exact if_neg (Nat.not_lt_zero (s.priv s.who))
  change execMigr a s = _
  unfold execMigr
  dsimp only
  rw [if_neg (by simp [h0])]
  unfold State.waiting
  rw [show s.static { a := some a } = none from hstatic]
  dsimp only
  rw [hx]
  rfl

theorem exec_migr {s : State} {a : Src} (h0 : s.who.ctx ≠ 0) (hx : (s.ctx s.who).acked = true) (hr : s.Readable (migrUses a)) :
    exec (.migr a) s = .next (
      if s.isStaffCore (s.migrTo a) && s.priv s.who < 2 then s.trapHere 0x04 0
      else if (List.range 8).any fun i => (s.q s.who.core i).owner == some (s.ctx s.who).run then s.trapHere 0x0A 0
      else (s.commit (migrUses a)).finish.leaveFor s.who (s.migrTo a)) := by
  change execMigr a s = _
  unfold execMigr
  dsimp only
  rw [if_neg (by simp [h0]), State.waiting_go (u := { a := some a }) hr hx]
  rfl

/-- What a MIGR that goes leaves. -/
theorem State.migr_leaves (s : State) (a : Src) : ∃ e,
    let t := (s.commit (migrUses a)).finish.leaveFor s.who (s.migrTo a)
    let x := s.ctx s.who
    t.ctx s.who = {} ∧ (∀ d : CtxId, d.key ≠ s.who.key → t.ctx d = s.ctx d) ∧ t.mem = s.mem ∧
      e ∈ (t.octet (octetOf (s.migrTo a))).cloak ∧ e.core = s.migrTo a ∧ e.kind = 7 ∧ e.ready = false ∧ e.prio = x.prio ∧
      e.c = { x with pc := x.pc + 8, wait := .none, readyAt := e.c.readyAt, insCount := x.insCount + 1, starting := false
                     seated := false, buddy := e.c.buddy } ∧
      (s.migrTo a ≠ s.who.core →
        (t.coreAt s.who.core).fwd =
          { run := x.run, dest := ⟨s.migrTo a, 0⟩, till := s.cycle + 4096 } :: (s.coreAt s.who.core).fwd ∧
        t.Due (s.cycle + 4096) .forwardingEntryLapse { core := s.who.core, run := x.run } ∧
        s.CarriesN t s.who.core (dieOf (s.migrTo a)) 1360 (70 + 60 * crossings (dieOf s.who.core) (dieOf (s.migrTo a))) .migrArrive
          { octet := octetOf (s.migrTo a), id := e.id }) := by
  set u := migrUses a
  set f := (s.commit u).finish with hf
  set dst := s.migrTo a
  have hx : f.ctx s.who = (s.ctx s.who).issued s.cycle s.word ((s.ctx s.who).pc + 8) := by
    have hm := s.commit_took u
    rw [hf, ← hm.who]
    unfold State.finish
    rw [State.endAt_ctx, hm.who, hm.ctx, hm.cycle, hm.word]
  have hother : ∀ d : CtxId, d.key ≠ s.who.key → f.ctx d = s.ctx d := (s.commit_passed u).contexts
  have hmem : f.mem = s.mem := s.commit_finish_mem u
  have hcycle : f.cycle = s.cycle := s.commit_finish_cycle u
  have hfwd : (f.coreAt s.who.core).fwd = (s.coreAt s.who.core).fwd := s.commit_finish_fwd u
  have hdies : f.dies = s.dies := s.commit_finish_dies u
  have hflits : s.SameFlits f := s.commit_finish_flits u
  have hseq : s.seq ≤ f.seq := s.commit_seq u
  have hrun : (f.ctx s.who).run = (s.ctx s.who).run := by rw [hx]; rfl
  clear_value f
  have entry : f.LeftFor (f.leaveFor s.who dst) s.who dst f.seq := by
    by_cases h : dst = s.who.core
    · exact State.leaveFor_same h
    · exact (State.leaveFor_other h).1
  refine ⟨_, entry.gated, fun d hd => (entry.others d hd).trans (hother d hd), entry.mem.trans hmem, entry.entry, rfl, rfl, rfl, ?_, ?_, fun h => ?_⟩
  · exact (congrArg Ctx.prio hx).trans rfl
  · dsimp only
    rw [hx]
    rfl
  · obtain ⟨-, hentry, hdue, hsent⟩ := State.leaveFor_other (s := f) (c := s.who) h
    rw [hrun, hcycle, hfwd] at hentry
    rw [hrun, hcycle] at hdue
    exact ⟨hentry, hdue, hsent.mono hcycle hdies hseq hflits⟩

/-! ## The lapse of a forwarding entry (R377) -/

/-- Whether a reply that an entry must forward is outstanding. -/
def State.stillOpen (s : State) (core run : Nat) : Bool :=
  match s.runCtx ⟨core, 0⟩ run with
  | some x => !x.quiet || x.lateOut != 0
  | none => false

theorem State.stillOpen_iff (s : State) (core run : Nat) : s.stillOpen core run = true ↔
    ∃ x, s.runCtx ⟨core, 0⟩ run = some x ∧ (x.plain ≠ .none ∨ x.relaxed ≠ 0 ∨ x.lateOut ≠ 0) := by
  unfold State.stillOpen Ctx.quiet
  cases s.runCtx ⟨core, 0⟩ run with
  | none => simp
  | some x => simp [or_assoc]

theorem exec_forwardingEntryLapse {s : State} {f : Forward} (h : (s.coreAt s.arg.core).fwd = [f]) (hr : f.run = s.arg.run) :
    exec .forwardingEntryLapse s = .next (
      if s.cycle < f.till then s.post f.till .forwardingEntryLapse s.arg
      else if s.stillOpen s.arg.core f.run then s.post (s.cycle + 1) .forwardingEntryLapse s.arg
      else s.setCore s.arg.core { s.coreAt s.arg.core with fwd := [] }) := by
  have hfilter : ((s.coreAt s.arg.core).fwd.filter fun (g : Forward) => g.run != f.run) = [] := by simp [h]
  rw [apply_ite Host.Outcome.next, apply_ite Host.Outcome.next]
  change execForwardingEntryLapse s = _
  unfold execForwardingEntryLapse
  dsimp only
  rw [h, List.find?_cons_of_pos (by simp [hr])]
  dsimp only
  rw [State.modCore_eq, hfilter]
  rfl

/-- The second part of O37. -/
theorem State.restoresAndMigrations : Claims.RestoresAndMigrations := by
  intro s
  refine ⟨fun x hrun hx hb hf hy => ?_, fun a => ?_, fun x hx hb hf hy => ⟨fun k h0 h16 hk hlt => ?_, fun hfull => ?_⟩, fun f hf hr => ?_⟩
  · have hid : x.id = s.arg.id := by simpa using List.find?_some hx
    refine ⟨_, restoreEnd_restores hrun hx hb hf hy, State.ctx_setCtx_same _ _ _, fun d hd => State.ctx_setCtx_other _ _ _ _ hd, ?_, rfl, rfl⟩
    rw [← hid]
    exact s.dropSaved_cloak _ _
  · intro u x core
    refine ⟨fun h0 => ⟨_, exec_migr_homeroom h0, s.trapHere_trapped 0x01 0⟩, fun h0 hopen => ⟨_, exec_migr_unacked h0 ?_, s.block_waits 0⟩,
      fun h0 hrel hplain hread => ?_⟩
    · rw [Bool.eq_false_iff, Ne, Ctx.acked_iff]
      exact fun h => hopen.elim (· h.1) h.2
    · intro dst staff claims
      have hexec := exec_migr h0 ((Ctx.acked_iff _).mpr ⟨hrel, hplain⟩) hread
      have hstaff : (s.isStaffCore (s.migrTo a) && decide (s.priv s.who < 2)) = true ↔ staff := by
        rw [Bool.and_eq_true, decide_eq_true_iff]
        rfl
      have hclaims : ((List.range 8).any fun i => (s.q s.who.core i).owner == some (s.ctx s.who).run) = true ↔ claims := by
        simp only [List.any_eq_true, List.mem_range, beq_iff_eq]
        rfl
      refine ⟨fun hs => ⟨_, ?_, s.trapHere_trapped 0x04 0⟩, fun hs hc => ⟨_, ?_, s.trapHere_trapped 0x0A 0⟩, fun hs hc => ?_⟩
      · rw [hexec, if_pos (hstaff.mpr hs)]
      · rw [hexec, if_neg (fun h => hs (hstaff.mp h)), if_pos (hclaims.mpr hc)]
      · rw [hexec, if_neg (fun h => hs (hstaff.mp h)), if_neg (fun h => hc (hclaims.mp h))]
        obtain ⟨e, he⟩ := s.migr_leaves a
        exact ⟨_, e, rfl, he⟩
  · have hfwd := State.unforward_fwd s x.core x.c.run
    exact ⟨_, migrArrive_free hx hb hf hy h0 h16 hk hlt, State.ctx_setCtx_same _ _ _, fun d hd => State.ctx_setCtx_other _ _ _ _ hd, hfwd, rfl⟩
  · obtain ⟨l, hp, since, hin⟩ := State.cloakPut_stands ((s.unforward x.core x.c.run).dropSaved s.arg.octet x.id) s.arg.octet
      { x with kind := 0, ready := true }
    refine ⟨_, migrArrive_full hx hfull, hp.ctxs.trans rfl, hp.mem.trans rfl, { x with kind := 0, ready := true, since := since }, ?_,
      rfl, rfl, rfl, rfl, rfl⟩
    rw [hp.octet, State.octet_setOctet_same]
    exact hin
  · intro open'
    have hexec := exec_forwardingEntryLapse hf hr
    have hopen := s.stillOpen_iff s.arg.core f.run
    refine ⟨fun hc => ?_, fun hc ho => ?_, fun hc ho => ?_⟩
    · rw [hexec, if_pos hc]
    · rw [hexec, if_neg (by omega), if_pos (hopen.mpr ho)]
    · rw [hexec, if_neg (by omega), if_neg (fun h => ho (hopen.mp h))]

/-! ## Forwarded replies (R63, R377) -/

/-- A core without forwarding entries sends nothing on. -/
theorem State.sendOn_none {s : State} {core : Nat} (h : (s.coreAt core).fwd = []) (run : Nat) (arg : StepArg) :
    s.sendOn core run arg = none := by
  unfold State.sendOn State.forwardOf
  rw [h]
  rfl

theorem State.sendOn_entry {s : State} {core run : Nat} {f : Forward} (h : (s.coreAt core).fwd = [f]) (hr : f.run = run)
    (arg : StepArg) : s.sendOn core run arg = some (s.sendN core (dieOf f.dest.core) 80
      (2 * hops core f.dest.core + 14 * crossings (dieOf core) (dieOf f.dest.core)) .forwardedReply { arg with core := f.dest.core }) := by
  unfold State.sendOn State.forwardOf
  rw [h, List.find?_cons_of_pos (by simp [hr])]
  rfl

/-- A context that is not dropped waits for no wake. -/
theorem State.Plainly.waitsForWake {s : State} {a : Access} (h : s.Plainly a.who a.run) : s.waitsForWake a = false := by
  obtain ⟨hrun, hlife, -⟩ := h.place
  have hdropped : s.isDropped a = false := by
    unfold State.isDropped State.runCtx
    rw [State.place_here hrun hlife]
    simp [h.noDrop]
  unfold State.waitsForWake
  rw [hdropped, Bool.and_false]

/-- What a forwarded reply does at its context's present core. -/
theorem exec_forwardedReply {s : State} (h : (s.coreAt s.arg.core).fwd = []) : exec .forwardedReply s = .next (
    match s.arg.n with
    | 0 => if s.arg.acc.kind.acked then s.ackDone s.arg.acc else s.replyDone s.arg.acc s.arg.vec
    | 1 => s.faultDone s.arg.acc s.arg.cause
    | _ => s.lateDone s.arg.late) := by
  change execForwardedReply s = _
  unfold execForwardedReply
  dsimp only
  rw [State.sendOn_none h]
  dsimp only
  rcases s.arg.n with _ | _ | n <;> rfl

theorem exec_memoryReply_here {s : State} (h : s.Plainly s.arg.acc.who s.arg.acc.run) :
    exec .memoryReply s = .next (s.replyDone s.arg.acc s.arg.vec) := by
  obtain ⟨-, -, hfwd⟩ := h.place
  change execMemoryReply s = _
  unfold execMemoryReply
  dsimp only
  rw [if_neg (Nat.not_le.mpr h.inCore), State.sendOn_none hfwd, h.waitsForWake]
  rfl

theorem exec_storeAck_here {s : State} (h : s.Plainly s.arg.acc.who s.arg.acc.run) (hk : ∀ e w, s.arg.acc.kind ≠ .count e w) :
    exec .storeAck s = .next (s.ackDone s.arg.acc) := by
  obtain ⟨-, -, hfwd⟩ := h.place
  change execStoreAck s = _
  unfold execStoreAck
  dsimp only
  split
  next e w hkind => exact absurd hkind (hk e w)
  next =>
    rw [if_neg (Nat.not_le.mpr h.inCore), State.sendOn_none hfwd, h.waitsForWake]
    rfl

theorem exec_landingFault_here {s : State} (h : s.Plainly s.arg.acc.who s.arg.acc.run) {n : Nat} {sx : Bool}
    (hk : s.arg.acc.kind = .load n sx) : exec .landingFaultReport s = .next (s.faultDone s.arg.acc s.arg.cause) := by
  obtain ⟨-, -, hfwd⟩ := h.place
  change execLandingFaultReport s = _
  unfold execLandingFaultReport
  dsimp only
  rw [hk]
  dsimp only
  rw [if_neg (Nat.not_le.mpr h.inCore), State.sendOn_none hfwd]

theorem exec_divisionResult_here {s : State} (h : (s.coreAt s.arg.late.who.core).fwd = []) :
    exec .divisionResult s = .next (s.lateDone s.arg.late) := by
  change execDivisionResult s = _
  unfold execDivisionResult State.lateArrive State.forwardOf
  rw [h]
  rfl

/-- A forwarded load's reply does what it would have done at the core that it left. -/
theorem forwardedReply_load {s : State} (h : s.Plainly s.arg.acc.who s.arg.acc.run) (hfwd : (s.coreAt s.arg.core).fwd = [])
    (hn : s.arg.n = 0) (hk : s.arg.acc.kind.acked = false) :
    ∃ t, exec .forwardedReply s = .next t ∧ exec .memoryReply s = .next t := by
  refine ⟨_, ?_, exec_memoryReply_here h⟩
  rw [exec_forwardedReply hfwd, hn, hk]
  rfl

/-- A forwarded store's acknowledgement does what it would have done at the core that it left. -/
theorem forwardedReply_store {s : State} (h : s.Plainly s.arg.acc.who s.arg.acc.run) (hfwd : (s.coreAt s.arg.core).fwd = [])
    (hn : s.arg.n = 0) (hk : (∃ n d, s.arg.acc.kind = .store n d) ∨ ∃ d, s.arg.acc.kind = .stx d) :
    ∃ t, exec .forwardedReply s = .next t ∧ exec .storeAck s = .next t := by
  have hacked : s.arg.acc.kind.acked = true := by
    obtain ⟨n, d, hk⟩ | ⟨d, hk⟩ := hk <;> rw [hk] <;> rfl
  have hcount : ∀ e w, s.arg.acc.kind ≠ .count e w := by
    obtain ⟨n, d, hk⟩ | ⟨d, hk⟩ := hk <;> simp [hk]
  refine ⟨_, ?_, exec_storeAck_here h hcount⟩
  rw [exec_forwardedReply hfwd, hn, hacked]
  rfl

/-- A forwarded refusal does what it would have done at the core that its context left. -/
theorem forwardedReply_refusal {s : State} (h : s.Plainly s.arg.acc.who s.arg.acc.run) (hfwd : (s.coreAt s.arg.core).fwd = [])
    (hn : s.arg.n = 1) {n : Nat} {sx : Bool} (hk : s.arg.acc.kind = .load n sx) :
    ∃ t, exec .forwardedReply s = .next t ∧ exec .landingFaultReport s = .next t := by
  refine ⟨_, ?_, exec_landingFault_here h hk⟩
  simp only [exec_forwardedReply hfwd, hn]

/-- The third part of O37. Its clause of acknowledgements says, as it is parsed, that the access is a store of n bytes or that some
datum gives an STX its acknowledgement; `forwardedReply_store` gives both kinds theirs. -/
theorem State.forwardedReplies : Claims.ForwardedReplies := by
  intro s
  refine ⟨fun a ha hplain hfwd => ?_, fun l hl hn hplace hfwd => ?_, fun f hf hn hr => ?_⟩
  · subst ha
    refine ⟨fun hn hk => forwardedReply_load hplain hfwd hn ?_,
      fun hn => .inr ⟨0, fun hk => forwardedReply_store hplain hfwd hn (.inr ⟨0, hk⟩)⟩, fun hn hk => ?_⟩
    · obtain ⟨n, sx, hk⟩ | hk | hk | hk := hk <;> rw [hk] <;> rfl
    · obtain ⟨n, sx, hk⟩ := hk
      exact forwardedReply_refusal hplain hfwd hn hk
  · subst hl
    refine ⟨_, ?_, exec_divisionResult_here hplace.2.2⟩
    simp only [exec_forwardedReply hfwd, hn]
  · intro core
    have hexec : exec .forwardedReply s = .next (s.sendN core (dieOf f.dest.core) 80
        (2 * hops core f.dest.core + 14 * crossings (dieOf core) (dieOf f.dest.core)) .forwardedReply { s.arg with core := f.dest.core }) := by
      change execForwardedReply s = _
      unfold execForwardedReply
      dsimp only
      rw [if_neg (by simp [hn]), State.sendOn_entry hf hr]
    have hp := s.sendN_posted core (dieOf f.dest.core) 80 (2 * hops core f.dest.core + 14 * crossings (dieOf core) (dieOf f.dest.core))
      .forwardedReply { s.arg with core := f.dest.core }
    exact ⟨_, hexec, hp.ctxs, hp.cores, hp.mem, s.sendN_carries _ _ _ _ _ _⟩

/-- Settles O37: a save, a restore, a migration and a forwarded reply are followed step by step. -/
theorem savesAndMigrations : Obligations.SavesAndMigrations :=
  ⟨State.saves, State.restoresAndMigrations, State.forwardedReplies⟩

end Sys2Proof.Machine
end

section
/-! The scalar tables (O2, O4, O8; R170, R182, R183, R185, R341): the values of the model's operations are those of the tables,
and what an instruction of the tables does whose operands stop it. -/

namespace Sys2Proof.Machine

/-! ## Values (R182, R183, R185) -/

/-- Clamping a number to the signed range takes the bound that it has passed, or else the number. -/
theorem Spec.clamp_eq (x : Int) : Spec.clamp x =
    if x < -(2 ^ 63 : Int) then BitVec.ofInt 64 (-(2 ^ 63 : Int))
    else if (2 ^ 63 : Int) - 1 < x then BitVec.ofInt 64 ((2 ^ 63 : Int) - 1) else BitVec.ofInt 64 x := by
  unfold Spec.clamp
  split
  · congr 1; omega
  · split <;> · congr 1; omega

theorem satAdd_eq_sum (m : Sat) (a b : Word) : satAdd m a b = Spec.sum m a b := by
  cases m with
  | wrap => simp [satAdd, Spec.sum, BitVec.ofNat_add]
  | ss => exact (Spec.clamp_eq _).symm
  | us =>
    unfold satAdd Spec.sum
    dsimp only
    split
    · rw [min_eq_left (by omega), BitVec.ofNat_add, BitVec.ofNat_toNat, BitVec.ofNat_toNat]; simp
    · rw [min_eq_right (by omega)]

/-- A difference of numbers that stand for words stands for the words' difference. -/
theorem ofInt_sub_eq (a b : Word) {x y : Int} (hx : BitVec.ofInt 64 x = a) (hy : BitVec.ofInt 64 y = b) :
    BitVec.ofInt 64 (x - y) = a - b := by
  rw [Int.sub_eq_add_neg, BitVec.ofInt_add, BitVec.ofInt_neg, hx, hy, BitVec.sub_eq_add_neg]

theorem satSub_eq_difference (m : Sat) (a b : Word) : satSub m a b = Spec.difference m a b := by
  cases m with
  | wrap => exact (ofInt_sub_eq a b BitVec.ofInt_toInt BitVec.ofInt_toInt).symm
  | ss => exact (Spec.clamp_eq _).symm
  | us =>
    unfold satSub Spec.difference
    dsimp only
    split
    · rw [max_eq_right (by omega)]; rfl
    · rw [max_eq_left (by omega), ofInt_sub_eq a b (by simp) (by simp)]

/-- The upper half of a product is its dword from bit 64 on. -/
theorem mulHigh_eq (a b : Word) : mulHigh a b = (BitVec.ofInt 128 (a.toInt * b.toInt)).extractLsb' 64 64 := by
  apply BitVec.eq_of_toNat_eq
  unfold mulHigh
  rw [BitVec.extractLsb'_toNat, BitVec.toNat_ofInt, BitVec.toNat_ofInt, Nat.shiftRight_eq_div_pow]
  generalize a.toInt * b.toInt = x
  omega

theorem mulHighU_eq (a b : Word) : mulHighU a b = (BitVec.ofNat 128 (a.toNat * b.toNat)).extractLsb' 64 64 := by
  apply BitVec.eq_of_toNat_eq
  unfold mulHighU
  rw [BitVec.extractLsb'_toNat, BitVec.toNat_ofNat, BitVec.toNat_ofNat, Nat.shiftRight_eq_div_pow]
  generalize a.toNat * b.toNat = x
  omega

/-- A shift to the left multiplies. -/
theorem shiftLeft_eq_ofNat (a : Word) (n : Nat) : a <<< n = BitVec.ofNat 64 (a.toNat * 2 ^ n) := by
  apply BitVec.eq_of_toNat_eq
  rw [BitVec.toNat_shiftLeft, Nat.shiftLeft_eq, BitVec.toNat_ofNat]

/-- A shift to the right divides. -/
theorem ushiftRight_eq_ofNat (a : Word) (n : Nat) : a >>> n = BitVec.ofNat 64 (a.toNat / 2 ^ n) := by
  apply BitVec.eq_of_toNat_eq
  rw [BitVec.toNat_ushiftRight, Nat.shiftRight_eq_div_pow, BitVec.toNat_ofNat,
    Nat.mod_eq_of_lt (Nat.lt_of_le_of_lt (Nat.div_le_self _ _) a.isLt)]

/-- An arithmetic shift to the right divides, rounding down. -/
theorem sshiftRight_eq_ofInt (a : Word) (n : Nat) : a.sshiftRight n = BitVec.ofInt 64 (a.toInt / 2 ^ n) := by
  rw [BitVec.sshiftRight_eq, Int.shiftRight_eq_div_pow]
  norm_cast

theorem rotateLeft_eq_or (a b : Word) :
    a.rotateLeft (shAmt b) = (a <<< (b.toNat % 64)) ||| (a >>> (64 - b.toNat % 64)) := by
  rw [BitVec.rotateLeft_def, shAmt, Nat.mod_mod]

theorem ofBool_eq_truth (p : Prop) [Decidable p] : ofBool (decide p) = Spec.truth p := by
  unfold ofBool Spec.truth
  by_cases h : p <;> simp [h]

theorem ofBool_beq_eq_truth (a b : Word) : ofBool (a == b) = Spec.truth (a = b) := by
  rw [← ofBool_eq_truth]
  congr 1

theorem sextImm_toInt (i : BitVec 32) : (sextImm i).toInt = i.toInt := BitVec.toInt_signExtend_of_le (by decide)

/-- MOVHI puts its immediate above the low half of its source. -/
theorem movhi_eq_append (i : BitVec 32) (a : Word) :
    BitVec.ofNat 64 (i.toNat * 2 ^ 32 + a.toNat % 2 ^ 32) = i ++ a.setWidth 32 := by
  apply BitVec.eq_of_toNat_eq
  rw [BitVec.toNat_append, BitVec.toNat_setWidth, BitVec.toNat_ofNat, Nat.shiftLeft_eq,
    Nat.mul_comm i.toNat, ← Nat.two_pow_add_eq_or_of_lt (Nat.mod_lt _ (by decide))]
  have := i.isLt
  omega

/-! ## Instructions that compute -/

/-- An instruction that reads the registers of its row, and writes the row's value in its issue cycle. -/
structure Computes (i : Instr) (r : Row) : Prop where
  exec (s : State) : ∃ f : Vals → Word, exec i s = .next (s.compute r.uses f) ∧ ∀ v, f v = r.val s v
  pc (s : State) (v : Vals) : r.pc s v = (s.ctx s.who).pc + 8
  out : r.uses.out = [r.d]

/-- Where the operands can be read, the result of the row is written. -/
theorem Computes.wrote {i : Instr} {r : Row} (h : Computes i r) {s : State} (hr : s.Readable r.uses) :
    ∃ t, Sys2Proof.Machine.exec i s = .next t ∧ s.Wrote t r.uses r.d (r.val s (s.vals r.uses)) (r.pc s (s.vals r.uses)) := by
  obtain ⟨f, he, hf⟩ := h.exec s
  refine ⟨_, he, ?_⟩
  rw [h.pc, ← hf]
  exact s.compute_wrote r.uses f r.d hr h.out

theorem computes_two {i : Instr} (f : R3) {g : Vals → Word} {g' : Word → Word → Word}
    (he : ∀ s, exec i s = .next (s.compute (uses3 f) g)) (hg : ∀ v, g v = g' v.a v.b) : Computes i (Spec.two f g') :=
  ⟨fun s => ⟨g, he s, hg⟩, fun _ _ => rfl, rfl⟩

theorem computes_imm {i : Instr} (f : RImm) {g : Vals → Word} {g' : Word → Word}
    (he : ∀ s, exec i s = .next (s.compute (usesDI f) g)) (hg : ∀ v, g v = g' v.d) : Computes i (Spec.imm f g') :=
  ⟨fun s => ⟨g, he s, hg⟩, fun _ _ => rfl, rfl⟩

/-- R182 and R183: the instructions of the arithmetic table compute its values. -/
theorem computes_arith {i : Instr} {r : Row} (h : Spec.arith i = some r) : Computes i r := by
  unfold Spec.arith at h
  split at h <;> cases h
  case h_1 f m => exact computes_two f (fun _ => rfl) fun v => satAdd_eq_sum m v.a v.b
  case h_2 f m => exact computes_two f (fun _ => rfl) fun v => satSub_eq_difference m v.a v.b
  case h_3 f => exact computes_two f (fun _ => rfl) fun v => by simp [BitVec.ofNat_mul]
  case h_4 f => exact computes_two f (fun _ => rfl) fun v => mulHigh_eq v.a v.b
  case h_5 f => exact computes_two f (fun _ => rfl) fun v => mulHighU_eq v.a v.b
  case h_6 f => exact computes_two f (fun _ => rfl) fun _ => rfl
  case h_7 f => exact computes_two f (fun _ => rfl) fun _ => rfl
  case h_8 f => exact computes_two f (fun _ => rfl) fun _ => rfl
  case h_9 f => exact computes_two f (fun _ => rfl) fun _ => rfl
  case h_10 f => exact computes_two f (fun _ => rfl) fun v => shiftLeft_eq_ofNat v.a _
  case h_11 f => exact computes_two f (fun _ => rfl) fun v => ushiftRight_eq_ofNat v.a _
  case h_12 f => exact computes_two f (fun _ => rfl) fun v => sshiftRight_eq_ofInt v.a _
  case h_13 f => exact computes_two f (fun _ => rfl) fun v => rotateLeft_eq_or v.a v.b
  case h_14 f => exact computes_two f (fun _ => rfl) fun _ => rfl
  case h_15 f => exact computes_two f (fun _ => rfl) fun _ => rfl
  case h_16 f => exact computes_two f (fun _ => rfl) fun _ => rfl
  case h_17 f => exact computes_two f (fun _ => rfl) fun _ => rfl
  case h_18 f => exact computes_two f (fun _ => rfl) fun v => ofBool_beq_eq_truth v.a v.b
  case h_19 f => exact computes_two f (fun _ => rfl) fun _ => ofBool_eq_truth _
  case h_20 f => exact computes_two f (fun _ => rfl) fun _ => ofBool_eq_truth _
  case h_21 f =>
    refine ⟨fun s => ⟨_, rfl, fun v => ?_⟩, fun _ _ => rfl, rfl⟩
    simp only [beq_iff_eq, ite_not]

/-- R185: the immediate instructions compute their table's values. -/
theorem computes_immediate {i : Instr} {r : Row} (h : Spec.immediate i = some r) : Computes i r := by
  unfold Spec.immediate at h
  split at h <;> cases h
  case h_1 f => exact ⟨fun s => ⟨_, rfl, fun _ => rfl⟩, fun _ _ => rfl, rfl⟩
  case h_2 d a i => exact ⟨fun s => ⟨_, rfl, fun v => movhi_eq_append i v.a⟩, fun _ _ => rfl, rfl⟩
  case h_3 f m => exact computes_imm f (fun _ => rfl) fun v => satAdd_eq_sum m v.d _
  case h_4 f => exact computes_imm f (fun _ => rfl) fun _ => rfl
  case h_5 f => exact computes_imm f (fun _ => rfl) fun _ => rfl
  case h_6 f => exact computes_imm f (fun _ => rfl) fun _ => rfl
  case h_7 f => exact computes_imm f (fun _ => rfl) fun v => shiftLeft_eq_ofNat v.d _
  case h_8 f => exact computes_imm f (fun _ => rfl) fun v => ushiftRight_eq_ofNat v.d _
  case h_9 f => exact computes_imm f (fun _ => rfl) fun v => sshiftRight_eq_ofInt v.d _
  case h_10 f => exact computes_imm f (fun _ => rfl) fun v => by rw [ofBool_eq_truth, sextImm_toInt]
  case h_11 f => exact computes_imm f (fun _ => rfl) fun v => ofBool_beq_eq_truth v.d _

/-- Settles O2: each instruction of the table computes its value. -/
theorem arithmeticResults : Obligations.ArithmeticResults := fun _ _ _ h hr => (computes_arith h).wrote hr

/-- Settles O4: each immediate instruction computes its value. -/
theorem immediateResults : Obligations.ImmediateResults := fun _ _ _ _ h hr => (computes_immediate h).wrote hr



/-! ## Instructions whose operands stop them (R170, R341) -/

/-- An instruction of a scalar row names scalar registers alone, none of them late and none privileged, and ends with what stops
the reading of its operands. -/
structure StopsAt (i : Instr) (r : Row) : Prop where
  stop {s t : State} : s.peek r.uses = .stop t → exec i s = .next t
  need : r.uses.need = 0
  late : r.uses.late = []
  vs : r.uses.vs = []

/-- An instruction that names no register is not stopped at its operands. -/
theorem State.peek_nothing (s : State) : s.peek {} = .ok {} := rfl

theorem stopsAt_nothing {i : Instr} {r : Row} (h : r.uses = {}) : StopsAt i r where
  stop hp := by rw [h, State.peek_nothing] at hp; cases hp
  need := by rw [h]
  late := by rw [h]
  vs := by rw [h]

theorem State.compute_stop {s t : State} {u : Uses} (f : Vals → Word) (h : s.peek u = .stop t) : s.compute u f = t := by
  unfold State.compute; rw [h]

theorem State.branchOn_stop {s t : State} {u : Uses} (disp : BitVec 30) (f : Vals → Bool) (h : s.peek u = .stop t) :
    s.branchOn u disp f = t := by
  unfold State.branchOn; rw [h]

/-- The registers of a row that is computed: scalar ones, all read in the issue cycle. -/
def Uses.scalar (u : Uses) : Prop := u.need = 0 ∧ u.late = [] ∧ u.vs = []

theorem stopsAt_compute {i : Instr} {r : Row} (hu : r.uses.scalar)
    (h : ∀ s, ∃ f : Vals → Word, exec i s = .next (s.compute r.uses f)) : StopsAt i r where
  stop {s t} hp := by
    obtain ⟨f, he⟩ := h s
    rw [he, State.compute_stop f hp]
  need := hu.1
  late := hu.2.1
  vs := hu.2.2

theorem stopsAt_arith {i : Instr} {r : Row} (h : Spec.arith i = some r) : StopsAt i r := by
  refine stopsAt_compute ?_ fun s => ((computes_arith h).exec s).imp fun _ hf => hf.1
  unfold Spec.arith at h
  split at h <;> cases h <;> exact ⟨rfl, rfl, rfl⟩

theorem stopsAt_immediate {i : Instr} {r : Row} (h : Spec.immediate i = some r) : StopsAt i r := by
  refine stopsAt_compute ?_ fun s => ((computes_immediate h).exec s).imp fun _ hf => hf.1
  unfold Spec.immediate at h
  split at h <;> cases h <;> exact ⟨rfl, rfl, rfl⟩

theorem stopsAt_field {i : Instr} {r : Row} (h : Spec.field i = some r) : StopsAt i r := by
  unfold Spec.field at h
  split at h <;> cases h <;> exact stopsAt_compute ⟨rfl, rfl, rfl⟩ fun _ => ⟨_, rfl⟩

theorem stopsAt_control {i : Instr} {r : Row} (h : Spec.control i = some r) : StopsAt i r := by
  unfold Spec.control at h
  split at h
  case h_1 => cases h; exact stopsAt_nothing rfl
  case h_2 c a b disp =>
    cases h
    have huses : (if c = .al then {} else { a := some a, b := some b } : Uses) =
        if c == .al then {} else { a := some a, b := some b } := by simp only [beq_iff_eq]
    refine ⟨fun {s t} hp => ?_, ?_, ?_, ?_⟩
    · rw [huses] at hp
      exact congrArg Host.Outcome.next (State.branchOn_stop disp _ hp)
    all_goals dsimp only; split <;> rfl
  case h_3 set a n disp =>
    cases h
    exact ⟨fun hp => congrArg Host.Outcome.next (State.branchOn_stop disp _ hp), rfl, rfl, rfl⟩
  case h_4 empty a disp =>
    split at h <;> cases h
    exact stopsAt_nothing rfl
  case h_5 a disp =>
    cases h
    refine ⟨fun {s t} hp => ?_, rfl, rfl, rfl⟩
    change execLoop a disp s = _
    unfold execLoop
    simp only [hp]
  case h_6 f =>
    cases h
    refine ⟨fun {s t} hp => ?_, rfl, rfl, rfl⟩
    change execJal f s = _
    unfold execJal
    simp only [hp]
  case h_7 f =>
    cases h
    refine ⟨fun {s t} hp => ?_, rfl, rfl, rfl⟩
    change execJalr f s = _
    unfold execJalr uses2
    simp only [hp]
  case h_8 d k =>
    cases h
    exact stopsAt_compute ⟨rfl, rfl, rfl⟩ fun _ => ⟨_, rfl⟩
  case h_9 => cases h

theorem stopsAt_scalar {i : Instr} {r : Row} (h : Spec.scalar i = some r) : StopsAt i r := by
  simp only [Spec.scalar, Option.orElse_eq_orElse, Option.orElse_eq_or, Option.or_eq_some_iff] at h
  rcases h with (h | ⟨-, h⟩) | ⟨-, h | ⟨-, h⟩⟩
  · exact stopsAt_arith h
  · exact stopsAt_immediate h
  · exact stopsAt_field h
  · exact stopsAt_control h

/-- A source that is empty holds its instruction back: a stream that is held and has the elements left is only not there yet. -/
theorem State.unblocked_full {s : State} {u : Uses} (hw : ¬ s.StreamWrong u) (ho : ¬ s.StreamOver u) {p : Reg × Option Bool}
    (hp : p ∈ u.reads) (hf : s.regFull s.who p.1 (countReads u.reads p.1) = false) :
    s.unblocked s.who (.full p.1.toNat (countReads u.reads p.1)) = false := by
  simp only [State.unblocked, ofNat_reg, hf, Bool.false_or, State.streamOver, Bool.and_eq_false_imp, isStream, decide_eq_true_eq]
  intro h56
  have hholds : s.holds p.1 := by
    by_contra hn
    exact hw (.inl ⟨p, hp, h56, .inl hn⟩)
  have hleft : ¬ (s.stream s.who.core p.1).leftOver < countReads u.reads p.1 := fun hn => ho (.inl ⟨p, hp, h56, hn⟩)
  simp [hholds.1, hleft]

/-- Settles O8: each instruction of the scalar tables ends with what its operand checks end with, in their order. -/
theorem operandChecks : Obligations.OperandChecks := by
  intro i r s h
  have hs := stopsAt_scalar h
  obtain ⟨hcode, hwrong, hover, hempty, hwait⟩ :=
    s.peek_stops (u := r.uses) (by rw [hs.need]; exact Nat.zero_le _) (by simp [hs.late])
  refine ⟨fun h1 => ⟨_, hs.stop (hcode h1), s.trapHere_trapped _ _⟩,
    fun h1 h2 => ⟨_, hs.stop (hwrong h1 h2), s.trapHere_trapped _ _⟩,
    fun h1 h2 h3 => ⟨_, hs.stop (hover h1 h2 h3), s.trapHere_trapped _ _⟩,
    fun h1 h2 h3 h4 => ⟨_, hs.stop (hempty h1 h2 h3 h4), s.trapHere_trapped _ _⟩, fun h1 h2 h3 h4 h5 => ?_⟩
  have hheld : (∃ p ∈ r.uses.reads, s.unblocked s.who (.full p.1.toNat (countReads r.uses.reads p.1)) = false) ∨
      ∃ d ∈ r.uses.out ++ r.uses.late, s.regPend s.who d = true :=
    h5.imp (fun ⟨p, hp, hf⟩ => ⟨p, hp, State.unblocked_full h2 h3 hp hf⟩)
      fun ⟨d, hd, hf⟩ => ⟨d, List.mem_append_left _ hd, hf⟩
  obtain ⟨b, hb, hpeek⟩ := hwait h1 h2 h3 h4 hs.vs hheld
  exact ⟨_, hs.stop hpeek, s.blockOn_waits b hb⟩

end Sys2Proof.Machine
end

section
/-! How an access ends at its core: replies, acknowledgements and refusals (O14). -/

namespace Sys2Proof.Machine

/-! ## The place of an access (R62, R399) -/

/-- Without a pair, a reply is what has come. -/
theorem State.mirror_plain {s : State} {a : Access} (cause : Nat) (val : VWord) (h : s.Plainly a.who a.run) :
    s.mirror a cause val = (val, s) := by
  obtain ⟨hrun, hlife, -⟩ := h.place
  unfold State.mirror
  rw [State.place_here hrun hlife]
  dsimp only
  rw [h.noBuddy]

/-- An access that no stop waits for ends at its context alone. -/
theorem State.accEnd_plain {s : State} {a : Access} (hr : (s.ctx a.who).run = a.run) (hl : (s.ctx a.who).life ≠ .gated)
    (hf : (s.ctx a.who).relFault = none) : s.accEnd a = s.setCtx a.who ((s.ctx a.who).accDone a) := by
  have hdone : ((s.ctx a.who).accDone a).run = (s.ctx a.who).run ∧ ((s.ctx a.who).accDone a).life = (s.ctx a.who).life ∧
      ((s.ctx a.who).accDone a).relFault = (s.ctx a.who).relFault := by
    unfold Ctx.accDone
    split
    · exact ⟨rfl, rfl, rfl⟩
    · split <;> exact ⟨rfl, rfl, rfl⟩
  obtain ⟨hrun, hlife, hstop⟩ := hdone
  unfold State.accEnd
  rw [State.modRun_here _ hr hl]
  have hx := State.ctx_setCtx_same s a.who ((s.ctx a.who).accDone a)
  dsimp only
  rw [State.place_here (by rw [hx, hrun, hr]) (by rw [hx, hlife]; exact hl)]
  dsimp only
  unfold State.settle
  rw [hx]
  dsimp only
  rw [hstop, hf]

/-! ## Registers that a reply fills, and that a refusal gives up (R72, R322) -/

theorem State.fill_reg_other {s : State} {c e : CtxId} {run : Nat} {d : Reg} (val : VWord) (hr : (s.ctx c).run = run)
    (hl : (s.ctx c).life ≠ .gated) (he : e.key ≠ c.key) : (s.fill c run (.reg d) val).ctx e = s.ctx e := by
  unfold State.fill
  dsimp only
  rw [State.modRun_here _ hr hl, State.modRun_here _ hr hl]
  split
  · exact State.ctx_setCtx_other _ _ _ _ he
  · split
    · exact State.ctx_setCtx_other _ _ _ _ he
    · split
      · exact State.ctx_setCtx_other _ _ _ _ he
      · rfl

/-- What a register is that gives up its late result: it keeps its value, and no result is pending into it. -/
structure State.GaveUp (s t : State) (c : CtxId) (d : Reg) : Prop where
  value : t.regVal c d 0 = s.regVal c d 0
  full : t.regFull c d 1 = s.regFull c d 1
  pend : t.regPend c d = false

theorem State.GaveUp.congr {s t u : State} {c : CtxId} {d : Reg} (h : s.GaveUp t c d)
    (hx : (u.ctx c).s = (t.ctx c).s ∧ (u.ctx c).sFull = (t.ctx c).sFull ∧ (u.ctx c).sPend = (t.ctx c).sPend)
    (hk : u.coreAt c.core = t.coreAt c.core) : s.GaveUp u c d := by
  obtain ⟨hs, hf, hp⟩ := hx
  obtain ⟨hvalue, hfull, hpend⟩ := h
  refine ⟨?_, ?_, ?_⟩
  · rw [← hvalue]; unfold State.regVal State.stream; rw [hs, hk]
  · rw [← hfull]; unfold State.regFull State.stream; rw [hf, hk]
  · rw [← hpend]; unfold State.regPend; rw [hp, hk]

theorem State.gaveUp_of {s t : State} {c : CtxId} {d : Reg} {k : Core}
    (hx : (t.ctx c).s = (s.ctx c).s ∧ (t.ctx c).sFull = (s.ctx c).sFull) (ht : t.coreAt c.core = k)
    (hk : k = { s.coreAt c.core with cPend := k.cPend, mPend := k.mPend }) (hp : t.regPend c d = false) : s.GaveUp t c d := by
  obtain ⟨hs, hf⟩ := hx
  refine ⟨?_, ?_, hp⟩
  · unfold State.regVal State.stream
    rw [hs, ht, hk]
  · unfold State.regFull State.stream
    rw [hf, ht, hk]

/-- A change of a context and of its core's pending bits touches no memory, and no other context. -/
structure State.BankOnly (s t : State) (c : CtxId) : Prop where
  mem : t.mem = s.mem
  cycle : t.cycle = s.cycle
  others : ∀ e : CtxId, e.key ≠ c.key → t.ctx e = s.ctx e
  ctx : t.ctx c = { s.ctx c with sPend := (t.ctx c).sPend, buddy := (t.ctx c).buddy }

theorem State.bankOnly_of {s t : State} {c : CtxId} {x : Ctx} {k : Core} (ht : t = (s.setCtx c x).setCore c.core k)
    (hx : x = { s.ctx c with sPend := x.sPend, buddy := x.buddy }) : s.BankOnly t c := by
  have hctx : t.ctx c = x := by rw [ht]; exact State.ctx_setCtx_same s c x
  refine ⟨by rw [ht]; rfl, by rw [ht]; rfl, fun e he => ?_, by rw [hctx]; exact hx⟩
  rw [ht]
  exact State.ctx_setCtx_other s c e x he

/-- The end of a wait without a value touches the bank or the core's files at the register alone. -/
theorem State.unfill_reg {s : State} {c : CtxId} {run : Nat} {d : Reg} (hr : (s.ctx c).run = run)
    (hl : (s.ctx c).life ≠ .gated) (hd : d.toNat < 56) :
    s.GaveUp (s.unfill c run (.reg d)) c d ∧ s.BankOnly (s.unfill c run (.reg d)) c := by
  unfold State.unfill
  dsimp only
  rw [State.modRun_here _ hr hl, State.modRun_here _ hr hl]
  by_cases h32 : d.toNat < 32
  · rw [if_pos h32]
    have hx := State.ctx_setCtx_same s c ((s.ctx c).dropS d.toNat)
    refine ⟨State.gaveUp_of (by rw [hx]; exact ⟨rfl, rfl⟩) rfl rfl ?_, rfl, rfl, fun e he => State.ctx_setCtx_other _ _ _ _ he, by rw [hx]; rfl⟩
    unfold State.regPend
    dsimp only
    rw [if_pos h32, hx]
    exact tb_sb_same _ _ _ h32
  · rw [if_neg h32]
    set m := s.setCtx c ((s.ctx c).forgoes d.toNat)
    have hx : m.ctx c = (s.ctx c).forgoes d.toNat := State.ctx_setCtx_same _ _ _
    by_cases h48 : d.toNat < 48
    · rw [if_pos h48]
      set n := m.modCore c.core fun k => { k with cPend := sb k.cPend (d.toNat - 32) false }
      have hk : n.coreAt c.core = { s.coreAt c.core with cPend := sb (s.coreAt c.core).cPend (d.toNat - 32) false } :=
        State.coreAt_setCore_same _ _ _
      refine ⟨State.gaveUp_of (by rw [show n.ctx c = m.ctx c from rfl, hx]; exact ⟨rfl, rfl⟩) hk rfl ?_, State.bankOnly_of rfl rfl⟩
      unfold State.regPend
      dsimp only
      rw [if_neg h32, if_pos h48, hk]
      exact tb_sb_same _ _ _ (by omega)
    · rw [if_neg h48, if_pos hd]
      set n := m.modCore c.core fun k => { k with mPend := sb k.mPend (d.toNat - 48) false }
      have hk : n.coreAt c.core = { s.coreAt c.core with mPend := sb (s.coreAt c.core).mPend (d.toNat - 48) false } :=
        State.coreAt_setCore_same _ _ _
      refine ⟨State.gaveUp_of (by rw [show n.ctx c = m.ctx c from rfl, hx]; exact ⟨rfl, rfl⟩) hk rfl ?_, State.bankOnly_of rfl rfl⟩
      unfold State.regPend
      dsimp only
      rw [if_neg h32, if_neg h48, if_pos hd, hk]
      exact tb_sb_same _ _ _ (by omega)

/-! ## What an access leaves in its context (R105, R106, R202) -/

section
variable {x : Ctx} {a : Access}

theorem Ctx.accDone_plain (hc : a.kind.isCwait = false) (hx : a.rx = false) : x.accDone a = { x with plain := .none } := by
  unfold Ctx.accDone
  rw [hc, hx]
  rfl

theorem Ctx.accDone_relaxed (hc : a.kind.isCwait = false) (hx : a.rx = true) : x.accDone a =
    { x with relaxed := x.relaxed - 1, relStores := if a.kind.acked then x.relStores - 1 else x.relStores } := by
  unfold Ctx.accDone
  rw [hc, hx]
  rfl

theorem Ctx.accDone_frame (x : Ctx) (a : Access) : x.accDone a =
    { x with plain := (x.accDone a).plain, relaxed := (x.accDone a).relaxed, relStores := (x.accDone a).relStores } := by
  unfold Ctx.accDone
  split
  · rfl
  · split <;> rfl

theorem Ctx.doneAt_waiting {id : Nat} (h : x.wait = .reply id) : (x.doneAt id).wait = .none ∧ (x.doneAt id).pc = x.pc + 8 := by
  unfold Ctx.doneAt
  rw [h, if_pos (by simp)]
  exact ⟨rfl, rfl⟩

theorem Ctx.doneAt_frame (x : Ctx) (id : Nat) :
    x.doneAt id = { x with wait := (x.doneAt id).wait, pc := (x.doneAt id).pc, tries := (x.doneAt id).tries } := by
  unfold Ctx.doneAt
  split <;> rfl

/-- What an acknowledgement leaves of a wait: a full/empty store's ends, and so does a splice's hold. -/
def Ctx.ackedAt (x : Ctx) (id : Nat) : Ctx := if (x.doneAt id).wait == .hold id then { x.doneAt id with wait := .none } else x.doneAt id

theorem Ctx.ackedAt_waiting {id : Nat} (h : x.wait = .reply id) : (x.ackedAt id).wait = .none ∧ (x.ackedAt id).pc = x.pc + 8 := by
  obtain ⟨hw, hpc⟩ := Ctx.doneAt_waiting h
  unfold Ctx.ackedAt
  rw [hw, if_neg (by simp)]
  exact ⟨hw, hpc⟩

theorem Ctx.ackedAt_frame (x : Ctx) (id : Nat) :
    x.ackedAt id = { x with wait := (x.ackedAt id).wait, pc := (x.ackedAt id).pc, tries := (x.ackedAt id).tries } := by
  have h := x.doneAt_frame id
  unfold Ctx.ackedAt
  split <;> rw [h]

end

/-! ## Replies and acknowledgements (R72, R105, R106, R202) -/

section
variable {s : State} {a : Access}

/-- A reply fills its destination, ends its access, and then the wait of its instruction. -/
theorem State.replyDone_plain (h : s.Plainly a.who a.run) (hb : ∀ q, a.kind ≠ .bind q) (hr : ∀ core q out n, a.kind ≠ .ring core q out n)
    {d : Reg} (hdest : a.dest = .reg d) (hd : d.toNat < 56) (val : VWord) : s.replyDone a val =
      ((s.fill a.who a.run (.reg d) val).setCtx a.who
        ((((s.fill a.who a.run (.reg d) val).ctx a.who).accDone a).doneAt a.id)).wakeReap a.who := by
  obtain ⟨hrun, hlife, -⟩ := h.place
  obtain ⟨-, -, hx⟩ := State.fill_reg val hrun hlife hd
  unfold State.replyDone
  split
  next q hk => exact absurd hk (hb q)
  next core q out n hk => exact absurd hk (hr core q out n)
  next =>
    rw [State.mirror_plain 0 val h, hdest]
    dsimp only
    set f := s.fill a.who a.run (.reg d) val
    have hfr : (f.ctx a.who).run = a.run := by rw [hx]; exact hrun
    have hfl : (f.ctx a.who).life ≠ .gated := by rw [hx]; exact hlife
    have hy := State.ctx_setCtx_same f a.who ((f.ctx a.who).accDone a)
    rw [State.accEnd_plain hfr hfl (by rw [hx]; exact h.noStop),
      State.modRun_here _ (by rw [hy, Ctx.accDone_frame]; exact hfr) (by rw [hy, Ctx.accDone_frame]; exact hfl), hy, State.setCtx_setCtx]

/-- An acknowledgement ends its access, and then the wait of its instruction. -/
theorem State.ackDone_plain (h : s.Plainly a.who a.run) :
    s.ackDone a = s.setCtx a.who (((s.ctx a.who).accDone a).ackedAt a.id) := by
  obtain ⟨hrun, hlife, -⟩ := h.place
  have hy := State.ctx_setCtx_same s a.who ((s.ctx a.who).accDone a)
  unfold State.ackDone
  rw [State.mirror_plain 0 0 h]
  dsimp only
  rw [State.accEnd_plain hrun hlife h.noStop,
    State.modRun_here _ (by rw [hy, Ctx.accDone_frame]; exact hrun) (by rw [hy, Ctx.accDone_frame]; exact hlife), hy, State.setCtx_setCtx]
  rfl

end

/-- The first part of O14. -/
theorem State.repliesEndAccesses : Claims.RepliesEndAccesses := by
  rintro s a rfl h
  set a := s.arg.acc with ha
  obtain ⟨hrun, hlife, -⟩ := h.place
  refine ⟨fun d hd hdest hk => ?_, fun hk => ?_⟩
  · have hb : ∀ q, a.kind ≠ .bind q := by rcases hk with hk | hk | ⟨_, _, hk⟩ | ⟨_, _, _, _, hk⟩ <;> simp [hk]
    have hring : ∀ core q out n, a.kind ≠ .ring core q out n := by
      rcases hk with hk | hk | ⟨_, _, hk⟩ | ⟨_, _, _, _, hk⟩ <;> simp [hk]
    have hc : a.kind.isCwait = false := by rcases hk with hk | hk | ⟨_, _, hk⟩ | ⟨_, _, _, _, hk⟩ <;> rw [hk] <;> rfl
    refine ⟨_, (exec_memoryReply_here h).trans (congrArg _ (State.replyDone_plain h hb hring hdest hd s.arg.vec)), ?_⟩
    obtain ⟨hfill, hframe, hx⟩ := State.fill_reg s.arg.vec hrun hlife hd
    have hother : ∀ e : CtxId, e.key ≠ a.who.key → (s.fill a.who a.run (.reg d) s.arg.vec).ctx e = s.ctx e :=
      fun e he => State.fill_reg_other _ hrun hlife he
    set f := s.fill a.who a.run (.reg d) s.arg.vec
    set y := ((f.ctx a.who).accDone a).doneAt a.id with hy
    have hp := (f.setCtx a.who y).wakeReap_posted a.who
    have hctx : ((f.setCtx a.who y).wakeReap a.who).ctx a.who = y := hp.ctx a.who |>.trans (State.ctx_setCtx_same _ _ _)
    rw [hctx]
    refine ⟨hfill.congr ?_ (hp.coreAt _), fun hrx => ?_, fun hrx => ?_, fun hw => ?_, fun e he => ?_, ?_⟩
    · rw [hctx, hy, Ctx.doneAt_frame, Ctx.accDone_frame]
      exact ⟨rfl, rfl, rfl⟩
    · rw [hy, Ctx.doneAt_frame, Ctx.accDone_plain hc hrx, hx]
      exact ⟨rfl, rfl⟩
    · rw [hy, Ctx.doneAt_frame, Ctx.accDone_relaxed hc hrx, hx]
      exact ⟨rfl, rfl⟩
    · have hwait : ((f.ctx a.who).accDone a).wait = .reply a.id := by rw [Ctx.accDone_frame, hx]; exact hw
      obtain ⟨h1, h2⟩ := Ctx.doneAt_waiting hwait
      exact ⟨h1, h2.trans (by rw [Ctx.accDone_frame, hx])⟩
    · exact (hp.ctx e).trans ((State.ctx_setCtx_other _ _ _ _ he).trans (hother e he))
    · rw [hp.mem]
      change f.mem = s.mem
      rw [hframe]
  · have hcount : ∀ e w, a.kind ≠ .count e w := by rcases hk with ⟨_, _, hk⟩ | ⟨_, _, hk⟩ | ⟨_, hk⟩ <;> simp [hk]
    have hc : a.kind.isCwait = false := by rcases hk with ⟨_, _, hk⟩ | ⟨_, _, hk⟩ | ⟨_, hk⟩ <;> rw [hk] <;> rfl
    have hacked : a.kind.acked = true := by rcases hk with ⟨_, _, hk⟩ | ⟨_, _, hk⟩ | ⟨_, hk⟩ <;> rw [hk] <;> rfl
    refine ⟨_, (exec_storeAck_here h hcount).trans (congrArg _ (State.ackDone_plain h)), ?_⟩
    set y := ((s.ctx a.who).accDone a).ackedAt a.id with hy
    rw [State.ctx_setCtx_same]
    refine ⟨fun hrx => ?_, fun hrx => ?_, fun hw => ?_, ?_, fun e he => State.ctx_setCtx_other _ _ _ _ he, rfl⟩
    · rw [hy, Ctx.ackedAt_frame, Ctx.accDone_plain hc hrx]
      exact ⟨rfl, rfl⟩
    · rw [hy, Ctx.ackedAt_frame, Ctx.accDone_relaxed hc hrx, hacked]
      exact ⟨rfl, rfl, rfl⟩
    · have hwait : ((s.ctx a.who).accDone a).wait = .reply a.id := by rw [Ctx.accDone_frame]; exact hw
      obtain ⟨h1, h2⟩ := Ctx.ackedAt_waiting hwait
      exact ⟨h1, h2.trans (by rw [Ctx.accDone_frame])⟩
    · rw [hy, Ctx.ackedAt_frame, Ctx.accDone_frame]

/-! ## Refusals (R199, R321, R322, R325) -/

theorem Ctx.notePoison_frame (x : Ctx) (a : Access) (cause : Nat) : x.notePoison a cause =
    { x with poisoned := (x.notePoison a cause).poisoned, mixed := (x.notePoison a cause).mixed } := by
  unfold Ctx.notePoison
  split <;> rfl

theorem Ctx.live_active {x : Ctx} (h : x.life = .active) : x.live = true := by
  unfold Ctx.live
  rw [h]
  rfl

section
variable {s : State} {c : CtxId}

/-- A refused plain access stops its context at once. -/
theorem State.takeFault_plain (ha : (s.ctx c).life = .active) {a : Access} (hx : a.rx = false) (f : Frec) :
    s.takeFault c a f = s.trap c f := by
  have hl : ((s.ctx c).life == .trapped) = false := by rw [ha]; rfl
  unfold State.takeFault
  simp only [hl, hx, Bool.false_and, Bool.false_eq_true, if_false, Ctx.live_active ha, Bool.or_true, if_true]

/-- A refused relaxed access is noted, and stops its context once no other is outstanding. -/
theorem State.takeFault_relaxed (ha : (s.ctx c).life = .active) (hn : (s.ctx c).relFault = none) {a : Access} (hx : a.rx = true)
    (f : Frec) : s.takeFault c a f =
      if (s.ctx c).relaxed = 0 then (s.setCtx c { s.ctx c with relFault := some (a.id, f) }).trap c f
      else s.setCtx c { s.ctx c with relFault := some (a.id, f) } := by
  have hnote : (s.ctx c).noteFault a f = { s.ctx c with relFault := some (a.id, f) } := by
    unfold Ctx.noteFault
    rw [hn]
  have hl : ((s.ctx c).life == .trapped) = false := by rw [ha]; rfl
  unfold State.takeFault
  simp only [hl, hx, Bool.false_and, Bool.false_eq_true, if_false, if_true]
  rw [State.modCtx_eq, hnote]
  unfold State.settle
  rw [State.ctx_setCtx_same]
  dsimp only
  rw [Ctx.live_active (x := { s.ctx c with relFault := some (a.id, f) }) ha, Bool.and_true]
  by_cases h0 : (s.ctx c).relaxed = 0
  · rw [if_pos h0, if_pos (by simp [h0])]
  · rw [if_neg h0, if_neg (by simp [h0])]

end

/-- The memory, the registers and the other contexts are as before. -/
structure State.SameBank (s t : State) (c : CtxId) : Prop where
  mem : t.mem = s.mem
  core : t.coreAt c.core = s.coreAt c.core
  others : ∀ e : CtxId, e.key ≠ c.key → t.ctx e = s.ctx e
  regs : (t.ctx c).s = (s.ctx c).s ∧ (t.ctx c).sFull = (s.ctx c).sFull ∧ (t.ctx c).sPend = (s.ctx c).sPend

theorem State.sameBank_setCtx {s : State} {c : CtxId} {x : Ctx}
    (h : x.s = (s.ctx c).s ∧ x.sFull = (s.ctx c).sFull ∧ x.sPend = (s.ctx c).sPend) : s.SameBank (s.setCtx c x) c :=
  ⟨rfl, rfl, fun _ he => State.ctx_setCtx_other _ _ _ _ he, by rw [State.ctx_setCtx_same]; exact h⟩

theorem State.SameBank.trans {s t u : State} {c : CtxId} (h : s.SameBank t c) (g : t.SameBank u c) : s.SameBank u c :=
  ⟨g.mem.trans h.mem, g.core.trans h.core, fun e he => (g.others e he).trans (h.others e he),
    g.regs.1.trans h.regs.1, g.regs.2.1.trans h.regs.2.1, g.regs.2.2.trans h.regs.2.2⟩

theorem State.Posted.sameBank {s t : State} (h : s.Posted t) (c : CtxId) : s.SameBank t c :=
  ⟨h.mem, h.coreAt _, fun e _ => h.ctx e, by rw [h.ctx]; exact ⟨rfl, rfl, rfl⟩⟩

theorem State.wakeHome_sameBank (s : State) (k : Nat) (c : CtxId) : s.SameBank (s.wakeHome k) c := by
  rw [State.wakeHome_same]
  exact ⟨rfl, rfl, fun _ _ => rfl, rfl, rfl, rfl⟩

/-- Stopping a context touches no memory, no register and no other context. -/
theorem State.trap_sameBank (s : State) (c : CtxId) (f : Frec) : s.SameBank (s.trap c f) c := by
  unfold State.trap
  dsimp only
  split
  · refine .trans ?_ ((State.notice_posted _ _ _).sameBank c)
    exact State.sameBank_setCtx ⟨rfl, rfl, rfl⟩
  · refine .trans ?_ (State.wakeHome_sameBank _ _ c)
    exact State.sameBank_setCtx ⟨rfl, rfl, rfl⟩

/-- Whether a refusal stops its context at once or later, it writes nothing. -/
theorem State.takeFault_sameBank {s : State} {c : CtxId} (ha : (s.ctx c).life = .active) (hn : (s.ctx c).relFault = none) (a : Access)
    (f : Frec) : s.SameBank (s.takeFault c a f) c := by
  cases hx : a.rx
  · rw [State.takeFault_plain ha hx]
    exact s.trap_sameBank c f
  · rw [State.takeFault_relaxed ha hn hx]
    have hnote : s.SameBank (s.setCtx c { s.ctx c with relFault := some (a.id, f) }) c := State.sameBank_setCtx ⟨rfl, rfl, rfl⟩
    split
    · exact hnote.trans (State.trap_sameBank _ c f)
    · exact hnote

/-- What a refusal leaves of its context before it stops it. -/
def Ctx.refused (x : Ctx) (a : Access) (cause : Nat) : Ctx := (x.accDone a).notePoison a cause

theorem Ctx.refused_frame (x : Ctx) (a : Access) (cause : Nat) : x.refused a cause =
    { x with plain := (x.accDone a).plain, relaxed := (x.accDone a).relaxed, relStores := (x.accDone a).relStores
             poisoned := (x.refused a cause).poisoned, mixed := (x.refused a cause).mixed } := by
  unfold Ctx.refused
  rw [Ctx.notePoison_frame, Ctx.accDone_frame]

/-- The report of a refused load gives up its register and ends the access, and then it is taken. -/
theorem State.faultDone_load {s : State} {a : Access} (h : s.Plainly a.who a.run) {n : Nat} {sx : Bool} (hk : a.kind = .load n sx)
    {d : Reg} (hdest : a.dest = .reg d) (hd : d.toNat < 56) (cause : Nat) : s.faultDone a cause =
      (((s.unfill a.who a.run (.reg d)).setCtx a.who (((s.unfill a.who a.run (.reg d)).ctx a.who).refused a cause)).takeFault
        a.who a (a.frec cause)).wakeReap a.who := by
  obtain ⟨hrun, hlife, -⟩ := h.place
  obtain ⟨-, hbank⟩ := State.unfill_reg hrun hlife hd
  unfold State.faultDone
  rw [State.mirror_plain cause 0 h]
  simp only [hk, hdest, AccKind.holdsCtx, Bool.false_and, Bool.false_eq_true, if_false]
  set f := s.unfill a.who a.run (.reg d)
  have hfr : (f.ctx a.who).run = a.run := by rw [hbank.ctx]; exact hrun
  have hfl : (f.ctx a.who).life ≠ .gated := by rw [hbank.ctx]; exact hlife
  have hy := State.ctx_setCtx_same f a.who ((f.ctx a.who).refused a cause)
  rw [State.modRun_here _ hfr hfl, ← Ctx.refused,
    State.place_here (by rw [hy, Ctx.refused_frame]; exact hfr) (by rw [hy, Ctx.refused_frame]; exact hfl)]

/-- The second part of O14. -/
theorem State.refusalsStopContexts : Claims.RefusalsStopContexts := by
  rintro s a d rfl h hd hdest ⟨n, sx, hk⟩
  set a := s.arg.acc with ha
  obtain ⟨hrun, hlife, -⟩ := h.place
  obtain ⟨hgave, hbank⟩ := State.unfill_reg hrun hlife hd
  have hc : a.kind.isCwait = false := by rw [hk]; rfl
  refine ⟨_, (exec_landingFault_here h hk).trans (congrArg _ (State.faultDone_load h hk hdest hd s.arg.cause)), ?_⟩
  set f := s.unfill a.who a.run (.reg d)
  set y := (f.ctx a.who).refused a s.arg.cause with hy
  set m := f.setCtx a.who y
  set g := m.takeFault a.who a (a.frec s.arg.cause)
  have hm : m.ctx a.who = y := State.ctx_setCtx_same _ _ _
  have hlive : (m.ctx a.who).life = .active := by rw [hm, hy, Ctx.refused_frame, hbank.ctx]; exact h.active
  have hstop : (m.ctx a.who).relFault = none := by rw [hm, hy, Ctx.refused_frame, hbank.ctx]; exact h.noStop
  have hset : f.SameBank m a.who := State.sameBank_setCtx (by rw [hy, Ctx.refused_frame]; exact ⟨rfl, rfl, rfl⟩)
  have hp := g.wakeReap_posted a.who
  have hsame := (hset.trans (State.takeFault_sameBank hlive hstop a _)).trans (hp.sameBank a.who)
  obtain ⟨hvalue, hfull, hpend⟩ := hgave.congr hsame.regs hsame.core
  refine ⟨hsame.mem.trans hbank.mem, hvalue, fun _ => ⟨hfull, hpend⟩, fun hrx => ?_, fun hrx hmore => ?_, fun hrx hlast => ?_,
    fun e he => (hsame.others e he).trans (hbank.others e he)⟩
  · rw [hp.ctx, show g = _ from State.takeFault_plain hlive hrx _, State.trap_ctx, hm, hy, Ctx.refused_frame, Ctx.accDone_plain hc hrx]
    exact ⟨rfl, rfl, rfl⟩
  · have hleft : (m.ctx a.who).relaxed = (s.ctx a.who).relaxed - 1 := by
      rw [hm, hy, Ctx.refused_frame, Ctx.accDone_relaxed hc hrx, hbank.ctx]
    rw [hp.ctx, show g = _ from State.takeFault_relaxed hlive hstop hrx _, if_neg (by rw [hleft]; omega), State.ctx_setCtx_same]
    exact ⟨hlive, hleft, rfl⟩
  · have hleft : (m.ctx a.who).relaxed = 0 := by
      rw [hm, hy, Ctx.refused_frame, Ctx.accDone_relaxed hc hrx, hbank.ctx]
      exact congrArg (· - 1) hlast
    rw [hp.ctx, show g = _ from State.takeFault_relaxed hlive hstop hrx _, if_pos hleft, State.trap_ctx]
    exact ⟨rfl, rfl⟩

/-- Settles O14: replies and acknowledgements end accesses, and refusals stop contexts. -/
theorem endsOfAccesses : Obligations.EndsOfAccesses := ⟨State.repliesEndAccesses, State.refusalsStopContexts⟩

end Sys2Proof.Machine
end

section
/-! Claims, counts and mailboxes (O22). -/

namespace Sys2Proof.Machine

/-! ## Issues that change the core alone -/

/-- An issue that gives its core a new state, and ends past itself. -/
theorem State.setCore_finish (s : State) (k : Core) :
    s.SameElse (s.setCore s.who.core k).finish ∧ s.Passed (s.setCore s.who.core k).finish (s.ctx s.who) k := by
  have hcores : ∀ j, j ≠ s.who.core → (s.setCore s.who.core k).coreAt j = s.coreAt j := fun j hj => State.coreAt_setCore_other _ _ _ _ hj
  have hp := State.finish_passed (s := s) (m := s.setCore s.who.core k) rfl rfl rfl (fun _ => rfl) (State.coreAt_setCore_same _ _ _) hcores rfl
  exact ⟨⟨rfl, hp.contexts, hp.cores⟩, hp⟩

theorem State.finish_self (s : State) : s.SameElse s.finish ∧ s.Passed s.finish (s.ctx s.who) (s.coreAt s.who.core) := by
  have hp := State.finish_passed (s := s) (m := s) rfl rfl rfl (fun _ => rfl) rfl (fun _ _ => rfl) rfl
  exact ⟨⟨rfl, hp.contexts, hp.cores⟩, hp⟩

/-! ## Claims (R231, R281) -/

@[simp] theorem State.q_setQ_same (s : State) (core : Nat) {i : Nat} (q : Stream) (hi : i < 8) : (s.setQ core i q).q core i = q := by
  unfold State.q State.setQ
  rw [State.modCore_eq, State.coreAt_setCore_same]
  exact rd_wr_same _ _ _ _ hi

theorem isStream_eq_true {d : Reg} (h : 56 ≤ d.toNat) : isStream d = true := by simpa [isStream] using h
theorem isStream_eq_false {d : Reg} (h : d.toNat < 56) : isStream d = false := by simpa [isStream] using h

theorem qOf_lt (d : Reg) : qOf d < 8 := by unfold qOf; omega

section
variable {s : State} {d : Reg}

theorem State.claims_iff : s.claims d = true ↔ (s.stream s.who.core d).owner = some (s.ctx s.who).run := by
  unfold State.claims
  simp

theorem exec_qclaim_free (hd : 56 ≤ d.toNat) (h : (s.stream s.who.core d).owner = none) : exec (.qclaim d) s =
    .next (s.setQ s.who.core (qOf d) { s.stream s.who.core d with owner := some (s.ctx s.who).run }).finish := by
  change execQclaim d s = _
  unfold execQclaim
  rw [isStream_eq_true hd, h]
  rfl

theorem exec_qclaim_held {o : Nat} (hd : 56 ≤ d.toNat) (h : (s.stream s.who.core d).owner = some o) : exec (.qclaim d) s =
    .next (if o = (s.ctx s.who).run then s.finish else s.block 0) := by
  change execQclaim d s = _
  unfold execQclaim
  rw [isStream_eq_true hd, h]
  simp only [Bool.not_true, Bool.false_eq_true, if_false, beq_iff_eq]
  split <;> rfl

theorem exec_qfree_held (hd : 56 ≤ d.toNat) (h : (s.stream s.who.core d).owner = some (s.ctx s.who).run) :
    exec (.qfree d) s = .next (s.unbinding d false State.finish) := by
  change execQfree d s = _
  unfold execQfree
  rw [isStream_eq_true hd, State.claims_iff.mpr h]
  rfl

theorem exec_stunbind_held (hd : 56 ≤ d.toNat) (h : (s.stream s.who.core d).owner = some (s.ctx s.who).run) :
    exec (.stunbind d) s = .next (s.unbinding d true State.finish) := by
  change execStunbind d s = _
  unfold execStunbind
  rw [isStream_eq_true hd, State.claims_iff.mpr h]
  rfl

/-- A binding that has ended leaves its register at once. -/
theorem State.unbinding_ended (h : (s.stream s.who.core d).bound = false ∨ (s.stream s.who.core d).counted = true) (keep : Bool)
    (f : State → State) : s.unbinding d keep f =
      f (s.setQ s.who.core (qOf d) { owner := if keep then (s.stream s.who.core d).owner else none }) := by
  unfold State.unbinding
  dsimp only
  rw [if_neg]
  · rfl
  · change ¬ ((s.stream s.who.core d).bound && !(s.stream s.who.core d).counted) = true
    rcases h with h | h <;> simp [h]

/-- A binding that has not ended starts its end, and is waited for. -/
theorem State.unbinding_open (hb : (s.stream s.who.core d).bound = true) (hc : (s.stream s.who.core d).counted = false) (keep : Bool)
    (f : State → State) : s.unbinding d keep f = (s.closeStream s.who.core (qOf d)).block 0 := by
  unfold State.unbinding
  dsimp only
  rw [if_pos]
  change ((s.stream s.who.core d).bound && !(s.stream s.who.core d).counted) = true
  rw [hb, hc]
  rfl

end

/-- The start of a binding's end marks the register as closing, and touches no element that has arrived, no context and no byte. -/
theorem State.closeStream_closes (s : State) (core : Nat) {i : Nat} (hi : i < 8) :
    ((s.closeStream core i).q core i).closing = true ∧ ((s.closeStream core i).q core i).buf = (s.q core i).buf ∧
      (s.closeStream core i).ctxs = s.ctxs ∧ (s.closeStream core i).mem = s.mem ∧ (s.closeStream core i).who = s.who := by
  unfold State.closeStream
  dsimp only
  split
  next h => exact ⟨h, rfl, rfl, rfl, rfl⟩
  next =>
    have hq : ∀ (m : State) (q : Stream), ((m.setQ core i q).streamGo core i s.cycle).q core i = q := fun m q => m.q_setQ_same core q hi
    rw [hq]
    exact ⟨rfl, rfl, rfl, rfl, rfl⟩

/-- The first part of O22. -/
theorem State.streamClaims : Claims.StreamClaims := by
  intro s d x k q i
  refine ⟨fun hd ins hins => ?_, fun hd => ⟨fun ho => ?_, fun ho => ?_, fun o ho hne => ?_, fun ho ins hins => ?_, fun ho hb => ⟨?_, ?_⟩,
    fun ho hb hc ins hins => ?_⟩⟩
  · have hs := isStream_eq_false hd
    refine ⟨_, ?_, s.trapHere_trapped _ _⟩
    rcases List.mem_cons.mp hins with rfl | hins
    · change execQclaim d s = _
      unfold execQclaim
      rw [hs]; rfl
    rcases List.mem_cons.mp hins with rfl | hins
    · change execQfree d s = _
      unfold execQfree
      rw [hs]; rfl
    · obtain rfl := List.mem_singleton.mp hins
      change execStunbind d s = _
      unfold execStunbind
      rw [hs]; rfl
  · obtain ⟨hsame, hpass⟩ := s.setCore_finish { k with q := wr k.q i { q with owner := some x.run } }
    exact ⟨_, exec_qclaim_free hd ho, hsame, hpass⟩
  · obtain ⟨hsame, hpass⟩ := s.finish_self
    exact ⟨_, (exec_qclaim_held hd ho).trans (by rw [if_pos rfl]), hsame, hpass⟩
  · exact ⟨_, (exec_qclaim_held hd ho).trans (by rw [if_neg hne]), s.block_waits 0⟩
  · have hc : s.claims d = false := by rw [Bool.eq_false_iff, Ne, State.claims_iff]; exact ho
    refine ⟨_, ?_, s.trapHere_trapped _ _⟩
    rcases List.mem_cons.mp hins with rfl | hins
    · change execQfree d s = _
      unfold execQfree
      rw [isStream_eq_true hd, hc]; rfl
    · obtain rfl := List.mem_singleton.mp hins
      change execStunbind d s = _
      unfold execStunbind
      rw [isStream_eq_true hd, hc]; rfl
  · obtain ⟨hsame, hpass⟩ := s.setCore_finish { k with q := wr k.q i {} }
    exact ⟨_, (exec_qfree_held hd ho).trans (by rw [State.unbinding_ended hb]; rfl), hsame, hpass⟩
  · obtain ⟨hsame, hpass⟩ := s.setCore_finish { k with q := wr k.q i { owner := q.owner } }
    exact ⟨_, (exec_stunbind_held hd ho).trans (by rw [State.unbinding_ended hb]; rfl), hsame, hpass⟩
  · set m := s.closeStream s.who.core (qOf d)
    obtain ⟨hclosing, hbuf, hctxs, hmem, hwho⟩ := s.closeStream_closes s.who.core (qOf_lt d)
    have hexec : exec ins s = .next (m.block 0) := by
      rcases List.mem_cons.mp hins with rfl | hins
      · exact (exec_qfree_held hd ho).trans (by rw [State.unbinding_open hb hc])
      · obtain rfl := List.mem_singleton.mp hins
        exact (exec_stunbind_held hd ho).trans (by rw [State.unbinding_open hb hc])
    have hctx : ∀ c, m.ctx c = s.ctx c := fun c => by unfold State.ctx; rw [hctxs]
    have hx : (m.block 0).ctx m.who = { m.ctx m.who with wait := .blocked 0, blockedOn := none, starting := false } :=
      State.ctx_setCtx_same _ _ _
    rw [hwho, hctx] at hx
    exact ⟨_, hexec, hx, hclosing, hbuf,
      fun c hc => ((m.block_waits 0).contexts c (by rw [hwho]; exact hc)).trans (hctx c), hmem⟩

/-! ## Counts (R229, R231, R345) -/

/-- What a write leaves depends on the operands that are read alone. -/
theorem State.Wrote.of_reads {s t : State} {u v : Uses} {d : Reg} {w pc : Word} (h : s.Wrote t u d w pc) (hr : v.reads = u.reads) :
    s.Wrote t v d w pc := by
  obtain ⟨issued, same, ctxFrame, coreFrame, zero, value, others, m7, streams, bytes, agenda⟩ := h
  exact ⟨issued, same, ctxFrame, coreFrame, zero, value, others, hr ▸ m7, hr ▸ streams, bytes, agenda⟩

theorem State.holds_iff (s : State) (r : Reg) : s.holds r ↔ s.claims r = true ∧ (s.stream s.who.core r).bound = true := by
  rw [State.claims_iff]
  exact and_comm

/-- A code of a stream register passes the checks that need no operand. -/
theorem State.static_code {s : State} {u : Uses} (hn : u.need = 0) (hc : u.codeOk = true) (ho : (55 : Reg) ∉ u.out ++ u.late)
    (hl : ∀ r ∈ u.late, r.toNat < 56) : s.static u = none := by
  unfold State.static
  rw [hn, hc, if_neg (Nat.not_lt_zero _), if_neg]
  simp only [Bool.not_true, Bool.false_or, Bool.or_eq_true, List.any_eq_true, beq_iff_eq, not_or, not_exists, not_and]
  exact ⟨fun r hr h => ho (h ▸ hr), fun r hr => by rw [isStream_eq_false (hl r hr)]; simp⟩

/-- The count of QCNT. -/
def State.arrivals (s : State) (a : Reg) : Nat :=
  let q := s.stream s.who.core a
  if q.outb then (if q.kind = 1 then 16 - rd (s.coreAt s.who.core).nbrOut q.ch 0 else 16 - q.buf.length) else q.buf.length

theorem exec_qcnt {s : State} {d a : Reg} (hr : s.Readable { out := [d], codeOk := decide (56 ≤ a.toNat) }) : exec (.qcnt d a) s =
    .next (if s.claims a = true ∧ (s.stream s.who.core a).bound = true then
      s.compute { out := [d], codeOk := isStream a } fun _ =>
        BitVec.ofNat 64 (s.arrivals a + 256 * min (s.stream s.who.core a).leftOver (2 ^ 56 - 1))
      else s.trapHere 0x0A 0) := by
  have hs : s.static { out := [d], codeOk := isStream a } = none :=
    State.static_code rfl hr.code (by simpa using fun h => hr.notM7 d (by simp) h.symm) (by simp)
  change execQcnt d a s = _
  unfold execQcnt
  dsimp only
  rw [hs, Nat.mul_comm 256]
  dsimp only
  cases hc : s.claims a <;> cases hb : (s.stream s.who.core a).bound <;> simp [State.arrivals]

/-- Takes elements from a stream, and lets its engine go on. -/
def State.skipTake (s : State) (core : Nat) (a : Reg) (p : Nat) : State :=
  let q := s.stream core a
  if p == 0 then s else (s.setQ core (qOf a) { q with buf := q.buf.drop p, done := q.done + p }).streamGo core (qOf a) s.cycle

/-- The elements that QSKIP pops: those that have arrived, of those left. -/
def Stream.skips (q : Stream) (n : Nat) : Nat := min (min n q.leftOver) q.buf.length

/-- What QSKIP does with the elements that have arrived. -/
def State.skip (s : State) (core : Nat) (a : Reg) (n : Nat) : State :=
  let q := s.stream core a
  let m := s.skipTake core a (q.skips n)
  if q.skips n == min n q.leftOver then (m.modCtx m.who fun x => { x with qskip := none }).finish
  else (m.modCtx m.who fun x => { x with qskip := some (min n q.leftOver - q.skips n) }).block 1

section
variable {s : State} {a : Reg} {b : Src}

theorem exec_qskip_wrong (hr : s.Readable { b := some b, codeOk := decide (56 ≤ a.toNat) })
    (h : ¬ s.holds a ∨ (s.stream s.who.core a).outb = true) : exec (.qskip a b) s = .next (s.trapHere 0x0A 0) := by
  have hs : s.static { b := some b, codeOk := isStream a } = none := State.static_code rfl hr.code (by simp) (by simp)
  have hcond : (!s.claims a || !(s.stream s.who.core a).bound || (s.stream s.who.core a).outb) = true := by
    rw [State.holds_iff] at h
    cases hc : s.claims a <;> cases hb : (s.stream s.who.core a).bound <;> simp_all
  change execQskip a b s = _
  unfold execQskip
  dsimp only
  rw [hs]
  dsimp only
  rw [if_pos hcond]

section
variable (h : s.holds a) (ho : (s.stream s.who.core a).outb = false)
include h ho

/-- A QSKIP that has waited goes on. -/
theorem exec_qskip_more (ha : 56 ≤ a.toNat) {n : Nat} (hq : (s.ctx s.who).qskip = some n) : exec (.qskip a b) s = .next (s.skip s.who.core a n) := by
  have hs : s.static { b := some b, codeOk := isStream a } = none :=
    State.static_code rfl (isStream_eq_true ha) (by simp) (by simp)
  obtain ⟨hc, hb⟩ := (s.holds_iff a).mp h
  change execQskip a b s = _
  unfold execQskip
  dsimp only
  rw [hs]
  dsimp only
  rw [if_neg (by simp [hc, hb, ho]), hq]
  rfl

/-- A QSKIP whose count can be read skips that many elements. -/
theorem exec_qskip_first {u : Uses} (hu : u = { b := some b, codeOk := decide (56 ≤ a.toNat) }) (hr : s.Readable u)
    (hq : (s.ctx s.who).qskip = none) : exec (.qskip a b) s = .next ((s.commit u).skip s.who.core a (s.vals u).b.toNat) := by
  have hs : s.static u = none := State.static_code (by rw [hu]) hr.code (by simp [hu]) (by simp [hu])
  obtain ⟨hc, hb⟩ := (s.holds_iff a).mp h
  change execQskip a b s = _
  unfold execQskip
  dsimp only
  rw [show ({ b := some b, codeOk := isStream a } : Uses) = u from hu.symm, hs]
  dsimp only
  rw [if_neg (by simp [hc, hb, ho]), hq]
  dsimp only
  rw [hr.peek]
  rfl

end

theorem State.skipTake_takes (s : State) (core : Nat) (a : Reg) (p : Nat) :
    (s.skipTake core a p).stream core a =
      { s.stream core a with buf := (s.stream core a).buf.drop p, done := (s.stream core a).done + p } ∧
    (∀ c, (s.skipTake core a p).ctx c = s.ctx c) ∧ (s.skipTake core a p).mem = s.mem ∧ (s.skipTake core a p).who = s.who ∧
    (s.skipTake core a p).cycle = s.cycle ∧ (s.skipTake core a p).word = s.word := by
  unfold State.skipTake
  dsimp only
  split
  next h =>
    obtain rfl : p = 0 := by simpa using h
    exact ⟨rfl, fun _ => rfl, rfl, rfl, rfl, rfl⟩
  next => exact ⟨State.q_setQ_same s core _ (qOf_lt a), fun _ => rfl, rfl, rfl, rfl, rfl⟩

/-- Reading takes from a stream the elements that are read. -/
theorem State.commit_stream (s : State) (u : Uses) {r : Reg} (hr : 56 ≤ r.toNat) :
    (s.commit u).stream s.who.core r = (s.stream s.who.core r).popped (countReads u.reads r) := by
  obtain ⟨q, he, hq⟩ := (s.commit_took u).core
  have hcode : BitVec.ofNat 6 (56 + (r.toNat - 56)) = r := by
    rw [show 56 + (r.toNat - 56) = r.toNat by omega, BitVec.ofNat_toNat, BitVec.setWidth_eq]
  have hread := hq (r.toNat - 56) (by omega)
  rw [hcode] at hread
  unfold State.stream
  rw [he]
  exact hread

/-- What a QSKIP leaves: the elements popped, and an issue or a wait for the rest. -/
theorem State.skip_skips (s : State) (core : Nat) (a : Reg) (n : Nat) :
    let q := s.stream core a
    let m := min n q.leftOver
    let t := s.skip core a n
    (t.stream core a).buf = q.buf.drop (q.skips n) ∧ (t.stream core a).done = q.done + q.skips n ∧
      (∀ d : CtxId, d.key ≠ s.who.key → t.ctx d = s.ctx d) ∧ t.mem = s.mem ∧
      (q.skips n = m → t.ctx s.who = ({ s.ctx s.who with qskip := none } : Ctx).issued s.cycle s.word ((s.ctx s.who).pc + 8)) ∧
      (q.skips n ≠ m →
        t.ctx s.who = { s.ctx s.who with wait := .blocked 1, blockedOn := none, starting := false, qskip := some (m - q.skips n) }) := by
  intro q m t
  obtain ⟨hq, hctx, hmem, hwho, hcycle, hword⟩ := s.skipTake_takes core a (q.skips n)
  have ht : t = if q.skips n == m then ((s.skipTake core a (q.skips n)).modCtx (s.skipTake core a (q.skips n)).who fun x => { x with qskip := none }).finish
      else ((s.skipTake core a (q.skips n)).modCtx (s.skipTake core a (q.skips n)).who fun x => { x with qskip := some (m - q.skips n) }).block 1 := rfl
  set r := s.skipTake core a (q.skips n)
  clear_value t r
  have hset : ∀ (f : Ctx → Ctx), (r.modCtx r.who f).ctx s.who = f (s.ctx s.who) := fun f => by
    rw [hwho, State.modCtx_eq, State.ctx_setCtx_same, hctx]
  have hother : ∀ (f : Ctx → Ctx) (d : CtxId), d.key ≠ s.who.key → (r.modCtx r.who f).ctx d = s.ctx d := fun f d hd => by
    rw [hwho, State.modCtx_eq, State.ctx_setCtx_other _ _ _ _ hd, hctx]
  by_cases h : q.skips n = m
  · rw [if_pos (by simpa using h)] at ht
    subst ht
    refine ⟨congrArg Stream.buf hq, congrArg Stream.done hq, fun d hd => ?_, hmem, fun _ => ?_, fun h' => absurd h h'⟩
    · exact (State.ctx_setCtx_other _ _ _ _ (by rw [← hwho] at hd; exact hd)).trans (hother _ d hd)
    · have hx : ((r.modCtx r.who fun x => { x with qskip := none }).finish).ctx r.who =
          ((r.modCtx r.who fun x => { x with qskip := none }).ctx r.who).issued r.cycle r.word
            (((r.modCtx r.who fun x => { x with qskip := none }).ctx r.who).pc + 8) := State.endAt_ctx _ _
      rw [hwho] at hx hset
      rw [hset, hcycle, hword] at hx
      rw [hwho]
      exact hx
  · rw [if_neg (by simpa using h)] at ht
    subst ht
    refine ⟨congrArg Stream.buf hq, congrArg Stream.done hq, fun d hd => ?_, hmem, fun h' => absurd h' h, fun _ => ?_⟩
    · exact (State.ctx_setCtx_other _ _ _ _ (by rw [← hwho] at hd; exact hd)).trans (hother _ d hd)
    · have hx : ((r.modCtx r.who fun x => { x with qskip := some (m - q.skips n) }).block 1).ctx r.who =
          { (r.modCtx r.who fun x => { x with qskip := some (m - q.skips n) }).ctx r.who with
            wait := .blocked 1, blockedOn := none, starting := false } := State.ctx_setCtx_same _ _ _
      rw [hwho] at hx hset
      rw [hset] at hx
      rw [hwho]
      exact hx

end

/-- The second part of O22. -/
theorem State.streamCounts : Claims.StreamCounts := by
  intro s a x k q
  refine ⟨fun d hr => ⟨fun h => ?_, fun h => ?_⟩, fun b => ?_⟩
  · refine ⟨_, (exec_qcnt hr).trans (by rw [if_pos ((s.holds_iff a).mp h)]), ?_⟩
    exact (s.compute_wrote { out := [d], codeOk := isStream a } (fun _ => _) d hr rfl).of_reads rfl
  · exact ⟨_, (exec_qcnt hr).trans (by rw [if_neg fun h' => h ((s.holds_iff a).mpr h')]), s.trapHere_trapped _ _⟩
  · intro u e
    refine ⟨fun hr h => ⟨_, exec_qskip_wrong hr h, s.trapHere_trapped _ _⟩, fun n c ha h ho hfrom => ?_⟩
    intro m p
    -- the state whose stream is skipped: the one after the count has been read
    obtain ⟨r, hexec, hq, hctx, hmem, hwho, hcycle, hword⟩ : ∃ r : State, exec (.qskip a b) s = .next (r.skip s.who.core a n) ∧
        r.stream s.who.core a = q.popped c ∧ (∀ d, r.ctx d = s.ctx d) ∧ r.mem = s.mem ∧ r.who = s.who ∧ r.cycle = s.cycle ∧
        r.word = s.word := by
      rcases hfrom with ⟨hnone, hr, rfl, rfl⟩ | ⟨hsome, rfl⟩
      · have htook := s.commit_took u
        refine ⟨s.commit u, exec_qskip_first h ho rfl hr hnone, ?_, htook.ctx, htook.mem, htook.who, htook.cycle, htook.word⟩
        exact s.commit_stream u ha
      · exact ⟨s, exec_qskip_more h ho ha hsome, rfl, fun _ => rfl, rfl, rfl, rfl, rfl⟩
    have hleft : (q.popped c).leftOver = q.leftOver - c := Nat.sub_add_eq _ _ _
    have hlen : (q.popped c).buf.length = q.buf.length - c := List.length_drop
    have hskips : (q.popped c).skips n = p := by unfold Stream.skips; rw [hleft, hlen]
    obtain ⟨hbuf, hdone, hother, hbytes, hend, hwait⟩ := r.skip_skips s.who.core a n
    rw [hq, hskips] at hbuf hdone hend hwait
    rw [hleft] at hend hwait
    rw [hwho] at hother hend hwait
    rw [hctx] at hend hwait
    refine ⟨_, hexec, ?_, ?_, fun d hd => (hother d hd).trans (hctx d), hbytes.trans hmem, ?_, fun hp => ?_, fun hp => hwait hp⟩
    · rw [hbuf]
      exact List.drop_drop
    · rw [hdone]
      rfl
    · by_cases hp : p = m
      · rw [hend hp]; rfl
      · rw [hwait hp]
    · have hx := hend hp
      rw [hcycle, hword] at hx
      exact ⟨⟨by rw [hx]; rfl, by rw [hx]; rfl, by rw [hx]; rfl, by rw [hx]; rfl⟩, by rw [hx]; rfl⟩

/-! ## Mailboxes (R72, R74, R232) -/

theorem sb_sb_same {n : Nat} (x : BitVec n) (i : Nat) (a b : Bool) : sb (sb x i a) i b = sb x i b := by
  refine BitVec.eq_of_getLsbD_eq fun j hj => ?_
  change tb (sb (sb x i a) i b) j = tb (sb x i b) j
  rw [tb_sb _ _ _ _ hj, tb_sb _ _ _ _ hj, tb_sb _ _ _ _ hj]
  split <;> rfl

/-- A mailbox that is emptied, unless a notice waits for it in m7. -/
theorem Core.takeM_quiet {k : Core} {i : Nat} (h : i ≠ 7 ∨ k.m7q = []) : k.takeM i = { k with mFull := sb k.mFull i false } := by
  unfold Core.takeM
  dsimp only
  split
  next h7 =>
    obtain h | h := h
    · exact absurd (by simpa using h7) h
    · rw [h]
  next => rfl

/-- m7 takes the next notice that waits for it. -/
theorem Core.takeM_notice {k : Core} {w : Word} {r : List Word} (h : k.m7q = w :: r) : k.takeM 7 =
    { k with m7q := r, m := wr k.m 7 w, mFull := sb k.mFull 7 true, mPend := sb k.mPend 7 false } := by
  unfold Core.takeM Core.setM
  rw [if_pos (by simp)]
  dsimp only
  rw [h]
  dsimp only
  rw [sb_sb_same]

theorem isMbox_iff {m : Reg} : isMbox m = true ↔ 48 ≤ m.toNat ∧ m.toNat < 56 := by
  unfold isMbox
  simp

theorem exec_mclr_mailbox (s : State) {m : Reg} (h : isMbox m = true) :
    exec (.mclr m) s = .next (s.setCore s.who.core ((s.coreAt s.who.core).takeM (m.toNat - 48))).finish := by
  change execMclr m s = _
  unfold execMclr
  rw [h]
  rfl

theorem exec_mclr_other (s : State) {m : Reg} (h : isMbox m = false) : exec (.mclr m) s = .next (s.trapHere 0x05 0) := by
  change execMclr m s = _
  unfold execMclr
  rw [h]
  rfl

theorem exec_mpoll_other (s : State) {d m : Reg} (h : isMbox m = false) : exec (.mpoll d m) s = .next (s.trapHere 0x05 0) := by
  change execMpoll d m s = _
  unfold execMpoll
  dsimp only
  rw [State.peek_code (Nat.zero_le _) (.inl h)]

theorem exec_mpoll_mailbox {s : State} {d m : Reg} (h : isMbox m = true) (hr : s.Readable { out := [d] }) : exec (.mpoll d m) s =
    .next (if tb (s.coreAt s.who.core).mFull (m.toNat - 48) = true then
      ((s.setCore s.who.core ((s.coreAt s.who.core).takeM (m.toNat - 48))).setReg d (rd (s.coreAt s.who.core).m (m.toNat - 48) 0)).finish
      else (s.setReg d 0).finish) := by
  change execMpoll d m s = _
  unfold execMpoll
  dsimp only
  rw [h, show s.peek { out := [d], codeOk := true } = _ from hr.peek]
  dsimp only
  split <;> rfl

/-- A write to a scalar register that reads nothing. -/
theorem State.setReg_wrote (s : State) {d : Reg} (h : d ≠ 55) (w : Word) :
    s.Wrote (s.setReg d w).finish { out := [d] } d w ((s.ctx s.who).pc + 8) := by
  have hw := s.wrote { out := [d] } d w ((s.ctx s.who).pc + 8) h
  have hpc := s.setReg_commit_pc { out := [d] } d w
  rw [s.commit_none { out := [d] } rfl] at hw hpc
  unfold State.finish
  rw [hpc]
  exact hw

/-- The third part of O22. -/
theorem State.mailboxResults : Claims.MailboxResults := by
  intro s m k i emptied
  have hemptied : k.takeM i = emptied := by
    unfold emptied
    split
    next w r hq =>
      split
      next h7 => rw [h7]; exact Core.takeM_notice hq
      next h7 => exact Core.takeM_quiet (.inl h7)
    next hq => exact Core.takeM_quiet (.inr hq)
  refine ⟨fun h48 h56 => ⟨?_, fun d hr => ⟨fun hf => ?_, fun hf => ?_⟩⟩, fun hm => ⟨?_, fun d => ?_⟩⟩
  · obtain ⟨hsame, hpass⟩ := s.setCore_finish emptied
    exact ⟨_, (exec_mclr_mailbox s (isMbox_iff.mpr ⟨h48, h56⟩)).trans (by rw [← hemptied]), hsame, hpass⟩
  · refine ⟨_, (exec_mpoll_mailbox (isMbox_iff.mpr ⟨h48, h56⟩) hr).trans (by rw [if_pos hf]), ?_⟩
    have hw := (s.setCore s.who.core emptied).setReg_wrote (hr.notM7 d (by simp)) (rd k.m i 0)
    rw [← hemptied] at hw ⊢
    exact hw
  · exact ⟨_, (exec_mpoll_mailbox (isMbox_iff.mpr ⟨h48, h56⟩) hr).trans (by rw [if_neg (by rw [hf]; simp)]),
      s.setReg_wrote (hr.notM7 d (by simp)) 0⟩
  all_goals
    have hno : isMbox m = false := by rw [Bool.eq_false_iff, Ne, isMbox_iff]; omega
  · exact ⟨_, exec_mclr_other s hno, s.trapHere_trapped _ _⟩
  · exact ⟨_, exec_mpoll_other s hno, s.trapHere_trapped _ _⟩

/-- Settles O22: claims, counts and mailboxes. -/
theorem streamRegisters : Obligations.StreamRegisters := ⟨State.streamClaims, State.streamCounts, State.mailboxResults⟩

end Sys2Proof.Machine
end

section
/-! Control registers (O41). -/

namespace Sys2Proof.Machine

/-! ## The control registers of a context, as one record (R80) -/

/-- What the control registers of a context hold. -/
structure Csrs where
  status : Word
  wid : Word
  waitLimit : Word
  shape : Vector Word 4
  scale : Vector Word 4
  dctl : Word
  dout : Word
  drowp : Word
  dcolp : Word
  rng : Word
  weight : Word
  dead : Vector Word 4
  replay : Word
  result : Nat → Word
  cfg : Nat → Word
  rows : Nat → Word
  cols : Nat → Word
  here : Nat → Word
  rate : Word
  node : Word
  inbox : Word
  free : Word
  passes : Word
  held : Word
  place : Word
  notice : Word
  ring : Word
  drop : Word
  rect : Vector Word 16
  ptb : Vector Word 16
  net : Word
  watchLo : Vector Word 8
  watchHi : Vector Word 8
  kick : Nat → Word

/-- The configuration of a route tag as its register reads. -/
def State.tagCfg (s : State) (die i : Nat) : Word :=
  let t := rd (s.die die).tags i {}
  (t.pend.getD t.cfg &&& 0xFFFFFFFFFFC00000) ||| BitVec.ofNat 64 (b2n (s.tagOn die i).gen * 2 ^ 21)

/-- The control registers of a context. -/
def State.csrs (s : State) (c : CtxId) : Csrs :=
  let k := s.coreAt c.core
  let die := dieOf c.core
  let d := s.die die
  let o := s.octet (octetOf c.core)
  { status := s.statusOf c, wid := (s.ctx c).wid, waitLimit := (s.ctx c).waitLimit.setWidth 64
    shape := k.shape, scale := k.scale, dctl := k.dctl, dout := k.dout, drowp := k.drowp, dcolp := k.dcolp
    rng := k.rng.setWidth 64, weight := k.weight.setWidth 64, dead := k.dead
    replay := o.replayLimit.setWidth 64, result := fun i => (rd o.mxu.slots i {}).rst
    cfg := s.tagCfg die, rows := fun i => s.tagLines die i true, cols := fun i => s.tagLines die i false, here := s.tagHere c.core
    rate := d.rate, node := d.node, inbox := d.inbox, free := BitVec.ofNat 64 d.freeSlots
    passes := BitVec.ofNat 64 d.passCount, held := s.passHeld (octetOf c.core), place := BitVec.ofNat 64 d.staffPlace
    notice := d.staffNotice, ring := d.staffRing, drop := BitVec.ofNat 64 d.staffDrop
    rect := s.partRect, ptb := s.partPtb, net := s.netTable, watchLo := d.watchLo, watchHi := d.watchHi
    kick := fun i => BitVec.ofNat 64 (b2n (s.tagOn die i).forced * 2 ^ 8) }

/-- The register of a number. -/
def Csrs.read (r : Csrs) (n : Nat) : Option Word :=
  if n == 0x000 then some r.status
  else if n == 0x001 then some r.wid
  else if n == 0x002 then some r.waitLimit
  else if 0x010 ≤ n && n < 0x014 then some (rd r.shape (n - 0x010) 0)
  else if 0x014 ≤ n && n < 0x018 then some (rd r.scale (n - 0x014) 0)
  else if n == 0x020 then some r.dctl
  else if n == 0x021 then some r.dout
  else if n == 0x022 then some r.drowp
  else if n == 0x023 then some r.dcolp
  else if n == 0x028 then some r.rng
  else if n == 0x029 then some r.weight
  else if 0x030 ≤ n && n < 0x034 then some (rd r.dead (n - 0x030) 0)
  else if n == 0x040 then some r.replay
  else if 0x044 ≤ n && n < 0x048 then some (r.result (n - 0x044))
  else if 0x100 ≤ n && n < 0x108 then some (r.cfg (n - 0x100))
  else if 0x108 ≤ n && n < 0x110 then some (r.rows (n - 0x108))
  else if 0x110 ≤ n && n < 0x118 then some (r.cols (n - 0x110))
  else if 0x118 ≤ n && n < 0x120 then some (r.here (n - 0x118))
  else if n == 0x120 then some r.rate
  else if n == 0x121 then some r.node
  else if n == 0x122 then some r.inbox
  else if n == 0x123 then some r.free
  else if n == 0x130 then some r.passes
  else if n == 0x131 then some r.held
  else if n == 0x132 then some r.place
  else if n == 0x133 then some r.notice
  else if n == 0x134 then some r.ring
  else if n == 0x135 then some r.drop
  else if 0x140 ≤ n && n < 0x150 then some (rd r.rect (n - 0x140) 0)
  else if 0x150 ≤ n && n < 0x160 then some (rd r.ptb (n - 0x150) 0)
  else if n == 0x160 then some r.net
  else if 0x170 ≤ n && n < 0x178 then some (rd r.watchLo (n - 0x170) 0)
  else if 0x178 ≤ n && n < 0x180 then some (rd r.watchHi (n - 0x178) 0)
  else if 0x188 ≤ n && n < 0x190 then some (r.kick (n - 0x188))
  else none

theorem State.csrRead_eq (s : State) (c : CtxId) (n : Nat) : s.csrRead c n = (s.csrs c).read n := by
  unfold State.csrRead Csrs.read
  dsimp only [State.csrs, State.tagCfg]

theorem ite_some_eq_none_iff {α : Type} {p : Prop} [Decidable p] {a : α} {e : Option α} :
    (if p then some a else e) = none ↔ ¬ p ∧ e = none := by
  split <;> simp_all

/-- The absent numbers are those that read as no register. -/
theorem State.csrRead_eq_none_iff (s : State) (c : CtxId) (n : Nat) : s.csrRead c n = none ↔ Spec.absent n := by
  unfold State.csrRead Spec.absent
  simp only [ite_some_eq_none_iff, beq_iff_eq, Bool.and_eq_true, decide_eq_true_eq, and_true]
  omega

section
variable (r : Csrs) {i : Nat}

theorem Csrs.read_shape (h : i < 4) : r.read (0x010 + i) = some (rd r.shape i 0) := by interval_cases i <;> rfl
theorem Csrs.read_scale (h : i < 4) : r.read (0x014 + i) = some (rd r.scale i 0) := by interval_cases i <;> rfl
theorem Csrs.read_dead (h : i < 4) : r.read (0x030 + i) = some (rd r.dead i 0) := by interval_cases i <;> rfl
theorem Csrs.read_result (h : i < 4) : r.read (0x044 + i) = some (r.result i) := by interval_cases i <;> rfl
theorem Csrs.read_rect (h : i < 16) : r.read (0x140 + i) = some (rd r.rect i 0) := by interval_cases i <;> rfl
theorem Csrs.read_ptb (h : i < 16) : r.read (0x150 + i) = some (rd r.ptb i 0) := by interval_cases i <;> rfl
theorem Csrs.read_watchLo (h : i < 8) : r.read (0x170 + i) = some (rd r.watchLo i 0) := by interval_cases i <;> rfl
theorem Csrs.read_watchHi (h : i < 8) : r.read (0x178 + i) = some (rd r.watchHi i 0) := by interval_cases i <;> rfl

end

/-- A bank of registers of which one is replaced, read at another number. -/
theorem ite_rd_wr_other {k : Nat} (v : Vector Word k) (w : Word) {n i j : Nat} (h : j ≠ n + i) (e : Option Word) (m : Nat) :
    (if (n ≤ j && j < m : Bool) then some (rd (wr v i w) (j - n) 0) else e) = if (n ≤ j && j < m : Bool) then some (rd v (j - n) 0) else e := by
  split
  next hj =>
    rw [Bool.and_eq_true, decide_eq_true_eq, decide_eq_true_eq] at hj
    rw [rd_wr_other _ _ _ _ _ (by omega)]
  next => rfl

section
variable (r : Csrs) {i j : Nat} (w : Word)

theorem Csrs.read_shape_other (h : j ≠ 0x010 + i) : ({ r with shape := wr r.shape i w } : Csrs).read j = r.read j := by
  unfold Csrs.read
  rw [ite_rd_wr_other _ _ h]

theorem Csrs.read_scale_other (h : j ≠ 0x014 + i) : ({ r with scale := wr r.scale i w } : Csrs).read j = r.read j := by
  unfold Csrs.read
  rw [ite_rd_wr_other _ _ h]

theorem Csrs.read_dead_other (h : j ≠ 0x030 + i) : ({ r with dead := wr r.dead i w } : Csrs).read j = r.read j := by
  unfold Csrs.read
  rw [ite_rd_wr_other _ _ h]

theorem Csrs.read_ptb_other (h : j ≠ 0x150 + i) : ({ r with ptb := wr r.ptb i w } : Csrs).read j = r.read j := by
  unfold Csrs.read
  rw [ite_rd_wr_other _ _ h]

theorem Csrs.read_watchLo_other (h : j ≠ 0x170 + i) : ({ r with watchLo := wr r.watchLo i w } : Csrs).read j = r.read j := by
  unfold Csrs.read
  rw [ite_rd_wr_other _ _ h]

theorem Csrs.read_watchHi_other (h : j ≠ 0x178 + i) : ({ r with watchHi := wr r.watchHi i w } : Csrs).read j = r.read j := by
  unfold Csrs.read
  rw [ite_rd_wr_other _ _ h]

theorem Csrs.read_waitLimit_other (h : j ≠ 0x002) : ({ r with waitLimit := w } : Csrs).read j = r.read j := by
  unfold Csrs.read
  rw [beq_false_of_ne h]
  rfl

theorem Csrs.read_dout_other (h : j ≠ 0x021) : ({ r with dout := w } : Csrs).read j = r.read j := by
  unfold Csrs.read
  rw [beq_false_of_ne h]
  rfl

theorem Csrs.read_drowp_other (h : j ≠ 0x022) : ({ r with drowp := w } : Csrs).read j = r.read j := by
  unfold Csrs.read
  rw [beq_false_of_ne h]
  rfl

theorem Csrs.read_dcolp_other (h : j ≠ 0x023) : ({ r with dcolp := w } : Csrs).read j = r.read j := by
  unfold Csrs.read
  rw [beq_false_of_ne h]
  rfl

theorem Csrs.read_replay_other (h : j ≠ 0x040) : ({ r with replay := w } : Csrs).read j = r.read j := by
  unfold Csrs.read
  rw [beq_false_of_ne h]
  rfl

theorem Csrs.read_node_other (h : j ≠ 0x121) : ({ r with node := w } : Csrs).read j = r.read j := by
  unfold Csrs.read
  rw [beq_false_of_ne h]
  rfl

theorem Csrs.read_inbox_other (h : j ≠ 0x122) : ({ r with inbox := w } : Csrs).read j = r.read j := by
  unfold Csrs.read
  rw [beq_false_of_ne h]
  rfl

theorem Csrs.read_notice_other (h : j ≠ 0x133) : ({ r with notice := w } : Csrs).read j = r.read j := by
  unfold Csrs.read
  rw [beq_false_of_ne h]
  rfl

theorem Csrs.read_net_other (h : j ≠ 0x160) : ({ r with net := w } : Csrs).read j = r.read j := by
  unfold Csrs.read
  rw [beq_false_of_ne h]
  rfl

end

/-! ## What the registers depend on -/

theorem State.isStaffCore_setDie {s : State} {e : Nat} {d : Die} (h : d.staffPlace = (s.die e).staffPlace) (core : Nat) :
    (s.setDie e d).isStaffCore core = s.isStaffCore core := by
  unfold State.isStaffCore
  by_cases he : dieOf core = e
  · rw [he, State.die_setDie_same, h]
  · rw [State.die_setDie_other _ _ _ _ he]

section
variable {s : State} {e : Nat} {d : Die} (h : d.tags = (s.die e).tags)
include h

theorem State.tags_setDie (f : Nat) : ((s.setDie e d).die f).tags = (s.die f).tags := by
  by_cases he : f = e
  · rw [he, State.die_setDie_same, h]
  · rw [State.die_setDie_other _ _ _ _ he]

theorem State.tagOn_setDie (f n : Nat) : (s.setDie e d).tagOn f n = s.tagOn f n := by
  unfold State.tagOn State.tagDie
  rw [State.tags_setDie h, State.tags_setDie h]

theorem State.tagLines_setDie (f n : Nat) (rows : Bool) : (s.setDie e d).tagLines f n rows = s.tagLines f n rows := by
  unfold State.tagLines State.tagDie
  rw [State.tagOn_setDie h, State.tags_setDie h]

theorem State.tagHere_setDie (core n : Nat) : (s.setDie e d).tagHere core n = s.tagHere core n := by
  unfold State.tagHere
  rw [State.tagOn_setDie h]

theorem State.tagCfg_setDie (f n : Nat) : (s.setDie e d).tagCfg f n = s.tagCfg f n := by
  unfold State.tagCfg
  rw [State.tagOn_setDie h, State.tags_setDie h]

end

/-- The control registers after a change of the die that touches neither its tags nor its staff. -/
theorem State.csrs_setDie {s : State} {c : CtxId} {d : Die} (ht : d.tags = (s.die (dieOf c.core)).tags)
    (hp : d.staffPlace = (s.die (dieOf c.core)).staffPlace) : (s.setDie (dieOf c.core) d).csrs c =
      { s.csrs c with
        rate := d.rate, node := d.node, inbox := d.inbox, free := BitVec.ofNat 64 d.freeSlots, passes := BitVec.ofNat 64 d.passCount
        notice := d.staffNotice, ring := d.staffRing, drop := BitVec.ofNat 64 d.staffDrop, watchLo := d.watchLo, watchHi := d.watchHi } := by
  have hstatus : (s.setDie (dieOf c.core) d).statusOf c = s.statusOf c := by
    unfold State.statusOf State.priv
    rw [State.isStaffCore_setDie hp]
    rfl
  unfold State.csrs
  simp only [hstatus, State.die_setDie_same, State.tagOn_setDie ht, State.tagLines_setDie ht, hp]
  rw [funext (State.tagCfg_setDie ht _), funext (State.tagHere_setDie ht _)]
  rfl

theorem State.csrs_setCore (s : State) (c : CtxId) (k : Core) : (s.setCore c.core k).csrs c =
    { s.csrs c with
      shape := k.shape, scale := k.scale, dctl := k.dctl, dout := k.dout, drowp := k.drowp, dcolp := k.dcolp
      rng := k.rng.setWidth 64, weight := k.weight.setWidth 64, dead := k.dead } := by
  unfold State.csrs
  rw [State.coreAt_setCore_same]
  rfl

theorem State.csrs_setOctet (s : State) (c : CtxId) (o : Octet) : (s.setOctet (octetOf c.core) o).csrs c =
    { s.csrs c with
      replay := o.replayLimit.setWidth 64, result := fun i => (rd o.mxu.slots i {}).rst
      held := (match o.pass with
        | some t => BitVec.ofNat 64 (2 ^ 13 + min 8191 (s.cycle - t))
        | none => 0) } := by
  unfold State.csrs State.passHeld
  rw [State.octet_setOctet_same]
  rfl

theorem State.csrs_setCtx {s : State} {c : CtxId} {x : Ctx} (h : (s.setCtx c x).statusOf c = s.statusOf c) :
    (s.setCtx c x).csrs c = { s.csrs c with wid := x.wid, waitLimit := x.waitLimit.setWidth 64 } := by
  unfold State.csrs
  rw [h, State.ctx_setCtx_same]
  rfl

theorem State.statusOf_setCtx {s : State} {c : CtxId} {x : Ctx} (h : x.prio = (s.ctx c).prio ∧ x.rm = (s.ctx c).rm ∧
    x.ctxz = (s.ctx c).ctxz ∧ x.flags = (s.ctx c).flags ∧ x.net = (s.ctx c).net) : (s.setCtx c x).statusOf c = s.statusOf c := by
  obtain ⟨h1, h2, h3, h4, h5⟩ := h
  unfold State.statusOf
  dsimp only
  rw [State.ctx_setCtx_same, h1, h2, h3, h4, h5]
  rfl

/-- The end of an issue leaves the control registers as they are. -/
theorem State.csrs_finish (m : State) : m.finish.csrs m.who = m.csrs m.who := by
  exact (State.csrs_setCtx (x := (m.ctx m.who).issued m.cycle m.word ((m.ctx m.who).pc + 8))
    (State.statusOf_setCtx ⟨rfl, rfl, rfl, rfl, rfl⟩)).trans rfl

/-- Reading operands leaves the control registers as they are. -/
theorem State.csrs_commit (s : State) (u : Uses) : (s.commit u).csrs s.who = s.csrs s.who := by
  have htook := s.commit_took u
  obtain ⟨-, hframe, -, -⟩ := htook.regs
  obtain ⟨cores, agenda, seq, he⟩ : ∃ cores agenda seq, s.commit u = { s with cores := cores, agenda := agenda, seq := seq } :=
    ⟨_, _, _, htook.device⟩
  rw [he] at hframe ⊢
  unfold State.csrs
  rw [hframe]
  rfl

/-! ## Writes that a register keeps -/

/-- `t` is `m` with a control register of the issuing context replaced: no other register reads otherwise, and no scalar register,
mailbox, other context, other core or byte changes. -/
structure State.Stores (m t : State) (n : Nat) (w : Word) : Prop where
  who : t.who = m.who
  cycle : t.cycle = m.cycle
  word : t.word = m.word
  mem : t.mem = m.mem
  contexts : ∀ c : CtxId, c.key ≠ m.who.key → t.ctx c = m.ctx c
  ctx : ∃ limit, t.ctx m.who = { m.ctx m.who with waitLimit := limit }
  files : (m.coreAt m.who.core).SameRegs (t.coreAt m.who.core)
  cores : ∀ j, j ≠ m.who.core → t.coreAt j = m.coreAt j
  value : t.csrRead m.who n = some w
  rest : ∀ j, j ≠ n → t.csrRead m.who j = m.csrRead m.who j

theorem Core.SameRegs.refl (k : Core) : k.SameRegs k := ⟨rfl, rfl, rfl, fun _ _ => rfl, fun _ _ => rfl, fun _ _ => rfl⟩

section
variable {m t : State} {n : Nat} {w : Word}

theorem State.stores_setCore (k : Core) (ht : t = m.setCore m.who.core k)
    (hk : k = { m.coreAt m.who.core with shape := k.shape, scale := k.scale, dout := k.dout, drowp := k.drowp, dcolp := k.dcolp
                                         dead := k.dead })
    (value : ((m.setCore m.who.core k).csrs m.who).read n = some w)
    (rest : ∀ j, j ≠ n → ((m.setCore m.who.core k).csrs m.who).read j = (m.csrs m.who).read j) : m.Stores t n w := by
  subst ht
  refine ⟨rfl, rfl, rfl, rfl, fun _ _ => rfl, ⟨_, rfl⟩, ?_, fun j hj => State.coreAt_setCore_other _ _ _ _ hj, value, rest⟩
  rw [State.coreAt_setCore_same, hk]
  exact ⟨rfl, rfl, rfl, fun _ _ => rfl, fun _ _ => rfl, fun _ _ => rfl⟩

theorem State.stores_setDie (d : Die) (ht : t = m.setDie (dieOf m.who.core) d)
    (value : ((m.setDie (dieOf m.who.core) d).csrs m.who).read n = some w)
    (rest : ∀ j, j ≠ n → ((m.setDie (dieOf m.who.core) d).csrs m.who).read j = (m.csrs m.who).read j) : m.Stores t n w := by
  subst ht
  exact ⟨rfl, rfl, rfl, rfl, fun _ _ => rfl, ⟨_, rfl⟩, .refl _, fun _ _ => rfl, value, rest⟩

end

theorem setWidth_setWidth_mask32 (v : Word) : (v.setWidth 32).setWidth 64 = v &&& 0xFFFFFFFF := by
  apply BitVec.eq_of_toNat_eq
  rw [BitVec.toNat_and, BitVec.toNat_setWidth, BitVec.toNat_setWidth, show (0xFFFFFFFF : Word).toNat = 2 ^ 32 - 1 from rfl,
    Nat.and_two_pow_sub_one_eq_mod]
  omega

theorem setWidth_setWidth_mask4 (v : Word) : (v.setWidth 4).setWidth 64 = v &&& 0xF := by
  apply BitVec.eq_of_toNat_eq
  rw [BitVec.toNat_and, BitVec.toNat_setWidth, BitVec.toNat_setWidth, show (0xF : Word).toNat = 2 ^ 4 - 1 from rfl,
    Nat.and_two_pow_sub_one_eq_mod]
  omega

theorem State.stores_waitLimit (m : State) (v : Word) : m.Stores (m.csrWrite 0x002 v) 0x002 (v &&& 0xFFFFFFFF) := by
  have hcsrs : (m.setCtx m.who { m.ctx m.who with waitLimit := v.setWidth 32 }).csrs m.who =
      { m.csrs m.who with waitLimit := (v.setWidth 32).setWidth 64 } := State.csrs_setCtx (State.statusOf_setCtx ⟨rfl, rfl, rfl, rfl, rfl⟩)
  refine ⟨rfl, rfl, rfl, rfl, fun c hc => State.ctx_setCtx_other _ _ _ _ hc, ?_, .refl _, fun _ _ => rfl, ?_, fun j hj => ?_⟩
  · exact ⟨_, State.ctx_setCtx_same _ _ _⟩
  · change ((m.setCtx m.who { m.ctx m.who with waitLimit := v.setWidth 32 }).csrs m.who).read 0x002 = _
    rw [hcsrs, setWidth_setWidth_mask32]
    rfl
  · change ((m.setCtx m.who { m.ctx m.who with waitLimit := v.setWidth 32 }).csrs m.who).read j = _
    rw [hcsrs]
    exact Csrs.read_waitLimit_other _ _ hj

theorem State.stores_dout (m : State) (v : Word) : m.Stores (m.csrWrite 0x021 v) 0x021 v := by
  refine State.stores_setCore { m.coreAt m.who.core with dout := v } rfl rfl ?_ fun j hj => ?_ <;> rw [State.csrs_setCore]
  · rfl
  · exact Csrs.read_dout_other _ _ hj

theorem State.stores_drowp (m : State) (v : Word) : m.Stores (m.csrWrite 0x022 v) 0x022 v := by
  refine State.stores_setCore { m.coreAt m.who.core with drowp := v } rfl rfl ?_ fun j hj => ?_ <;> rw [State.csrs_setCore]
  · rfl
  · exact Csrs.read_drowp_other _ _ hj

theorem State.stores_dcolp (m : State) (v : Word) : m.Stores (m.csrWrite 0x023 v) 0x023 v := by
  refine State.stores_setCore { m.coreAt m.who.core with dcolp := v } rfl rfl ?_ fun j hj => ?_ <;> rw [State.csrs_setCore]
  · rfl
  · exact Csrs.read_dcolp_other _ _ hj

theorem State.stores_shape (m : State) {i : Nat} (hi : i < 4) (v : Word) :
    m.Stores (m.csrWrite (0x010 + i) v) (0x010 + i) (v &&& 0xF8FFFF0000000000) := by
  refine State.stores_setCore { m.coreAt m.who.core with shape := wr (m.coreAt m.who.core).shape i (v &&& 0xF8FFFF0000000000) } ?_ rfl ?_ fun j hj => ?_
  · interval_cases i <;> rfl
  · rw [State.csrs_setCore, Csrs.read_shape _ hi, rd_wr_same _ _ _ _ hi]
  · rw [State.csrs_setCore]
    exact Csrs.read_shape_other _ _ hj

theorem State.stores_scale (m : State) {i : Nat} (hi : i < 4) (v : Word) :
    m.Stores (m.csrWrite (0x014 + i) v) (0x014 + i) (v &&& 0x8000000000007FFF) := by
  refine State.stores_setCore { m.coreAt m.who.core with scale := wr (m.coreAt m.who.core).scale i (v &&& 0x8000000000007FFF) } ?_ rfl ?_ fun j hj => ?_
  · interval_cases i <;> rfl
  · rw [State.csrs_setCore, Csrs.read_scale _ hi, rd_wr_same _ _ _ _ hi]
  · rw [State.csrs_setCore]
    exact Csrs.read_scale_other _ _ hj

theorem State.stores_dead (m : State) {i : Nat} (hi : i < 4) (v : Word) :
    m.Stores (m.csrWrite (0x030 + i) v) (0x030 + i) v := by
  refine State.stores_setCore { m.coreAt m.who.core with dead := wr (m.coreAt m.who.core).dead i v } ?_ rfl ?_ fun j hj => ?_
  · interval_cases i <;> rfl
  · rw [State.csrs_setCore, Csrs.read_dead _ hi, rd_wr_same _ _ _ _ hi]
  · rw [State.csrs_setCore]
    exact Csrs.read_dead_other _ _ hj

theorem State.stores_replay (m : State) (v : Word) : m.Stores (m.csrWrite 0x040 v) 0x040 (v &&& 0xF) := by
  have hcsrs : (m.csrWrite 0x040 v).csrs m.who = { m.csrs m.who with replay := (v.setWidth 4).setWidth 64 } := by
    change (m.setOctet (octetOf m.who.core) { m.octet (octetOf m.who.core) with replayLimit := v.setWidth 4 }).csrs m.who = _
    rw [State.csrs_setOctet]
    rfl
  refine ⟨rfl, rfl, rfl, rfl, fun _ _ => rfl, ⟨_, rfl⟩, .refl _, fun _ _ => rfl, ?_, fun j hj => ?_⟩ <;> rw [State.csrRead_eq, hcsrs]
  · rw [setWidth_setWidth_mask4]
    rfl
  · exact Csrs.read_replay_other _ _ hj

theorem State.stores_node (m : State) (v : Word) : m.Stores (m.csrWrite 0x121 v) 0x121 (v &&& 0xFFF) := by
  refine State.stores_setDie { m.die (dieOf m.who.core) with node := v &&& 0xFFF } rfl ?_ fun j hj => ?_ <;> rw [State.csrs_setDie (by rfl) (by rfl)]
  · rfl
  · exact Csrs.read_node_other _ _ hj

theorem State.stores_inbox (m : State) (v : Word) : m.Stores (m.csrWrite 0x122 v) 0x122 (v &&& 0xFFFFFFFFFFE0) := by
  refine State.stores_setDie { m.die (dieOf m.who.core) with inbox := v &&& 0xFFFFFFFFFFE0 } rfl ?_ fun j hj => ?_ <;> rw [State.csrs_setDie (by rfl) (by rfl)]
  · rfl
  · exact Csrs.read_inbox_other _ _ hj

theorem State.stores_notice (m : State) (v : Word) : m.Stores (m.csrWrite 0x133 v) 0x133 v := by
  refine State.stores_setDie { m.die (dieOf m.who.core) with staffNotice := v } rfl ?_ fun j hj => ?_ <;> rw [State.csrs_setDie (by rfl) (by rfl)]
  · rfl
  · exact Csrs.read_notice_other _ _ hj

theorem State.stores_watchLo (m : State) {i : Nat} (hi : i < 8) (v : Word) :
    m.Stores (m.csrWrite (0x170 + i) v) (0x170 + i) (v &&& 0x8000FFFFFFFFFFE0) := by
  refine State.stores_setDie { m.die (dieOf m.who.core) with watchLo := wr (m.die (dieOf m.who.core)).watchLo i (v &&& 0x8000FFFFFFFFFFE0) } ?_ ?_
    fun j hj => ?_
  · interval_cases i <;> rfl
  · rw [State.csrs_setDie (by rfl) (by rfl), Csrs.read_watchLo _ hi, rd_wr_same _ _ _ _ hi]
  · rw [State.csrs_setDie (by rfl) (by rfl)]
    exact Csrs.read_watchLo_other _ _ hj

theorem State.stores_watchHi (m : State) {i : Nat} (hi : i < 8) (v : Word) :
    m.Stores (m.csrWrite (0x178 + i) v) (0x178 + i) (v &&& 0x0000FFFFFFFFFFE0) := by
  refine State.stores_setDie { m.die (dieOf m.who.core) with watchHi := wr (m.die (dieOf m.who.core)).watchHi i (v &&& 0x0000FFFFFFFFFFE0) } ?_ ?_
    fun j hj => ?_
  · interval_cases i <;> rfl
  · rw [State.csrs_setDie (by rfl) (by rfl), Csrs.read_watchHi _ hi, rd_wr_same _ _ _ _ hi]
  · rw [State.csrs_setDie (by rfl) (by rfl)]
    exact Csrs.read_watchHi_other _ _ hj

theorem State.stores_net (m : State) (v : Word) : m.Stores (m.csrWrite 0x160 v) 0x160 (v &&& 0x0000FFFFFFF80000) := by
  have hcsrs : (m.csrWrite 0x160 v).csrs m.who = { m.csrs m.who with net := v &&& 0x0000FFFFFFF80000 } := rfl
  refine ⟨rfl, rfl, rfl, rfl, fun _ _ => rfl, ⟨_, rfl⟩, .refl _, fun _ _ => rfl, ?_, fun j hj => ?_⟩ <;> rw [State.csrRead_eq, hcsrs]
  · rfl
  · exact Csrs.read_net_other _ _ hj

theorem State.csrWrite_ptb (m : State) {i : Nat} (hi : i < 16) (v : Word) :
    m.csrWrite (0x150 + i) v = { m with partPtb := wr m.partPtb i (v &&& 0x0000FFFFFFFFF000) } := by
  interval_cases i <;> rfl

theorem State.stores_ptb (m : State) {i : Nat} (hi : i < 16) (v : Word) :
    m.Stores (m.csrWrite (0x150 + i) v) (0x150 + i) (v &&& 0x0000FFFFFFFFF000) := by
  have hcsrs : State.csrs { m with partPtb := wr m.partPtb i (v &&& 0x0000FFFFFFFFF000) } m.who =
      { m.csrs m.who with ptb := wr m.partPtb i (v &&& 0x0000FFFFFFFFF000) } := rfl
  rw [State.csrWrite_ptb m hi]
  refine ⟨rfl, rfl, rfl, rfl, fun _ _ => rfl, ⟨_, rfl⟩, .refl _, fun _ _ => rfl, ?_, fun j hj => ?_⟩ <;> rw [State.csrRead_eq, hcsrs]
  · rw [Csrs.read_ptb _ hi, rd_wr_same _ _ _ _ hi]
  · exact Csrs.read_ptb_other _ _ hj

/-- What the privilege of a register's write, and its write, are for the registers that keep bits. -/
theorem State.stores_stored (m : State) {n p : Nat} {mask : Word} (h : (n, mask, p) ∈ Spec.stored) (v : Word) :
    csrNeed n = p ∧ m.Stores (m.csrWrite n v) n (v &&& mask) := by
  have hall : v &&& 0xFFFFFFFFFFFFFFFF = v := BitVec.and_allOnes
  simp only [Spec.stored, List.mem_append, List.mem_cons, List.not_mem_nil, or_false, List.mem_map, List.mem_range, Prod.mk.injEq] at h
  rcases h with ((((((h | h | h | h | h | h | h | h | h) | h) | h) | h) | h) | h) | h
  · obtain ⟨rfl, rfl, rfl⟩ := h; exact ⟨rfl, m.stores_waitLimit v⟩
  · obtain ⟨rfl, rfl, rfl⟩ := h; exact ⟨rfl, by rw [hall]; exact m.stores_dout v⟩
  · obtain ⟨rfl, rfl, rfl⟩ := h; exact ⟨rfl, by rw [hall]; exact m.stores_drowp v⟩
  · obtain ⟨rfl, rfl, rfl⟩ := h; exact ⟨rfl, by rw [hall]; exact m.stores_dcolp v⟩
  · obtain ⟨rfl, rfl, rfl⟩ := h; exact ⟨rfl, m.stores_replay v⟩
  · obtain ⟨rfl, rfl, rfl⟩ := h; exact ⟨rfl, m.stores_node v⟩
  · obtain ⟨rfl, rfl, rfl⟩ := h; exact ⟨rfl, m.stores_inbox v⟩
  · obtain ⟨rfl, rfl, rfl⟩ := h; exact ⟨rfl, by rw [hall]; exact m.stores_notice v⟩
  · obtain ⟨rfl, rfl, rfl⟩ := h; exact ⟨rfl, m.stores_net v⟩
  · obtain ⟨i, hi, rfl, rfl, rfl⟩ := h; exact ⟨by interval_cases i <;> rfl, m.stores_shape hi v⟩
  · obtain ⟨i, hi, rfl, rfl, rfl⟩ := h; exact ⟨by interval_cases i <;> rfl, m.stores_scale hi v⟩
  · obtain ⟨i, hi, rfl, rfl, rfl⟩ := h; exact ⟨by interval_cases i <;> rfl, by rw [hall]; exact m.stores_dead hi v⟩
  · obtain ⟨i, hi, rfl, rfl, rfl⟩ := h; exact ⟨by interval_cases i <;> rfl, m.stores_ptb hi v⟩
  · obtain ⟨i, hi, rfl, rfl, rfl⟩ := h; exact ⟨by interval_cases i <;> rfl, m.stores_watchLo hi v⟩
  · obtain ⟨i, hi, rfl, rfl, rfl⟩ := h; exact ⟨by interval_cases i <;> rfl, m.stores_watchHi hi v⟩

/-! ## Reads (R80, R285) -/

theorem Spec.mem_each {k b n : Nat} {v : Vector Word k} {w : Word} : (n, w) ∈ Spec.each b v ↔ ∃ i < k, n = b + i ∧ w = rd v i 0 := by
  simp only [Spec.each, List.mem_map, List.mem_range, Prod.mk.injEq, eq_comm]

theorem State.passHeld_eq (s : State) {o : Nat} : s.passHeld o =
    (s.octet o).pass.elim 0 fun t => BitVec.ofNat 64 (2 ^ 13 + min 8191 (s.cycle - t)) := by
  unfold State.passHeld
  cases (s.octet o).pass <;> rfl

/-- The registers of the table read as it says. -/
theorem State.csrRead_registers {s : State} {n : Nat} {w : Word} (h : (n, w) ∈ Spec.registers s) : s.csrRead s.who n = some w := by
  simp only [Spec.registers, List.mem_append, Spec.mem_each, List.mem_cons, List.not_mem_nil, or_false, List.mem_map, List.mem_range,
    Prod.mk.injEq] at h
  rw [State.csrRead_eq]
  rcases h with ((((((((((h | h) | h) | h) | h) | h) | h) | h) | h) | h) | h) | h
  · obtain ⟨rfl, rfl⟩ | ⟨rfl, rfl⟩ | ⟨rfl, rfl⟩ := h
    · exact congrArg some (by unfold State.csrs State.statusOf; dsimp only; cases (s.ctx s.who).ctxz <;> rfl)
    · rfl
    · rfl
  · obtain ⟨i, hi, rfl, rfl⟩ := h; exact Csrs.read_shape _ hi
  · obtain ⟨i, hi, rfl, rfl⟩ := h; exact Csrs.read_scale _ hi
  · obtain ⟨rfl, rfl⟩ | ⟨rfl, rfl⟩ | ⟨rfl, rfl⟩ | ⟨rfl, rfl⟩ | ⟨rfl, rfl⟩ | ⟨rfl, rfl⟩ := h <;> rfl
  · obtain ⟨i, hi, rfl, rfl⟩ := h; exact Csrs.read_dead _ hi
  · obtain ⟨rfl, rfl⟩ := h; rfl
  · obtain ⟨i, hi, rfl, rfl⟩ := h; exact Csrs.read_result _ hi
  · obtain ⟨rfl, rfl⟩ | ⟨rfl, rfl⟩ | ⟨rfl, rfl⟩ | ⟨rfl, rfl⟩ | ⟨rfl, rfl⟩ | ⟨rfl, rfl⟩ | ⟨rfl, rfl⟩ | ⟨rfl, rfl⟩ | ⟨rfl, rfl⟩ | ⟨rfl, rfl⟩ := h
    · rfl
    · rfl
    · rfl
    · rfl
    · exact congrArg some s.passHeld_eq
    all_goals rfl
  · obtain ⟨i, hi, rfl, rfl⟩ := h; exact Csrs.read_rect _ hi
  · obtain ⟨i, hi, rfl, rfl⟩ := h; exact Csrs.read_ptb _ hi
  · obtain ⟨i, hi, rfl, rfl⟩ := h; exact Csrs.read_watchLo _ hi
  · obtain ⟨i, hi, rfl, rfl⟩ := h; exact Csrs.read_watchHi _ hi

section
variable {s : State} {d : Reg} {a : Src} (hr : s.Readable { a := some a, out := [d] })
include hr

theorem exec_csrr_absent (h : s.csrRead s.who ((s.vals { a := some a, out := [d] }).a.toNat % 4096) = none) :
    exec (.csrr d a) s = .next (s.trapHere 0x01 0) := by
  change execCsrr d a s = _
  unfold execCsrr
  dsimp only
  rw [hr.peek]
  dsimp only
  rw [h]

theorem exec_csrr_present {w : Word} (h : s.csrRead s.who ((s.vals { a := some a, out := [d] }).a.toNat % 4096) = some w) :
    exec (.csrr d a) s = .next (s.compute { a := some a, out := [d] } fun _ => w) := by
  change execCsrr d a s = _
  unfold execCsrr State.compute
  dsimp only
  rw [hr.peek]
  dsimp only
  rw [h]

end

/-! ## Writes (R80 to R86) -/

/-- The operands of a CSRW. -/
def csrwUses (a b : Src) : Uses := { a := some a, b := some b }

section
variable {s : State} {a b : Src} {n : Nat} (hr : s.Readable (csrwUses a b)) (hn : (s.vals (csrwUses a b)).a.toNat % 4096 = n)
include hr hn

theorem exec_csrw_absent (h : Spec.absent n) : exec (.csrw a b) s = .next (s.trapHere 0x01 0) := by
  change execCsrw a b s = _
  unfold execCsrw
  dsimp only
  rw [show s.peek { a := some a, b := some b } = _ from hr.peek]
  dsimp only
  rw [hn, (s.csrRead_eq_none_iff s.who n).mpr h]
  rfl

theorem exec_csrw_present (h : ¬ Spec.absent n) : exec (.csrw a b) s = .next (
    if s.priv s.who < csrNeed n then s.trapHere 0x04 0
    else ((s.commit (csrwUses a b)).csrWrite n (s.vals (csrwUses a b)).b).finish) := by
  have hsome : (s.csrRead s.who n).isNone = false := by
    rw [Option.isNone_eq_false_iff, Option.isSome_iff_ne_none]
    exact mt (s.csrRead_eq_none_iff s.who n).mp h
  change execCsrw a b s = _
  unfold execCsrw
  dsimp only
  rw [show s.peek { a := some a, b := some b } = _ from hr.peek]
  dsimp only
  rw [hn, hsome, apply_ite Host.Outcome.next]
  rfl

theorem exec_csrw_refused (h : ¬ Spec.absent n) (hp : s.priv s.who < csrNeed n) : exec (.csrw a b) s = .next (s.trapHere 0x04 0) := by
  rw [exec_csrw_present hr hn h, if_pos hp]

theorem exec_csrw_allowed (h : ¬ Spec.absent n) (hp : csrNeed n ≤ s.priv s.who) : exec (.csrw a b) s =
    .next ((s.commit (csrwUses a b)).csrWrite n (s.vals (csrwUses a b)).b).finish := by
  rw [exec_csrw_present hr hn h, if_neg (by omega)]

end

theorem State.priv_le (s : State) (c : CtxId) : s.priv c ≤ 2 := by
  unfold State.priv
  split
  · exact Nat.le_refl _
  · split <;> omega

/-- A write that changes no context, and of its core no more than is said, passes on. -/
theorem State.passed_of_commit {s m : State} {u : Uses} {k : Core} (hw : m.who = (s.commit u).who) (hc : m.cycle = (s.commit u).cycle)
    (hd : m.word = (s.commit u).word) (hx : m.ctxs = (s.commit u).ctxs) (hm : m.mem = (s.commit u).mem)
    (hk : m.coreAt s.who.core = k) (ho : ∀ j, j ≠ s.who.core → m.coreAt j = (s.commit u).coreAt j) :
    s.Passed m.finish (s.ctx s.who) k := by
  have htook := s.commit_took u
  refine State.finish_passed (hw.trans htook.who) (hc.trans htook.cycle) (hd.trans htook.word) (fun c => ?_) hk
    (fun j hj => (ho j hj).trans (htook.otherCores j hj)) (hm.trans htook.mem)
  rw [← htook.ctx c]
  unfold State.ctx
  rw [hx]

theorem and_clear_field (v : Word) : v &&& 0xFFFFFFFFFFFC0000 &&& ~~~0x0E000000 = v &&& 0xFFFFFFFFF1FC0000 := by
  rw [BitVec.and_assoc]
  rfl

/-- A write of drain.ctl keeps its rounding mode where the code is reserved (R85). -/
theorem drainCtl_eq (old v : Word) : drainCtl old v =
    if 4 < v.toNat / 2 ^ 25 % 8 then (v &&& 0xFFFFFFFFF1FC0000) ||| (old &&& 0x0E000000) else v &&& 0xFFFFFFFFFFFC0000 := by
  unfold drainCtl
  dsimp only
  rw [and_clear_field]
  rfl

/-- The field of ni.rate with a number. -/
def rateField (i : Nat) : Word := BitVec.ofNat 64 (7 * 2 ^ (3 * i))

theorem rateField_getLsbD {i j : Nat} (hj : j < 64) : (rateField i).getLsbD j = decide (3 * i ≤ j ∧ j < 3 * i + 3) := by
  unfold rateField
  rw [BitVec.getLsbD_ofNat, Nat.testBit_mul_two_pow, show (7 : Nat) = 2 ^ 3 - 1 from rfl, Nat.testBit_two_pow_sub_one]
  simp only [hj, decide_true, Bool.true_and, Bool.decide_and]
  by_cases h : 3 * i ≤ j
  · simp only [h, decide_true, Bool.true_and]
    exact decide_eq_decide.mpr (by omega)
  · simp [h]

/-- Once the first fields of ni.rate are taken, they are those written, and the others those that were there. -/
theorem niRate_fields (old v : Word) (h : ∀ i, i < 5 → v.toNat / 8 ^ i % 8 ≤ 5) : ∀ n, n ≤ 5 → ∀ j, j < 64 →
    ((List.range n).foldl (fun w i =>
      let m : Word := BitVec.ofNat 64 (7 * 2 ^ (3 * i))
      if 5 < bits v.toNat (3 * i + 2) (3 * i) then w else (w &&& ~~~m) ||| (v &&& m)) (old &&& 0x7FFF)).getLsbD j =
      if j < 3 * n then v.getLsbD j else (old &&& 0x7FFF).getLsbD j
  | 0, _, j, _ => by simp
  | n + 1, hn, j, hj => by
    have ih := niRate_fields old v h n (by omega) j hj
    have hfield : ¬ 5 < bits v.toNat (3 * n + 2) (3 * n) := by
      have := h n (by omega)
      unfold bits
      rw [show 3 * n + 2 + 1 - 3 * n = 3 by omega, pow_mul, show 2 ^ 3 = 8 from rfl]
      omega
    rw [List.range_succ, List.foldl_append]
    dsimp only [List.foldl_cons, List.foldl_nil]
    rw [if_neg hfield]
    change ((_ &&& ~~~rateField n) ||| (v &&& rateField n)).getLsbD j = _
    rw [BitVec.getLsbD_or, BitVec.getLsbD_and, BitVec.getLsbD_and, BitVec.getLsbD_not, rateField_getLsbD hj, ih]
    by_cases h1 : j < 3 * n
    · simp [h1, hj, show ¬ 3 * n ≤ j by omega, show j < 3 * (n + 1) by omega]
    · by_cases h2 : j < 3 * n + 3
      · simp [h1, hj, h2, show 3 * n ≤ j by omega, show j < 3 * (n + 1) by omega]
      · simp [h1, hj, h2, show ¬ j < 3 * (n + 1) by omega]

/-- A write of ni.rate whose codes are all valid stores its fields (R144, R154). -/
theorem niRate_eq (old v : Word) (h : ∀ i, i < 5 → v.toNat / 8 ^ i % 8 ≤ 5) : niRate old v = v &&& 0x7FFF := by
  refine BitVec.eq_of_getLsbD_eq fun j hj => (niRate_fields old v h 5 (Nat.le_refl _) j hj).trans ?_
  have hmask : (0x7FFF : Word).getLsbD j = decide (j < 15) := by
    change (BitVec.ofNat 64 (2 ^ 15 - 1)).getLsbD j = _
    rw [BitVec.getLsbD_ofNat, Nat.testBit_two_pow_sub_one, decide_eq_true hj, Bool.true_and]
  rw [BitVec.getLsbD_and, BitVec.getLsbD_and, hmask]
  by_cases h15 : j < 15 <;> simp [h15]

/-- The registers that ignore a write. -/
theorem State.csrWrite_readOnly (m : State) {n : Nat} (h : n = 0x001 ∨ (0x044 ≤ n ∧ n < 0x048) ∨ (0x108 ≤ n ∧ n < 0x120) ∨ n = 0x123)
    (v : Word) : m.csrWrite n v = m ∧ csrNeed n = 0 := by
  constructor
  · unfold State.csrWrite
    simp only [beq_iff_eq, Bool.and_eq_true, decide_eq_true_eq]
    iterate 23 rw [if_neg (by omega)]
  · unfold csrNeed
    simp only [beq_iff_eq, Bool.and_eq_true, Bool.or_eq_true, decide_eq_true_eq]
    iterate 3 rw [if_neg (by omega)]

/-- The registers that no context may write. -/
theorem csrNeed_none {n : Nat} (h : (0x130 ≤ n ∧ n < 0x133) ∨ (0x140 ≤ n ∧ n < 0x150)) : csrNeed n = 3 := by
  unfold csrNeed
  simp only [beq_iff_eq, Bool.and_eq_true, Bool.or_eq_true, decide_eq_true_eq]
  rw [if_neg (by omega), if_neg (by omega), if_pos h]

theorem State.csrWrite_cfg (m : State) {i : Nat} (h : i < 8) (v : Word) :
    m.csrWrite (0x100 + i) v = m.post m.cycle .rollcallCfgWrite { die := dieOf m.who.core, n := i, v := v } ∧ csrNeed (0x100 + i) = 2 := by
  interval_cases i <;> exact ⟨rfl, rfl⟩

theorem State.csrWrite_kick (m : State) {i : Nat} (h : i < 8) (v : Word) :
    m.csrWrite (0x188 + i) v = m.post m.cycle .rollcallKick { die := dieOf m.who.core, n := i, v := v } ∧ csrNeed (0x188 + i) = 2 := by
  interval_cases i <;> exact ⟨rfl, rfl⟩

/-- A number with a bank is not absent. -/
theorem Spec.not_absent {n : Nat} (h : n < 0x003 ∨ (0x010 ≤ n ∧ n < 0x018) ∨ (0x020 ≤ n ∧ n < 0x024) ∨ (0x028 ≤ n ∧ n < 0x02A) ∨
    (0x030 ≤ n ∧ n < 0x034) ∨ n = 0x040 ∨ (0x044 ≤ n ∧ n < 0x048) ∨ (0x100 ≤ n ∧ n < 0x124) ∨ (0x130 ≤ n ∧ n < 0x136) ∨
    (0x140 ≤ n ∧ n < 0x161) ∨ (0x170 ≤ n ∧ n < 0x180) ∨ (0x188 ≤ n ∧ n < 0x190)) : ¬ Spec.absent n := by
  unfold Spec.absent
  omega

theorem Spec.stored_present {n p : Nat} {mask : Word} (h : (n, mask, p) ∈ Spec.stored) : ¬ Spec.absent n := by
  apply Spec.not_absent
  simp only [Spec.stored, List.mem_append, List.mem_cons, List.not_mem_nil, or_false, List.mem_map, List.mem_range, Prod.mk.injEq] at h
  rcases h with ((((((h | h | h | h | h | h | h | h | h) | ⟨i, hi, h⟩) | ⟨i, hi, h⟩) | ⟨i, hi, h⟩) | ⟨i, hi, h⟩) | ⟨i, hi, h⟩) | ⟨i, hi, h⟩
  all_goals
    obtain ⟨hn, -, -⟩ := h
    omega

section
variable {s : State} {u : Uses} {n : Nat} {w : Word} {t : State} (h : (s.commit u).Stores t n w)
include h

/-- What a write that a register keeps leaves once it has issued. -/
theorem State.Stores.finish : s.Issued t.finish ((s.ctx s.who).pc + 8) ∧ t.finish.csrRead s.who n = some w ∧
    (∀ j, j ≠ n → t.finish.csrRead s.who j = s.csrRead s.who j) ∧ (∀ j, memRead t.finish.mem j = memRead s.mem j) ∧
    (∀ c : CtxId, c.key ≠ s.who.key → t.finish.ctx c = s.ctx c) ∧ (∀ j, j ≠ s.who.core → t.finish.coreAt j = s.coreAt j) ∧
    ∀ r : Reg, r.toNat < 55 → t.finish.regVal s.who r 0 = s.regVal s.who r 0 ∧ t.finish.regFull s.who r 1 = s.regFull s.who r 1 := by
  have htook := s.commit_took u
  obtain ⟨hsame, -, -, -⟩ := htook.regs
  obtain ⟨who, cycle, word, mem, contexts, ⟨limit, ctx⟩, files, cores, value, rest⟩ := h
  rw [htook.who] at who contexts ctx files cores value rest
  rw [htook.ctx] at ctx
  have hx : t.finish.ctx s.who = (t.ctx s.who).issued s.cycle s.word ((s.ctx s.who).pc + 8) := by
    have hpc : (t.ctx s.who).pc = (s.ctx s.who).pc := by rw [ctx]
    unfold State.finish
    rw [who, hpc, ← who, State.endAt_ctx, cycle, word, htook.cycle, htook.word]
  have hins : (t.ctx s.who).insCount = (s.ctx s.who).insCount := by rw [ctx]
  have hbank : (t.ctx s.who).s = (s.ctx s.who).s ∧ (t.ctx s.who).sFull = (s.ctx s.who).sFull ∧ (t.ctx s.who).sPend = (s.ctx s.who).sPend := by
    rw [ctx]
    exact ⟨rfl, rfl, rfl⟩
  have hread : ∀ j, t.finish.csrRead s.who j = t.csrRead s.who j := fun j => by
    rw [State.csrRead_eq, State.csrRead_eq, ← who, t.csrs_finish]
  have hcommit : ∀ j, (s.commit u).csrRead s.who j = s.csrRead s.who j := fun j => by
    rw [State.csrRead_eq, State.csrRead_eq, s.csrs_commit u]
  refine ⟨⟨by rw [hx]; rfl, by rw [hx]; rfl, by rw [hx]; rfl, ?_⟩, (hread n).trans value,
    fun j hj => (hread j).trans ((rest j hj).trans (hcommit j)), fun j => ?_, fun c hc => ?_,
    fun j hj => (cores j hj).trans (htook.otherCores j hj), fun r hr => ?_⟩
  · rw [hx]
    change (t.ctx s.who).insCount + 1 = _
    rw [hins]
  · exact congrArg (memRead · j) (mem.trans htook.mem)
  · exact (State.ctx_setCtx_other _ _ _ _ (by rw [who]; exact hc)).trans ((contexts c hc).trans (htook.ctx c))
  · have hfiles : (s.coreAt s.who.core).SameRegs (t.finish.coreAt s.who.core) :=
      ⟨files.c.trans hsame.c, files.cFull.trans hsame.cFull, files.cPend.trans hsame.cPend,
        fun i hi => (files.m i hi).trans (hsame.m i hi), fun i hi => (files.mFull i hi).trans (hsame.mFull i hi),
        fun i hi => (files.mPend i hi).trans (hsame.mPend i hi)⟩
    obtain ⟨hval, hfull, -⟩ := State.reg_congr (by rw [hx]; exact hbank) hfiles r hr
    exact ⟨hval, hfull⟩

end

section
variable {s : State} {a b : Src} {n p : Nat} (hr : s.Readable (csrwUses a b)) (hn : (s.vals (csrwUses a b)).a.toNat % 4096 = n)
include hr hn

theorem csrw_refused (hc : ¬ Spec.absent n) (hneed : csrNeed n = p) (hp : s.priv s.who < p) :
    ∃ t, exec (.csrw a b) s = .next t ∧ s.Trapped t 0x04 0 :=
  ⟨_, exec_csrw_refused hr hn hc (hneed ▸ hp), s.trapHere_trapped _ _⟩

theorem exec_csrw_writes (hc : ¬ Spec.absent n) (hneed : csrNeed n = p) (hp : p ≤ s.priv s.who) {m : State}
    (hm : (s.commit (csrwUses a b)).csrWrite n (s.vals (csrwUses a b)).b = m) : exec (.csrw a b) s = .next m.finish := by
  rw [exec_csrw_allowed hr hn hc (hneed ▸ hp), hm]

/-- A write that a step carries out posts the step, and passes on. -/
theorem csrw_posts (hc : ¬ Spec.absent n) (hneed : csrNeed n = p) (hp : p ≤ s.priv s.who) {ev : Instr} {arg : StepArg}
    (hm : (s.commit (csrwUses a b)).csrWrite n (s.vals (csrwUses a b)).b = (s.commit (csrwUses a b)).post s.cycle ev arg) :
    ∃ t, exec (.csrw a b) s = .next t ∧ s.Passed t (s.ctx s.who) ((s.coreAt s.who.core).after (csrwUses a b)) ∧ t.Due s.cycle ev arg :=
  ⟨_, exec_csrw_writes hr hn hc hneed hp hm, State.passed_of_commit rfl rfl rfl rfl rfl (s.commit_core _) fun _ _ => rfl,
    State.post_due _ _ _ _⟩

/-- A write of a register of the core passes on. -/
theorem csrw_core (hc : ¬ Spec.absent n) (hneed : csrNeed n = p) (hp : p ≤ s.priv s.who) {k : Core}
    (hm : (s.commit (csrwUses a b)).csrWrite n (s.vals (csrwUses a b)).b = (s.commit (csrwUses a b)).setCore s.who.core k) :
    ∃ t, exec (.csrw a b) s = .next t ∧ s.Passed t (s.ctx s.who) k :=
  ⟨_, exec_csrw_writes hr hn hc hneed hp hm, State.passed_of_commit rfl rfl rfl rfl rfl (State.coreAt_setCore_same _ _ _)
    fun _ hj => State.coreAt_setCore_other _ _ _ _ hj⟩

end

section
variable (s : State) (u : Uses) (v : Word)

theorem State.csrWrite_commit_status : (s.commit u).csrWrite 0x000 v =
    (s.commit u).post s.cycle .statusWrite { c := s.who, run := (s.ctx s.who).run, v := v } := by
  have h : ∀ m : State, m.csrWrite 0x000 v = m.post m.cycle .statusWrite { c := m.who, run := (m.ctx m.who).run, v := v } := fun _ => rfl
  rw [h, (s.commit_took u).who, (s.commit_took u).ctx, (s.commit_took u).cycle]

theorem State.csrWrite_commit_rng : (s.commit u).csrWrite 0x028 v =
    (s.commit u).post s.cycle .rngSeedWrite { core := s.who.core, v := v } := by
  have h : ∀ m : State, m.csrWrite 0x028 v = m.post m.cycle .rngSeedWrite { core := m.who.core, v := v } := fun _ => rfl
  rw [h, (s.commit_took u).who, (s.commit_took u).cycle]

theorem State.csrWrite_commit_dctl : (s.commit u).csrWrite 0x020 v = (s.commit u).setCore s.who.core
    { (s.coreAt s.who.core).after u with dctl := drainCtl ((s.coreAt s.who.core).after u).dctl v } := by
  have h : ∀ m : State, m.csrWrite 0x020 v =
    m.setCore m.who.core { m.coreAt m.who.core with dctl := drainCtl (m.coreAt m.who.core).dctl v } := fun _ => rfl
  rw [h, (s.commit_took u).who, s.commit_core u]

theorem State.csrWrite_commit_weight : (s.commit u).csrWrite 0x029 v = (s.commit u).setCore s.who.core
    { (s.coreAt s.who.core).after u with weight := if v.toNat % 16 = 0 then 1 else BitVec.ofNat 4 v.toNat } := by
  have h : ∀ m : State, m.csrWrite 0x029 v =
    m.setCore m.who.core { m.coreAt m.who.core with weight := if v.toNat % 16 == 0 then 1 else BitVec.ofNat 4 v.toNat } := fun _ => rfl
  rw [h, (s.commit_took u).who, s.commit_core u]
  simp only [beq_iff_eq]

theorem State.csrWrite_commit_rate (hv : ∀ i, i < 5 → v.toNat / 8 ^ i % 8 ≤ 5) : (s.commit u).csrWrite 0x120 v =
    (s.commit u).setDie (dieOf s.who.core) { s.die (dieOf s.who.core) with rate := v &&& 0x7FFF } := by
  have h : ∀ m : State, m.csrWrite 0x120 v =
    m.setDie (dieOf m.who.core) { m.die (dieOf m.who.core) with rate := niRate (m.die (dieOf m.who.core)).rate v } := fun _ => rfl
  have hdie : (s.commit u).die (dieOf s.who.core) = s.die (dieOf s.who.core) := by rw [(s.commit_took u).device]; rfl
  rw [h, (s.commit_took u).who, hdie, niRate_eq _ _ hv]

theorem State.csrWrite_commit_cfg {i : Nat} (hi : i < 8) : (s.commit u).csrWrite (0x100 + i) v =
    (s.commit u).post s.cycle .rollcallCfgWrite { die := dieOf s.who.core, n := i, v := v } := by
  rw [((s.commit u).csrWrite_cfg hi v).1, (s.commit_took u).who, (s.commit_took u).cycle]

theorem State.csrWrite_commit_kick {i : Nat} (hi : i < 8) : (s.commit u).csrWrite (0x188 + i) v =
    (s.commit u).post s.cycle .rollcallKick { die := dieOf s.who.core, n := i, v := v } := by
  rw [((s.commit u).csrWrite_kick hi v).1, (s.commit_took u).who, (s.commit_took u).cycle]

end

/-- Settles O41: every control register reads and is written as its table says. -/
theorem controlRegisters : Obligations.ControlRegisters := by
  intro s d a b x core
  refine ⟨?_, ?_⟩
  · intro u n hr
    refine ⟨fun h => ⟨_, exec_csrr_absent hr ((s.csrRead_eq_none_iff s.who n).mpr h), s.trapHere_trapped _ _⟩, fun w hw => ?_⟩
    exact ⟨_, exec_csrr_present hr (State.csrRead_registers hw), s.compute_wrote u (fun _ => w) d hr rfl⟩
  · intro u n v k hr
    have hn : (s.vals u).a.toNat % 4096 = n := rfl
    clear_value n
    refine ⟨fun h => ⟨_, exec_csrw_absent hr hn h, s.trapHere_trapped _ _⟩, fun m p h => ?_, fun h => ?_, fun h => ?_, fun h => ?_,
      fun h hp => ?_, fun h hp hv => ?_, fun h => ?_, fun h => ?_, fun hp => ⟨fun h1 h2 => ?_, fun h1 h2 => ?_⟩⟩
    · obtain ⟨hneed, hstores⟩ := (s.commit u).stores_stored h v
      have hc := Spec.stored_present h
      exact ⟨csrw_refused hr hn hc hneed, fun hp => ⟨_, exec_csrw_writes hr hn hc hneed hp rfl, hstores.finish⟩⟩
    · obtain ⟨hwrite, hneed⟩ := (s.commit u).csrWrite_readOnly h v
      exact ⟨_, exec_csrw_writes hr hn (Spec.not_absent (by omega)) hneed (Nat.zero_le _) hwrite, s.commit_passed u⟩
    · exact csrw_refused hr hn (Spec.not_absent (by omega)) (csrNeed_none h) (Nat.lt_succ_of_le (s.priv_le _))
    · subst h
      rw [← drainCtl_eq]
      exact csrw_core hr hn (Spec.not_absent (by omega)) rfl (Nat.zero_le _) (s.csrWrite_commit_dctl u v)
    · subst h
      exact csrw_core hr hn (Spec.not_absent (by omega)) rfl hp (s.csrWrite_commit_weight u v)
    · subst h
      exact ⟨_, exec_csrw_writes hr hn (Spec.not_absent (by omega)) rfl hp (s.csrWrite_commit_rate u v hv),
        State.passed_of_commit rfl rfl rfl rfl rfl (s.commit_core _) fun _ _ => rfl, State.die_setDie_same _ _ _⟩
    · subst h
      exact csrw_posts hr hn (Spec.not_absent (by omega)) rfl (Nat.zero_le _) (s.csrWrite_commit_status u v)
    · subst h
      exact csrw_posts hr hn (Spec.not_absent (by omega)) rfl (Nat.zero_le _) (s.csrWrite_commit_rng u v)
    · obtain ⟨i, hi, rfl⟩ : ∃ i < 8, n = 0x100 + i := ⟨n - 0x100, by omega, by omega⟩
      rw [Nat.add_sub_cancel_left]
      exact csrw_posts hr hn (Spec.not_absent (by omega)) ((s.commit u).csrWrite_cfg hi v).2 hp (s.csrWrite_commit_cfg u v hi)
    · obtain ⟨i, hi, rfl⟩ : ∃ i < 8, n = 0x188 + i := ⟨n - 0x188, by omega, by omega⟩
      rw [Nat.add_sub_cancel_left]
      exact csrw_posts hr hn (Spec.not_absent (by omega)) ((s.commit u).csrWrite_kick hi v).2 hp (s.csrWrite_commit_kick u v hi)

end Sys2Proof.Machine
end

section
/-! Registers whose writes have effects, and the registers of other contexts (O42). -/

namespace Sys2Proof.Machine

/-! ## Steps that post (R158, R164) -/

/-- What one of several posting steps brings about, and no later one takes back, holds after all of them. -/
theorem State.foldl_posted_reaches {α : Type} {f : State → α → State} (h : ∀ (s : State) (a : α), s.Posted (f s a)) {P : State → Prop}
    (mono : ∀ m t : State, m.Posted t → P m → P t) {a : α} {l : List α} (ha : a ∈ l) {s : State} (hp : ∀ m, s.Posted m → P (f m a)) :
    P (l.foldl f s) := by
  induction l generalizing s with
  | nil => exact absurd ha List.not_mem_nil
  | cons b l ih =>
    obtain rfl | ha := List.mem_cons.mp ha
    · exact mono _ _ (State.foldl_posted h l _) (hp s (.refl s))
    · exact ih ha fun m hm => hp m ((h s b).trans hm)

theorem State.Posted.due {s t : State} (h : s.Posted t) {due : Nat} {ev : Instr} {arg : StepArg} (hd : s.Due due ev arg) : t.Due due ev arg :=
  hd.extend h.grows

theorem State.Posted.cycle {s t : State} (h : s.Posted t) : t.cycle = s.cycle := h.grows.cycle

theorem State.askPass_posted (s : State) (o : Nat) : s.Posted (s.askPass o) := by
  unfold State.askPass
  dsimp only
  split
  · exact .refl s
  · exact State.post_posted _ _ _ _

theorem State.pollRing_posted (s : State) (die : Nat) : s.Posted (s.pollRing die) := by
  refine State.foldl_posted (fun s p => ?_) _ _
  split
  · exact s.askPass_posted _
  · exact .refl s

/-- The look of one command of an octet for its start. -/
def State.tryStart (s : State) (o : Nat) (c : MxuCmd) : State :=
  if c.taken && c.matx.any (fun x => !x.started && !x.failed) then s.post s.cycle .matxStart { octet := o, id := c.id } else s

theorem State.tryStart_posted (s : State) (o : Nat) (c : MxuCmd) : s.Posted (s.tryStart o c) := by
  unfold State.tryStart
  split
  · exact State.post_posted _ _ _ _
  · exact .refl s

theorem State.tryStarts_posted (s : State) (o : Nat) : s.Posted (s.tryStarts o) :=
  State.foldl_posted (fun s c => s.tryStart_posted o c) _ _

/-- A MATX that waits for its start looks for it. -/
theorem State.tryStarts_due (s : State) {o : Nat} {c : MxuCmd} {x : Matx} (hc : c ∈ (s.octet o).mxu.cmds) (hx : c.cmd = .matx x)
    (hw : Spec.waiting c x) : (s.tryStarts o).Due s.cycle .matxStart { octet := o, id := c.id } := by
  obtain ⟨htaken, hstarted, hfailed⟩ := hw
  have hm : c.matx = some x := by unfold MxuCmd.matx; rw [hx]
  refine State.foldl_posted_reaches (f := fun s c => s.tryStart o c) (fun s c => s.tryStart_posted o c)
    (fun m t h hd => h.due hd) hc fun m h => ?_
  unfold State.tryStart
  rw [if_pos (by simp [htaken, hm, hstarted, hfailed]), ← h.cycle]
  exact State.post_due _ _ _ _

/-- An octet with commands is listed. -/
theorem SMap.exists_mem_of_get_ne {α : Type} {m : SMap α} {k : Nat} {d : α} (h : m.get k d ≠ d) : ∃ p ∈ m, p.1 = k := by
  induction m with
  | nil => exact absurd rfl h
  | cons p r ih =>
    obtain ⟨j, y⟩ := p
    unfold SMap.get at h
    by_cases hj : j = k
    · exact ⟨(j, y), List.mem_cons_self, hj⟩
    · rw [if_neg (by simpa using hj)] at h
      split at h
      · exact absurd rfl h
      · obtain ⟨p, hp, hk⟩ := ih h
        exact ⟨p, List.mem_cons_of_mem _ hp, hk⟩

theorem State.exists_octet_of_mem {s : State} {o : Nat} {c : MxuCmd} (h : c ∈ (s.octet o).mxu.cmds) : ∃ p ∈ s.octets, p.1 = o := by
  refine SMap.exists_mem_of_get_ne (d := {}) fun he => ?_
  rw [show s.octet o = {} from he] at h
  exact absurd h List.not_mem_nil

/-! ## Writes with effects (R81, R86, R158, R164) -/

theorem Ctx.writeStatus_eq (x : Ctx) (v : Word) : x.writeStatus v =
    { x with
      rm := if v.toNat / 2 ^ 51 % 8 ≤ 4 then BitVec.ofNat 3 (v.toNat / 2 ^ 51) else x.rm
      flags := x.flags &&& ~~~BitVec.ofNat 5 (v.toNat / 2 ^ 45) } := by
  have hrm : BitVec.ofNat 3 (bits v.toNat 53 51) = BitVec.ofNat 3 (v.toNat / 2 ^ 51) := by
    apply BitVec.eq_of_toNat_eq
    exact Nat.mod_mod_of_dvd _ (dvd_refl _)
  have hflags : BitVec.ofNat 5 (bits v.toNat 49 45) = BitVec.ofNat 5 (v.toNat / 2 ^ 45) := by
    apply BitVec.eq_of_toNat_eq
    exact Nat.mod_mod_of_dvd _ (dvd_refl _)
  unfold Ctx.writeStatus
  dsimp only
  rw [hrm, hflags]
  by_cases h : v.toNat / 2 ^ 51 % 8 ≤ 4
  · rw [if_pos h, if_neg (by unfold bits; omega)]
  · rw [if_neg h, if_pos (by unfold bits; omega)]

theorem exec_statusWrite_here {s : State} (h : s.inPlace s.arg.c s.arg.run) :
    exec .statusWrite s = .next (s.setCtx s.arg.c ((s.ctx s.arg.c).writeStatus s.arg.v)) := by
  obtain ⟨hrun, hlife, -⟩ := h
  change execStatusWrite s = _
  unfold execStatusWrite
  rw [State.modRun_here _ hrun hlife]

/-- The first entry that meets a predicate is picked. -/
theorem pickFirst_append {α : Type} {f : α → Bool} {l r : List α} {a : α} (hl : ∀ b ∈ l, f b = false) (ha : f a = true) :
    pickFirst f (l ++ a :: r) = some (a, l ++ r) := by
  induction l with
  | nil => simp [pickFirst, ha]
  | cons b l ih =>
    have hb : f b = false := hl b List.mem_cons_self
    simp [pickFirst, hb, ih fun c hc => hl c (List.mem_cons_of_mem _ hc)]

theorem State.passAt_eq_zero {s : State} {p : Nat} : (s.passAt p == 0) = true ↔ (p + s.cycle) % 240 = 0 := by
  unfold State.passAt
  simp

/-- A pass that joins at the die's first octet stands there now. -/
theorem State.passFrom_zero (s : State) : (s.passFrom 0 + s.cycle) % 240 = 0 := by
  unfold State.passFrom
  omega

section
variable {s : State}

theorem exec_passCount_new (h : s.arg.n = 0) : exec .passCountWrite s = .next (
    (((s.setDie s.arg.die { s.die s.arg.die with passCount := min 240 (s.arg.v.toNat % 256) }).post s.cycle .passCountWrite
      { die := s.arg.die, n := 1 }).octets.foldl (fun m p => if octetDie p.1 == s.arg.die then m.tryStarts p.1 else m)
        ((s.setDie s.arg.die { s.die s.arg.die with passCount := min 240 (s.arg.v.toNat % 256) }).post s.cycle .passCountWrite
          { die := s.arg.die, n := 1 }))) := by
  change execPassCountWrite s = _
  unfold execPassCountWrite
  dsimp only
  rw [if_pos (by simp [h])]
  rfl

/-- No other step of the count is on its way. -/
theorem State.noPassCount (ha : ∀ p ∈ s.agenda, p.ev ≠ .passCountWrite) :
    ¬ (s.agenda.any fun (p : Pending) => p.ev == Instr.passCountWrite && p.arg.die == s.arg.die && p.arg.n == 1) = true := by
  rw [Bool.not_eq_true, List.any_eq_false]
  intro p hp
  simp [ha p hp]

section
variable (hn : s.arg.n = 1) (ha : ∀ p ∈ s.agenda, p.ev ≠ .passCountWrite)
include hn ha

theorem exec_passCount_same (h : s.circulating s.arg.die = (s.die s.arg.die).passCount) : exec .passCountWrite s = .next s := by
  change execPassCountWrite s = _
  unfold execPassCountWrite
  dsimp only
  rw [if_neg (by simp [hn]), if_neg (State.noPassCount ha), if_neg (by omega), if_neg (by omega)]

theorem exec_passCount_join (h : s.circulating s.arg.die < (s.die s.arg.die).passCount) {m : State}
    (hm : (s.setDie s.arg.die { s.die s.arg.die with ring := (s.die s.arg.die).ring ++ [s.passFrom 0] }).pollRing s.arg.die = m) :
    exec .passCountWrite s = .next (m.post (m.cycle + 1) .passCountWrite m.arg) := by
  subst hm
  change execPassCountWrite s = _
  unfold execPassCountWrite
  dsimp only
  rw [if_neg (by simp [hn]), if_neg (State.noPassCount ha), if_pos h]
  rfl

theorem exec_passCount_leave (h : (s.die s.arg.die).passCount < s.circulating s.arg.die) {p : Nat} {r : List Nat}
    (hp : pickFirst (fun p => s.passAt p == 0) (s.die s.arg.die).ring = some (p, r)) : exec .passCountWrite s =
      .next ((s.setDie s.arg.die { s.die s.arg.die with ring := r }).post (s.cycle + 1) .passCountWrite s.arg) := by
  change execPassCountWrite s = _
  unfold execPassCountWrite
  dsimp only
  rw [if_neg (by simp [hn]), if_neg (State.noPassCount ha), if_neg (by omega), if_pos h, hp]
  rfl

end

end

/-- The first part of O42. -/
theorem State.registerWrites : Claims.RegisterWrites := by
  intro s
  refine ⟨fun h => ⟨_, exec_statusWrite_here h, rfl, rfl, fun c hc => State.ctx_setCtx_other _ _ _ _ hc, ?_⟩, ?_, ?_⟩
  · exact (State.ctx_setCtx_same _ _ _).trans (Ctx.writeStatus_eq _ _)
  · intro seed
    change Host.Outcome.next (s.setCore s.arg.core { s.coreAt s.arg.core with rng := if seed == 0 then 1 else seed }) = _
    simp only [beq_iff_eq]
  · intro die d
    refine ⟨fun h0 => ?_, fun h1 ha => ⟨fun h => exec_passCount_same h1 ha h, fun h => ?_, fun h l p r hring hp hl => ?_⟩⟩
    · refine ⟨_, exec_passCount_new h0, ?_⟩
      set m := (s.setDie die { d with passCount := min 240 (s.arg.v.toNat % 256) }).post s.cycle .passCountWrite { die := die, n := 1 }
      have hstep : ∀ (n : State) (p : Nat × Octet), n.Posted (if octetDie p.1 == die then n.tryStarts p.1 else n) := fun n p => by
        split
        · exact n.tryStarts_posted _
        · exact .refl n
      have hp : m.Posted (m.octets.foldl (fun n p => if octetDie p.1 == die then n.tryStarts p.1 else n) m) :=
        State.foldl_posted hstep _ _
      refine ⟨?_, hp.mem, hp.ctxs, hp.due (State.post_due _ _ _ _), fun o c x ho hc hx hw => ?_⟩
      · rw [hp.die]
        exact State.die_setDie_same _ _ _
      · obtain ⟨p, hmem, hkey⟩ := State.exists_octet_of_mem hc
        refine State.foldl_posted_reaches hstep (fun a b h hd => h.due hd) (a := p) (l := m.octets) hmem fun n hn => ?_
        rw [hkey, if_pos (by simp [ho])]
        have hcycle : n.cycle = s.cycle := hn.cycle
        rw [← hcycle]
        exact n.tryStarts_due (by rw [hn.octet]; exact hc) hx hw
    · set m := (s.setDie die { d with ring := d.ring ++ [s.passFrom 0] }).pollRing die with hm
      have hp : (s.setDie die { d with ring := d.ring ++ [s.passFrom 0] }).Posted m := State.pollRing_posted _ _
      have hcycle : m.cycle = s.cycle := hp.cycle
      refine ⟨_, s.passFrom 0, exec_passCount_join h1 ha h hm.symm, ?_, s.passFrom_zero, hp.mem, hp.ctxs, ?_⟩
      · exact (hp.die _).trans (State.die_setDie_same _ _ _)
      · have harg : m.arg = s.arg := by rw [hp.only]; rfl
        rw [hcycle, harg]
        exact State.post_due _ _ _ _
    · have hpick : pickFirst (fun p => s.passAt p == 0) d.ring = some (p, l ++ r) := by
        rw [hring]
        exact pickFirst_append (fun q hq => by rw [← Bool.not_eq_true, State.passAt_eq_zero]; exact hl q hq) (State.passAt_eq_zero.mpr hp)
      exact ⟨_, exec_passCount_leave h1 ha h hpick, State.die_setDie_same _ _ _, rfl, rfl, State.post_due _ _ _ _⟩

/-! ## CTXRD (R79, R277, R336) -/

/-- Reading operands and replacing a context do not interfere. -/
theorem State.commit_setCtx (s : State) (c : CtxId) (x : Ctx) (u : Uses) : (s.setCtx c x).commit u = (s.commit u).setCtx c x := by
  have hstep : ∀ (i : Nat) (m : State), takeStep u s.who.core (m.setCtx c x) i = (takeStep u s.who.core m i).setCtx c x := fun i m => by
    unfold takeStep
    dsimp only
    split <;> rfl
  have hfold : ∀ (l : List Nat) (m : State),
      l.foldl (takeStep u s.who.core) (m.setCtx c x) = (l.foldl (takeStep u s.who.core) m).setCtx c x := fun l => by
    induction l with
    | nil => exact fun _ => rfl
    | cons i l ih => exact fun m => by rw [List.foldl_cons, hstep, ih, List.foldl_cons]
  change (List.range 8).foldl (takeStep u s.who.core)
    (if u.reads.any (fun p => p.1 == 55) then (s.setCtx c x).modCore s.who.core fun k => k.takeM 7 else s.setCtx c x) = _
  change _ = ((List.range 8).foldl (takeStep u s.who.core)
    (if u.reads.any (fun p => p.1 == 55) then s.modCore s.who.core fun k => k.takeM 7 else s)).setCtx c x
  rw [← hfold]
  split <;> rfl

/-- The operands of a CTXRD. -/
def ctxrdUses (d : Reg) (a b : Src) : Uses := { a := some a, b := some b, out := [d], need := 1 }

/-- A CTXRD gives the register of its selector, and sets ctx_z as the bank is gated. -/
theorem ctxrd_gives {s : State} {d : Reg} {a b : Src} (hr : s.Readable (ctxrdUses d a b)) {k : CtxId}
    (hk : k = ⟨s.who.core, (s.vals (ctxrdUses d a b)).a.toNat % 16⟩) {w : Word}
    (hw : s.ctxSel k ((s.vals (ctxrdUses d a b)).b.toNat % 65536) = w) : ∃ t, exec (.ctxrd d a b) s = .next t ∧
      (s.setCtx s.who { s.ctx s.who with ctxz := (s.ctx k).life == .gated }).Wrote t (ctxrdUses d a b) d w ((s.ctx s.who).pc + 8) := by
  set u := ctxrdUses d a b
  set m := s.setCtx s.who { s.ctx s.who with ctxz := (s.ctx k).life == .gated }
  have htook := s.commit_took u
  have hcommit : m.commit u = (s.commit u).modCtx s.who fun x => { x with ctxz := (s.ctx k).life == .gated } := by
    rw [State.modCtx_eq, htook.ctx]
    exact s.commit_setCtx _ _ u
  have hexec : exec (.ctxrd d a b) s = .next ((m.commit u).setReg d w).finish := by
    rw [hcommit, ← hw, hk]
    change execCtxrd d a b s = _
    unfold execCtxrd
    dsimp only
    rw [show s.peek { a := some a, b := some b, out := [d], need := 1 } = _ from hr.peek]
    rfl
  refine ⟨_, hexec, ?_⟩
  have hpc : (m.ctx m.who).pc = (s.ctx s.who).pc := by
    rw [show m.ctx m.who = _ from State.ctx_setCtx_same s s.who _]
  have hwrote := m.wrote u d w ((s.ctx s.who).pc + 8) (hr.notM7 d (by simp [u, ctxrdUses]))
  unfold State.finish
  rw [m.setReg_commit_pc, hpc]
  exact hwrote

section
variable {s : State} {k : CtxId} {sel : Nat}

theorem State.ctxSel_gated (h : (s.ctx k).life = .gated) : s.ctxSel k sel = 0 := by
  unfold State.ctxSel
  dsimp only
  rw [if_pos (by simp [h])]

variable (h : (s.ctx k).life ≠ .gated)
include h

theorem State.ctxSel_scalar (h0 : 0 < sel) (h32 : sel < 32) : s.ctxSel k sel = rd (s.ctx k).s sel 0 := by
  unfold State.ctxSel
  dsimp only
  rw [if_neg (by simp [h]), if_pos h32, if_neg (by simp; omega)]

theorem State.ctxSel_zero (h0 : sel = 0) : s.ctxSel k sel = 0 := by
  subst h0
  unfold State.ctxSel
  dsimp only
  rw [if_neg (by simp [h])]
  rfl

theorem State.ctxSel_vector (h1 : 0x100 ≤ sel) (h2 : sel < 0x180) :
    s.ctxSel k sel = (rd (s.ctx k).v ((sel - 0x100) / 16) 0).extractLsb' (64 * (sel % 16)) 64 := by
  have hreg : bits sel 6 4 = (sel - 0x100) / 16 := by unfold bits; omega
  unfold State.ctxSel
  dsimp only
  rw [if_neg (by simp [h]), if_neg (by omega), if_pos (by simp; omega), hreg]
  apply BitVec.eq_of_toNat_eq
  rw [BitVec.toNat_ofNat, BitVec.extractLsb'_toNat, Nat.shiftRight_eq_div_pow]
  exact Nat.mod_mod _ _

theorem State.ctxSel_predicate (h1 : 0x200 ≤ sel) (h2 : sel < 0x204) :
    s.ctxSel k sel = (rd (s.ctx k).p (sel - 0x200) 0).setWidth 64 := by
  unfold State.ctxSel
  dsimp only
  rw [if_neg (by simp [h]), if_neg (by omega), if_neg (by simp; omega), if_pos (by simp; omega), show sel % 4 = sel - 0x200 by omega]

theorem State.ctxSel_pc : s.ctxSel k 0x300 = (s.ctx k).pc := by
  unfold State.ctxSel
  dsimp only
  rw [if_neg (by simp [h])]
  rfl

theorem State.ctxSel_wid : s.ctxSel k 0x302 = (s.ctx k).wid := by
  unfold State.ctxSel
  dsimp only
  rw [if_neg (by simp [h])]
  rfl

theorem State.ctxSel_waitLimit : s.ctxSel k 0x303 = (s.ctx k).waitLimit.setWidth 64 := by
  unfold State.ctxSel
  dsimp only
  rw [if_neg (by simp [h])]
  rfl

end

/-! ## CTXWR (R79, R277) -/

/-- The dwords of a vector register of which one is replaced. -/
theorem putDwordV_getLsbD (v : VWord) {j n : Nat} (w : Word) (hn : n < 1024) :
    (putDwordV v j w).getLsbD n = if 64 * j ≤ n ∧ n < 64 * j + 64 then w.getLsbD (n - 64 * j) else v.getLsbD n := by
  have hmask : (BitVec.ofNat 1024 (0xFFFFFFFFFFFFFFFF * 2 ^ (64 * j))).getLsbD n = decide (64 * j ≤ n ∧ n < 64 * j + 64) := by
    rw [BitVec.getLsbD_ofNat, Nat.testBit_mul_two_pow, show (0xFFFFFFFFFFFFFFFF : Nat) = 2 ^ 64 - 1 from rfl,
      Nat.testBit_two_pow_sub_one]
    simp only [hn, decide_true, Bool.true_and, Bool.decide_and]
    by_cases h : 64 * j ≤ n
    · simp only [h, decide_true, Bool.true_and]
      exact decide_eq_decide.mpr (by omega)
    · simp [h]
  have hval : (BitVec.ofNat 1024 (w.toNat * 2 ^ (64 * j))).getLsbD n = (decide (64 * j ≤ n) && w.getLsbD (n - 64 * j)) := by
    rw [BitVec.getLsbD_ofNat, Nat.testBit_mul_two_pow, BitVec.testBit_toNat]
    simp [hn]
  unfold putDwordV
  rw [BitVec.getLsbD_or, BitVec.getLsbD_and, BitVec.getLsbD_not, hmask, hval]
  by_cases h1 : 64 * j ≤ n
  · by_cases h2 : n < 64 * j + 64
    · simp [h1, h2]
    · have hw : w.getLsbD (n - 64 * j) = false := BitVec.getLsbD_of_ge _ _ (by omega)
      simp [h1, h2, hn, hw]
  · simp [h1, hn]

theorem putDwordV_same (v : VWord) {j : Nat} (w : Word) (hj : j < 16) : (putDwordV v j w).extractLsb' (64 * j) 64 = w := by
  refine BitVec.eq_of_getLsbD_eq fun i hi => ?_
  rw [BitVec.getLsbD_extractLsb', putDwordV_getLsbD v w (by omega), if_pos (by omega), decide_eq_true hi, Bool.true_and,
    Nat.add_sub_cancel_left]

theorem putDwordV_other (v : VWord) {i j : Nat} (w : Word) (hi : i < 16) (h : i ≠ j) :
    (putDwordV v j w).extractLsb' (64 * i) 64 = v.extractLsb' (64 * i) 64 := by
  refine BitVec.eq_of_getLsbD_eq fun n hn => ?_
  rw [BitVec.getLsbD_extractLsb', BitVec.getLsbD_extractLsb', putDwordV_getLsbD v w (by omega), if_neg (by omega)]

theorem Ctx.wrote_alone {x : Ctx} (h : x.buddy = none) (r : Nat) (w : VWord) : x.wrote r w = x := by
  unfold Ctx.wrote Ctx.modBuddy
  rw [h]
  cases x
  cases h
  rfl

section
variable {x : Ctx} {sel : Nat} (w : Word)

theorem Ctx.putSel_scalar (hb : x.buddy = none) (h0 : 0 < sel) (h32 : sel < 32) :
    x.putSel sel w = { x with s := wr x.s sel w, sFull := sb x.sFull sel true, sPend := sb x.sPend sel false } := by
  unfold Ctx.putSel
  rw [if_pos h32]
  unfold Ctx.setS
  rw [if_neg (by simp; omega), Ctx.wrote_alone hb]

theorem Ctx.putSel_vector (hb : x.buddy = none) {r j : Nat} (hr : r < 8) (hj : j < 16) : x.putSel (0x100 + 16 * r + j) w =
    { x with v := wr x.v r (putDwordV (rd x.v r 0) j w), vFull := sb x.vFull r true, vPend := sb x.vPend r false } := by
  have hreg : bits (0x100 + 16 * r + j) 6 4 = r := by unfold bits; omega
  unfold Ctx.putSel
  dsimp only
  rw [if_neg (by omega), if_pos (by simp; omega), hreg, show (0x100 + 16 * r + j) % 16 = j by omega]
  unfold Ctx.setV
  rw [Ctx.wrote_alone hb]

theorem Ctx.putSel_predicate (h1 : 0x200 ≤ sel) (h2 : sel < 0x204) :
    x.putSel sel w = { x with p := wr x.p (sel - 0x200) (BitVec.ofNat 32 w.toNat) } := by
  unfold Ctx.putSel
  dsimp only
  rw [if_neg (by omega), if_neg (by simp; omega), if_pos (by simp; omega), show sel % 4 = sel - 0x200 by omega]
  rfl

theorem Ctx.putSel_none (h : sel = 0 ∨ sel = 0x302 ∨ sel = 0x304 ∨ 0x305 ≤ sel) : x.putSel sel w = x := by
  obtain rfl | rfl | rfl | h := h
  · rfl
  · rfl
  · rfl
  · unfold Ctx.putSel
    simp only [beq_iff_eq, Bool.and_eq_true, decide_eq_true_eq]
    iterate 6 rw [if_neg (by omega)]

end

/-- The operands of a CTXWR. -/
def ctxwrUses (a b c : Src) : Uses := { a := some a, b := some b, c := some c, need := 1 }

theorem exec_ctxwr {s : State} {a b c : Src} (hr : s.Readable (ctxwrUses a b c)) {k : CtxId}
    (hk : k = ⟨s.who.core, (s.vals (ctxwrUses a b c)).a.toNat % 16⟩) {m : State} (hm : m = (s.commit (ctxwrUses a b c)).finish) :
    exec (.ctxwr a b c) s = .next (
      if (m.ctx k).life = .parked ∨ (m.ctx k).life = .trapped then
        m.setCtx k ((m.ctx k).putSel ((s.vals (ctxwrUses a b c)).b.toNat % 65536) (s.vals (ctxwrUses a b c)).c)
      else m) := by
  rw [hm, hk]
  change execCtxwr a b c s = _
  unfold execCtxwr
  dsimp only
  rw [show s.peek { a := some a, b := some b, c := some c, need := 1 } = _ from hr.peek]
  simp only [Bool.or_eq_true, beq_iff_eq]
  rfl

/-- An issue that passes on, and a write of another context. -/
theorem State.Passed.setCtx {s t : State} {x : Ctx} {l : Core} (h : s.Passed t x l) {k : CtxId} (hk : k.key ≠ s.who.key) (y : Ctx) :
    (s.setCtx k y).Passed (t.setCtx k y) x l := by
  obtain ⟨issued, ctx, contexts, core, cores, bytes⟩ := h
  have hs : (s.setCtx k y).ctx s.who = s.ctx s.who := State.ctx_setCtx_other _ _ _ _ (Ne.symm hk)
  have ht : (t.setCtx k y).ctx s.who = t.ctx s.who := State.ctx_setCtx_other _ _ _ _ (Ne.symm hk)
  obtain ⟨hpc, hwait, hready, hcount⟩ := issued
  refine ⟨⟨?_, ?_, ?_, ?_⟩, ?_, fun c hc => ?_, core, cores, bytes⟩
  · change ((t.setCtx k y).ctx s.who).pc = ((s.setCtx k y).ctx s.who).pc + 8
    rw [hs, ht]; exact hpc
  · change ((t.setCtx k y).ctx s.who).wait = _
    rw [ht]; exact hwait
  · change ((t.setCtx k y).ctx s.who).readyAt = _
    rw [ht]; exact hready
  · change ((t.setCtx k y).ctx s.who).insCount = ((s.setCtx k y).ctx s.who).insCount + 1
    rw [hs, ht]; exact hcount
  · rw [show (t.setCtx k y).ctx (s.setCtx k y).who = t.ctx s.who from ht]
    exact ctx
  · by_cases hck : c.key = k.key
    · rw [State.ctx_setCtx_key _ _ hck, State.ctx_setCtx_key _ _ hck]
    · rw [State.ctx_setCtx_other _ _ _ _ hck, State.ctx_setCtx_other _ _ _ _ hck]
      exact contexts c hc

/-- The second part of O42. -/
theorem State.contextRegisters : Claims.ContextRegisters := by
  intro s d a b c
  refine ⟨?_, ?_⟩
  · intro u k sel x gives hr
    have hgives {w : Word} (hw : s.ctxSel k sel = w) : gives w := ctxrd_gives hr rfl hw
    have hsel : (s.vals u).b.toNat % 65536 = sel := rfl
    clear_value sel
    refine ⟨fun h => hgives (State.ctxSel_gated h), fun h => ⟨fun h0 h32 => hgives (State.ctxSel_scalar h h0 h32),
      fun h0 => hgives (State.ctxSel_zero h h0), fun h1 h2 => hgives (State.ctxSel_vector h h1 h2),
      fun h1 h2 => hgives (State.ctxSel_predicate h h1 h2), fun h0 => hgives (h0 ▸ State.ctxSel_pc h),
      fun h0 => hgives (h0 ▸ State.ctxSel_wid h), fun h0 => hgives (h0 ▸ State.ctxSel_waitLimit h)⟩⟩
  · intro u k sel w x core leaves hr
    set m := (s.commit u).finish with hm
    have hpass : s.Passed m (s.ctx s.who) core := s.commit_passed u
    have hlife : (m.ctx k).life = x.life := by
      by_cases hk : k.key = s.who.key
      · have hlife : (m.ctx s.who).life = (s.ctx s.who).life := by rw [hpass.ctx]
        have hwho : k = s.who := CtxId.eq_of_key rfl hk
        change (m.ctx k).life = (s.ctx k).life
        rw [hwho]
        exact hlife
      · rw [hpass.contexts k hk]
    have hexec : exec (.ctxwr a b c) s = .next (
        if (m.ctx k).life = .parked ∨ (m.ctx k).life = .trapped then m.setCtx k ((m.ctx k).putSel sel w) else m) :=
      exec_ctxwr hr rfl hm
    refine ⟨fun h1 h2 => ⟨_, hexec.trans (by rw [if_neg]; rw [hlife]; exact fun h => h.elim h1 h2), hpass⟩, fun h hk hb => ?_⟩
    have hctx : m.ctx k = x := hpass.contexts k hk
    have hleaves {y : Ctx} (hy : x.putSel sel w = y) : leaves y := by
      refine ⟨_, hexec.trans (by rw [if_pos (by rw [hlife]; exact h), hctx]), ?_⟩
      rw [State.ctx_setCtx_other _ _ _ _ (Ne.symm hk)]
      rw [← hy]
      exact hpass.setCtx hk _
    have hsel : (s.vals u).b.toNat % 65536 = sel := rfl
    clear_value sel
    refine ⟨fun h0 h32 => hleaves (Ctx.putSel_scalar w hb h0 h32), fun h1 h2 => hleaves (Ctx.putSel_predicate w h1 h2),
      fun h0 => hleaves (h0 ▸ rfl), fun h0 => hleaves (h0 ▸ rfl), fun h0 => hleaves (Ctx.putSel_none w h0), fun r j hr hj h0 => ?_⟩
    exact ⟨putDwordV (rd x.v r 0) j w, putDwordV_same _ w hj, fun i hi hne => putDwordV_other _ w hi hne,
      hleaves (h0 ▸ Ctx.putSel_vector w hb hr hj)⟩

/-- Settles O42: writes with effects, and the registers of other contexts. -/
theorem registerEffects : Obligations.RegisterEffects := ⟨State.registerWrites, State.contextRegisters⟩

end Sys2Proof.Machine
end

section
/-! Passes, and the starts of MATX (O60). -/

namespace Sys2Proof.Machine

/-! ## Commands of an octet (R234) -/

theorem MxuCmd.matx_eq_some {c : MxuCmd} {x : Matx} : c.matx = some x ↔ c.cmd = .matx x := by
  unfold MxuCmd.matx
  split
  next y h => simp [h]
  next h => exact ⟨fun h' => by simp at h', fun h' => absurd h' (h x)⟩

theorem State.matx_eq_some {s : State} {o id : Nat} {c : MxuCmd} {x : Matx} : s.matx o id = some (c, x) ↔
    (s.octet o).mxu.findCmd id = some c ∧ c.cmd = .matx x := by
  unfold State.matx
  simp only [Option.bind_eq_some_iff, Option.map_eq_some_iff, Prod.mk.injEq, MxuCmd.matx_eq_some]
  constructor
  · rintro ⟨d, hd, y, hy, rfl, rfl⟩
    exact ⟨hd, hy⟩
  · rintro ⟨hc, hx⟩
    exact ⟨c, hc, x, hx, rfl, rfl⟩

theorem State.matx_id {s : State} {o id : Nat} {c : MxuCmd} {x : Matx} (h : s.matx o id = some (c, x)) : c.id = id := by
  obtain ⟨hc, -⟩ := State.matx_eq_some.mp h
  simpa using List.find?_some hc

theorem State.matx_of_cmds {s t : State} {o : Nat} (h : (t.octet o).mxu.cmds = (s.octet o).mxu.cmds) (id : Nat) :
    t.matx o id = s.matx o id := by
  unfold State.matx Mxu.findCmd
  rw [h]

theorem State.Posted.matx {s t : State} (h : s.Posted t) (o id : Nat) : t.matx o id = s.matx o id :=
  State.matx_of_cmds (by rw [h.octet]) id

theorem State.matx_setOctet {s : State} {o : Nat} {x : Octet} (h : x.mxu.cmds = (s.octet o).mxu.cmds) (p id : Nat) :
    (s.setOctet o x).matx p id = s.matx p id := by
  apply State.matx_of_cmds
  by_cases hp : p = o
  · rw [hp, State.octet_setOctet_same, h]
  · rw [State.octet_setOctet_other _ _ _ _ hp]

theorem State.octet_modMxu_same (s : State) (o : Nat) (f : Mxu → Mxu) : (s.modMxu o f).octet o = { s.octet o with mxu := f (s.octet o).mxu } :=
  State.octet_setOctet_same _ _ _

theorem State.matx_modMxu {s : State} {o : Nat} {f : Mxu → Mxu} (h : (f (s.octet o).mxu).cmds = (s.octet o).mxu.cmds) (p id : Nat) :
    (s.modMxu o f).matx p id = s.matx p id :=
  State.matx_setOctet h p id

/-- What a change of a MATX makes of a command. -/
def MxuCmd.onMatx (f : Matx → Matx) (c : MxuCmd) : MxuCmd :=
  match c.cmd with
  | .matx x => { c with cmd := .matx (f x) }
  | _ => c

theorem MxuCmd.onMatx_id (f : Matx → Matx) (c : MxuCmd) : (c.onMatx f).id = c.id := by
  unfold MxuCmd.onMatx
  split <;> rfl

theorem MxuCmd.onMatx_matx {f : Matx → Matx} {c : MxuCmd} {x : Matx} (h : c.cmd = .matx x) :
    c.onMatx f = { c with cmd := .matx (f x) } := by
  unfold MxuCmd.onMatx
  rw [h]

/-- A change of a MATX changes that one alone. -/
theorem State.matx_modMatx {s : State} {p id : Nat} {c : MxuCmd} {x : Matx} (h : s.matx p id = some (c, x)) (o i : Nat)
    (f : Matx → Matx) : (s.modMatx o i f).matx p id =
      some (if p = o ∧ id = i then ({ c with cmd := .matx (f x) }, f x) else (c, x)) := by
  have hid := State.matx_id h
  obtain ⟨hc, hx⟩ := State.matx_eq_some.mp h
  by_cases hp : p = o
  · have hfind : ((s.modMatx o i f).octet p).mxu.findCmd id = some (if c.id == i then c.onMatx f else c) := by
      change ((s.setOctet o _).octet p).mxu.findCmd id = _
      rw [hp, State.octet_setOctet_same]
      change (mapIf (fun d : MxuCmd => d.id == i) (MxuCmd.onMatx f) (s.octet o).mxu.cmds).find? (fun d => d.id == id) = _
      unfold mapIf
      rw [List.find?_map]
      have hcomp : ((fun d : MxuCmd => d.id == id) ∘ fun d => if d.id == i then d.onMatx f else d) = fun d => d.id == id := by
        funext d
        dsimp only [Function.comp]
        split
        · rw [MxuCmd.onMatx_id]
        · rfl
      rw [hcomp, ← hp, show List.find? _ _ = some c from hc]
      rfl
    by_cases hi : id = i
    · rw [if_pos ⟨hp, hi⟩]
      rw [if_pos (by simp [hid, hi]), MxuCmd.onMatx_matx hx] at hfind
      exact State.matx_eq_some.mpr ⟨hfind, rfl⟩
    · rw [if_neg (fun h => hi h.2)]
      rw [if_neg (by simp [hid, hi])] at hfind
      exact State.matx_eq_some.mpr ⟨hfind, hx⟩
  · rw [if_neg (fun h => hp h.1), ← h]
    apply State.matx_of_cmds
    change ((s.setOctet o _).octet p).mxu.cmds = _
    rw [State.octet_setOctet_other _ _ _ _ hp]

/-! ## Passes (R163, R164) -/

theorem mem_append_cons {α : Type} {l r : List α} {a : α} : a ∈ l ++ a :: r := List.mem_append_right _ List.mem_cons_self

/-- The cycles until a pass reaches an octet, one that stands there now having gone round. -/
def State.passGap (s : State) (o p : Nat) : Nat := (o % 240 + 239 - s.passAt p) % 240 + 1

/-- A pass stands at an octet when its gap is over, and not sooner. -/
theorem State.passGap_spec (s : State) (o p : Nat) : (p + s.cycle + s.passGap o p) % 240 = o % 240 ∧ 1 ≤ s.passGap o p ∧
    ∀ h, 1 ≤ h → h < s.passGap o p → (p + s.cycle + h) % 240 ≠ o % 240 := by
  unfold State.passGap State.passAt
  refine ⟨by omega, by omega, fun h h1 h2 => by omega⟩

/-- The least of a list's first element and its others. -/
theorem foldl_min_spec (r : List Nat) (g : Nat) : (r.foldl min g = g ∨ r.foldl min g ∈ r) ∧ r.foldl min g ≤ g ∧ ∀ a ∈ r, r.foldl min g ≤ a := by
  induction r generalizing g with
  | nil => simp
  | cons b r ih =>
    obtain ⟨hmem, hle, hall⟩ := ih (min g b)
    rw [List.foldl_cons]
    refine ⟨?_, hle.trans (min_le_left _ _), fun a ha => ?_⟩
    · obtain h | h := hmem
      · rcases Nat.le_total g b with hgb | hgb
        · left; rw [h, min_eq_left hgb]
        · right; rw [h, min_eq_right hgb]; exact List.mem_cons_self
      · exact .inr (List.mem_cons_of_mem _ h)
    · obtain rfl | ha := List.mem_cons.mp ha
      · exact hle.trans (min_le_right _ _)
      · exact hall a ha

theorem State.askPass_empty {s : State} {o : Nat} (h : (s.die (octetDie o)).ring = []) : s.askPass o = s := by
  unfold State.askPass
  rw [h]
  rfl

/-- An octet waits for the first pass of the ring that comes to it. -/
theorem State.askPass_first {s : State} {o : Nat} (h : (s.die (octetDie o)).ring ≠ []) : ∃ g,
    s.askPass o = s.post (s.cycle + g) .passArrive { octet := o } ∧ (∃ q ∈ (s.die (octetDie o)).ring, s.passGap o q = g) ∧
      ∀ q ∈ (s.die (octetDie o)).ring, g ≤ s.passGap o q := by
  obtain ⟨p, r, hring⟩ := List.exists_cons_of_ne_nil h
  obtain ⟨hmem, hle, hall⟩ := foldl_min_spec (r.map (s.passGap o)) (s.passGap o p)
  refine ⟨(r.map (s.passGap o)).foldl min (s.passGap o p), ?_, ?_, fun q hq => ?_⟩
  · unfold State.askPass
    rw [hring]
    rfl
  · rw [hring]
    obtain hmem | hmem := hmem
    · exact ⟨p, List.mem_cons_self, hmem.symm⟩
    · obtain ⟨q, hq, he⟩ := List.mem_map.mp hmem
      exact ⟨q, List.mem_cons_of_mem _ hq, he⟩
  · rw [hring] at hq
    obtain rfl | hq := List.mem_cons.mp hq
    · exact hle
    · exact hall _ (List.mem_map_of_mem hq)

theorem State.passAt_beq {s : State} {p i : Nat} : (s.passAt p == i % 240) = true ↔ (p + s.cycle + 0) % 240 = i % 240 := by
  unfold State.passAt
  simp

theorem pickFirst_eq_none {α : Type} {f : α → Bool} {l : List α} (h : ∀ b ∈ l, f b = false) : pickFirst f l = none := by
  induction l with
  | nil => rfl
  | cons b l ih => simp [pickFirst, h b List.mem_cons_self, ih fun c hc => h c (List.mem_cons_of_mem _ hc)]

section
variable {s : State}

theorem exec_passArrive_idle (h : (s.octet s.arg.octet).pass ≠ none ∨ (s.octet s.arg.octet).mxu.wantsPass = false ∨
    (s.die (octetDie s.arg.octet)).passCount = 0) : exec .passArrive s = .next s := by
  change execPassArrive s = _
  unfold execPassArrive
  dsimp only
  rw [if_pos]
  rcases h with h | h | h
  · rw [Option.isSome_iff_ne_none.mpr h]; rfl
  · simp [h]
  · simp [h]

section
variable (hp : (s.octet s.arg.octet).pass = none) (hw : (s.octet s.arg.octet).mxu.wantsPass = true)
  (hc : (s.die (octetDie s.arg.octet)).passCount ≠ 0)
include hp hw hc

theorem exec_passArrive_waits (h : pickFirst (fun p => s.passAt p == s.arg.octet % 240) (s.die (octetDie s.arg.octet)).ring = none) :
    exec .passArrive s = .next (s.askPass s.arg.octet) := by
  change execPassArrive s = _
  unfold execPassArrive
  dsimp only
  rw [if_neg (by simp [hp, hw, hc]), h]

/-- A state whose octet has taken a pass from the ring. -/
def State.takePass (s : State) (r : List Nat) : State :=
  (s.setDie (octetDie s.arg.octet) { s.die (octetDie s.arg.octet) with ring := r }).setOctet s.arg.octet
    { s.octet s.arg.octet with pass := some s.cycle }

theorem exec_passArrive_takes {p : Nat} {r : List Nat}
    (h : pickFirst (fun p => s.passAt p == s.arg.octet % 240) (s.die (octetDie s.arg.octet)).ring = some (p, r)) :
    exec .passArrive s = .next (((s.takePass r).tryStarts s.arg.octet).post (s.cycle + 4096) .passRelease { octet := s.arg.octet }) := by
  change execPassArrive s = _
  unfold execPassArrive
  dsimp only
  rw [if_neg (by simp [hp, hw, hc]), h]
  rfl

end

theorem exec_passRelease_none (h : (s.octet s.arg.octet).pass = none) : exec .passRelease s = .next s := by
  change execPassRelease s = _
  unfold execPassRelease
  dsimp only
  rw [h]

theorem exec_passRelease_keeps {t : Nat} (h : (s.octet s.arg.octet).pass = some t) (hk : (s.octet s.arg.octet).mxu.summing = true ∨
    ((s.octet s.arg.octet).mxu.wantsPass = true ∧ s.cycle < t + 4096)) : exec .passRelease s = .next s := by
  change execPassRelease s = _
  unfold execPassRelease
  dsimp only
  rw [h]
  dsimp only
  rw [if_pos]
  simpa using hk

/-- A state whose octet has given its pass back to the ring. -/
def State.givePass (s : State) : State :=
  (s.setOctet s.arg.octet { s.octet s.arg.octet with pass := none }).setDie (octetDie s.arg.octet)
    { s.die (octetDie s.arg.octet) with ring := (s.die (octetDie s.arg.octet)).ring ++ [s.passFrom (s.arg.octet % 240)] }

theorem exec_passRelease_gives {t : Nat} (h : (s.octet s.arg.octet).pass = some t) (hs : (s.octet s.arg.octet).mxu.summing = false)
    (hw : (s.octet s.arg.octet).mxu.wantsPass = false ∨ t + 4096 ≤ s.cycle) :
    exec .passRelease s = .next (s.givePass.pollRing (octetDie s.arg.octet)) := by
  change execPassRelease s = _
  unfold execPassRelease
  dsimp only
  rw [h]
  dsimp only
  rw [if_neg]
  · rfl
  · rcases hw with hw | hw <;> simp [hs, hw]

end

/-- The first part of O60. -/
theorem State.passSteps : Claims.PassSteps := by
  intro s o die x ring stands
  refine ⟨fun h => exec_passArrive_idle h, fun hp hw hc => ⟨fun l p r hring hst hl => ?_, fun hring => ?_, fun hring hst => ?_⟩,
    fun h => exec_passRelease_none h, fun at' hat => ⟨fun h => exec_passRelease_keeps hat h, fun hs hw => ?_⟩⟩
  · have hpick : pickFirst (fun p => s.passAt p == o % 240) ring = some (p, l ++ r) := by
      rw [hring]
      exact pickFirst_append (fun q hq => by rw [← Bool.not_eq_true, State.passAt_beq]; exact hl q hq) (State.passAt_beq.mpr hst)
    set m := s.takePass (l ++ r)
    have hposted : m.Posted (m.tryStarts o) := m.tryStarts_posted o
    have hoctet : m.octet o = { x with pass := some s.cycle } := State.octet_setOctet_same _ _ _
    refine ⟨_, exec_passArrive_takes hp hw hc hpick, ?_, ?_, hposted.mem, hposted.ctxs, hposted.cores, State.post_due _ _ _ _,
      fun c hc y hy hwait => ?_⟩
    · exact congrArg Octet.pass ((hposted.octet o).trans hoctet)
    · exact congrArg Die.ring ((hposted.die die).trans (State.die_setDie_same _ _ _))
    · exact (State.post_posted _ _ _ _).due (m.tryStarts_due (by rw [hoctet]; exact hc) hy hwait)
  · exact (exec_passArrive_waits hp hw hc (by rw [show (s.die (octetDie s.arg.octet)).ring = [] from hring]; rfl)).trans
      (congrArg _ (State.askPass_empty hring))
  · obtain ⟨g, hask, ⟨q, hq, hg⟩, hmin⟩ := State.askPass_first (s := s) (o := o) hring
    have hnone : pickFirst (fun p => s.passAt p == o % 240) ring = none :=
      pickFirst_eq_none fun b hb => by rw [← Bool.not_eq_true, State.passAt_beq]; exact hst b hb
    refine ⟨g, (exec_passArrive_waits hp hw hc hnone).trans (congrArg _ hask), ⟨q, hq, hg ▸ (s.passGap_spec o q).1⟩,
      fun h h1 hlt b hb => ?_⟩
    exact (s.passGap_spec o b).2.2 h h1 (hlt.trans_le (hmin b hb))
  · have hposted : s.givePass.Posted (s.givePass.pollRing die) := State.pollRing_posted _ _
    refine ⟨_, s.passFrom (o % 240), exec_passRelease_gives hat hs hw, ?_, ?_, ?_, hposted.mem, hposted.ctxs, hposted.cores⟩
    · exact congrArg Octet.pass ((hposted.octet o).trans (State.octet_setOctet_same s o _))
    · exact congrArg Die.ring ((hposted.die die).trans (State.die_setDie_same _ _ _))
    · change (s.passFrom (o % 240) + s.cycle + 0) % 240 = o % 240
      unfold State.passFrom
      omega

/-! ## The array's seats (R246, R247) -/

theorem State.mayStart_iff (s : State) (o : Nat) : s.mayStart o = true ↔ Spec.mayStart s o := by
  unfold State.mayStart Spec.mayStart
  cases (s.octet o).pass <;> simp

theorem State.Posted.mayStart {s t : State} (h : s.Posted t) (o : Nat) : t.mayStart o = s.mayStart o := by
  unfold State.mayStart
  rw [h.die, h.octet, h.cycle]

/-- Whether a MATX waits for the array. -/
def State.awaitsArray (s : State) (o : Nat) (c : MxuCmd) (x : Matx) : Bool :=
  if x.started then !x.sumsDone && x.blocks < x.blockCount else c.taken && !x.failed && x.f.cohort == .c1 && s.mayStart o

theorem State.awaitsArray_iff (s : State) (o : Nat) (c : MxuCmd) (x : Matx) : s.awaitsArray o c x = true ↔ Spec.forArray s o c x := by
  unfold State.awaitsArray Spec.forArray Spec.waiting
  cases hs : x.started
  · simp [← State.mayStart_iff, and_assoc]
  · simp

theorem State.blocksOf_eq (s : State) (o seat : Nat) : s.blocksOf o seat =
    ((s.octet o).mxu.cmds.find? fun c => c.seat == seat && c.matx.any (s.awaitsArray o c)).bind fun c => c.matx.map fun x => (c, x) := rfl

/-- A seat without a MATX for the array gives none. -/
theorem State.blocksOf_none {s : State} {o seat : Nat}
    (h : ∀ d ∈ (s.octet o).mxu.cmds, ∀ y, d.cmd = .matx y → d.seat = seat → ¬ Spec.forArray s o d y) : s.blocksOf o seat = none := by
  have hfind : (s.octet o).mxu.cmds.find? (fun c => c.seat == seat && c.matx.any (s.awaitsArray o c)) = none := by
    rw [List.find?_eq_none]
    intro d hd hmeets
    simp only [Bool.and_eq_true, beq_iff_eq, Option.any_eq_true] at hmeets
    obtain ⟨hseat, y, hy, hawaits⟩ := hmeets
    exact h d hd y (MxuCmd.matx_eq_some.mp hy) hseat ((s.awaitsArray_iff o d y).mp hawaits)
  rw [State.blocksOf_eq, hfind]
  rfl

/-- A seat gives the first of its MATX that waits for the array. -/
theorem State.blocksOf_first {s : State} {o seat : Nat} {l r : List MxuCmd} {c : MxuCmd} {x : Matx}
    (hcmds : (s.octet o).mxu.cmds = l ++ c :: r) (hx : c.cmd = .matx x) (hseat : c.seat = seat) (hfor : Spec.forArray s o c x)
    (hl : ∀ d ∈ l, ∀ y, d.cmd = .matx y → d.seat = seat → ¬ Spec.forArray s o d y) : s.blocksOf o seat = some (c, x) := by
  have hm : c.matx = some x := MxuCmd.matx_eq_some.mpr hx
  have hfind : (s.octet o).mxu.cmds.find? (fun c => c.seat == seat && c.matx.any (s.awaitsArray o c)) = some c := by
    rw [List.find?_eq_some_iff_append]
    refine ⟨by simp [hseat, hm, (s.awaitsArray_iff o c x).mpr hfor], l, r, hcmds, fun d hd => ?_⟩
    rw [Bool.not_eq_true', ← Bool.not_eq_true]
    intro hmeets
    simp only [Bool.and_eq_true, beq_iff_eq, Option.any_eq_true] at hmeets
    obtain ⟨hs, y, hy, hawaits⟩ := hmeets
    exact hl d hd y (MxuCmd.matx_eq_some.mp hy) hs ((s.awaitsArray_iff o d y).mp hawaits)
  rw [State.blocksOf_eq, hfind]
  change c.matx.map _ = _
  rw [hm]
  rfl

/-- The first number below a bound that gives a value gives it. -/
theorem findSome?_range_first {α : Type} {f : Nat → Option α} {k n : Nat} {a : α} (hn : n < k) (hf : f n = some a)
    (hlt : ∀ i, i < n → f i = none) : (List.range k).findSome? f = some a := by
  obtain ⟨d, rfl⟩ : ∃ d, k = n + 1 + d := ⟨k - (n + 1), by omega⟩
  have hnone : (List.range n).findSome? f = none := List.findSome?_eq_none_iff.mpr fun i hi => hlt i (List.mem_range.mp hi)
  rw [List.range_add, List.range_succ, List.findSome?_append, List.findSome?_append, hnone]
  simp [hf]

/-! ## Starts (R246, R248) -/

section
variable {s : State}

theorem exec_matxStart_none (h : s.matx s.arg.octet s.arg.id = none) : exec .matxStart s = .next s := by
  change execMatxStart s = _
  unfold execMatxStart
  dsimp only
  rw [h]

theorem exec_matxStart_idle {c : MxuCmd} {x : Matx} (h : s.matx s.arg.octet s.arg.id = some (c, x)) (hw : ¬ Spec.waiting c x) :
    exec .matxStart s = .next s := by
  change execMatxStart s = _
  unfold execMatxStart
  dsimp only
  rw [h]
  dsimp only
  rw [if_pos]
  unfold Spec.waiting at hw
  cases ht : c.taken <;> cases hs : x.started <;> cases hf : x.failed <;> simp_all

/-- The state in which a MATX looks for its start: its octet has asked for a pass where it holds none. -/
def State.askStart (s : State) (o : Nat) : State := if (s.octet o).pass.isNone then s.askPass o else s

theorem State.askStart_posted (s : State) (o : Nat) : s.Posted (s.askStart o) := by
  unfold State.askStart
  split
  · exact s.askPass_posted o
  · exact .refl s

theorem State.askStart_held {s : State} {o : Nat} (h : (s.octet o).pass ≠ none) : s.askStart o = s := by
  unfold State.askStart
  rw [if_neg (by simpa using h)]

section
variable {c : MxuCmd} {x : Matx} (h : s.matx s.arg.octet s.arg.id = some (c, x)) (hw : Spec.waiting c x)
include h hw

/-- A MATX of a cohort that waits looks at its members. -/
theorem exec_matxStart_cohort (hc : x.f.cohort ≠ .c1) : exec .matxStart s =
    .next ((s.askStart s.arg.octet).post s.cycle .cohortStart { octet := s.arg.octet, id := c.id }) := by
  obtain ⟨ht, hs, hf⟩ := hw
  rw [← (s.askStart_posted s.arg.octet).cycle]
  change execMatxStart s = _
  unfold execMatxStart
  dsimp only
  rw [h]
  dsimp only
  rw [if_neg (by simp [ht, hs, hf]), if_pos (by simpa using hc)]
  rfl

/-- Another MATX that waits asks for the array, where its octet's pass lets it start. -/
theorem exec_matxStart_alone (hc : x.f.cohort = .c1) : exec .matxStart s = .next (
    if (s.askStart s.arg.octet).mayStart s.arg.octet then
      (s.askStart s.arg.octet).post s.cycle .arrayGrant { octet := s.arg.octet }
    else s.askStart s.arg.octet) := by
  obtain ⟨ht, hs, hf⟩ := hw
  rw [← (s.askStart_posted s.arg.octet).cycle, apply_ite Host.Outcome.next]
  change execMatxStart s = _
  unfold execMatxStart
  dsimp only
  rw [h]
  dsimp only
  rw [if_neg (by simp [ht, hs, hf]), if_neg (by rw [hc]; exact Bool.false_ne_true)]
  rfl

end

end

/-- A dense start samples its operands, and gives its slot their shape. -/
theorem State.startMatx_dense {m : State} {o : Nat} {c : MxuCmd} {x : Matx} {ca cb : Nat} {xa xb : Matx} {ia ib : Shape}
    (hx : c.cmd = .matx x) (hlat : m.latent = []) (ha : xa.sa.info = some ia) (hb : xb.sb.info = some ib)
    (hd : xa.f.sparse = .dense) (hA : m.planesBad ca xa.f.ta.toNat ia = false) (hB : m.planesBad cb xb.f.tb.toNat ib = false) :
    m.startMatx o c ca xa cb xb = ((m.modMatx o c.id fun y => Spec.started m y ca xa ia cb xb ib).modSlot o x.f.acc.toNat
      fun t => { t with m := ia.rows, n := ib.cols }).kickTake o := by
  have hmeet : ∀ core t i, m.meetPlanes core t i = m := fun core t i => by
    unfold State.meetPlanes
    rw [State.meetErrors_latent hlat, State.meetErrors_latent hlat]
  unfold State.startMatx
  rw [ha, hb]
  dsimp only
  rw [hmeet, hmeet, hd]
  simp only [hA, hB, MxuCmd.matx_eq_some.mpr hx, beq_self_eq_true, if_true, bne_self_eq_false, Bool.false_and, Bool.or_false,
    Bool.false_eq_true, if_false]
  rfl

/-- What a start does to the MATX of its octet: that one is started with the operands, and the others are as they were. -/
theorem State.matx_startMatx {m : State} {o : Nat} {c : MxuCmd} {x : Matx} {ca cb : Nat} {xa xb : Matx} {ia ib : Shape}
    (hx : c.cmd = .matx x) (hlat : m.latent = []) (ha : xa.sa.info = some ia) (hb : xb.sb.info = some ib)
    (hd : xa.f.sparse = .dense) (hA : m.planesBad ca xa.f.ta.toNat ia = false) (hB : m.planesBad cb xb.f.tb.toNat ib = false)
    {p id : Nat} {e : MxuCmd} {z : Matx} (hz : m.matx p id = some (e, z)) :
    (m.startMatx o c ca xa cb xb).matx p id = some (if p = o ∧ id = c.id
      then ({ e with cmd := .matx (Spec.started m z ca xa ia cb xb ib) }, Spec.started m z ca xa ia cb xb ib) else (e, z)) := by
  rw [State.startMatx_dense hx hlat ha hb hd hA hB]
  refine ((State.post_posted _ _ _ _).matx p id).trans ((State.matx_modMxu ?_ p id).trans (State.matx_modMatx hz o c.id _))
  rfl

/-- `t` is `s` but for the octets and the steps that are due. -/
def State.OctetsOnly (s t : State) : Prop := t = { s with octets := t.octets, agenda := t.agenda, seq := t.seq }

/-- A start changes octets alone, and in them its MATX and its slot. -/
theorem State.startMatx_frame {m : State} {o : Nat} {c : MxuCmd} {x : Matx} {ca cb : Nat} {xa xb : Matx} {ia ib : Shape}
    (hx : c.cmd = .matx x) (hlat : m.latent = []) (ha : xa.sa.info = some ia) (hb : xb.sb.info = some ib)
    (hd : xa.f.sparse = .dense) (hA : m.planesBad ca xa.f.ta.toNat ia = false) (hB : m.planesBad cb xb.f.tb.toNat ib = false) :
    m.OctetsOnly (m.startMatx o c ca xa cb xb) ∧ m.Extends (m.startMatx o c ca xa cb xb) ∧
      ((m.startMatx o c ca xa cb xb).octet o).mxu.lastBlock = (m.octet o).mxu.lastBlock := by
  rw [State.startMatx_dense hx hlat ha hb hd hA hB]
  refine ⟨rfl, ⟨rfl, Nat.le_succ _, fun p hp => List.mem_cons_of_mem _ hp, fun p hp => hp⟩, ?_⟩
  rw [show (State.kickTake _ o).octet o = _ from (State.post_posted _ _ _ _).octet o]
  unfold State.modSlot State.modMatx State.modCmd
  rw [State.octet_modMxu_same, State.octet_modMxu_same]

section
variable {s : State}

theorem exec_arrayGrant_granted (h : (s.octet s.arg.octet).mxu.grant ≠ none) : exec .arrayGrant s = .next s := by
  change execArrayGrant s = _
  unfold execArrayGrant
  dsimp only
  rw [if_pos (Option.isSome_iff_ne_none.mpr h)]

section
variable (hg : (s.octet s.arg.octet).mxu.grant = none)
include hg

theorem exec_arrayGrant_none
    (h : ∀ i, i < 8 → s.blocksOf s.arg.octet (((s.octet s.arg.octet).mxu.ptr + i) % 8) = none) : exec .arrayGrant s = .next s := by
  change execArrayGrant s = _
  unfold execArrayGrant
  dsimp only
  rw [if_neg (by simp [hg]), List.findSome?_eq_none_iff.mpr fun i hi => h i (List.mem_range.mp hi)]

/-- The array's grant goes to the first seat from the pointer that has a MATX for it; a MATX that has started runs its next block. -/
theorem exec_arrayGrant_found {n : Nat} {c e : MxuCmd} {x y : Matx} {t : State} (hn : n < 8)
    (hfound : s.blocksOf s.arg.octet (((s.octet s.arg.octet).mxu.ptr + n) % 8) = some (c, x))
    (hbefore : ∀ i, i < n → s.blocksOf s.arg.octet (((s.octet s.arg.octet).mxu.ptr + i) % 8) = none)
    (ht : t = if x.started then s else s.startMatx s.arg.octet c c.who.core x c.who.core x)
    (hy : t.matx s.arg.octet c.id = some (e, y)) (hstarted : y.started = true) : exec .arrayGrant s = .next
      ((t.modMxu s.arg.octet fun m => { m with grant := some (e.seat, (t.coreAt e.who.core).weight.toNat - 1) }).startBlock
        s.arg.octet e y) := by
  change execArrayGrant s = _
  unfold execArrayGrant
  dsimp only
  rw [if_neg (by simp [hg]), findSome?_range_first hn hfound hbefore]
  dsimp only
  rw [← ht, hy]
  dsimp only
  rw [if_pos hstarted]

end

end

/-- A grant that runs a block, with the fill of a block that follows another of its MATX or does not. -/
theorem State.startBlock_granted {t : State} {o : Nat} {e : MxuCmd} {y : Matx} (hy : t.matx o e.id = some (e, y)) (w : Nat) :
    let u := (t.modMxu o fun m => { m with grant := some (e.seat, w) }).startBlock o e y
    (u.octet o).mxu.grant = some (e.seat, w) ∧ u.mem = t.mem ∧ u.ctxs = t.ctxs ∧ u.cores = t.cores ∧ u.matx o e.id = some (e, y) ∧
      u.Due (t.cycle + y.blockTime + if (t.octet o).mxu.lastBlock = some (e.id, t.cycle) then 0 else 112) .blockEnd
        { octet := o, id := e.id } := by
  intro u
  have hoctet : (t.modMxu o fun m => { m with grant := some (e.seat, w) }).octet o =
      { t.octet o with mxu := { (t.octet o).mxu with grant := some (e.seat, w) } } := State.octet_setOctet_same _ _ _
  have hposted : (t.modMxu o fun m => { m with grant := some (e.seat, w) }).Posted u := State.post_posted _ _ _ _
  refine ⟨by rw [hposted.octet, hoctet], rfl, rfl, rfl, ?_, ?_⟩
  · rw [hposted.matx, ← hy]
    apply State.matx_modMxu
    rfl
  · have hfill : (if ((t.modMxu o fun m => { m with grant := some (e.seat, w) }).octet o).mxu.lastBlock == some (e.id, t.cycle) then 0
        else 112) = if (t.octet o).mxu.lastBlock = some (e.id, t.cycle) then 0 else 112 := by
      rw [hoctet]
      simp only [beq_iff_eq]
    rw [← hfill]
    exact State.post_due _ _ _ _

/-- The second part of O60. -/
theorem State.matxStarts : Claims.MatxStarts := by
  intro s o m
  refine ⟨exec_matxStart_none, fun c x hcx => ⟨exec_matxStart_idle hcx, fun hw => ⟨fun hp => ?_, fun hp hc => ?_, fun hp hc => ?_⟩⟩,
    exec_arrayGrant_granted, fun hnone => ?_, fun n l c r x hn hg hcmds hx hcx hseat hfor hbefore hl => ?_⟩
  · have hask : s.Posted (s.askStart o) := s.askStart_posted o
    have hpoll : (s.die (octetDie o)).ring ≠ [] → ∃ p ∈ (s.askStart o).agenda, p.ev = .passArrive ∧ p.arg = { octet := o } := by
      intro hring
      obtain ⟨g, hg, -⟩ := State.askPass_first hring
      have : s.askStart o = _ := (if_pos (by rw [hp]; rfl)).trans hg
      rw [this]
      exact ⟨_, List.mem_cons_self, rfl, rfl⟩
    have hkeep : ∀ t, (s.askStart o).Posted t → t.octets = s.octets ∧ t.mem = s.mem ∧
        ((s.die (octetDie o)).ring ≠ [] → ∃ p ∈ t.agenda, p.ev = .passArrive ∧ p.arg = { octet := o }) := by
      intro t ht
      refine ⟨by rw [(hask.trans ht).only], (hask.trans ht).mem, fun hring => ?_⟩
      obtain ⟨p, hp, he⟩ := hpoll hring
      exact ⟨p, ht.grows.agenda p hp, he⟩
    by_cases hc : x.f.cohort = .c1
    · rw [exec_matxStart_alone hcx hw hc]
      refine ⟨_, rfl, ?_⟩
      have ht : (s.askStart o).Posted (if (s.askStart o).mayStart o then
          (s.askStart o).post s.cycle .arrayGrant { octet := o } else s.askStart o) := by
        split
        · exact State.post_posted _ _ _ _
        · exact .refl _
      obtain ⟨h1, h2, h3⟩ := hkeep _ ht
      exact ⟨h1, h2, h3, fun hne => absurd hc hne⟩
    · rw [exec_matxStart_cohort hcx hw hc]
      obtain ⟨h1, h2, h3⟩ := hkeep _ (State.post_posted _ s.cycle .cohortStart { octet := o, id := c.id })
      exact ⟨_, rfl, h1, h2, h3, fun _ => State.post_due _ _ _ _⟩
  · rw [exec_matxStart_cohort hcx hw hc, State.askStart_held hp]
  · rw [exec_matxStart_alone hcx hw hc, State.askStart_held hp]
    exact ⟨fun h => by rw [if_pos ((s.mayStart_iff o).mpr h)], fun h => by rw [if_neg (mt (s.mayStart_iff o).mp h)]⟩
  · by_cases hg : (s.octet s.arg.octet).mxu.grant = none
    · refine exec_arrayGrant_none hg fun i _ => State.blocksOf_none fun d hd y hy hs => ?_
      exact hnone d hd y hy (hs ▸ Nat.mod_lt _ (by decide))
    · exact exec_arrayGrant_granted hg
  · intro granted
    have hfound : s.blocksOf o ((m.ptr + n) % 8) = some (c, x) :=
      State.blocksOf_first hcmds hx hseat hfor fun d hd y hy hs => hl d hd y hy (hs.trans hseat.symm)
    have hfirst : ∀ i, i < n → s.blocksOf o ((m.ptr + i) % 8) = none := fun i hi =>
      State.blocksOf_none fun d hd y hy hs => hbefore d hd y i hy hi hs
    refine ⟨fun hst => ?_, fun a b hst ha hb hlat hA hB hd => ?_⟩
    · have hc : { c with cmd := .matx x } = c := by rw [← hx]
      refine ⟨_, exec_arrayGrant_found hg hn hfound hfirst (if_pos hst).symm hcx hst, ?_⟩
      obtain ⟨h1, h2, h3, h4, h5, h6⟩ := State.startBlock_granted hcx ((s.coreAt c.who.core).weight.toNat - 1)
      exact ⟨h1, h2, h3, h4, hc.symm ▸ h5, h6⟩
    · obtain ⟨honly, hext, hlast⟩ := State.startMatx_frame (o := o) hx hlat ha hb hd hA hB
      have hy := State.matx_startMatx (o := o) hx hlat ha hb hd hA hB hcx
      rw [if_pos ⟨rfl, rfl⟩] at hy
      refine ⟨_, exec_arrayGrant_found hg hn hfound hfirst (if_neg (by rw [hst]; exact Bool.false_ne_true)).symm hy rfl, ?_⟩
      obtain ⟨h1, h2, h3, h4, h5, h6⟩ := State.startBlock_granted
        (e := { c with cmd := .matx (Spec.started s x c.who.core x a c.who.core x b) }) hy
        (((s.startMatx o c c.who.core x c.who.core x).coreAt c.who.core).weight.toNat - 1)
      have hcores : (s.startMatx o c c.who.core x c.who.core x).cores = s.cores := by rw [honly]
      have hcore : (s.startMatx o c c.who.core x c.who.core x).coreAt c.who.core = s.coreAt c.who.core := by
        unfold State.coreAt
        rw [hcores]
      rw [hext.cycle, hlast] at h6
      exact ⟨h1.trans (by rw [hcore]), h2.trans (by rw [honly]), h3.trans (by rw [honly]), h4.trans hcores, h5, h6⟩

/-! ## Refusal of a MATX (R329) -/

/-- `t` is `s` in memory and contexts, and in its cores but for what they hold in the slots. -/
structure State.KeptOnly (s t : State) : Prop where
  mem : t.mem = s.mem
  ctxs : t.ctxs = s.ctxs
  core : ∀ k, { t.coreAt k with kept := (s.coreAt k).kept } = s.coreAt k

theorem State.KeptOnly.refl (s : State) : s.KeptOnly s := ⟨rfl, rfl, fun _ => rfl⟩

theorem State.KeptOnly.trans {s t u : State} (h : s.KeptOnly t) (g : t.KeptOnly u) : s.KeptOnly u := by
  refine ⟨g.mem.trans h.mem, g.ctxs.trans h.ctxs, fun k => ?_⟩
  have hu := congrArg (fun x : Core => { x with kept := (s.coreAt k).kept }) (g.core k)
  exact hu.trans (h.core k)

theorem State.Posted.keptOnly {s t : State} (h : s.Posted t) : s.KeptOnly t :=
  ⟨h.mem, h.ctxs, fun k => by rw [h.coreAt]⟩

theorem State.setOctet_keptOnly (s : State) (o : Nat) (x : Octet) : s.KeptOnly (s.setOctet o x) := ⟨rfl, rfl, fun _ => rfl⟩

theorem State.resetKept_keptOnly (s : State) (o core acc : Nat) : s.KeptOnly (s.resetKept o core acc) := by
  refine ⟨rfl, rfl, fun k => ?_⟩
  by_cases hk : k = core
  · rw [hk, show (s.resetKept o core acc).coreAt core = _ from State.coreAt_setCore_same _ _ _]
  · rw [show (s.resetKept o core acc).coreAt k = _ from State.coreAt_setCore_other _ _ _ _ hk]

/-- The notice of a refused MATX, its completion and the steps that follow. -/
def State.reportRefusal (s : State) (o : Nat) (c : MxuCmd) (x : Matx) (cause : Nat) : State :=
  let core := c.who.core
  let s := (s.engineErr (dieOf core) c.who cause x.cw 0).post s.cycle .passRelease { octet := o }
  (s.kickTake o).carry (octetDie o) (s.farDie core x.cw) false false 16 (s.lat core x.cw) .matxCompletion
    { octet := o, id := c.id, count := { addr := x.cw, err := true, what := .matx o c.id, who := c.who, run := c.run } }

theorem State.reportRefusal_posted (s : State) (o : Nat) (c : MxuCmd) (x : Matx) (cause : Nat) : s.Posted (s.reportRefusal o c x cause) :=
  ((State.notice_posted _ _ _).trans (State.post_posted _ _ _ _)).trans
    ((State.post_posted _ _ _ _).trans (State.carry_posted _ _ _ _ _ _ _ _))

/-- The slot of a refused MATX goes back to what it was (R329). -/
def MxuCmd.restore (c : MxuCmd) (x : Matx) (t : Slot) : Slot :=
  if t.st == .running c.id then { t with st := if x.wasKept then .kept c.who.core else .free } else t

theorem State.refuseMatx_eq (s : State) (o : Nat) (c : MxuCmd) (x : Matx) (cause : Nat) : s.refuseMatx o c x cause =
    (((s.modSlot o x.f.acc.toNat (c.restore x)).modMatx o c.id fun x => { x with failed := true, err := some (cause, 0) }).resetKept o
      c.who.core x.f.acc.toNat).reportRefusal o c x cause := rfl

theorem State.refuseMatx_keptOnly (s : State) (o : Nat) (c : MxuCmd) (x : Matx) (cause : Nat) :
    s.KeptOnly (s.refuseMatx o c x cause) := by
  rw [State.refuseMatx_eq]
  exact (((State.setOctet_keptOnly _ _ _).trans (State.setOctet_keptOnly _ _ _)).trans (State.resetKept_keptOnly _ _ _ _)).trans
    (State.reportRefusal_posted _ _ _ _ _).keptOnly

/-- A refusal marks its own MATX, and no other of its octet. -/
theorem State.matx_refuseMatx {s : State} {p id : Nat} {e : MxuCmd} {z : Matx} (h : s.matx p id = some (e, z)) (o : Nat) (c : MxuCmd)
    (x : Matx) (cause : Nat) : (s.refuseMatx o c x cause).matx p id = some (if p = o ∧ id = c.id
      then ({ e with cmd := .matx { z with failed := true, err := some (cause, 0) } }, { z with failed := true, err := some (cause, 0) })
      else (e, z)) := by
  rw [State.refuseMatx_eq, (State.reportRefusal_posted _ _ _ _ _).matx]
  refine (State.matx_of_cmds rfl id).trans (State.matx_modMatx ?_ o c.id _)
  refine (State.matx_modMxu ?_ p id).trans h
  rfl

/-! ## The members of a cohort (R248) -/

/-- Steps that keep `I` and what earlier ones have brought about leave `P` of each element of their list. -/
theorem foldl_brings {α σ : Type} {I : σ → Prop} {P : α → σ → Prop} {f : σ → α → σ} {l : List α}
    (keep : ∀ a ∈ l, ∀ m, I m → I (f m a)) (brings : ∀ a ∈ l, ∀ m, I m → P a (f m a))
    (stays : ∀ a ∈ l, ∀ b ∈ l, ∀ m, I m → P b m → P b (f m a)) {s : σ} (h : I s) :
    I (l.foldl f s) ∧ ∀ b ∈ l, P b (l.foldl f s) := by
  have general : ∀ (r d : List α) (m : σ), (∀ a ∈ d, a ∈ l) → (∀ a ∈ r, a ∈ l) → I m → (∀ b ∈ d, P b m) →
      I (r.foldl f m) ∧ (∀ b ∈ d, P b (r.foldl f m)) ∧ ∀ b ∈ r, P b (r.foldl f m) := by
    intro r
    induction r with
    | nil => exact fun d m _ _ hI hP => ⟨hI, hP, fun b hb => absurd hb List.not_mem_nil⟩
    | cons a r ih =>
      intro d m hd hr hI hP
      have ha := hr a List.mem_cons_self
      obtain ⟨hI', hP', hr'⟩ := ih (a :: d) (f m a) (List.forall_mem_cons.mpr ⟨ha, hd⟩) (fun b hb => hr b (List.mem_cons_of_mem _ hb))
        (keep a ha m hI) (List.forall_mem_cons.mpr ⟨brings a ha m hI, fun b hb => stays a ha b (hd b hb) m hI (hP b hb)⟩)
      exact ⟨hI', fun b hb => hP' b (List.mem_cons_of_mem _ hb),
        List.forall_mem_cons.mpr ⟨hP' a List.mem_cons_self, hr'⟩⟩
  obtain ⟨hI, -, hP⟩ := general l [] s (fun a ha => absurd ha List.not_mem_nil) (fun a ha => ha) h
    (fun b hb => absurd hb List.not_mem_nil)
  exact ⟨hI, hP⟩

/-- The places of a grid, row by row. -/
theorem exists_lt_mul {r k : Nat} {P : Nat → Nat → Prop} : (∃ n, n < r * k ∧ P (n / k) (n % k)) ↔ ∃ i j, i < r ∧ j < k ∧ P i j := by
  constructor
  · rintro ⟨n, hn, h⟩
    have hk : 0 < k := Nat.pos_of_ne_zero fun h0 => by simp [h0] at hn
    exact ⟨n / k, n % k, Nat.div_lt_of_lt_mul (by rwa [Nat.mul_comm]), Nat.mod_lt _ hk, h⟩
  · rintro ⟨i, j, hi, hj, h⟩
    have hk : 0 < k := by omega
    have hdiv : (i * k + j) / k = i := by
      rw [Nat.mul_comm, Nat.mul_add_div hk, Nat.div_eq_of_lt hj, Nat.add_zero]
    have hmod : (i * k + j) % k = j := by
      rw [Nat.mul_comm, Nat.mul_add_mod, Nat.mod_eq_of_lt hj]
    refine ⟨i * k + j, ?_, by rwa [hdiv, hmod]⟩
    calc i * k + j < i * k + k := by omega
      _ = (i + 1) * k := by ring
      _ ≤ r * k := Nat.mul_le_mul_right _ hi

section
variable {s : State} {x : Matx} {seat : Nat}

theorem State.mem_members {m : Nat × Nat × Option (Nat × MxuCmd × Matx)} : m ∈ s.members x seat ↔
    ∃ i j, i < (cohortDims x.f.cohort).1 ∧ j < (cohortDims x.f.cohort).2 ∧ (i, j, s.memberMatx x seat i j) = m := by
  unfold State.members
  simp only [List.mem_map, List.mem_range]
  exact exists_lt_mul (P := fun i j => (i, j, s.memberMatx x seat i j) = m)

theorem State.member_iff {i j o : Nat} {c : MxuCmd} {y : Matx} : Spec.member s x seat i j o c y ↔
    i < (cohortDims x.f.cohort).1 ∧ j < (cohortDims x.f.cohort).2 ∧ s.memberMatx x seat i j = some (o, c, y) := by
  unfold Spec.member
  rw [State.mem_members]
  constructor
  · rintro ⟨i', j', hi, hj, he⟩
    simp only [Prod.mk.injEq] at he
    obtain ⟨rfl, rfl, he⟩ := he
    exact ⟨hi, hj, he⟩
  · rintro ⟨hi, hj, he⟩
    exact ⟨i, j, hi, hj, by rw [he]⟩

/-- A place has one member. -/
theorem State.member_unique {i j o o' : Nat} {c c' : MxuCmd} {y y' : Matx} (h : Spec.member s x seat i j o c y)
    (h' : Spec.member s x seat i j o' c' y') : o = o' ∧ c = c' ∧ y = y' := by
  obtain ⟨-, -, h⟩ := State.member_iff.mp h
  obtain ⟨-, -, h'⟩ := State.member_iff.mp h'
  simpa using h.symm.trans h'

theorem State.member_cmd {i j o : Nat} {c : MxuCmd} {y : Matx} (h : Spec.member s x seat i j o c y) : c.cmd = .matx y := by
  obtain ⟨-, -, h⟩ := State.member_iff.mp h
  unfold State.memberMatx at h
  simp only [Option.bind_eq_some_iff, Option.map_eq_some_iff, Prod.mk.injEq] at h
  obtain ⟨t, -, d, -, z, hz, -, rfl, rfl⟩ := h
  exact MxuCmd.matx_eq_some.mp hz

theorem State.missing_iff : Spec.missing s x seat ↔ ((s.members x seat).any fun m => m.2.2.isNone) = true := by
  unfold Spec.missing
  simp

theorem State.cohortFenced_iff : s.cohortFenced x seat = true ↔ Spec.fenced s x seat := by
  unfold State.cohortFenced Spec.fenced
  simp only [Option.any_eq_true, List.any_eq_true, List.mem_range, Option.mem_def]
  refine exists_congr fun t => and_congr_right fun _ => ?_
  exact exists_lt_mul (P := fun i j => ∃ f ∈ s.fences, f.has (coreOfSeat (memberOctet t i j) seat) = true)

/-- The refusal of a cohort refuses each of its members that are taken (R385). -/
theorem State.refuseCohort_refused (h : ∀ i j o d y, Spec.member s x seat i j o d y → s.matx o d.id = some (d, y)) (cause : Nat) :
    s.CohortRefused (s.refuseCohort x seat cause) x seat cause := by
  have held : ∀ m : State, ∀ o id e z, m.matx o id = some (e, z) → ∀ p c y,
      ∃ e' z', (m.refuseMatx p c y cause).matx o id = some (e', z') ∧
        (o = p ∧ id = c.id ∨ z.failed = true ∧ z.err = some (cause, 0) → z'.failed = true ∧ z'.err = some (cause, 0)) := by
    intro m o id e z hz p c y
    have hr := State.matx_refuseMatx hz p c y cause
    split at hr
    · exact ⟨_, _, hr, fun _ => ⟨rfl, rfl⟩⟩
    next hne => exact ⟨_, _, hr, fun hor => hor.resolve_left hne⟩
  have hfold := foldl_brings (l := s.members x seat)
    (I := fun m => s.KeptOnly m ∧ ∀ i j o d y, Spec.member s x seat i j o d y → ∃ e z, m.matx o d.id = some (e, z))
    (P := fun b m => ∀ o d y, b.2.2 = some (o, d, y) → ∃ e z, m.matx o d.id = some (e, z) ∧ z.failed = true ∧ z.err = some (cause, 0))
    (f := fun m a => match a.2.2 with
      | some (o, c, y) => m.refuseMatx o c y cause
      | none => m)
    ?_ ?_ ?_ (s := s) ⟨.refl s, fun i j o d y hin => ⟨d, y, h i j o d y hin⟩⟩
  · obtain ⟨⟨hkept, -⟩, hall⟩ := hfold
    refine ⟨hkept.mem, hkept.ctxs, hkept.core, fun i j o c y hin => hall _ hin o c y rfl⟩
  · rintro ⟨i, j, q⟩ ha m ⟨hk, hI⟩
    match q with
    | none => exact ⟨hk, hI⟩
    | some (p, c, y) =>
      refine ⟨hk.trans (m.refuseMatx_keptOnly p c y cause), fun i' j' o d w hin => ?_⟩
      obtain ⟨e, z, hz⟩ := hI i' j' o d w hin
      obtain ⟨e', z', hz', -⟩ := held m o d.id e z hz p c y
      exact ⟨e', z', hz'⟩
  · rintro ⟨i, j, q⟩ ha m ⟨hk, hI⟩ o d y rfl
    obtain ⟨e, z, hz⟩ := hI i j o d y ha
    obtain ⟨e', z', hz', hmark⟩ := held m o d.id e z hz o d y
    exact ⟨e', z', hz', hmark (.inl ⟨rfl, rfl⟩)⟩
  · rintro ⟨i, j, q⟩ ha b hb m - hP o d y hbq
    obtain ⟨e, z, hz, hm⟩ := hP o d y hbq
    match q with
    | none => exact ⟨e, z, hz, hm⟩
    | some (p, c, w) =>
      obtain ⟨e', z', hz', hmark⟩ := held m o d.id e z hz p c w
      exact ⟨e', z', hz', hmark (.inr hm)⟩

end

/-! ## The start of a cohort (R248, R385) -/

/-- A member of a cohort, with the member that its A comes from and the one that its B comes from. -/
abbrev CohortPair := Nat × MxuCmd × Matx × (MxuCmd × Matx) × (MxuCmd × Matx)

/-- The member of a cohort at a place of it. -/
def State.memberAt (s : State) (x : Matx) (seat i j : Nat) : Option (MxuCmd × Matx) :=
  ((s.members x seat).find? fun m => m.1 == i && m.2.1 == j).bind fun m => m.2.2.map fun q => q.2

/-- The members of a cohort, each with the first of its row and the first of its column. -/
def State.cohortPairs (s : State) (x : Matx) (seat : Nat) : List CohortPair :=
  (s.members x seat).filterMap fun m =>
    match m.2.2, s.memberAt x seat m.1 0, s.memberAt x seat 0 m.2.1 with
    | some (o, d, y), some a, some b => some (o, d, y, a, b)
    | _, _, _ => none

/-- Whether no MATX accepts the operands of a member. -/
def State.pairBad (s : State) : CohortPair → Bool
  | (o, _, y, a, b) =>
    match a.2.sa.info, b.2.sb.info with
    | some ia, some ib =>
      ia.cols * sparseFactor a.2.f.sparse != ib.rows || !pairOk ia.fmt ib.fmt a.2.f.sparse ||
        (y.wasKept && (let t := rd (s.octet o).mxu.slots y.f.acc.toNat {}; t.m != ia.rows || t.n != ib.cols))
    | _, _ => true

/-- The start of a member. -/
def State.startMember (s : State) (p : CohortPair) : State :=
  (s.startMatx p.1 p.2.1 p.2.2.2.1.1.who.core p.2.2.2.1.2 p.2.2.2.2.1.who.core p.2.2.2.2.2).post s.cycle .arrayGrant { octet := p.1 }

section
variable {s : State}

theorem exec_cohortStart_none (h : s.matx s.arg.octet s.arg.id = none) : exec .cohortStart s = .next s := by
  change execCohortStart s = _
  unfold execCohortStart
  rw [h]

theorem exec_cohortTimeout_none (h : s.matx s.arg.octet s.arg.id = none) : exec .cohortTimeout s = .next s := by
  change execCohortTimeout s = _
  unfold execCohortTimeout
  rw [h]

variable {c : MxuCmd} {x : Matx} (h : s.matx s.arg.octet s.arg.id = some (c, x))
include h

theorem exec_cohortStart_over (hx : x.started = true ∨ x.failed = true) : exec .cohortStart s = .next s := by
  change execCohortStart s = _
  unfold execCohortStart
  rw [h]
  dsimp only
  rw [if_pos (by simpa using hx)]

theorem exec_cohortTimeout_over (hx : x.started = true ∨ x.failed = true) : exec .cohortTimeout s = .next s := by
  change execCohortTimeout s = _
  unfold execCohortTimeout
  rw [h]
  dsimp only
  rw [if_pos]
  rcases hx with hx | hx <;> simp [hx]

section
variable (hs : x.started = false) (hf : x.failed = false)
include hs hf

theorem exec_cohortTimeout_waits : exec .cohortTimeout s = .next (
    if (s.members x c.seat).any fun m => m.2.2.isNone then s.refuseCohort x c.seat 0x23 else s) := by
  have hall : (s.members x c.seat).all (fun m => m.2.2.isSome) = !(s.members x c.seat).any fun m => m.2.2.isNone := by
    rw [List.not_any_eq_all_not]
    simp
  change execCohortTimeout s = _
  unfold execCohortTimeout
  rw [h]
  dsimp only
  rw [hs, hf, hall]
  cases (s.members x c.seat).any fun m => m.2.2.isNone <;> rfl

/-- What COHORT_START does with a cohort that has not started. -/
theorem exec_cohortStart_waits : exec .cohortStart s =
    if s.cohortFenced x c.seat then .next (s.refuseCohort x c.seat 0x23)
    else if (s.members x c.seat).any fun m => m.2.2.isNone then .next s
    else if (s.cohortPairs x c.seat).any s.pairBad then .next (s.refuseCohort x c.seat 0x20)
    else if (s.cohortPairs x c.seat).any fun p => !s.mayStart p.1 then .next s
    else .next ((s.cohortPairs x c.seat).foldl State.startMember s) := by
  change execCohortStart s = _
  unfold execCohortStart
  rw [h]
  dsimp only
  rw [if_neg (by simp [hs, hf])]
  rfl

end

end

section
variable {s : State} {x : Matx} {seat : Nat}

/-- The member at a place is the one that the cohort has there. -/
theorem State.memberAt_eq {i j : Nat} (hi : i < (cohortDims x.f.cohort).1) (hj : j < (cohortDims x.f.cohort).2) :
    s.memberAt x seat i j = (s.memberMatx x seat i j).map fun q => q.2 := by
  have hfind : (s.members x seat).find? (fun m => m.1 == i && m.2.1 == j) = some (i, j, s.memberMatx x seat i j) := by
    have hsome : ((s.members x seat).find? fun m => m.1 == i && m.2.1 == j).isSome = true := by
      rw [List.find?_isSome]
      exact ⟨_, State.mem_members.mpr ⟨i, j, hi, hj, rfl⟩, by simp⟩
    obtain ⟨m, hm⟩ := Option.isSome_iff_exists.mp hsome
    obtain ⟨i', j', -, -, rfl⟩ := State.mem_members.mp (List.mem_of_find?_eq_some hm)
    have hmeets := List.find?_some hm
    simp only [Bool.and_eq_true, beq_iff_eq] at hmeets
    obtain ⟨rfl, rfl⟩ := hmeets
    exact hm
  unfold State.memberAt
  rw [hfind]
  rfl

theorem State.memberAt_iff {i j : Nat} (hi : i < (cohortDims x.f.cohort).1) (hj : j < (cohortDims x.f.cohort).2)
    {a : MxuCmd × Matx} : s.memberAt x seat i j = some a ↔ ∃ o, Spec.member s x seat i j o a.1 a.2 := by
  rw [State.memberAt_eq hi hj]
  simp only [State.member_iff, Option.map_eq_some_iff]
  constructor
  · rintro ⟨⟨o, c, y⟩, hm, rfl⟩
    exact ⟨o, hi, hj, hm⟩
  · rintro ⟨o, -, -, hm⟩
    exact ⟨_, hm, rfl⟩

/-- The pairs of a cohort: its members, with the members of their row's and their column's first places. -/
theorem State.mem_cohortPairs {o : Nat} {d : MxuCmd} {y : Matx} {a b : MxuCmd × Matx} : (o, d, y, a, b) ∈ s.cohortPairs x seat ↔
    ∃ i j oa ob, Spec.member s x seat i j o d y ∧ Spec.member s x seat i 0 oa a.1 a.2 ∧ Spec.member s x seat 0 j ob b.1 b.2 := by
  unfold State.cohortPairs
  rw [List.mem_filterMap]
  constructor
  · rintro ⟨m, hm, hp⟩
    obtain ⟨i, j, hi, hj, rfl⟩ := State.mem_members.mp hm
    dsimp only at hp
    split at hp
    next o' d' y' a' b' hq ha hb =>
      obtain ⟨rfl, rfl, rfl, rfl, rfl⟩ : o' = o ∧ d' = d ∧ y' = y ∧ a' = a ∧ b' = b := by simpa using hp
      obtain ⟨oa, ha⟩ := (State.memberAt_iff hi (by omega)).mp ha
      obtain ⟨ob, hb⟩ := (State.memberAt_iff (by omega) hj).mp hb
      exact ⟨i, j, oa, ob, State.member_iff.mpr ⟨hi, hj, hq⟩, ha, hb⟩
    next => cases hp
  · rintro ⟨i, j, oa, ob, hq, ha, hb⟩
    obtain ⟨hi, hj, hm⟩ := State.member_iff.mp hq
    refine ⟨_, hq, ?_⟩
    dsimp only
    rw [(State.memberAt_iff hi (by omega)).mpr ⟨oa, ha⟩, (State.memberAt_iff (by omega) hj).mpr ⟨ob, hb⟩]

/-- Operands whose K differ are bad. -/
theorem State.pairBad_of_k {p : CohortPair} {ia ib : Shape} (ha : p.2.2.2.1.2.sa.info = some ia) (hb : p.2.2.2.2.2.sb.info = some ib)
    (hk : ia.cols * sparseFactor p.2.2.2.1.2.f.sparse ≠ ib.rows) : s.pairBad p = true := by
  obtain ⟨o, d, y, a, b⟩ := p
  unfold State.pairBad
  dsimp only at ha hb hk ⊢
  rw [ha, hb]
  simp [hk]

/-- Dense operands of one K and of formats that meet are not bad where the slot was not kept. -/
theorem State.pairBad_dense {p : CohortPair} {ia ib : Shape} (ha : p.2.2.2.1.2.sa.info = some ia) (hb : p.2.2.2.2.2.sb.info = some ib)
    (hd : p.2.2.2.1.2.f.sparse = .dense) (hk : ia.cols = ib.rows) (hok : pairOk ia.fmt ib.fmt .dense = true)
    (hkept : p.2.2.1.wasKept = false) : s.pairBad p = false := by
  obtain ⟨o, d, y, a, b⟩ := p
  unfold State.pairBad
  dsimp only at ha hb hd hkept ⊢
  rw [ha, hb]
  simp [hd, hk, hok, hkept, sparseFactor]

end

/-- What starts need of a pair of a cohort: dense operands without a poisoned granule. -/
def State.PairReady (s : State) (p : CohortPair) : Prop :=
  p.2.1.cmd = .matx p.2.2.1 ∧ p.2.2.2.1.2.f.sparse = .dense ∧ ∃ ia ib, p.2.2.2.1.2.sa.info = some ia ∧ p.2.2.2.2.2.sb.info = some ib ∧
    s.planesBad p.2.2.2.1.1.who.core p.2.2.2.1.2.f.ta.toNat ia = false ∧
    s.planesBad p.2.2.2.2.1.who.core p.2.2.2.2.2.f.tb.toNat ib = false

/-- A MATX as the start of a pair leaves it. -/
def State.pairStarted (s : State) (p : CohortPair) (ia ib : Shape) (z : Matx) : Matx :=
  Spec.started s z p.2.2.2.1.1.who.core p.2.2.2.1.2 ia p.2.2.2.2.1.who.core p.2.2.2.2.2 ib

theorem State.OctetsOnly.trans {s t u : State} (h : s.OctetsOnly t) (g : t.OctetsOnly u) : s.OctetsOnly u := by
  unfold State.OctetsOnly at *
  rw [h] at g
  exact g

/-- The start of a pair, from a state that is `s` but for octets. -/
theorem State.startMember_frame {s m : State} {p : CohortPair} (hr : s.PairReady p) (hlat : s.latent = []) (hm : s.OctetsOnly m) :
    s.OctetsOnly (m.startMember p) ∧ m.Extends (m.startMember p) ∧ (m.startMember p).Due m.cycle .arrayGrant { octet := p.1 } := by
  obtain ⟨hx, hd, ia, ib, ha, hb, hA, hB⟩ := hr
  obtain ⟨honly, hext, -⟩ := State.startMatx_frame (m := m) (o := p.1) hx (by rw [hm]; exact hlat) ha hb hd (by rw [hm]; exact hA)
    (by rw [hm]; exact hB)
  refine ⟨hm.trans (honly.trans rfl), hext.trans (State.post_posted _ _ _ _).grows, State.post_due _ _ _ _⟩

/-- The start of a pair starts its member with the pair's operands, and leaves every other MATX. -/
theorem State.matx_startMember {s m : State} {p : CohortPair} (hr : s.PairReady p) (hlat : s.latent = []) (hm : s.OctetsOnly m)
    {ia ib : Shape} (ha : p.2.2.2.1.2.sa.info = some ia) (hb : p.2.2.2.2.2.sb.info = some ib) {o id : Nat} {e : MxuCmd} {z : Matx}
    (hz : m.matx o id = some (e, z)) : (m.startMember p).matx o id = some (if o = p.1 ∧ id = p.2.1.id
      then ({ e with cmd := .matx (s.pairStarted p ia ib z) }, s.pairStarted p ia ib z) else (e, z)) := by
  obtain ⟨hx, hd, ia', ib', ha', hb', hA, hB⟩ := hr
  obtain rfl : ia' = ia := Option.some.inj (ha'.symm.trans ha)
  obtain rfl : ib' = ib := Option.some.inj (hb'.symm.trans hb)
  have hstart := State.matx_startMatx (o := p.1) hx (by rw [hm]; exact hlat) ha hb hd (by rw [hm]; exact hA) (by rw [hm]; exact hB) hz
  have hsame : ∀ z, Spec.started m z p.2.2.2.1.1.who.core p.2.2.2.1.2 ia' p.2.2.2.2.1.who.core p.2.2.2.2.2 ib' = s.pairStarted p ia' ib' z := by
    intro z
    rw [hm]
    rfl
  rw [hsame] at hstart
  exact ((State.post_posted _ _ _ _).matx o id).trans hstart

/-- The start of pairs of which no two share an octet but equal ones starts each member with its pair's operands. -/
theorem State.startMembers_start {s : State} {l : List CohortPair} (hlat : s.latent = []) (hready : ∀ p ∈ l, s.PairReady p)
    (hmatx : ∀ p ∈ l, s.matx p.1 p.2.1.id = some (p.2.1, p.2.2.1)) (hone : ∀ p ∈ l, ∀ q ∈ l, p.1 = q.1 → p = q) :
    s.OctetsOnly (l.foldl State.startMember s) ∧ ∀ p ∈ l, (∀ ia ib, p.2.2.2.1.2.sa.info = some ia → p.2.2.2.2.2.sb.info = some ib →
      ∃ e, (l.foldl State.startMember s).matx p.1 p.2.1.id = some (e, s.pairStarted p ia ib p.2.2.1)) ∧
        (l.foldl State.startMember s).Due s.cycle .arrayGrant { octet := p.1 } := by
  have hfold := foldl_brings (l := l) (f := State.startMember) (s := s)
    (I := fun m => (s.OctetsOnly m ∧ m.cycle = s.cycle) ∧ ∀ p ∈ l, ∃ e z, m.matx p.1 p.2.1.id = some (e, z) ∧
      ∀ ia ib, s.pairStarted p ia ib z = s.pairStarted p ia ib p.2.2.1)
    (P := fun p m => (∀ ia ib, p.2.2.2.1.2.sa.info = some ia → p.2.2.2.2.2.sb.info = some ib →
      ∃ e, m.matx p.1 p.2.1.id = some (e, s.pairStarted p ia ib p.2.2.1)) ∧ m.Due s.cycle .arrayGrant { octet := p.1 })
    ?_ ?_ ?_ ⟨⟨rfl, rfl⟩, fun p hp => ⟨_, _, hmatx p hp, fun _ _ => rfl⟩⟩
  · exact ⟨hfold.1.1.1, hfold.2⟩
  · rintro a ha m ⟨⟨hm, hc⟩, hI⟩
    obtain ⟨hframe, hext, -⟩ := State.startMember_frame (hready a ha) hlat hm
    refine ⟨⟨hframe, hext.cycle.trans hc⟩, fun p hp => ?_⟩
    obtain ⟨e, z, hz, hsame⟩ := hI p hp
    obtain ⟨-, -, ia, ib, hia, hib, -⟩ := hready a ha
    have hstart := State.matx_startMember (hready a ha) hlat hm hia hib hz
    by_cases hpa : p.1 = a.1 ∧ p.2.1.id = a.2.1.id
    · obtain rfl := hone p hp a ha hpa.1
      rw [if_pos hpa] at hstart
      exact ⟨_, _, hstart, hsame⟩
    · rw [if_neg hpa] at hstart
      exact ⟨e, z, hstart, hsame⟩
  · rintro a ha m ⟨⟨hm, hc⟩, hI⟩
    obtain ⟨-, -, hdue⟩ := State.startMember_frame (hready a ha) hlat hm
    obtain ⟨e, z, hz, hsame⟩ := hI a ha
    refine ⟨fun ia ib hia hib => ?_, hc ▸ hdue⟩
    have hstart := State.matx_startMember (hready a ha) hlat hm hia hib hz
    rw [if_pos ⟨rfl, rfl⟩, hsame] at hstart
    exact ⟨_, hstart⟩
  · rintro a ha p hp m ⟨⟨hm, hc⟩, -⟩ ⟨hP, hdue⟩
    obtain ⟨-, hext, -⟩ := State.startMember_frame (hready a ha) hlat hm
    refine ⟨fun ia ib hia hib => ?_, hdue.extend hext⟩
    obtain ⟨e, hz⟩ := hP ia ib hia hib
    obtain ⟨-, -, ja, jb, hja, hjb, -⟩ := hready a ha
    have hstart := State.matx_startMember (hready a ha) hlat hm hja hjb hz
    by_cases hpa : p.1 = a.1 ∧ p.2.1.id = a.2.1.id
    · obtain rfl := hone p hp a ha hpa.1
      obtain rfl : ja = ia := Option.some.inj (hja.symm.trans hia)
      obtain rfl : jb = ib := Option.some.inj (hjb.symm.trans hib)
      rw [if_pos hpa] at hstart
      exact ⟨_, hstart⟩
    · rw [if_neg hpa] at hstart
      exact ⟨e, hstart⟩

/-! ## The starts of cohorts that can start -/

section
variable {s : State} {x : Matx} {seat : Nat}

/-- A member that lacks nobody has the first members of its row and its column. -/
theorem State.member_firsts (hall : ¬ Spec.missing s x seat) {i j o : Nat} {d : MxuCmd} {y : Matx} (h : Spec.member s x seat i j o d y) :
    ∃ oa a xa ob b xb, Spec.member s x seat i 0 oa a xa ∧ Spec.member s x seat 0 j ob b xb := by
  obtain ⟨hi, hj, -⟩ := State.member_iff.mp h
  have hplace : ∀ i j, i < (cohortDims x.f.cohort).1 → j < (cohortDims x.f.cohort).2 → ∃ o a y, Spec.member s x seat i j o a y := by
    intro i j hi hj
    cases hm : s.memberMatx x seat i j with
    | none => exact absurd ⟨_, State.mem_members.mpr ⟨i, j, hi, hj, rfl⟩, hm⟩ hall
    | some q => exact ⟨q.1, q.2.1, q.2.2, State.member_iff.mpr ⟨hi, hj, hm⟩⟩
  obtain ⟨oa, a, xa, ha⟩ := hplace i 0 hi (by omega)
  obtain ⟨ob, b, xb, hb⟩ := hplace 0 j (by omega) hj
  exact ⟨oa, a, xa, ob, b, xb, ha, hb⟩

/-- Whether a cohort has a member under no pass that lets it start. -/
theorem State.pairs_pass_iff (hall : ¬ Spec.missing s x seat) : ((s.cohortPairs x seat).any fun p => !s.mayStart p.1) = true ↔
    ∃ i j o d y, Spec.member s x seat i j o d y ∧ ¬ Spec.mayStart s o := by
  simp only [List.any_eq_true, Bool.not_eq_true', ← Bool.not_eq_true, State.mayStart_iff]
  constructor
  · rintro ⟨⟨o, d, y, a, b⟩, hp, hn⟩
    obtain ⟨i, j, oa, ob, hin, -⟩ := State.mem_cohortPairs.mp hp
    exact ⟨i, j, o, d, y, hin, hn⟩
  · rintro ⟨i, j, o, d, y, hin, hn⟩
    obtain ⟨oa, a, xa, ob, b, xb, ha, hb⟩ := State.member_firsts hall hin
    exact ⟨(o, d, y, (a, xa), (b, xb)), State.mem_cohortPairs.mpr ⟨i, j, oa, ob, hin, ha, hb⟩, hn⟩

/-- Pairs of one octet are one pair where an octet has one place. -/
theorem State.cohortPairs_unique (hone : ∀ i j i' j' o d d' y y', Spec.member s x seat i j o d y →
    Spec.member s x seat i' j' o d' y' → (i', j') = (i, j)) : ∀ p ∈ s.cohortPairs x seat, ∀ q ∈ s.cohortPairs x seat, p.1 = q.1 → p = q := by
  rintro ⟨o, d, y, a, b⟩ hp ⟨o', d', y', a', b'⟩ hq ho
  obtain rfl : o = o' := ho
  obtain ⟨i, j, oa, ob, hin, ha, hb⟩ := State.mem_cohortPairs.mp hp
  obtain ⟨i', j', oa', ob', hin', ha', hb'⟩ := State.mem_cohortPairs.mp hq
  have hplace := hone i j i' j' o d d' y y' hin hin'
  simp only [Prod.mk.injEq] at hplace
  obtain ⟨rfl, rfl⟩ := hplace
  obtain ⟨-, rfl, rfl⟩ := State.member_unique hin hin'
  obtain ⟨-, ea, ea'⟩ := State.member_unique ha ha'
  obtain ⟨-, eb, eb'⟩ := State.member_unique hb hb'
  rw [Prod.ext ea ea', Prod.ext eb eb']

end

/-- The third part of O60. -/
theorem State.cohortStarts : Claims.CohortStarts := by
  intro s
  refine ⟨fun h => ⟨exec_cohortStart_none h, exec_cohortTimeout_none h⟩, fun c x h => ?_⟩
  intro In
  refine ⟨fun hx => ⟨exec_cohortStart_over h hx, exec_cohortTimeout_over h hx⟩, fun hs hf hmatx hone => ?_⟩
  have hstart := exec_cohortStart_waits h hs hf
  have htime := exec_cohortTimeout_waits h hs hf
  have hrefused := State.refuseCohort_refused (seat := c.seat) hmatx
  have hunfenced : ¬ Spec.fenced s x c.seat → ¬ s.cohortFenced x c.seat = true := mt State.cohortFenced_iff.mp
  refine ⟨fun hm => ⟨_, htime.trans (by rw [if_pos (State.missing_iff.mp hm)]), hrefused 0x23⟩,
    fun hm => htime.trans (by rw [if_neg (mt State.missing_iff.mpr hm)]),
    fun hfe => ⟨_, hstart.trans (if_pos (State.cohortFenced_iff.mpr hfe)), hrefused 0x23⟩,
    fun hfe hm => hstart.trans (by rw [if_neg (hunfenced hfe), if_pos (State.missing_iff.mp hm)]),
    fun hfe hm => ?_⟩
  intro supply
  rw [if_neg (hunfenced hfe), if_neg (mt State.missing_iff.mpr hm)] at hstart
  refine ⟨?_, fun hsup hkept => ?_⟩
  · rintro ⟨i, j, oa, a, xa, ob, b, xb, ia, ib, o, d, y, hin, ha, hb, hia, hib, hk⟩
    refine ⟨_, hstart.trans (if_pos (List.any_eq_true.mpr ⟨(o, d, y, (a, xa), (b, xb)), ?_, ?_⟩)), hrefused 0x20⟩
    · exact State.mem_cohortPairs.mpr ⟨i, j, oa, ob, hin, ha, hb⟩
    · exact State.pairBad_of_k hia hib hk
  · have hgood : ¬ (s.cohortPairs x c.seat).any s.pairBad = true := by
      rw [List.any_eq_true]
      rintro ⟨⟨o, d, y, a, b⟩, hp, hbad⟩
      obtain ⟨i, j, oa, ob, hin, ha, hb⟩ := State.mem_cohortPairs.mp hp
      obtain ⟨ia, ib, hia, hib, hk, hok, hd⟩ := hsup i j oa a.1 a.2 ob b.1 b.2 ha hb
      have hfine : s.pairBad (o, d, y, a, b) = false := State.pairBad_dense (p := (o, d, y, a, b)) hia hib hd hk hok (hkept i j o d y hin)
      exact absurd (hfine.symm.trans hbad) Bool.false_ne_true
    rw [if_neg hgood] at hstart
    refine ⟨fun hno => hstart.trans (if_pos ((State.pairs_pass_iff hm).mpr hno)), fun hmay hlat hplanes => ?_⟩
    have hpass : ¬ ((s.cohortPairs x c.seat).any fun p => !s.mayStart p.1) = true := fun hp => by
      obtain ⟨i, j, o, d, y, hin, hn⟩ := (State.pairs_pass_iff hm).mp hp
      exact hn (hmay i j o d y hin)
    rw [if_neg hpass] at hstart
    have hready : ∀ p ∈ s.cohortPairs x c.seat, s.PairReady p := by
      rintro ⟨o, d, y, a, b⟩ hp
      obtain ⟨i, j, oa, ob, hin, ha, hb⟩ := State.mem_cohortPairs.mp hp
      obtain ⟨ia, ib, hia, hib, -, -, hd⟩ := hsup i j oa a.1 a.2 ob b.1 b.2 ha hb
      obtain ⟨ia', ib', hia', hib', hA, hB⟩ := hplanes i j oa a.1 a.2 ob b.1 b.2 ha hb
      exact ⟨State.member_cmd hin, hd, ia', ib', hia', hib', hA, hB⟩
    have hhere : ∀ p ∈ s.cohortPairs x c.seat, s.matx p.1 p.2.1.id = some (p.2.1, p.2.2.1) := by
      rintro ⟨o, d, y, a, b⟩ hp
      obtain ⟨i, j, oa, ob, hin, -⟩ := State.mem_cohortPairs.mp hp
      exact hmatx i j o d y hin
    obtain ⟨honly, hall⟩ := State.startMembers_start hlat hready hhere (State.cohortPairs_unique hone)
    refine ⟨_, hstart, by rw [honly], by rw [honly], by rw [honly], fun i j o d y oa a xa ob b xb ia ib hin ha hb hia hib => ?_⟩
    obtain ⟨hst, hdue⟩ := hall (o, d, y, (a, xa), (b, xb)) (State.mem_cohortPairs.mpr ⟨i, j, oa, ob, hin, ha, hb⟩)
    exact ⟨hst ia ib hia hib, hdue⟩

/-- Settles O60: each step of a pass and of a start is followed to its end; the steps of a cohort are folded over its members, of
which each keeps what those before it have brought about. -/
theorem matrixStarts : Obligations.MatrixStarts := by
  unfold Obligations.MatrixStarts
  exact ⟨State.passSteps, State.matxStarts, State.cohortStarts⟩

end Sys2Proof.Machine
end

section
/-! Bindings of streams, and the moves of their engines (O23). -/

namespace Sys2Proof.Machine

/-! ## The gates of a state whose cores keep their windows -/

/-- A change of a stream register leaves the places of accesses as they are. -/
theorem State.setQ_gates (s : State) (core i : Nat) (q : Stream) : s.SameGates (s.setQ core i q) := by
  refine ⟨rfl, rfl, rfl, rfl, fun c => ?_, fun _ => rfl, fun _ => rfl, fun _ => rfl⟩
  by_cases hc : c = core
  · rw [hc, show (s.setQ core i q).coreAt core = _ from State.coreAt_setCore_same _ _ _]
  · rw [show (s.setQ core i q).coreAt c = _ from State.coreAt_setCore_other _ _ _ _ hc]

/-- What a core's own windows allow stands with the gates. -/
theorem State.SameGates.allowsHere {s t : State} (h : s.SameGates t) (hw : t.who = s.who) (addr : Word) (need : Need) :
    t.AllowsHere addr need ↔ s.AllowsHere addr need := by
  unfold State.AllowsHere
  rw [hw, h.form]
  simp only [h.wins]

/-! ## STBIND (R227, R281) -/

section
variable {s : State} {d : Reg} {a : Src}

theorem exec_stbind_code (h : d.toNat < 56) : exec (.stbind d a) s = .next (s.trapHere 0x05 0) := by
  have hstatic : s.static { a := some a, codeOk := isStream d } = some 0x05 := by
    unfold State.static
    rw [isStream_eq_false h]
    rfl
  change execStbind d a s = _
  unfold execStbind
  dsimp only
  rw [hstatic]

theorem State.static_stbind (h : 56 ≤ d.toNat) : s.static { a := some a, codeOk := isStream d } = none :=
  State.static_code rfl (isStream_eq_true h) List.not_mem_nil fun _ h => absurd h List.not_mem_nil

theorem exec_stbind_foreign (h : 56 ≤ d.toNat) (ho : (s.stream s.who.core d).owner ≠ some (s.ctx s.who).run) :
    exec (.stbind d a) s = .next (s.trapHere 0x0A 0) := by
  change execStbind d a s = _
  unfold execStbind
  dsimp only
  rw [State.static_stbind h]
  dsimp only
  rw [if_pos (by rw [Bool.not_eq_true', ← Bool.not_eq_true, State.claims_iff]; exact ho)]

/-- The access that reads the descriptor of a stream, with the pc at the STBIND. -/
def State.bindAccess (s : State) (u : Uses) (d : Reg) (addr : Word) : State :=
  let x := (s.commit u).startAccess (.bind (qOf d)) addr false .none
  (x.endAt (x.ctx s.who).pc).modCtx s.who fun y => { y with wait := .reply (s.commit u).seq }

/-- STBIND of a claimed register, with its operand read and no access outstanding. -/
theorem exec_stbind_held (h : 56 ≤ d.toNat) (ho : (s.stream s.who.core d).owner = some (s.ctx s.who).run)
    (hr : s.Readable { a := some a }) (hq : Ctx.quiet (s.ctx s.who) = true) : exec (.stbind d a) s = .next (
      if (s.vals { a := some a }).a.toNat % 8 ≠ 0 then s.trapHere 0x15 (s.vals { a := some a }).a
      else
        match s.ownFault (s.vals { a := some a }).a .load with
        | some k => s.trapHere k (s.vals { a := some a }).a
        | none => s.unbinding d true fun t => t.bindAccess { a := some a } d (s.vals { a := some a }).a) := by
  have hu : ({ a := some a, codeOk := isStream d } : Uses) = { a := some a } := by rw [isStream_eq_true h]
  change execStbind d a s = _
  unfold execStbind
  dsimp only
  rw [State.static_stbind h]
  dsimp only
  rw [if_neg (by rw [State.claims_iff.mpr ho]; exact Bool.false_ne_true), hu, State.waiting_go hr hq]
  by_cases ha : (s.vals { a := some a }).a.toNat % 8 = 0
  · rw [if_neg (by simp [ha]), if_neg (not_not.mpr ha)]
    rfl
  · rw [if_pos (by simpa using ha), if_pos ha]

end

/-- The first part of O23. -/
theorem State.streamBinding : Claims.StreamBinding := by
  intro s d a u q s' addr
  refine ⟨fun hd => ⟨_, exec_stbind_code hd, s.trapHere_trapped _ _⟩, fun hd ho => ⟨_, exec_stbind_foreign hd ho, s.trapHere_trapped _ _⟩,
    fun hd ho hr hp hx => ?_⟩
  have hexec := exec_stbind_held hd ho hr (show Ctx.quiet (s.ctx s.who) = true by simp [Ctx.quiet, hp, hx])
  refine ⟨fun ha => ⟨_, hexec.trans (by rw [if_pos ha]), s.trapHere_trapped _ _⟩, fun ha hend hallow hlock hbuddy => ?_⟩
  have hgates : s.SameGates s' := s.setQ_gates s.who.core (qOf d) { owner := q.owner }
  obtain ⟨hfault, -⟩ := State.ownFault_none ((hgates.allowsHere rfl addr .load).mp hallow)
  obtain ⟨-, hform⟩ := State.ownFault_none hallow
  rw [if_neg (not_not.mpr ha), hfault] at hexec
  dsimp only at hexec
  rw [State.unbinding_ended hend] at hexec
  obtain ⟨hbegan, hpc, hwait, hissues, hout, hleaves⟩ := s'.startAccess_stay u (.bind (qOf d)) addr false .none none [] none
    (.reply (s'.commit u).seq) hbuddy State.emptyDest_none (fun _ h => absurd h List.not_mem_nil) hform hlock.memLocked rfl
  exact ⟨_, (s'.commit u).theAccess (.bind (qOf d)) addr false .none none, hexec, hbegan, hpc, hwait, hissues, hout rfl, hleaves⟩

/-! ## Bytes of elements (R197, R228) -/

/-- A loaded value is extended as R197 says, at any number of bytes. -/
theorem loadVal_eq_extend {n v : Nat} (sx : Bool) (hn : 0 < n) (hv : v < 2 ^ (8 * n)) : loadVal n v sx = Spec.extend n sx v := by
  have hnat : (BitVec.ofNat (8 * n) v).toNat = v := by rw [BitVec.toNat_ofNat, Nat.mod_eq_of_lt hv]
  have hzero : BitVec.ofNat 64 v = (BitVec.ofNat (8 * n) v).setWidth 64 := by
    apply BitVec.eq_of_toNat_eq
    rw [BitVec.toNat_ofNat, BitVec.toNat_setWidth, hnat]
  have hmsb : (BitVec.ofNat (8 * n) v).msb = bitAt v (8 * n - 1) := by
    have hpow : 2 ^ (8 * n) = 2 * 2 ^ (8 * n - 1) := by rw [← Nat.pow_succ', Nat.succ_eq_add_one, Nat.sub_add_cancel (by omega)]
    have hlt : v / 2 ^ (8 * n - 1) < 2 := Nat.div_lt_of_lt_mul (by rwa [Nat.mul_comm, ← hpow])
    rw [BitVec.msb_eq_decide, hnat]
    unfold bitAt
    rw [Nat.mod_eq_of_lt hlt, Bool.eq_iff_iff, decide_eq_true_eq, beq_iff_eq]
    rw [← Nat.one_le_div_iff (Nat.two_pow_pos _)]
    omega
  unfold loadVal Spec.extend
  cases sx with
  | false => exact hzero
  | true =>
    rw [if_pos rfl, Bool.true_and, ← hmsb]
    apply BitVec.eq_of_toNat_eq
    rw [BitVec.toNat_signExtend, ← hzero, BitVec.toNat_ofNat]
    split
    next =>
      rcases Nat.lt_or_ge 64 (8 * n) with h | h
      · rw [Nat.sub_eq_zero_of_le (Nat.pow_le_pow_right (by decide) h.le), Nat.zero_add, Nat.add_zero, BitVec.toNat_ofNat]
      · have hle : 2 ^ (8 * n) ≤ 2 ^ 64 := Nat.pow_le_pow_right (by decide) h
        rw [BitVec.toNat_ofNat, Nat.mod_eq_of_lt (hv.trans_le hle), Nat.mod_eq_of_lt (by omega), Nat.add_comm]
    next => rw [BitVec.toNat_ofNat, Nat.add_zero]

/-- An element as its register holds it is extended as R228 says. -/
theorem Stream.extend_eq (q : Stream) (v : Nat) : q.extend v = Spec.extend (2 ^ q.esz) q.sx (v % 2 ^ (8 * 2 ^ q.esz)) :=
  loadVal_eq_extend q.sx (Nat.two_pow_pos _) (Nat.mod_lt _ (Nat.two_pow_pos _))

theorem natBytes_length : ∀ (n v : Nat), (natBytes v n).length = n
  | 0, _ => rfl
  | n + 1, v => by rw [natBytes, List.length_cons, natBytes_length n]

theorem natBytes_getElem : ∀ (n v j : Nat) (h : j < (natBytes v n).length), (natBytes v n)[j] = BitVec.ofNat 8 (v / 256 ^ j)
  | 0, _, _, h => absurd h (Nat.not_lt_zero _)
  | n + 1, v, 0, _ => by simp [natBytes]
  | n + 1, v, j + 1, h => by
    have hrest := natBytes_getElem n (v / 256) j (by rw [natBytes_length] at h ⊢; omega)
    rw [Nat.div_div_eq_div_mul, ← Nat.pow_succ'] at hrest
    simpa [natBytes] using hrest

/-- Consecutive keys are one run. -/
theorem runsOf_range (n k : Nat) : runsOf ((List.range (n + 1)).map fun i => k + i) = [(k, n + 1)] := by
  induction n generalizing k with
  | zero => rfl
  | succ n ih =>
    have hshift : ((List.range (n + 1)).map Nat.succ).map (fun i => k + i) = (List.range (n + 1)).map fun i => k + 1 + i := by
      rw [List.map_map]
      exact List.map_congr_left fun i _ => by simp only [Function.comp]; omega
    rw [List.range_succ_eq_map, List.map_cons, hshift, Nat.add_zero, runsOf, ih]
    simp

/-! ## Streams of cores that keep them -/

theorem State.q_of_cores {s t : State} (h : t.cores = s.cores) (core i : Nat) : t.q core i = s.q core i := by
  unfold State.q State.coreAt
  rw [h]

theorem State.Posted.q {s t : State} (h : s.Posted t) (core i : Nat) : t.q core i = s.q core i := State.q_of_cores h.cores core i

theorem State.streamGo_posted (s : State) (core i at' : Nat) : s.Posted (s.streamGo core i at') := State.post_posted _ _ _ _

/-- The count of a stream marks its binding as counted, and changes no other field of it. -/
theorem State.counted_stream (s : State) {core i : Nat} (hi : i < 8) {c : Count} (hc : c.what = .stream core i) :
    (s.counted c).q core i = { s.q core i with counted := true } ∧ (s.counted c).mem = s.mem := by
  unfold State.counted
  rw [hc]
  dsimp only
  unfold State.engDone
  refine ⟨(State.q_of_cores (by rw [State.modRun_frame]) core i).trans ?_, by rw [State.modRun_frame]; rfl⟩
  exact State.q_setQ_same _ core _ hi

/-- The count of a stream that has ended. -/
def Stream.endCount (q : Stream) (core i : Nat) : Count := { addr := q.cw, err := q.err.isSome, what := .stream core i, who := q.who, run := q.run }

/-- The notice of a stream that ended early. -/
def State.endReport (s : State) (core : Nat) (q : Stream) : State :=
  match q.err with
  | some (k, a) => s.engineErr (dieOf core) q.who k q.cw a
  | none => s

theorem State.endReport_posted (s : State) (core : Nat) (q : Stream) : s.Posted (s.endReport core q) := by
  unfold State.endReport
  split
  · exact State.notice_posted _ _ _
  · exact .refl s

/-- A stream that ends is counted at once, or by its completion word. -/
theorem State.streamEnd_open {s : State} {core i : Nat} (h : ¬ (!(s.q core i).bound || (s.q core i).ending) = true) : s.streamEnd core i =
    let m := (s.setQ core i { s.q core i with ending := true }).endReport core (s.q core i)
    if (s.q core i).cw == 0 then m.counted ((s.q core i).endCount core i)
    else m.post m.cycle .completionIncrement { count := (s.q core i).endCount core i } := by
  unfold State.streamEnd
  dsimp only
  rw [if_neg h]
  rfl

/-- The end of a stream changes what its register says of its end, and no element and no byte. -/
theorem State.streamEnd_keeps (s : State) (core : Nat) {i : Nat} (hi : i < 8) : ∃ e c,
    (s.streamEnd core i).q core i = { s.q core i with ending := e, counted := c } ∧ (s.streamEnd core i).mem = s.mem := by
  by_cases h : (!(s.q core i).bound || (s.q core i).ending) = true
  · refine ⟨(s.q core i).ending, (s.q core i).counted, ?_⟩
    unfold State.streamEnd
    rw [if_pos h]
    exact ⟨rfl, rfl⟩
  · rw [State.streamEnd_open h]
    have hm := (s.setQ core i { s.q core i with ending := true }).endReport_posted core (s.q core i)
    have hq := (hm.q core i).trans (State.q_setQ_same s core _ hi)
    dsimp only
    split
    · obtain ⟨hcq, hmem⟩ := State.counted_stream ((s.setQ core i { s.q core i with ending := true }).endReport core (s.q core i)) hi
        (c := (s.q core i).endCount core i) rfl
      rw [hq] at hcq
      exact ⟨true, true, hcq, hmem.trans hm.mem⟩
    · exact ⟨true, (s.q core i).counted, ((State.post_posted _ _ _ _).q core i).trans hq, hm.mem⟩

theorem State.streamCheck_keeps (s : State) (core : Nat) {i : Nat} (hi : i < 8) : ∃ e c,
    (s.streamCheck core i).q core i = { s.q core i with ending := e, counted := c } ∧ (s.streamCheck core i).mem = s.mem := by
  unfold State.streamCheck
  dsimp only
  split
  · exact s.streamEnd_keeps core hi
  · exact ⟨(s.q core i).ending, (s.q core i).counted, rfl, rfl⟩

/-! ## Elements that arrive -/

/-- The channels of a core that wait for an element go on. -/
theorem exec_neighbourElementArrive_arrives (s : State) (hi : s.arg.n < 4) (hid : s.arg.id < 8) :
    ∃ t, exec .neighbourElementArrive s = .next t ∧ t.mem = s.mem ∧
      rd (t.coreAt s.arg.core).nbr s.arg.n [] = rd (s.coreAt s.arg.core).nbr s.arg.n [] ++ [s.arg.v] ∧
      (t.q s.arg.die s.arg.id).inflight = (s.q s.arg.die s.arg.id).inflight - 1 := by
  set core := s.arg.core
  set k := { s.coreAt core with nbr := wr (s.coreAt core).nbr s.arg.n (rd (s.coreAt core).nbr s.arg.n [] ++ [s.arg.v]) }
  set m := s.setCore core k
  set w := m.modQ s.arg.die s.arg.id fun q => { q with inflight := q.inflight - 1 }
  have hposted : ∃ t, exec .neighbourElementArrive s = .next t ∧ w.Posted t := by
    refine ⟨_, rfl, (State.streamGo_posted _ _ _ _).trans (State.foldl_posted (fun s i => ?_) _ _)⟩
    dsimp only
    split
    · exact State.streamGo_posted _ _ _ _
    · exact .refl _
  obtain ⟨t, hexec, hp⟩ := hposted
  have hmq : m.q s.arg.die s.arg.id = s.q s.arg.die s.arg.id := by
    unfold State.q
    by_cases h : s.arg.die = core
    · rw [h, State.coreAt_setCore_same]
    · rw [State.coreAt_setCore_other _ _ _ _ h]
  refine ⟨t, hexec, hp.mem, ?_, ?_⟩
  · rw [hp.coreAt]
    have hw : (w.coreAt core).nbr = (m.coreAt core).nbr := by
      by_cases h : core = s.arg.die
      · rw [h, show w.coreAt s.arg.die = _ from State.coreAt_setCore_same _ _ _]
      · rw [show w.coreAt core = _ from State.coreAt_setCore_other _ _ _ _ h]
    rw [hw, State.coreAt_setCore_same, rd_wr_same _ _ _ _ hi]
  · rw [hp.q, show w.q s.arg.die s.arg.id = _ from State.q_setQ_same _ _ _ hid, hmq]

/-! ## Moves of an engine -/

/-- The move of the next element, by the kind and the direction of the stream. -/
def State.streamNext (s : State) (core i : Nat) : State :=
  let q := s.q core i
  match q.kind, q.outb with
  | 0, true => s.pushElem core i
  | 0, false =>
    if q.closing || q.limit ≤ q.moved then s.streamCheck core i
    else if q.moved - q.done < 16 then s.fetchElem core i
    else s
  | 1, true => s.sendElem core i
  | 1, false => s.takeElem core i
  | _, _ => s.ringElem core i

section
variable {s : State} {core i : Nat}

theorem State.streamNext_push (hk : (s.q core i).kind = 0) (ho : (s.q core i).outb = true) : s.streamNext core i = s.pushElem core i := by
  unfold State.streamNext
  dsimp only
  rw [hk, ho]
  rfl

theorem State.streamNext_fetch (hk : (s.q core i).kind = 0) (ho : (s.q core i).outb = false) (hc : (s.q core i).closing = false)
    (hl : (s.q core i).moved < (s.q core i).limit) (hw : (s.q core i).moved - (s.q core i).done < 16) :
    s.streamNext core i = s.fetchElem core i := by
  unfold State.streamNext
  dsimp only
  rw [hk, ho, if_neg (by simp [hc, hl]), if_pos hw]
  rfl

theorem State.streamNext_send (hk : (s.q core i).kind = 1) (ho : (s.q core i).outb = true) : s.streamNext core i = s.sendElem core i := by
  unfold State.streamNext
  dsimp only
  rw [hk, ho]
  rfl

theorem State.streamNext_take (hk : (s.q core i).kind = 1) (ho : (s.q core i).outb = false) : s.streamNext core i = s.takeElem core i := by
  unfold State.streamNext
  dsimp only
  rw [hk, ho]
  rfl

end

section
variable {s : State} (hb : (s.q s.arg.core s.arg.n).bound = true)
include hb

/-- An element that has arrived joins the buffer. -/
theorem exec_streamElementMove_arrived (hid : s.arg.id = 2) (hc : (s.q s.arg.core s.arg.n).closing = false) :
    exec .streamElementMove s = .next ((s.setQ s.arg.core s.arg.n { s.q s.arg.core s.arg.n with
      inflight := (s.q s.arg.core s.arg.n).inflight - 1, buf := (s.q s.arg.core s.arg.n).buf ++ [s.arg.v] }).streamCheck
        s.arg.core s.arg.n) := by
  change execStreamElementMove s = _
  unfold execStreamElementMove
  dsimp only
  rw [if_neg (by simp [hb]), hid, if_neg (by simp [hc])]
  rfl

/-- The engine of a stream that neither ends nor waits moves its next element. -/
theorem exec_streamElementMove_next (hid : s.arg.id = 0) (he : (s.q s.arg.core s.arg.n).ending = false)
    (hst : (s.q s.arg.core s.arg.n).stalled = none) (hat : (s.q s.arg.core s.arg.n).start ≤ s.cycle) :
    exec .streamElementMove s = .next (s.streamNext s.arg.core s.arg.n) := by
  change execStreamElementMove s = _
  unfold execStreamElementMove State.streamNext
  dsimp only
  rw [if_neg (by simp [hb]), hid]
  change ite _ _ _ = _
  rw [if_neg (by simp [he, hst, hat])]
  generalize (s.q s.arg.core s.arg.n).kind = k, (s.q s.arg.core s.arg.n).outb = out
  match k, out with
  | 0, true => rfl
  | 0, false =>
    change ite _ (Host.Outcome.next _) (ite _ (Host.Outcome.next _) (Host.Outcome.next _)) = _
    rw [← apply_ite Host.Outcome.next, ← apply_ite Host.Outcome.next]
    rfl
  | 1, true => rfl
  | 1, false => rfl
  | _ + 2, _ => rfl

end

/-! ## Places of elements -/

/-- A state reached by a check of a place, in what a stream's engine reads of it. -/
structure State.PlaceKeeps (s t : State) : Prop where
  cores : t.cores = s.cores
  cycle : t.cycle = s.cycle

theorem State.touch_cycle (s : State) (die : Nat) (e : TlbEnt) (w : Bool) : (s.touch die e w).cycle = s.cycle := by
  unfold State.touch
  dsimp only
  repeat' split
  all_goals rfl

theorem State.landParts_cycle {s t : State} {core use k : Nat} {staff locks : Bool} {a : Word} {parts : List (Nat × Nat)} {need : Need}
    (h : s.landParts core staff locks a parts need use = .go k t) : t.cycle = s.cycle := by
  by_cases hm : ∀ off, s.form core a ≠ .mem off
  · rw [((State.landParts_go_iff hm).mp h).1]
  · obtain ⟨off, hf⟩ := not_forall.mp hm
    unfold State.landParts at h
    rw [not_not.mp hf] at h
    dsimp only at h
    split at h
    · cases h
    · split at h
      · split at h
        · cases h
        · cases h; exact State.touch_cycle _ _ _ _
      · cases h
      · cases h

theorem State.enter_cycle {s t : State} {core op n use k : Nat} {staff : Bool} {a : Word} {need : Need}
    (h : s.enter core staff op a n need use = .go k t) : t.cycle = s.cycle := by
  unfold State.enter at h
  extract_lets f r at h
  have hr : ∀ j u, r = .go j u → u.cycle = s.cycle := by
    intro j u hju
    dsimp only [r] at hju
    split at hju
    · split at hju
      · cases hju
      · split at hju
        · cases hju
        · cases hju; rfl
    · exact State.landParts_cycle hju
  clear_value r
  cases r with
  | go j u =>
    dsimp only at h
    split at h
    · cases h
    · cases h; exact hr _ _ rfl
  | _ => cases h

theorem State.sidePart_keeps {s t : State} {c : CtxId} {staff : Bool} {op n use : Nat} {a : Word} {l : List Nat}
    (h : s.sidePart c staff op a n use = .ok l t) : s.PlaceKeeps t := by
  unfold State.sidePart at h
  split at h
  · cases h
  · split at h
    next hgo => cases h; exact ⟨State.enter_cores hgo, State.enter_cycle hgo⟩
    all_goals cases h

theorem State.side_keeps {s t : State} {c : CtxId} {staff : Bool} {op n use : Nat} {a : Word} {l : List Nat}
    (h : s.side c staff op a n use = .ok l t) : s.PlaceKeeps t := by
  unfold State.side at h
  dsimp only at h
  split at h
  next l1 m hl =>
    have hm := State.sidePart_keeps hl
    split at h
    · cases h; exact hm
    · split at h
      next l2 u hu =>
        cases h
        have hu := State.sidePart_keeps hu
        exact ⟨hu.cores.trans hm.cores, hu.cycle.trans hm.cycle⟩
      next hne => exact absurd h (hne _ _)
  next hne => exact absurd h (hne _ _)

theorem State.elemSide_keeps {s t : State} {core use : Nat} {q : Stream} {a : Word} {l : List Nat}
    (h : s.elemSide core q a use = .ok l t) : s.PlaceKeeps t := by
  unfold State.elemSide at h
  dsimp only at h
  split at h
  · cases h; exact ⟨rfl, rfl⟩
  · exact State.side_keeps h

/-- An element whose place is found and whose banks are free, or that comes in its turn, has its bytes now. -/
theorem State.elemAt_ok {s t : State} {core i use : Nat} {a : Word} {ks : List Nat} (h : s.elemSide core (s.q core i) a use = .ok ks t)
    (hb : (s.q core i).slot = true ∨ (s.bankTakes ks).1 = s.cycle) : ∃ b, s.elemAt core i a use =
      .ok ks (State.modQ { t with banks := b } core i fun q => { q with slot := false, walked := none }) := by
  refine ⟨if (s.q core i).slot then s.banks else (s.bankTakes ks).2.banks, ?_⟩
  unfold State.elemAt
  dsimp only
  rw [h]
  dsimp only
  rw [if_neg]
  rcases hb with hb | hb <;> simp [hb]

theorem State.elemAt_miss {s : State} {core i use : Nat} {a p : Word} (h : s.elemSide core (s.q core i) a use = .miss p)
    (hw : s.walkOf (s.q core i).who.core p (s.q core i).walked = .gone) : s.elemAt core i a use = .miss (pageOf p) p := by
  unfold State.elemAt
  dsimp only
  rw [h]
  dsimp only
  rw [hw]

/-! ## Affine inbound streams (R228, R230) -/

/-- The fetch of an element whose place is found, from memory without an error or poison there. -/
theorem State.fetchElem_ok {s m : State} {core i : Nat} {ks : List Nat}
    (h : s.elemAt core i ((s.q core i).addrOf (s.q core i).moved) 0 = .ok ks m) (hlat : m.latent = [])
    (hp : ∀ k ∈ ks, m.isPoisoned k 1 = false) : ∃ lat, s.fetchElem core i =
      ((State.modQ { m with fresh := m.fresh + 1 } core i fun q =>
          { q with moved := q.moved + 1, inflight := q.inflight + 1, lastAt := max (s.q core i).lastAt (m.cycle + lat) }).post
            (max (s.q core i).lastAt (m.cycle + lat)) .streamElementMove
        { core := core, n := i, id := 2, v := (s.q core i).extend (bytesNat (ks.map fun k => memRead m.mem k)) }).streamGo core i
          (m.cycle + 1) := by
  have hmeet : ∀ l : List (Nat × Nat), l.foldl (fun s r => (s.meetErrors r.1 r.2).1) m = m := fun l =>
    l.foldlRecOn _ (motive := fun t => t = m) rfl fun t ht r _ => by
      subst ht
      exact State.meetErrors_latent hlat r.1 r.2
  refine ⟨m.elemLat core (s.q core i) ((s.q core i).addrOf (s.q core i).moved) + Config.traffic m.fresh, ?_⟩
  unfold State.fetchElem
  dsimp only
  rw [h]
  dsimp only
  rw [hmeet, if_neg (by simpa using hp), ← Nat.add_assoc]
  rfl

/-- A fetched element is on its way to its register, and the register says so. -/
theorem State.fetchElem_fetches {s u : State} {core i : Nat} (hi : i < 8) {ks : List Nat}
    (h : s.elemSide core (s.q core i) ((s.q core i).addrOf (s.q core i).moved) 0 = .ok ks u) (hlat : u.latent = [])
    (hp : ∀ k ∈ ks, u.isPoisoned k 1 = false) (hb : (s.q core i).slot = true ∨ ∀ k ∈ ks, s.bankFrom k ≤ s.cycle) :
    let q := s.q core i
    let t := s.fetchElem core i
    ∃ due, s.cycle ≤ due ∧ q.lastAt ≤ due ∧
      t.q core i = { q with moved := q.moved + 1, inflight := q.inflight + 1, lastAt := due, slot := false, walked := none } ∧
      t.mem = u.mem ∧ t.Due due .streamElementMove { core := core, n := i, id := 2, v := q.extend (bytesNat (ks.map fun k => memRead u.mem k)) } := by
  intro q t
  obtain ⟨hcores, hcycle⟩ := State.elemSide_keeps h
  obtain ⟨b, hat⟩ := State.elemAt_ok h (hb.imp_right State.bankTakes_now)
  set m := State.modQ { u with banks := b } core i fun q => { q with slot := false, walked := none }
  have hmq : m.q core i = { q with slot := false, walked := none } := by
    refine (State.q_setQ_same _ core _ hi).trans ?_
    rw [show State.q { u with banks := b } core i = s.q core i from State.q_of_cores hcores core i]
  obtain ⟨lat, he⟩ := State.fetchElem_ok hat hlat hp
  have ht : t = _ := he
  set due := max (s.q core i).lastAt (m.cycle + lat)
  have hmc : m.cycle = s.cycle := hcycle
  refine ⟨due, ?_, le_max_left _ _, ?_, by rw [ht]; rfl, ?_⟩
  · exact (hmc ▸ Nat.le_add_right _ _ : s.cycle ≤ m.cycle + lat).trans (le_max_right _ _)
  · rw [ht, (State.streamGo_posted _ _ _ _).q, (State.post_posted _ _ _ _).q]
    refine (State.q_setQ_same _ core _ hi).trans ?_
    rw [show State.q { m with fresh := m.fresh + 1 } core i = m.q core i from rfl, hmq]
  · rw [ht]
    exact (State.post_due _ _ _ _).extend (State.streamGo_posted _ _ _ _).grows

theorem State.SameGates.missDie {s t : State} (h : s.SameGates t) (core : Nat) (a : Word) : t.missDie core a = s.missDie core a := by
  unfold State.missDie State.isRetired
  simp only [h.tlbFind, h.partOf, h.die]

/-- The fetch of an element whose page is missing stops its stream, with a MISS notice. -/
theorem State.fetchElem_misses {s : State} {core i : Nat} (hi : i < 8) {p : Word}
    (h : s.elemSide core (s.q core i) ((s.q core i).addrOf (s.q core i).moved) 0 = .miss p)
    (hw : s.walkOf (s.q core i).who.core p (s.q core i).walked = .gone) :
    let q := s.q core i
    let t := s.fetchElem core i
    t.q core i = { q with stalled := some (pageOf p) } ∧ t.mem = s.mem ∧
      ∃ n, s.Sent t 20 .noticeArrive { die := s.missDie q.who.core p, notice := n } ∧ n.kind = 0x01 ∧ n.value = q.addrOf q.moved := by
  intro q t
  set m := s.setQ core i { q with stalled := some (pageOf p) }
  have ht : t = m.elemMiss core q p (q.addrOf q.moved) := by
    change s.fetchElem core i = _
    unfold State.fetchElem
    dsimp only
    rw [State.elemAt_miss h hw]
  have hdie : m.missDie q.who.core p = s.missDie q.who.core p := (s.setQ_gates core i _).missDie _ _
  rw [ht]
  refine ⟨((State.notice_posted _ _ _).q core i).trans (State.q_setQ_same _ core _ hi), rfl, ?_⟩
  rw [← hdie]
  exact ⟨_, State.Sent.mono rfl (Nat.le_refl _) (m.notice_sent _ _), rfl, rfl⟩

/-! ## Affine outbound streams into tile registers (R228, R356) -/

theorem tileKey_beyond (core t off : Nat) : 2 ^ 49 ≤ tileKey core t off := by
  unfold tileKey
  omega

theorem isSlateKey_tileKey (core t off : Nat) : isSlateKey (tileKey core t off) = false := by
  have := tileKey_beyond core t off
  unfold isSlateKey
  rw [Bool.and_eq_false_iff]
  exact .inr (decide_eq_false (by omega))

/-- Bytes of tile registers wait for no bank (R94). -/
theorem State.bankTakes_beyond {s : State} {ks : List Nat} (h : ∀ k ∈ ks, 2 ^ 49 ≤ k) : (s.bankTakes ks).1 = s.cycle := by
  have hnone : ks.filter (fun k => k < 2 ^ 49) = [] := by
    rw [List.filter_eq_nil_iff]
    exact fun k hk => by have := h k hk; simpa using this
  unfold State.bankTakes
  dsimp only
  rw [hnone]
  rfl

/-- The bytes of an element in a tile register that it does not run past the end of. -/
theorem State.elemSide_tile {s : State} {core use : Nat} {q : Stream} {a : Word} (ht : q.tsp = true)
    (hn : a.toNat % 32768 + 2 ^ q.esz ≤ 32768) : s.elemSide core q a use =
      .ok ((List.range (2 ^ q.esz)).map fun i => tileKey core q.tt (a.toNat % 32768) + i) s := by
  unfold State.elemSide
  dsimp only
  rw [if_pos ht]
  congr 1
  refine List.map_congr_left fun i hi => ?_
  have hi := List.mem_range.mp hi
  unfold tileKey
  omega

/-- A store outside the slates changes no core. -/
theorem State.storeL_cores {s : State} {k : Nat} {bs : List Byte} (hk : isSlateKey k = false) : (s.storeL k bs).cores = s.cores := by
  unfold State.storeL
  split
  · rfl
  · rw [(State.afterWrite_posted _ hk).cores]
    unfold State.putL
    split <;> rfl

theorem State.storeRuns_one {s : State} {k n : Nat} {bs : List Byte} (h : bs.length = n) : s.storeRuns [(k, n)] bs = s.storeL k bs := by
  unfold State.storeRuns
  rw [List.take_of_length_le h.le]
  rfl

/-- The store of an element of a stream of staff, which watchpoints do not see. -/
theorem State.storeElem_staff {m : State} {core i : Nat} (hs : (m.q core i).staff = true) (a : Word) (ks : List Nat) (w : Word) :
    m.storeElem core i a ks w =
      ((m.storeRuns (runsOf ks) (natBytes w.toNat (2 ^ (m.q core i).esz))).modQ core i fun q =>
        { q with inflight := q.inflight + 1, watched := (m.q core i).watched }).carry
        ((m.storeRuns (runsOf ks) (natBytes w.toNat (2 ^ (m.q core i).esz))).farDie core a) (dieOf core) false false 16
        ((m.storeRuns (runsOf ks) (natBytes w.toNat (2 ^ (m.q core i).esz))).elemLat core (m.q core i) a / 2) .streamElementMove
        { core := core, n := i, id := 3 } := by
  unfold State.storeElem
  dsimp only
  rw [hs]
  rfl

/-- The next new element of a stream without fix-ups, whose place is found. -/
theorem State.pushElem_new {s m : State} {core i : Nat} {w : Word} {r : List Word} {ks : List Nat}
    (hst : (s.q core i).stalled = none) (hf : ∀ f ∈ (s.octet (octetOf core)).fixups, f.op ≠ (s.q core i).bindId)
    (hbuf : (s.q core i).buf = w :: r) (h : s.elemAt core i ((s.q core i).addrOf (s.q core i).moved) 1 = .ok ks m) :
    s.pushElem core i = (State.modQ (m.storeElem core i ((s.q core i).addrOf (s.q core i).moved) ks w) core i fun q =>
      { q with buf := q.buf.drop 1, moved := q.moved + 1 }).streamGo core i (s.cycle + 1) := by
  have hready : (s.octet (octetOf core)).fixups.find? (fun f => f.op == (s.q core i).bindId && f.ready) = none := by
    rw [List.find?_eq_none]
    exact fun f hm => by simp [hf f hm]
  have hlisted : ∀ p, ((s.octet (octetOf core)).fixups.any fun f => f.op == (s.q core i).bindId && f.page == p) = false := by
    intro p
    rw [List.any_eq_false]
    exact fun f hm => by simp [hf f hm]
  unfold State.pushElem
  dsimp only
  rw [hready]
  dsimp only
  rw [if_neg (by simp [hst])]
  unfold State.newElem
  dsimp only
  rw [hbuf]
  dsimp only
  rw [if_neg (by rw [hlisted]; exact Bool.false_ne_true), h]

/-- The oldest element of an outbound stream of staff is stored in its tile register, and leaves the buffer. -/
theorem State.pushElem_stores {s : State} {core i : Nat} (hi : i < 8) {w : Word} {r : List Word} (ht : (s.q core i).tsp = true)
    (hs : (s.q core i).staff = true) (hst : (s.q core i).stalled = none)
    (hf : ∀ f ∈ (s.octet (octetOf core)).fixups, f.op ≠ (s.q core i).bindId) (hbuf : (s.q core i).buf = w :: r) (hinv : s.Inv)
    (hn : ((s.q core i).addrOf (s.q core i).moved).toNat % 32768 + 2 ^ (s.q core i).esz ≤ 32768) :
    let q := s.q core i
    let k := tileKey core q.tt ((q.addrOf q.moved).toNat % 32768)
    let t := s.pushElem core i
    t.q core i = { q with buf := r, moved := q.moved + 1, inflight := q.inflight + 1, slot := false, walked := none } ∧
      s.SameBytesBut t k (2 ^ q.esz) ∧ ∀ j, j < 2 ^ q.esz → memRead t.mem (k + j) = BitVec.ofNat 8 (w.toNat / 256 ^ j) := by
  intro q k t
  obtain ⟨n, hsize⟩ : ∃ n, 2 ^ q.esz = n + 1 := ⟨2 ^ q.esz - 1, by have := Nat.two_pow_pos q.esz; omega⟩
  have hbeyond : ∀ x ∈ (List.range (2 ^ q.esz)).map (fun i => k + i), 2 ^ 49 ≤ x := by
    intro x hx
    obtain ⟨j, -, rfl⟩ := List.mem_map.mp hx
    exact (tileKey_beyond _ _ _).trans (Nat.le_add_right _ _)
  obtain ⟨b, hat⟩ := State.elemAt_ok (State.elemSide_tile (use := 1) ht hn) (.inr (State.bankTakes_beyond hbeyond))
  set m := State.modQ { s with banks := b } core i fun q => { q with slot := false, walked := none }
  have hmq : m.q core i = { q with slot := false, walked := none } := State.q_setQ_same _ core _ hi
  have hbytes : (natBytes w.toNat (2 ^ (m.q core i).esz)).length = n + 1 := by
    rw [natBytes_length, hmq]
    exact hsize
  set u := m.storeL k (natBytes w.toNat (2 ^ (m.q core i).esz))
  have hruns : m.storeRuns (runsOf ((List.range (2 ^ q.esz)).map fun i => k + i)) (natBytes w.toNat (2 ^ (m.q core i).esz)) = u := by
    rw [hsize, runsOf_range, State.storeRuns_one hbytes]
  have hslate : isSlateKey k = false := isSlateKey_tileKey _ _ _
  have huq : u.q core i = m.q core i := State.q_of_cores (State.storeL_cores hslate) core i
  have hne : natBytes w.toNat (2 ^ (m.q core i).esz) ≠ [] := fun h0 => by rw [h0] at hbytes; cases hbytes
  obtain ⟨-, humem, -⟩ := State.storeL_device (s := m) hslate hne
  have htq : t = _ := State.pushElem_new hst hf hbuf hat
  rw [State.storeElem_staff (by rw [hmq]; exact hs), hruns] at htq
  set v := u.modQ core i fun q => { q with inflight := q.inflight + 1, watched := (m.q core i).watched }
  have hvq : v.q core i = { m.q core i with inflight := (m.q core i).inflight + 1 } := by
    refine (State.q_setQ_same u core _ hi).trans ?_
    rw [huq]
  have hcarry := v.carry_posted (u.farDie core (q.addrOf q.moved)) (dieOf core) false 16
    (u.elemLat core (m.q core i) (q.addrOf q.moved) / 2) .streamElementMove { core := core, n := i, id := 3 }
  have hmem : t.mem = memWriteL s.mem k (natBytes w.toNat (2 ^ (m.q core i).esz)) := by
    rw [htq]
    exact hcarry.mem.trans humem
  refine ⟨?_, fun x hx => ?_, fun j hj => ?_⟩
  · rw [htq, (State.streamGo_posted _ _ _ _).q]
    refine (State.q_setQ_same _ core _ hi).trans ?_
    rw [hcarry.q, hvq, hmq]
    dsimp only
    rw [show q.buf = w :: r from hbuf]
    rfl
  · rw [hmem]
    exact memRead_memWriteL_out _ (by rw [hbytes, ← hsize]; exact hx) hinv
  · rw [hmem, memRead_memWriteL_in _ (by rw [hbytes, ← hsize]; exact hj) hinv]
    exact natBytes_getElem _ _ _ _

/-! ## Neighbour channels (R141, R228) -/

section
variable {s t : State} (h : ∀ c, (t.coreAt c).stitch = (s.coreAt c).stitch)
include h

/-- The neighbours of cores stand where their rectangles do. -/
theorem State.neighbour_of_stitch (core ch : Nat) : t.neighbour core ch = s.neighbour core ch := by
  unfold State.neighbour
  rw [h]

theorem State.backChannel_of_stitch (core ch dst : Nat) : t.backChannel core ch dst = s.backChannel core ch dst := by
  unfold State.backChannel
  simp only [State.neighbour_of_stitch h]

end

/-- A field of a core that a change of one core keeps is kept in all. -/
theorem State.modCore_field {α : Type} (f : Core → α) {s : State} {core : Nat} {g : Core → Core} (h : ∀ k, f (g k) = f k) (c : Nat) :
    f ((s.modCore core g).coreAt c) = f (s.coreAt c) := by
  by_cases hc : c = core
  · rw [hc, show (s.modCore core g).coreAt core = _ from State.coreAt_setCore_same _ _ _, h]
  · rw [show (s.modCore core g).coreAt c = _ from State.coreAt_setCore_other _ _ _ _ hc]

/-- A state in which an element of an outbound channel has left its register and taken a place at the neighbour. -/
def State.sentElem (s : State) (core i : Nat) (r : List Word) : State :=
  let q := s.q core i
  (s.setQ core i { q with buf := r, moved := q.moved + 1, inflight := q.inflight + 1 }).modCore core fun k =>
    { k with nbrOut := wr k.nbrOut q.ch (rd k.nbrOut q.ch 0 + 1) }

theorem State.sendElem_eq {s : State} {core i dst : Nat} {w : Word} {r : List Word} (hbuf : (s.q core i).buf = w :: r)
    (hdst : s.neighbour core (s.q core i).ch = some dst) (hroom : rd (s.coreAt core).nbrOut (s.q core i).ch 0 < 16) :
    s.sendElem core i = ((s.sentElem core i r).post (s.cycle + 2) .neighbourElementArrive
      { core := dst, n := (s.sentElem core i r).backChannel core (s.q core i).ch dst, v := w, die := core, octet := (s.q core i).ch, id := i
        }).streamGo core i s.cycle := by
  unfold State.sendElem
  dsimp only
  rw [hbuf, hdst]
  dsimp only
  rw [if_neg (by omega)]
  rfl

/-- A buffered element goes on to the neighbour, where it takes a place, and arrives 2 cycles later. -/
theorem State.sendElem_sends {s : State} {core i dst : Nat} (hi : i < 8) {w : Word} {r : List Word} (hch : (s.q core i).ch < 4)
    (hbuf : (s.q core i).buf = w :: r) (hdst : s.neighbour core (s.q core i).ch = some dst)
    (hroom : rd (s.coreAt core).nbrOut (s.q core i).ch 0 < 16) :
    let q := s.q core i
    let t := s.sendElem core i
    t.q core i = { q with buf := r, moved := q.moved + 1, inflight := q.inflight + 1 } ∧
      rd (t.coreAt core).nbrOut q.ch 0 = rd (s.coreAt core).nbrOut q.ch 0 + 1 ∧ t.mem = s.mem ∧
      t.Due (s.cycle + 2) .neighbourElementArrive
        { core := dst, n := s.backChannel core q.ch dst, v := w, die := core, octet := q.ch, id := i } := by
  intro q t
  set u := s.setQ core i { q with buf := r, moved := q.moved + 1, inflight := q.inflight + 1 }
  set m := s.sentElem core i r
  have hu : u.q core i = { q with buf := r, moved := q.moved + 1, inflight := q.inflight + 1 } := State.q_setQ_same s core _ hi
  have hm : m.coreAt core = { u.coreAt core with nbrOut := wr (u.coreAt core).nbrOut q.ch (rd (u.coreAt core).nbrOut q.ch 0 + 1) } :=
    State.coreAt_setCore_same _ _ _
  have hout : (u.coreAt core).nbrOut = (s.coreAt core).nbrOut := State.modCore_field Core.nbrOut (by intro; rfl) core
  have hstitch : ∀ c, (m.coreAt c).stitch = (s.coreAt c).stitch := fun c =>
    (State.modCore_field Core.stitch (s := u) (by intro; rfl) c).trans (State.modCore_field Core.stitch (by intro; rfl) c)
  have ht : t = _ := State.sendElem_eq hbuf hdst hroom
  rw [State.backChannel_of_stitch hstitch] at ht
  have hposted : ∀ due ev arg, m.Posted ((m.post due ev arg).streamGo core i s.cycle) := fun _ _ _ =>
    (State.post_posted _ _ _ _).trans (State.streamGo_posted _ _ _ _)
  refine ⟨?_, ?_, by rw [ht, (hposted _ _ _).mem]; rfl, ?_⟩
  · rw [ht, (hposted _ _ _).q, ← hu]
    unfold State.q
    rw [hm]
  · rw [ht, (hposted _ _ _).coreAt, hm]
    dsimp only
    rw [rd_wr_same _ _ _ _ hch, hout]
  · rw [ht]
    exact (State.post_due _ _ _ _).extend (State.streamGo_posted _ _ _ _).grows

/-- A place at a neighbour that an element has left, and the engines that may go on there. -/
def State.freePlace (s : State) (core ch : Nat) : State :=
  match s.neighbour core ch with
  | some src =>
    let back := s.backChannel core ch src
    let s := s.modCore src fun k => { k with nbrOut := wr k.nbrOut back (rd k.nbrOut back 0 - 1) }
    (List.range 8).foldl (fun (s : State) j =>
      let p := s.q src j
      if p.bound && p.kind == 1 && p.outb && p.ch == back then s.streamGo src j s.cycle else s) s
  | none => s

theorem State.freePlace_keeps (s : State) (core ch : Nat) :
    (s.freePlace core ch).mem = s.mem ∧ ∀ c, ((s.freePlace core ch).coreAt c).nbr = (s.coreAt c).nbr := by
  unfold State.freePlace
  split
  next src _ =>
    dsimp only
    set back := s.backChannel core ch src
    set m := s.modCore src fun k => { k with nbrOut := wr k.nbrOut back (rd k.nbrOut back 0 - 1) }
    have hposted : m.Posted ((List.range 8).foldl (fun (s : State) j =>
        if (s.q src j).bound && (s.q src j).kind == 1 && (s.q src j).outb && (s.q src j).ch == back then s.streamGo src j s.cycle else s) m) := by
      refine State.foldl_posted (fun s j => ?_) _ _
      split
      · exact State.streamGo_posted _ _ _ _
      · exact .refl s
    refine ⟨hposted.mem, fun c => ?_⟩
    rw [hposted.coreAt]
    exact State.modCore_field Core.nbr (by intro; rfl) c
  next => exact ⟨rfl, fun _ => rfl⟩

theorem State.takeElem_eq {s : State} {core i : Nat} {w : Word} {r : List Word} (hnbr : rd (s.coreAt core).nbr (s.q core i).ch [] = w :: r)
    (hc : (s.q core i).closing = false) (hl : (s.q core i).moved < (s.q core i).limit) (hroom : (s.q core i).buf.length < 16) :
    let q := s.q core i
    let m := (s.modCore core fun k => { k with nbr := wr k.nbr q.ch r }).freePlace core q.ch
    s.takeElem core i = (m.setQ core i { q with buf := q.buf ++ [q.extend w.toNat], moved := q.moved + 1 }).streamGo core i m.cycle := by
  intro q m
  unfold State.takeElem
  dsimp only
  rw [hnbr]
  dsimp only
  rw [if_neg (by simp [hc, hl, hroom])]
  rfl

/-- An element that waits on a channel joins the buffer of the register bound on it, and leaves the channel. -/
theorem State.takeElem_takes {s : State} {core i : Nat} (hi : i < 8) {w : Word} {r : List Word} (hch : (s.q core i).ch < 4)
    (hnbr : rd (s.coreAt core).nbr (s.q core i).ch [] = w :: r) (hc : (s.q core i).closing = false)
    (hl : (s.q core i).moved < (s.q core i).limit) (hroom : (s.q core i).buf.length < 16) :
    let q := s.q core i
    let t := s.takeElem core i
    t.q core i = { q with buf := q.buf ++ [q.extend w.toNat], moved := q.moved + 1 } ∧ rd (t.coreAt core).nbr q.ch [] = r ∧
      t.mem = s.mem := by
  intro q t
  set v := s.modCore core fun k => { k with nbr := wr k.nbr q.ch r }
  set m := v.freePlace core q.ch
  obtain ⟨hmem, hnbrs⟩ := v.freePlace_keeps core q.ch
  have ht : t = (m.setQ core i { q with buf := q.buf ++ [q.extend w.toNat], moved := q.moved + 1 }).streamGo core i m.cycle :=
    State.takeElem_eq hnbr hc hl hroom
  rw [ht]
  refine ⟨?_, ?_, hmem⟩
  · rw [(State.streamGo_posted _ _ _ _).q]
    exact State.q_setQ_same m core _ hi
  · rw [(State.streamGo_posted _ _ _ _).coreAt]
    have hset : ((m.setQ core i { q with buf := q.buf ++ [q.extend w.toNat], moved := q.moved + 1 }).coreAt core).nbr = (m.coreAt core).nbr :=
      State.modCore_field Core.nbr (by intro; rfl) core
    rw [hset, hnbrs core, show v.coreAt core = _ from State.coreAt_setCore_same _ _ _]
    exact rd_wr_same _ _ _ _ hch

/-- The second part of O23. -/
theorem State.streamMoves : Claims.StreamMoves := by
  intro s core i q
  refine ⟨fun hi hid => exec_neighbourElementArrive_arrives s hi hid, fun hi hb => ⟨fun hid hc => ?_, fun hid he hst hat => ?_⟩⟩
  · obtain ⟨e, c, hq, hmem⟩ := State.streamCheck_keeps (s.setQ core i { q with inflight := q.inflight - 1, buf := q.buf ++ [s.arg.v] }) core hi
    rw [State.q_setQ_same _ _ _ hi] at hq
    exact ⟨_, exec_streamElementMove_arrived hb hid hc, by rw [hq], by rw [hq], by rw [hq], hmem⟩
  · have hexec : exec .streamElementMove s = .next (s.streamNext core i) := exec_streamElementMove_next hb hid he hst hat
    refine ⟨fun hk ho hc hl hw => ?_, fun w r hk ho ht hs hf hbuf hinv => ?_, fun w r dst hk ho hch hbuf hdst hroom => ?_,
      fun w r hk ho hch hnbr hc hl hroom => ?_⟩
    · rw [State.streamNext_fetch hk ho hc hl hw] at hexec
      refine ⟨fun ks u hside hlat hsound hbank => ?_, fun p hside hwalk => ⟨_, hexec, State.fetchElem_misses hi hside hwalk⟩⟩
      obtain ⟨due, hnow, hlast, hq, hmem, hdue⟩ := State.fetchElem_fetches hi hside hlat (fun k hk => (hsound k hk).1) hbank
      rw [Stream.extend_eq] at hdue
      exact ⟨_, due, hexec, hnow, hlast, hq, hmem, hdue⟩
    · intro k hn
      rw [State.streamNext_push hk ho] at hexec
      exact ⟨_, hexec, State.pushElem_stores hi ht hs hst hf hbuf hinv hn⟩
    · rw [State.streamNext_send hk ho] at hexec
      exact ⟨_, hexec, State.sendElem_sends hi hch hbuf hdst hroom⟩
    · rw [State.streamNext_take hk ho] at hexec
      refine ⟨_, hexec, ?_⟩
      rw [← Stream.extend_eq]
      exact State.takeElem_takes hi hch hnbr hc hl hroom

/-- Settles O23: a binding is an access that starts once its register is as a claim leaves it, and each move of an engine is followed
to what it leaves of its register, its channel and storage. -/
theorem streamEngines : Obligations.StreamEngines := by
  unfold Obligations.StreamEngines
  exact ⟨State.streamBinding, State.streamMoves⟩

end Sys2Proof.Machine
end
